-- ==== Sys2Proof/Word.lean ====
section
/-! DEFINITION. The word types of the model and the two container shapes every part of State is built from. -/

namespace Sys2Proof

/-- A byte of memory, of a message or of a ring. -/
abbrev Byte := BitVec 8
/-- The widths registers and little-endian structure fields come in (R15). -/
abbrev U16 := BitVec 16
abbrev U32 := BitVec 32
abbrev U64 := BitVec 64

/-- A sparse table of like things by number: entries in rising order of the key, no two of one key, and none
equal to the value an unlisted number reads as. -/
abbrev Tab (α : Type) := List (Nat × α)

/-- A sparse byte memory in the same canonical form; its cells are the host's (address, byte) pairs. -/
abbrev Memory := List Host.Cell

end Sys2Proof
end

