-- ==== Sys2Proof/Machine/Kinds.lean ====
section
/-! DEFINITION. The kinds of thing commands name: functions, requests, sources of events. Syntax's operands and
State's fields are built from them. -/

namespace Sys2Proof

/-- The three variants (R4, R35). -/
inductive Variant where
  | xh5124 | xh5126m | xh5128l
  deriving DecidableEq, Repr

/-- Silicon steppings (R41, FL_PKG_ID.STEP). -/
inductive Stepping where
  | a0 | a1 | b0
  deriving DecidableEq, Repr

/-- A host port number, a stall number, a Tsuholt port number, a global gate number. -/
abbrev HostPort := Fin 4
abbrev StallNo := Fin 128
abbrev LinkPort := Fin 48
abbrev GateNo := Fin 256

/-- A reading or writing function: a PF0 instance, a VF instance (R172, R174), or the RTP itself (R50). -/
inductive Fn where
  | pf0 (port : HostPort)
  | vf (port : HostPort) (stall : StallNo)
  | rtp
  deriving DecidableEq, Repr

/-- A mailbox request as it stands in MB_REQUEST when GO is written (R190, R191). OPCODE is the row's own and LEN is
the payload's length. -/
structure MbReq where
  fn : Fn
  tag : U16
  payload : List Byte
  deriving DecidableEq, Repr

/-- A request as the RTP serves it: through a mailbox, or with `session` inside that secure session (R452). -/
structure Req extends MbReq where
  session : Option U32
  deriving DecidableEq, Repr

/-- Who waits for an answer of the RTP: a mailbox or secure session, the console, or PLDM (R563, R570). -/
inductive Waiter where
  | mailbox (m : Req)
  | console
  | pldm
  deriving DecidableEq, Repr

/-- The engines whose queues a stall holds (R194: 0 Compute, 1 Copy, 2 Relay, 3 Drover). -/
inductive Engine where
  | compute | copy | relay | drover
  deriving DecidableEq, Repr

/-- One queue of one context of one stall. -/
structure QueueId where
  stall : StallNo
  ctx : Fin 16
  engine : Engine
  queue : Fin 8
  deriving DecidableEq, Repr

/-- A context of a stall. -/
structure CtxId where
  stall : StallNo
  ctx : Fin 16
  deriving DecidableEq, Repr

/-- A component that can fault or be retired (R38). -/
inductive Component where
  | cluster (c : Fin 512)
  | slice (die : Fin 4) (j : Fin 32)
  | pc (p : Fin 768)
  | stack (s : Fin 12)
  | cdie (d : Fin 4)
  | linkPort (p : LinkPort)
  | iodie (i : Fin 4)
  deriving DecidableEq, Repr

/-- The comparator a staged write names: a stall's local gate, or a tick channel, written by PF0 or by RTP firmware
(R53, R61). -/
inductive CmpReg where
  | gate (s : StallNo) (g : Fin 64)
  | tick (byRtp : Bool) (n : Fin 32)
  deriving DecidableEq, Repr

/-- The low registers whose read latches (R68). -/
inductive CapReg where
  | rise | fall | pair
  deriving DecidableEq, Repr

/-- A dword register of a function: at a byte offset of its BAR0, or the Message Control of its MSI-X capability. -/
inductive RegAt where
  | bar0 (ofs : Nat)
  | msixControl
  deriving DecidableEq, Repr

/-- How a host port's link goes down (R197). -/
inductive PortLoss where
  | perst | hotReset | surprise
  deriving DecidableEq, Repr

/-- A Tsuholt message (R371): its header's fields, its data and whether they are poison. The header has no place for the
last three: the direction and length of the range a TK_REQ asks for, and that a peer's access faulted (R386). -/
structure LinkMsg where
  hops : Nat
  src : Nat
  dst : Nat
  srcStall : Nat
  dstStall : Nat
  addr : Nat
  keyT : Nat
  ticket : Nat
  seq : Nat
  data : List Byte
  poison : Bool
  read : Bool
  span : Nat
  fault : Bool
  deriving DecidableEq, Repr

/-- What the checks of a received link frame came to (R379). -/
inductive FrameCheck where
  | good | corrected | lost | tagFail
  deriving DecidableEq, Repr

/-- A MGMT message between RTPs (R372, R337): a far-loft borrow and its answer, a return, a lender's withdrawal, an export
check and its answer. -/
inductive Mgmt where
  | borrow (bytes : Nat)
  | lent (ok : Bool)
  | giveBack (bytes : Nat)
  | taken
  | withdrawn
  | check (addr bytes : Nat) (write : Bool)
  | checked (ok : Bool)
  deriving DecidableEq, Repr

/-- IDE_KM messages (R201): a query, the programming of a stream's keys with its associations, and the start or stop of
the stream's keys. -/
inductive IdeKm where
  | query
  | program (ridLo ridHi : U16) (blocks : List (Nat × Nat))
  | go | stop
  deriving DecidableEq, Repr

/-- A cryptographic instance that can fail (R435): an MEE of a compute die, an LEE or HLE of an I/O die, or an RTP copy. -/
inductive CryptoUnit where
  | mee (die : Fin 4)
  | lee (die : Fin 4)
  | hle (die : Fin 4)
  | rtp (copy : Fin 2)
  deriving DecidableEq, Repr

/-- How a task ends: normally, having consumed poison (from a key conflict or not), at a translation, access or
retired-bay fault, or by a trap of its program (R278, R228). -/
inductive TaskEnd where
  | done
  | poison (keyConflict : Bool)
  | fault (detail : Byte)
  deriving DecidableEq, Repr

end Sys2Proof
end

