-- ==== Sys2Proof/Syntax.lean ====
section
/-! DEFINITION. The commands of the block: one constructor for each row of the opcode table, with the row's operands.
A constructor's docstring names the rule that gives its effect. -/

namespace Sys2Proof

/-- The commands (spec/opcode_table.json). -/
inductive Instr where
  /-- R48. -/
  | refClockLost
  /-- R48. -/
  | refClockSwitchBack
  /-- R51. -/
  | gridTick (refGood : Bool)
  /-- R344. -/
  | regulationWindowStart (temps : List Nat)
  /-- R50. -/
  | gtbNowLoRead (f : Fn)
  /-- R45. -/
  | gtbTrimWrite (v : U32)
  /-- R45. -/
  | servoAutoWrite (v : Bool)
  /-- R399. -/
  | timeAlignment
  /-- R53. -/
  | gateCmpLoWrite (t : CmpReg) (v : U32)
  /-- R53. -/
  | gateCmpHiWrite (t : CmpReg) (hi : U32) (lo : Option U32)
  /-- R54. -/
  | gatePrerollWrite (s : StallNo) (g : Fin 64) (v : U32)
  /-- R54. -/
  | gateCtlArm (s : StallNo) (g : Fin 64)
  /-- R54. -/
  | gateCtlDisarm (s : StallNo) (g : Fin 64)
  /-- R54. -/
  | gateCtlDisarmArm (s : StallNo) (g : Fin 64)
  /-- R55. -/
  | gateWriteTakesEffect (g : GateNo)
  /-- R59. -/
  | gateWaking (g : GateNo)
  /-- R56. -/
  | gateFire (g : GateNo)
  /-- R59. -/
  | gateHoldEnd (g : GateNo)
  /-- R62. -/
  | tickChannelArm (byRtp : Bool) (n : Fin 32)
  /-- R62. -/
  | tickChannelFireCatchup (n : Fin 32)
  /-- R63. -/
  | tickChannelFireLive (n : Fin 32)
  /-- R66. -/
  | syncInEdgeAccepted (n : Fin 8) (rising : Bool) (reached : U64)
  /-- R68. -/
  | capLoRead (f : Fn) (n : Fin 8) (which : CapReg)
  /-- R69. -/
  | syncInStuck (n : Fin 8)
  /-- R69. -/
  | capStuckClear (n : Fin 8) (hi lo : Bool)
  /-- R70. -/
  | relayTimerWrap (n : Fin 16)
  /-- R70. -/
  | relayTimerMatch (n : Fin 16)
  /-- R72. -/
  | relayTimerReset (n : Fin 16)
  /-- R71. -/
  | rtTrigWrite (n : Fin 16) (v : U32)
  /-- R74. -/
  | syncOutPulseEnd (n : Fin 4)
  /-- R193. -/
  | version (m : MbReq)
  /-- R195. -/
  | resultQuery (m : MbReq)
  /-- R131. -/
  | planSubmit (m : MbReq)
  /-- R129. -/
  | planValidated
  /-- R132. -/
  | planCommit
  /-- R135. -/
  | planStoreDone
  /-- R134. -/
  | planCancel (m : MbReq)
  /-- R163. -/
  | changeForce (m : MbReq)
  /-- R194. -/
  | changeReport (m : MbReq)
  /-- R126. -/
  | enrol (m : MbReq)
  /-- R126. -/
  | enrolWindowExpiry
  /-- R127. -/
  | rotate (m : MbReq)
  /-- R160. -/
  | mirrorPrepareDone
  /-- R152. -/
  | changePhaseTick
  /-- R153. -/
  | stallPaused (s : StallNo)
  /-- R162. -/
  | changeHold (s : StallNo)
  /-- R165. -/
  | holdActionExpiry
  /-- R155. -/
  | changeGrantTick
  /-- R99. -/
  | manifestReq (m : MbReq)
  /-- R309. -/
  | ctxKill (m : MbReq)
  /-- R309. -/
  | ctxKillDone (c : CtxId)
  /-- R545. -/
  | stallReset (m : MbReq)
  /-- R197. -/
  | hostPortLoss (p : HostPort) (why : PortLoss)
  /-- R200. -/
  | hostPortLinkUp (p : HostPort)
  /-- R200. -/
  | flr (f : Fn)
  /-- R174. -/
  | sriovConfigWrite (p : HostPort) (enable : Bool) (num : U16)
  /-- R186. -/
  | causeEnableWrite (f : Fn) (v : U32)
  /-- R178. -/
  | bar2Read (p : HostPort) (s : StallNo) (ofs bytes : Nat)
  /-- R178. -/
  | bar2Write (p : HostPort) (s : StallNo) (ofs : Nat) (data : List Byte)
  /-- R202. -/
  | ideTlpCheckFail (p : HostPort) (stream : Fin 8)
  /-- R207. -/
  | queueCreate (m : MbReq)
  /-- R208. -/
  | queueDestroy (m : MbReq)
  /-- R216. -/
  | doorbell (p : HostPort) (q : QueueId) (tail : U32)
  /-- R217. -/
  | acceptancePublish (q : QueueId)
  /-- R215. -/
  | consumedWrite (q : QueueId) (v : U32)
  /-- R237. -/
  | qdbAsnLoRead (p : HostPort) (q : QueueId)
  /-- R220. -/
  | nop (q : QueueId)
  /-- R224. -/
  | launch (q : QueueId)
  /-- R221. -/
  | launchIndirect (q : QueueId)
  /-- R224. -/
  | safeHint (q : QueueId)
  /-- R224. -/
  | waitAt (q : QueueId)
  /-- R224. -/
  | waitAtPass (q : QueueId) (pos : U32)
  /-- R224. -/
  | waitGate (q : QueueId)
  /-- R224. -/
  | gateArm (q : QueueId)
  /-- R224. -/
  | gateDisarm (q : QueueId)
  /-- R224. -/
  | timestamp (q : QueueId)
  /-- R224. -/
  | semSignal (q : QueueId)
  /-- R224. -/
  | semWait (q : QueueId)
  /-- R228. -/
  | semWaitTimeout (q : QueueId) (pos : U32)
  /-- R224. -/
  | waitQueue (q : QueueId)
  /-- R228. -/
  | waitQueueTimeout (q : QueueId) (pos : U32)
  /-- R224. -/
  | fence (q : QueueId)
  /-- R470. -/
  | receipt (q : QueueId)
  /-- R224. -/
  | copy (q : QueueId)
  /-- R224. -/
  | copyStrided (q : QueueId)
  /-- R224. -/
  | fill (q : QueueId)
  /-- R466. -/
  | sealedLoad (q : QueueId)
  /-- R387. -/
  | remoteWrite (q : QueueId)
  /-- R390. -/
  | remoteRead (q : QueueId)
  /-- R393. -/
  | collective (q : QueueId)
  /-- R394. -/
  | collectiveLaunch (q : QueueId) (pos : U32)
  /-- R394. -/
  | collectiveTimeout (q : QueueId) (pos : U32)
  /-- R227. -/
  | commandEnd (q : QueueId) (pos : U32)
  /-- R213. -/
  | completionVisible (q : QueueId)
  /-- R256. -/
  | srndSeed (m : MbReq)
  /-- R264. -/
  | ctxCreate (m : MbReq)
  /-- R266. -/
  | ctxDestroy (m : MbReq)
  /-- R270. -/
  | xlatInval (m : MbReq)
  /-- R280. -/
  | memStats (m : MbReq)
  /-- R292. -/
  | taskPlace (s : StallNo)
  /-- R293. -/
  | taskEnd (c : Fin 512) (writes : List (Nat × List Byte)) (how : TaskEnd)
  /-- R298. -/
  | taskSafePointStop (c : Fin 512) (pc : U32) (core : List Byte) (ranges : List Byte)
  /-- R299. -/
  | contextStopped (c : CtxId)
  /-- R300. -/
  | preemptLimitExpiry (c : CtxId)
  /-- R302. -/
  | ctxSliceExpiry (s : StallNo)
  /-- R303. -/
  | rotSliceExpiry (s : StallNo)
  /-- R305. -/
  | tenantResident (s : StallNo)
  /-- R306. -/
  | schedSet (m : MbReq)
  /-- R307. -/
  | schedStat (m : MbReq)
  /-- R310. -/
  | memClear (m : MbReq)
  /-- R311. -/
  | memClearDone (s : StallNo)
  /-- R313. -/
  | drvConfig (m : MbReq)
  /-- R315. -/
  | drvOutring (m : MbReq)
  /-- R317. -/
  | drvLoad (m : MbReq)
  /-- R317. -/
  | drvLoadDone (s : StallNo) (slot : Fin 4)
  /-- R317. -/
  | drvUnload (m : MbReq)
  /-- R343. -/
  | drvStat (m : MbReq)
  /-- R336. -/
  | drvLend (m : MbReq)
  /-- R337. -/
  | drvBorrow (m : MbReq)
  /-- R319. -/
  | drvSubmit (q : QueueId)
  /-- R340. -/
  | drvCancel (q : QueueId)
  /-- R340. -/
  | drvRelease (q : QueueId)
  /-- R330. -/
  | droverStep (s : StallNo)
  /-- R331. -/
  | droverStepEnd (s : StallNo) (writes : List (Nat × List Byte)) (farBad : List U64)
  /-- R345. -/
  | requestIssue (n : StallNo) (k : Fin 5) (size : Fin 257) (drains : Option (Bool × LinkPort)) (link : Option (Nat × Bool))
  /-- R350. -/
  | requestComplete (n : StallNo) (k : Fin 5) (id : Nat)
  /-- R354. -/
  | urgencyAssert (host : Bool) (p : LinkPort)
  /-- R354. -/
  | urgencyWithdraw (host : Bool) (p : LinkPort)
  /-- R355. -/
  | rgUrgWrite (host : Bool) (v : U32)
  /-- R349. -/
  | rgDutyWrite (n : StallNo) (k : Fin 5) (v : U32)
  /-- R349. -/
  | dutyGateChange (n : StallNo) (k : Fin 5)
  /-- R362. -/
  | dlvCounterRead (f : Fn) (n : StallNo) (o : Nat)
  /-- R357. -/
  | yardJobStart
  /-- R374. -/
  | tlPCtlWrite (p : LinkPort) (v : U32)
  /-- R380. -/
  | retrain (p : LinkPort)
  /-- R396. -/
  | tlPAsymWrite (p : LinkPort) (v : U32)
  /-- R374. -/
  | portPeerDetect (p peer : LinkPort)
  /-- R374. -/
  | portTrained (p : LinkPort)
  /-- R374. -/
  | portStepTimeout (p : LinkPort)
  /-- R375. -/
  | keyxHello (p : LinkPort) (rnd pub chain : List Byte)
  /-- R375. -/
  | keyxFinish (p : LinkPort) (sig : List Byte)
  /-- R376. -/
  | rekeyStart (p : LinkPort)
  /-- R376. -/
  | keyxSwitch (p : LinkPort) (last : U32)
  /-- R376. -/
  | rekeyDeadline (p : LinkPort)
  /-- R379. -/
  | linkFrameReceived (p : LinkPort) (n : U32) (check : FrameCheck) (credits : List (Fin 4 × Fin 4 × Nat)) (flits strange : Nat)
  /-- R379. -/
  | linkAck (p : LinkPort) (n : U32)
  /-- R379. -/
  | linkNak (p : LinkPort) (n : U32)
  /-- R378. -/
  | wake (p : LinkPort)
  /-- R388. -/
  | tkReq (p : LinkPort) (m : LinkMsg)
  /-- R389. -/
  | tkGrant (p : LinkPort) (m : LinkMsg)
  /-- R391. -/
  | tkDeny (p : LinkPort) (m : LinkMsg)
  /-- R389. -/
  | tkDone (p : LinkPort) (m : LinkMsg)
  /-- R386. -/
  | wr (p : LinkPort) (m : LinkMsg)
  /-- R389. -/
  | wrAck (p : LinkPort) (m : LinkMsg)
  /-- R386. -/
  | rd (p : LinkPort) (m : LinkMsg)
  /-- R390. -/
  | rdData (p : LinkPort) (m : LinkMsg)
  /-- R393. -/
  | coll (p : LinkPort) (m : LinkMsg)
  /-- R394. -/
  | collReady (p : LinkPort) (m : LinkMsg)
  /-- R372. -/
  | mgmt (p : LinkPort) (m : LinkMsg) (body : Mgmt)
  /-- R395. -/
  | timeSend (stamps : List (LinkPort × U64 × U64))
  /-- R396. -/
  | time (p : LinkPort) (m : LinkMsg)
  /-- R397. -/
  | masterAdvertExpiry (p : LinkPort)
  /-- R385. -/
  | remoteExport (m : MbReq)
  /-- R392. -/
  | groupSet (m : MbReq)
  /-- R392. -/
  | groupClear (m : MbReq)
  /-- R415. -/
  | ueEccEvent (p : Fin 768) (a : Nat)
  /-- R416. -/
  | groomBayCleared (bay : Fin 128)
  /-- R420. -/
  | slotClean (slot : Fin 1024)
  /-- R425. -/
  | secChallenge (m : MbReq)
  /-- R424. -/
  | debugUnlock (m : MbReq) (tap : Bool)
  /-- R426. -/
  | debugLock (m : MbReq)
  /-- R426. -/
  | debugSessionExpiry
  /-- R424. -/
  | tapBypass
  /-- R424. -/
  | tapIdcode
  /-- R426. -/
  | tapSamplePreload
  /-- R426. -/
  | tapHighz
  /-- R426. -/
  | tapClamp
  /-- R426. -/
  | tapExtest
  /-- R426. -/
  | tapScan
  /-- R434. -/
  | selftest (m : MbReq)
  /-- R434. -/
  | periodicSelftest
  /-- R435. -/
  | cryptoInstanceFailure (u : CryptoUnit) (cause alg inst : Byte)
  /-- R437. -/
  | zeroise (m : MbReq)
  /-- R438. -/
  | decommission (m : MbReq)
  /-- R438. -/
  | decommissionConfirmExpiry
  /-- R594. -/
  | ledgerQuery (m : MbReq)
  /-- R448. -/
  | attestReport (m : MbReq)
  /-- R448. -/
  | attestLog (m : MbReq)
  /-- R445. -/
  | measureImage (m : MbReq)
  /-- R463. -/
  | sealKeygen (id : Option U32) (m : MbReq)
  /-- R464. -/
  | sealInstall (id : Option U32) (m : MbReq)
  /-- R465. -/
  | sealDrop (id : Option U32) (m : MbReq)
  /-- R460. -/
  | queueRebind (id : Option U32) (m : MbReq)
  /-- R449. -/
  | getVersion (via : Option Fn)
  /-- R449. -/
  | getCapabilities (via : Option Fn)
  /-- R449. -/
  | negotiateAlgorithms (via : Option Fn)
  /-- R449. -/
  | getDigests (via : Option Fn)
  /-- R440. -/
  | getCertificate (via : Option Fn) (slot : Byte) (ofs : U16) (len : U16)
  /-- R449. -/
  | challenge (via : Option Fn) (slot : Byte)
  /-- R449. -/
  | getMeasurements (via : Option Fn) (index : Byte) (nonce : Option (List Byte))
  /-- R451. -/
  | keyExchange (via : Option Fn) (id : U32) (peer : List Byte)
  /-- R450. -/
  | finish (id : U32) (leaf : Option (List Byte)) (good : Bool)
  /-- R449. -/
  | heartbeat (id : U32)
  /-- R451. -/
  | heartbeatMissed (id : U32)
  /-- R449. -/
  | keyUpdate (id : U32)
  /-- R451. -/
  | endSession (id : U32)
  /-- R449. -/
  | chunkGet (via : Option Fn)
  /-- R452. -/
  | vendorDefinedRequest (id : U32) (op : U16) (tag : U16) (payload : List Byte)
  /-- R488. -/
  | componentFault (c : Component) (retire : Bool) (lines : List Nat) (hit : List (Nat × Nat × U32))
  /-- R495. -/
  | journalRebuildDone (s : StallNo)
  /-- R498. -/
  | recoveryComplete
  /-- R505. -/
  | accEvents (m : MbReq)
  /-- R505. -/
  | accRecords (m : MbReq)
  /-- R505. -/
  | orphanClear (m : MbReq)
  /-- R513. -/
  | mainPowerLost (vbank vmain : U32)
  /-- R506. -/
  | mainPowerReturn (vbank vmain : U32)
  /-- R516. -/
  | flushStart
  /-- R516. -/
  | flushDone
  /-- R517. -/
  | flushAbort
  /-- R508. -/
  | bankDead
  /-- R508. -/
  | bankAcceptReached
  /-- R521. -/
  | imageSlotEraseDone
  /-- R523. -/
  | healthTestStart
  /-- R523. -/
  | testStart
  /-- R523. -/
  | healthTestDone (cap esr : U16) (complete : Bool)
  /-- R512. -/
  | unguardedWrite (v : U32)
  /-- R530. -/
  | clusterIdleScatter (c : Fin 512)
  /-- R530. -/
  | clusterIdleClear (c : Fin 512)
  /-- R531. -/
  | clusterWakeDone (c : Fin 512)
  /-- R529. -/
  | pkgClearEntry (l1 : BitVec 4)
  /-- R531. -/
  | pkgClearEntered (l1 : BitVec 4)
  /-- R533. -/
  | pkgWake (src : Fin 8) (needsCluster : Bool)
  /-- R533. -/
  | pkgWakePhaseDone
  /-- R529. -/
  | pwrCtlWrite (v : U32)
  /-- R541. -/
  | thermalTrip
  /-- R544. -/
  | pkgResetWarm (m : MbReq)
  /-- R544. -/
  | warmResetDone
  /-- R546. -/
  | pkgResetCold (m : MbReq)
  /-- R547. -/
  | coldResetRelease
  /-- R547. -/
  | bootPhaseDone (failed : List Component) (badRtp : BitVec 2) (cause alg inst : Byte)
  /-- R553. -/
  | muartCharReceived (c : BitVec 9) (framing parity : Bool)
  /-- R556. -/
  | muartCharSent (collided : Bool)
  /-- R556. -/
  | muartRetry
  /-- R552. -/
  | muConfigApply
  /-- R557. -/
  | muartSleep
  /-- R557. -/
  | muartWake
  /-- R559. -/
  | break
  /-- R560. -/
  | lineFault
  /-- R560. -/
  | lineFaultClear
  /-- R563. -/
  | consoleStatus
  /-- R563. -/
  | consoleTime
  /-- R563. -/
  | confirmEnrol
  /-- R563. -/
  | confirmDecom
  /-- R563. -/
  | consoleSelftest
  /-- R563. -/
  | consoleZeroise
  /-- R563. -/
  | consoleZeroiseAbandoned
  /-- R563. -/
  | resetWarm
  /-- R563. -/
  | resetCold
  /-- R563. -/
  | consoleLine
  /-- R565. -/
  | entdaa (a : BitVec 7)
  /-- R565. -/
  | setdasa (a : BitVec 7)
  /-- R565. -/
  | rstdaa
  /-- R565. -/
  | enec (v : Byte)
  /-- R565. -/
  | disec (v : Byte)
  /-- R565. -/
  | getpid
  /-- R565. -/
  | getbcr
  /-- R565. -/
  | getdcr
  /-- R565. -/
  | getstatus
  /-- R565. -/
  | getmwl
  /-- R565. -/
  | getmrl
  /-- R565. -/
  | setmwl (v : U16)
  /-- R565. -/
  | setmrl (v : U16)
  /-- R565. -/
  | getmxds
  /-- R565. -/
  | rstact (v : Byte)
  /-- R566. -/
  | ibiRetry (at' : Nat)
  /-- R567. -/
  | setEndpointId (e : Byte)
  /-- R567. -/
  | getEndpointId
  /-- R567. -/
  | getEndpointUuid
  /-- R567. -/
  | getMctpVersionSupport
  /-- R567. -/
  | getMessageTypeSupport
  /-- R569. -/
  | getTid
  /-- R569. -/
  | setTid (t : Byte)
  /-- R569. -/
  | getPldmVersion (ty : Byte)
  /-- R569. -/
  | getPldmTypes
  /-- R569. -/
  | getPldmCommands (ty : Byte)
  /-- R569. -/
  | getPdr (h : U32)
  /-- R569. -/
  | getPdrRepositoryInfo
  /-- R569. -/
  | getSensorReading (id : U16)
  /-- R569. -/
  | getStateSensorReadings (id : U16)
  /-- R571. -/
  | pollForPlatformEvent
  /-- R569. -/
  | eventMessageBufferSize (n : U16)
  /-- R570. -/
  | pldmEnrolConfirm (v : U32)
  /-- R570. -/
  | pldmDecomConfirm (v : U32)
  /-- R570. -/
  | pldmResetWarm
  /-- R570. -/
  | pldmResetCold
  /-- R570. -/
  | pldmSelftest
  /-- R570. -/
  | pldmZeroise
  /-- R17. -/
  | registerWrite (f : Fn) (r : RegAt) (v : U32)
  /-- R17; `wide` reads 8 bytes (R50, R237, R362). -/
  | readToClear (f : Fn) (wide : Bool) (ofs : Nat)
  /-- R224. -/
  | semWaitPass (q : QueueId) (pos : U32)
  /-- R46. -/
  | gtbCoarseEnd
  /-- R380. -/
  | laneLockLost (p : LinkPort)
  /-- R378. -/
  | portLowpowerExit (p : LinkPort)
  /-- R434. -/
  | selftestRunDone (pass : Bool)
  /-- R445. -/
  | measureImageDone (n : StallNo)
  /-- R545. -/
  | stallResetDone (n : StallNo)
  /-- R270. -/
  | xlatInvalDone (s : StallNo)
  /-- R426. -/
  | debugHalt (n : StallNo) (clusters : List (Fin 512))
  /-- R75. -/
  | debugResume (n : StallNo)
  /-- R201. -/
  | ideKmRequest (p : HostPort) (stream : Fin 8) (op : IdeKm) (session : U32)
  deriving DecidableEq, Repr

end Sys2Proof
end

