-- ==== Sys2Proof/WellFormed.lean ====
section
/-! DEFINITION. Which commands are well formed: the bounds the spec puts on a command's operands that their types do not. -/

namespace Sys2Proof

/-- The most bytes a mailbox payload can have: MB_REQUEST's 4,096 bytes less its header (R189, R191). -/
def mailboxMax : Nat := 4088
/-- A function of the host's: the RTP has no mailbox and no configuration space (R172, R189). -/
def hostFn : Fn → Bool
  | .rtp => false
  | _ => true
/-- A mailbox request comes from a function of the host's and fits MB_REQUEST (R189, R191). -/
def mbReqWf (m : MbReq) : Bool := hostFn m.fn && decide (m.payload.length ≤ mailboxMax)
/-- An SPDM request comes over MCTP or through a function of the host's (R449). -/
def viaWf : Option Fn → Bool
  | none => true
  | some f => hostFn f
/-- The fields of a message's header fit their places, and it carries at most 4,096 bytes (R371). -/
def linkMsgWf (m : LinkMsg) : Bool :=
  decide (m.hops < 256) && decide (m.src < 256) && decide (m.dst < 256) && decide (m.srcStall < 256) && decide (m.dstStall < 256) &&
    decide (m.addr < 2 ^ 64) && decide (m.keyT < 2 ^ 64) && decide (m.ticket < 2 ^ 16) && decide (m.seq < 2 ^ 32) && decide (m.data.length ≤ 4096)
/-- An aligned dword. -/
def barOfs (o : Nat) : Bool := o % 4 == 0
/-- An aligned dword of BAR0, or Message Control. -/
def regAtWf : RegAt → Bool
  | .bar0 o => barOfs o
  | .msixControl => true
/-- A requester's nonce is 32 bytes (R449). -/
def nonceWf : Option (List Byte) → Bool
  | none => true
  | some n => n.length == 32
/-- The credits a frame returns fit its fields. -/
def creditsWf (l : List (Fin 4 × Fin 4 × Nat)) : Bool := l.all (fun (c : Fin 4 × Fin 4 × Nat) => decide (c.2.2 < 2 ^ 16))

/-- The well-formed commands. -/
def Instr.wf : Instr → Bool
  | .regulationWindowStart temps => decide (temps.length ≤ 8)
  | .version m => mbReqWf m
  | .resultQuery m => mbReqWf m
  | .planSubmit m => mbReqWf m
  | .planCancel m => mbReqWf m
  | .changeForce m => mbReqWf m
  | .changeReport m => mbReqWf m
  | .enrol m => mbReqWf m
  | .rotate m => mbReqWf m
  | .manifestReq m => mbReqWf m
  | .ctxKill m => mbReqWf m
  | .stallReset m => mbReqWf m
  | .flr f => hostFn f
  | .causeEnableWrite f _ => hostFn f
  | .queueCreate m => mbReqWf m
  | .queueDestroy m => mbReqWf m
  | .srndSeed m => mbReqWf m
  | .ctxCreate m => mbReqWf m
  | .ctxDestroy m => mbReqWf m
  | .xlatInval m => mbReqWf m
  | .memStats m => mbReqWf m
  | .schedSet m => mbReqWf m
  | .schedStat m => mbReqWf m
  | .memClear m => mbReqWf m
  | .drvConfig m => mbReqWf m
  | .drvOutring m => mbReqWf m
  | .drvLoad m => mbReqWf m
  | .drvUnload m => mbReqWf m
  | .drvStat m => mbReqWf m
  | .drvLend m => mbReqWf m
  | .drvBorrow m => mbReqWf m
  | .dlvCounterRead _ _ o => barOfs o
  | .keyxHello _ rnd pub _ => rnd.length == 32 && pub.length == 96
  | .keyxFinish _ sig => sig.length == 96
  | .linkFrameReceived _ _ _ credits _ _ => creditsWf credits
  | .tkReq _ m => linkMsgWf m
  | .tkGrant _ m => linkMsgWf m
  | .tkDeny _ m => linkMsgWf m
  | .tkDone _ m => linkMsgWf m
  | .wr _ m => linkMsgWf m
  | .wrAck _ m => linkMsgWf m
  | .rd _ m => linkMsgWf m
  | .rdData _ m => linkMsgWf m
  | .coll _ m => linkMsgWf m
  | .collReady _ m => linkMsgWf m
  | .mgmt _ m _ => linkMsgWf m
  | .time _ m => linkMsgWf m
  | .remoteExport m => mbReqWf m
  | .groupSet m => mbReqWf m
  | .groupClear m => mbReqWf m
  | .ueEccEvent _ a => decide (a < 2 ^ 30)
  | .secChallenge m => mbReqWf m
  | .debugUnlock m _ => mbReqWf m
  | .debugLock m => mbReqWf m
  | .selftest m => mbReqWf m
  | .zeroise m => mbReqWf m
  | .decommission m => mbReqWf m
  | .ledgerQuery m => mbReqWf m
  | .attestReport m => mbReqWf m
  | .attestLog m => mbReqWf m
  | .measureImage m => mbReqWf m
  | .sealKeygen _ m => mbReqWf m
  | .sealInstall _ m => mbReqWf m
  | .sealDrop _ m => mbReqWf m
  | .queueRebind _ m => mbReqWf m
  | .getVersion via => viaWf via
  | .getCapabilities via => viaWf via
  | .negotiateAlgorithms via => viaWf via
  | .getDigests via => viaWf via
  | .getCertificate via _ _ _ => viaWf via
  | .challenge via _ => viaWf via
  | .getMeasurements via _ nonce => viaWf via && nonceWf nonce
  | .keyExchange via _ peer => viaWf via && peer.length == 96
  | .chunkGet via => viaWf via
  | .vendorDefinedRequest _ _ _ payload => decide (payload.length ≤ mailboxMax)
  | .accEvents m => mbReqWf m
  | .accRecords m => mbReqWf m
  | .orphanClear m => mbReqWf m
  | .pkgResetWarm m => mbReqWf m
  | .pkgResetCold m => mbReqWf m
  | .registerWrite _ r _ => regAtWf r
  | .readToClear _ wide ofs => barOfs ofs && (!wide || ofs % 8 == 0)
  | .refClockLost | .refClockSwitchBack | .gridTick _ | .gtbNowLoRead _ | .gtbTrimWrite _ | .servoAutoWrite _ | .timeAlignment | .gateCmpLoWrite _ _ |
    .gateCmpHiWrite _ _ _ | .gatePrerollWrite _ _ _ | .gateCtlArm _ _ | .gateCtlDisarm _ _ | .gateCtlDisarmArm _ _ | .gateWriteTakesEffect _ |
    .gateWaking _ | .gateFire _ | .gateHoldEnd _ | .tickChannelArm _ _ | .tickChannelFireCatchup _ | .tickChannelFireLive _ |
    .syncInEdgeAccepted _ _ _ | .capLoRead _ _ _ | .syncInStuck _ | .capStuckClear _ _ _ | .relayTimerWrap _ | .relayTimerMatch _ |
    .relayTimerReset _ | .rtTrigWrite _ _ | .syncOutPulseEnd _ | .planValidated | .planCommit | .planStoreDone | .enrolWindowExpiry |
    .mirrorPrepareDone | .changePhaseTick | .stallPaused _ | .changeHold _ | .holdActionExpiry | .changeGrantTick | .ctxKillDone _ |
    .hostPortLoss _ _ | .hostPortLinkUp _ | .sriovConfigWrite _ _ _ | .bar2Read _ _ _ _ | .bar2Write _ _ _ _ | .ideTlpCheckFail _ _ |
    .doorbell _ _ _ | .acceptancePublish _ | .consumedWrite _ _ | .qdbAsnLoRead _ _ | .nop _ | .launch _ | .launchIndirect _ | .safeHint _ |
    .waitAt _ | .waitAtPass _ _ | .waitGate _ | .gateArm _ | .gateDisarm _ | .timestamp _ | .semSignal _ | .semWait _ | .semWaitTimeout _ _ |
    .waitQueue _ | .waitQueueTimeout _ _ | .fence _ | .receipt _ | .copy _ | .copyStrided _ | .fill _ | .sealedLoad _ | .remoteWrite _ |
    .remoteRead _ | .collective _ | .collectiveLaunch _ _ | .collectiveTimeout _ _ | .commandEnd _ _ | .completionVisible _ | .taskPlace _ |
    .taskEnd _ _ _ | .taskSafePointStop _ _ _ _ | .contextStopped _ | .preemptLimitExpiry _ | .ctxSliceExpiry _ | .rotSliceExpiry _ |
    .tenantResident _ | .memClearDone _ | .drvLoadDone _ _ | .drvSubmit _ | .drvCancel _ | .drvRelease _ | .droverStep _ | .droverStepEnd _ _ _ |
    .requestIssue _ _ _ _ _ | .requestComplete _ _ _ | .urgencyAssert _ _ | .urgencyWithdraw _ _ | .rgUrgWrite _ _ | .rgDutyWrite _ _ _ |
    .dutyGateChange _ _ | .yardJobStart | .tlPCtlWrite _ _ | .retrain _ | .tlPAsymWrite _ _ | .portPeerDetect _ _ | .portTrained _ |
    .portStepTimeout _ | .rekeyStart _ | .keyxSwitch _ _ | .rekeyDeadline _ | .linkAck _ _ | .linkNak _ _ | .wake _ | .timeSend _ |
    .masterAdvertExpiry _ | .groomBayCleared _ | .slotClean _ | .debugSessionExpiry | .tapBypass | .tapIdcode | .tapSamplePreload | .tapHighz |
    .tapClamp | .tapExtest | .tapScan | .periodicSelftest | .cryptoInstanceFailure _ _ _ _ | .decommissionConfirmExpiry | .finish _ _ _ |
    .heartbeat _ | .heartbeatMissed _ | .keyUpdate _ | .endSession _ | .componentFault _ _ _ _ | .journalRebuildDone _ | .recoveryComplete |
    .mainPowerLost _ _ | .mainPowerReturn _ _ | .flushStart | .flushDone | .flushAbort | .bankDead | .bankAcceptReached | .imageSlotEraseDone |
    .healthTestStart | .testStart | .healthTestDone _ _ _ | .unguardedWrite _ | .clusterIdleScatter _ | .clusterIdleClear _ | .clusterWakeDone _ |
    .pkgClearEntry _ | .pkgClearEntered _ | .pkgWake _ _ | .pkgWakePhaseDone | .pwrCtlWrite _ | .thermalTrip | .warmResetDone | .coldResetRelease |
    .bootPhaseDone _ _ _ _ _ | .muartCharReceived _ _ _ | .muartCharSent _ | .muartRetry | .muConfigApply | .muartSleep | .muartWake | .break |
    .lineFault | .lineFaultClear | .consoleStatus | .consoleTime | .confirmEnrol | .confirmDecom | .consoleSelftest | .consoleZeroise |
    .consoleZeroiseAbandoned | .resetWarm | .resetCold | .consoleLine | .entdaa _ | .setdasa _ | .rstdaa | .enec _ | .disec _ | .getpid | .getbcr |
    .getdcr | .getstatus | .getmwl | .getmrl | .setmwl _ | .setmrl _ | .getmxds | .rstact _ | .ibiRetry _ | .setEndpointId _ | .getEndpointId |
    .getEndpointUuid | .getMctpVersionSupport | .getMessageTypeSupport | .getTid | .setTid _ | .getPldmVersion _ | .getPldmTypes |
    .getPldmCommands _ | .getPdr _ | .getPdrRepositoryInfo | .getSensorReading _ | .getStateSensorReadings _ | .pollForPlatformEvent |
    .eventMessageBufferSize _ | .pldmEnrolConfirm _ | .pldmDecomConfirm _ | .pldmResetWarm | .pldmResetCold | .pldmSelftest | .pldmZeroise |
    .semWaitPass _ _ | .gtbCoarseEnd | .laneLockLost _ | .portLowpowerExit _ | .selftestRunDone _ | .measureImageDone _ | .stallResetDone _ |
    .xlatInvalDone _ | .debugHalt _ _ | .debugResume _ | .ideKmRequest _ _ _ _ => true

end Sys2Proof
end

