-- ==== Sys2Proof/Decode.lean ====
section
/-! DEFINITION. Commands spelled by words of the opcode table. -/

namespace Sys2Proof

/-- The command a word of `nbits` bits spells. The opcode table gives no row any bits: a command comes as an access to a
register, a message or an event, not as a word. DESIGN CHOICE, log 3. -/
def decodeTableWord (_nbits _w : Nat) : Option Instr := none

end Sys2Proof
end

