-- ==== Sys2Proof/Config.lean ====
section
/-! DEFINITION. What an implementation fixes and the free values: values the spec leaves open, and the results of
named cryptographic standards, none of which any proof may see. Each is applied to the operands it depends on, or to
State's counter of free values. -/

namespace Sys2Proof.Config

/-- A value the spec leaves open, the `n`-th drawn. DESIGN CHOICE, log 11. -/
opaque freeValue (w : Nat) (n : Nat) : BitVec w
/-- A choice the spec leaves open, the `n`-th drawn. DESIGN CHOICE, log 11. -/
opaque freeChoice (n : Nat) : Bool
/-- A byte string of `len` bytes the spec leaves open, the `n`-th drawn: what the DRBG gives. DESIGN CHOICE, log 11. -/
opaque random (len n : Nat) : Vector Byte len
/-- SHA-384. DESIGN CHOICE, log 12. -/
opaque sha384 : List Byte → BitVec 384
/-- Whether a P-384 signature (96 bytes) over a SHA-384 digest verifies under a public key (96 bytes). DESIGN CHOICE, log 12. -/
opaque ecdsaVerify (key : List Byte) (digest : BitVec 384) (sig : List Byte) : Bool
/-- The 96-byte P-384 signature the part's attestation key gives over a digest, the `n`-th drawn. -/
opaque attestSign (digest : BitVec 384) (n : Nat) : Vector Byte 96
/-- Whether 96 bytes X, Y name a point of the curve P-384. -/
opaque onCurve : List Byte → Bool
/-- AES-256-GCM under a key, nonce and additional data: the ciphertext with its 16-byte tag behind it. DESIGN CHOICE, log 12. -/
opaque gcmSeal (key nonce aad plain : List Byte) : List Byte
/-- The plaintext of a ciphertext with its tag, where the tag verifies. -/
opaque gcmOpen (key nonce aad sealed : List Byte) : Option (List Byte)
/-- The KDF of R403: 32 bytes for a key, a label and a context. DESIGN CHOICE, log 12. -/
opaque kdf (key label ctx : List Byte) : Vector Byte 32
/-- The public key X, Y of a P-384 private key. -/
opaque p384Public (priv : List Byte) : Vector Byte 96
/-- The P-384 ECDH secret of a private key and a public key. -/
opaque ecdh (priv pub : List Byte) : Vector Byte 48
/-- The 64 bytes SP 800-108 gives for a secret, a label and a context (R375). -/
opaque kdf64 : List Byte → List Byte → List Byte → Vector Byte 64
/-- A certificate chain checked to the Felnilek root: the leaf's public key and the package identity digest it names. -/
opaque chainLeaf : List Byte → Option (Vector Byte 96 × BitVec 384)
/-- The part's own attestation certificate chain for a root bank (R440). -/
opaque ownChain (bank : BitVec 2) : List Byte
/-- The digests of the RTP and Drover firmware as verified at boot (R446). -/
opaque rtpFirmware : BitVec 384
opaque droverFirmware : BitVec 384
/-- SPDM as its standard defines it (R449): the bodies that state the part's capabilities and its fixed algorithms, the
signature over a transcript, the n-th made, and the export master secret a key exchange with a requester's ephemeral key
yields. PRESUMED, log 69. -/
opaque spdmCapabilities : List Byte
opaque spdmAlgorithms : List Byte
opaque spdmSign (n : Nat) : Vector Byte 96
opaque spdmSecret (peer : List Byte) (n : Nat) : Vector Byte 48
/-- Whether a response of this many bytes goes out whole, and the bytes of a chunk otherwise (R449's CHUNK_GET). -/
opaque spdmWhole (mctp : Bool) (len : Nat) : Bool
/-- PRESUMED, log 69. -/
opaque spdmChunk (mctp : Bool) : Nat
/-- HMAC-SHA-384. -/
opaque hmac384 (key msg : List Byte) : Vector Byte 48
/-- The digest of Felnilek's fused service key (R425) and the key itself, and the TAP's IDCODE. -/
opaque serviceKey : List Byte
/-- PRESUMED, log 65. -/
opaque tapIdcode : BitVec 32
/-- The mandatory data byte the MCTP I3C binding assigns to a packet that is ready (R566). PRESUMED, log 86. -/
opaque mctpMdb : Byte
/-- How the console prints the MUART's counter registers, and the sample values of unstated standard formats: the UUID of
the MCTP endpoint, and PLDM's base version. PRESUMED, log 84. -/
opaque conLine (errCnt wakeCnt : BitVec 32) : List Byte
opaque endpointUuid : List Byte
opaque pldmBaseVersion : List Byte
/-- Felnilek's manufacturer ID, as fused (R565). -/
opaque i3cMaker : BitVec 15
/-- The body of the Feature List's TIME entry, whose layout the spec does not give, on PF0 and on a VF. DESIGN CHOICE, log 27. -/
opaque timeEntry (pf : Bool) : List (BitVec 32)
/-- The package identity digest, fixed at manufacture (R42). -/
opaque idDigest : BitVec 384

end Sys2Proof.Config
end

