-- ==== Sys2Proof/Machine/StAttest.lean ====
section
/-! DEFINITION. The parts of State that attest (R440–R472): measurement logs, the tenant binding, secure sessions and
their bounce counters, sealed images. -/

namespace Sys2Proof.Machine

/-- A measurement log entry (R443). -/
structure LogEntry where
  kind : Nat
  ctx : Nat
  handle : Nat
  index : Nat
  at' : U64
  digest : BitVec 384
  deriving DecidableEq, Repr

/-- An installed image handle (R464): its image key, IMAGE_ID, PAGES and header digest. -/
structure SealedImage where
  key : List Byte
  imageId : List Byte
  pages : Nat
  digest : BitVec 384
  deriving DecidableEq, Repr

/-- A pending ephemeral key pair of a handle (R463). -/
structure SealPair where
  priv : List Byte
  pub : List Byte
  deriving DecidableEq, Repr

/-- What a stall's attestation holds. -/
structure Attest where
  log : List LogEntry           -- the first 4,096, oldest first
  count : Nat
  digest : BitVec 384           -- the chain digest
  tenant : Option (BitVec 384)  -- TENANT_KEY_DIGEST when bound
  images : Tab SealedImage
  pairs : Tab SealPair
  drops : List Req              -- SEAL_DROP requests that wait for a SEALED_LOAD to end (R465)
  deriving DecidableEq, Repr

def Attest.init : Attest := { log := [], count := 0, digest := 0, tenant := none, images := [], pairs := [], drops := [] }

/-- A secure session (R450–R456). -/
structure Session where
  fn : Option Fn                -- the function whose DOE carries it; none for MCTP
  finished : Bool
  peer : Option (BitVec 384)    -- the requester's leaf key digest under mutual authentication
  secret : List Byte            -- the SPDM export master secret
  lastBeat : Nat
  ended : Bool
  counters : Tab Nat            -- by 2 QID + direction: the last counter used or the high-water mark
  deriving DecidableEq, Repr

/-- An SPDM connection of one transport (R449): how far negotiation has gone, and a response still being fetched. -/
structure SpdmConn where
  versioned : Bool
  capable : Bool
  agreed : Bool
  large : List Byte             -- a response CHUNK_GET continues
  deriving DecidableEq, Repr

def SpdmConn.init : SpdmConn := { versioned := false, capable := false, agreed := false, large := [] }

end Sys2Proof.Machine
end

