-- ==== Sys2Proof/Machine/StDrover.lean ====
section
/-! DEFINITION. The part of State that is a stall's Drover (R312–R343): its configuration, models, output rings,
sequences, and the loft it lends and borrows. -/

namespace Sys2Proof.Machine

/-- DRV_CONFIG's values in effect (R312), defaults substituted. -/
structure DrvConfig where
  keyIndex : Nat
  pageBytes : Nat
  loftBase : Nat
  loftBytes : Nat
  seqLimit : Nat                -- as given; 0 means DROVER_SEQ
  budget : Nat
  chunk : Nat
  workBase : Nat
  workBytes : Nat
  deriving DecidableEq, Repr

/-- A vocabulary table as copied (R320). -/
structure Vocab where
  splitSpace : Bool
  bos : Nat
  eos : Nat
  byteMap : List Nat
  offsets : List Nat
  blob : List Byte
  deriving DecidableEq, Repr

/-- A merge record (R321); its rank is its index. -/
structure Merge where
  left : Nat
  right : Nat
  result : Nat
  deriving DecidableEq, Repr

/-- A model slot (R316, R317); `loading` holds the DRV_LOAD not yet answered and its descriptor address. -/
structure DrvModel where
  ctx : Nat
  desc : Nat
  loading : Option Req
  tokenBytes : Nat
  vocab : Vocab
  merges : List Merge
  stepProgram : Nat
  stepArgs : Nat
  stepLrd : Nat
  maxContext : Nat
  deriving DecidableEq, Repr

/-- A queue's output ring with its header (R315, R326). -/
structure OutRing where
  log2Depth : Nat
  ring : Nat
  hdr : Nat
  outSeq : U32
  busy : Bool                   -- OSTATE.BUSY_PRESSURE
  produced : U32
  busyCount : U32
  consumed : U32
  late : List (List Byte)       -- END records of sequences stopped while the ring was full
  shadow : Memory                -- a sealed ring's content, which the part alone writes
  deriving DecidableEq, Repr

/-- A loft page: local page `k`, or page `k` of a borrow (R335). -/
inductive LoftPage where
  | near (k : Nat)
  | far (borrow k : Nat)
  deriving DecidableEq, Repr

/-- Where a sequence stands (R330, R341). -/
inductive SeqSt where
  | admitted | prefill | decode | kept
  deriving DecidableEq, Repr

/-- A stop block as read (R327). -/
structure StopBlock where
  tokens : List Nat
  strings : List (List Byte)
  deriving DecidableEq, Repr

/-- A sequence: its command's place and fields, its tokens and pages. -/
structure Sequence where
  qk : Nat
  pos : U32
  asn : U64
  tag : U32
  ctx : Nat
  model : Nat
  st : SeqSt
  acceptAt : Nat
  parent : Option U64           -- the kept sequence it claimed and has not yet taken over (R341)
  claimed : Bool                -- an accepted command has claimed it (R341)
  reserved : Nat                -- pages reserved and not yet held (R324)
  pages : List LoftPage         -- pages held, by position
  tokens : List Nat             -- every token it holds, the parent's first
  read : Nat                    -- how many of them have KV entries
  prompt : Nat                  -- how many of them were read, the parent's included
  generated : Nat
  text : List Byte              -- output text
  emitted : Nat                 -- bytes of it already emitted
  visible : Nat                 -- records made visible (R340)
  lastStep : Nat                -- the step at which it last took a token
  stop : StopBlock
  cancel : Bool                 -- a DRV_CANCEL has reached it
  step : Nat                    -- tokens scheduled in the step in progress
  deriving DecidableEq, Repr

/-- A borrow of far-loft pages (R337). -/
structure Borrow where
  peer : Nat
  stall : Nat
  link : Nat
  pages : Nat
  key : List Byte
  deriving DecidableEq, Repr

/-- A loan to a peer stall. -/
structure Loan where
  peer : Nat
  stall : Nat
  bytes : Nat
  deriving DecidableEq, Repr

/-- A DRV_BORROW waiting for the lender's RTP. -/
structure BorrowWait where
  req : Req
  give : Bool
  peer : Nat
  stall : Nat
  link : Nat
  pages : Nat
  deriving DecidableEq, Repr

/-- A stall's Drover. -/
structure Drover where
  cfg : Option DrvConfig
  models : Tab DrvModel
  rings : Tab OutRing           -- by queue number
  seqs : List Sequence          -- in acceptance order, kept ones included
  stepping : Bool               -- a step is running
  steps : Nat
  tokensIn : Nat
  tokensOut : Nat
  busyRefused : U32
  lent : Nat                    -- bytes offered (R336)
  allow : List (Nat × Nat)
  loans : List Loan
  borrows : Tab Borrow
  waits : List BorrowWait
  deriving DecidableEq, Repr

def Drover.init : Drover :=
  { cfg := none, models := [], rings := [], seqs := [], stepping := false, steps := 0, tokensIn := 0,
    tokensOut := 0, busyRefused := 0, lent := 0, allow := [], loans := [], borrows := [], waits := [] }

end Sys2Proof.Machine
end

