-- ==== Sys2Proof/Machine/StHost.lean ====
section
/-! DEFINITION. The parts of State that attach the package to its hosts (R170–R204): PF0 and VF instances, their
MSI-X tables, mailboxes and cause registers, the ports, and what the package has sent out. -/

namespace Sys2Proof.Machine

/-- An MSI-X table entry as PCIe defines it; masked after reset. -/
structure MsixEntry where
  addr : U64
  data : U32
  masked : Bool
  deriving DecidableEq, Repr

/-- PRESUMED, log 20. -/
def MsixEntry.init : MsixEntry := { addr := 0, data := 0, masked := true }

/-- MSI-X of one function: enable, function mask, table and pending bits (R185, R188). -/
structure Msix where
  enabled : Bool
  fmask : Bool
  table : Tab MsixEntry
  pba : U64
  deriving DecidableEq, Repr

def Msix.init : Msix := { enabled := false, fmask := false, table := [], pba := 0 }

/-- A response header (R191), as RESULT_QUERY returns it (R195). -/
structure RespHdr where
  opcode : U16
  tag : U16
  len : Nat
  result : Byte
  detail : Byte
  deriving DecidableEq, Repr

/-- One mailbox (R189, R190). -/
structure Mailbox where
  busy : Bool
  done : Bool
  overrun : Bool
  lastTag : U16
  request : List Byte
  response : List Byte
  deriving DecidableEq, Repr

def Mailbox.init : Mailbox :=
  { busy := false, done := false, overrun := false, lastTag := 0, request := [], response := [] }

/-- What a function's low-half reads latched (R50, R68, R237, R362). -/
structure Latches where
  gtbHi : U32
  riseHi : Tab U32
  fallHi : Tab U32
  pairHi : Tab U32
  pairPw : Tab U32
  dlvHi : Tab U32
  qdbHi : U32
  deriving DecidableEq, Repr

/-- DESIGN CHOICE, log 8. -/
def Latches.init : Latches :=
  { gtbHi := 0, riseHi := [], fallHi := [], pairHi := [], pairPw := [], dlvHi := [], qdbHi := 0 }

/-- A PF0 instance, one per host port (R172–R176, R203). -/
structure PfInst where
  cause : BitVec 9
  causeEn : BitVec 9
  hostEvt : BitVec 4
  msix : Msix
  vfEnable : Bool
  numVfs : U16
  mb : Mailbox
  lat : Latches
  deriving DecidableEq, Repr

def PfInst.init : PfInst :=
  { cause := 0, causeEn := 0, hostEvt := 0, msix := Msix.init, vfEnable := false, numVfs := 0,
    mb := Mailbox.init, lat := Latches.init }

/-- A VF instance, one per host port and stall (R174, R204). -/
structure VfInst where
  cause : BitVec 5
  causeEn : BitVec 5
  bar2Base : BitVec 40
  msix : Msix
  mb : Mailbox
  lat : Latches
  deriving DecidableEq, Repr

def VfInst.init : VfInst :=
  { cause := 0, causeEn := 0, bar2Base := 0, msix := Msix.init, mb := Mailbox.init, lat := Latches.init }

/-- The state of a selective IDE stream (R201, R202). -/
inductive IdeSt where
  | inactive | keyed | active | insecure
  deriving DecidableEq, Repr

/-- One selective IDE stream of a port: its state, key set, RID association range and address blocks (R201). -/
structure IdeStream where
  st : IdeSt
  keyGen : Nat
  ridLo : U16
  ridHi : U16
  blocks : List (Nat × Nat)
  deriving DecidableEq, Repr

def IdeStream.init : IdeStream := { st := .inactive, keyGen := 0, ridLo := 0, ridHi := 0, blocks := [] }

/-- One host port (R170, R174, R197, R200). -/
structure HostPortSt where
  linkUp : Bool
  perst : Bool                -- PERST# of this port is asserted
  lost : Bool                 -- HL_LOST_PORT
  streams : Tab IdeStream
  deriving DecidableEq, Repr

def HostPortSt.init : HostPortSt := { linkUp := false, perst := true, lost := false, streams := [] }

/-- The completion codes of MCTP control and PLDM answers (R567, R570), by their names in those standards. -/
inductive McCode where
  | success | invalidData | notReady | unsupportedCmd | invalidType | invalidSensor | invalidHandle
  deriving DecidableEq, Repr

/-- What the package sends out, oldest first. -/
inductive Out where
  | msi (fn : Fn) (vector : Nat)                         -- an MSI-X message (R184)
  | readData (fn : Fn) (bytes : List Byte) (poisoned : Bool)  -- a read completion
  | link (port : Nat) (opcode : Nat) (m : LinkMsg)         -- a Tsuholt message (R372)
  | mgmt (port : Nat) (m : LinkMsg) (body : Mgmt)          -- a MGMT message
  | credit (port vc cls count : Nat)                       -- freed flits, in the next block trailer (R368)
  | console (c : Byte)                                   -- a MUART character (R562)
  | i3c (bytes : List Byte)                              -- what an I3C common command reads
  | ibi (mdb : Byte)                                     -- an in-band interrupt
  | mctp (code : McCode) (values : List Nat)             -- an MCTP control or PLDM answer
  | spdm (via : Option Fn) (code : Nat) (body : List Byte)  -- an SPDM response; none for MCTP
  | tap (bits : List Byte)                               -- what a TAP instruction shifts out
  deriving DecidableEq, Repr

/-- The HL block and the ports. -/
structure HostBlock where
  pf : Tab PfInst
  vf : Tab VfInst               -- instance of port p and stall s at 128 p + s
  rtpLat : Latches              -- the RTP's own latches
  ports : Tab HostPortSt
  unreach : BitVec 128          -- HL_STALL_UNREACH
  history : Tab (List RespHdr)  -- the last 16 response headers of each mailbox, oldest first (R195)
  out : List Out
  hostMem : Memory               -- the host's memory, which DMA reads and writes
  hostBad : List (Nat × Nat)    -- ranges of host addresses whose accesses complete with an error
  deriving DecidableEq, Repr

end Sys2Proof.Machine
end

