-- ==== Sys2Proof/Machine/StLinks.lean ====
section
/-! DEFINITION. The parts of State that are the Tsuholt ports and pod time (R367–R402), and a stall's Relay Engine: its
exports, tickets and groups (R385–R394). -/

namespace Sys2Proof.Machine

/-- TL_P_STATE.STATE (R374). -/
inductive PortSt where
  | disabled | detect | train | keyx | active | lowpower | retired
  deriving DecidableEq, Repr

/-- One side of a key exchange in progress (R375): what this side sent and what the peer's HELLO brought. -/
structure Keyx where
  rnd : List Byte
  priv : List Byte
  pub : List Byte
  peer : Option (List Byte × List Byte × List Byte)  -- the peer's HELLO, its ephemeral key and its attestation key
  deriving DecidableEq, Repr

/-- The keys of a port's two directions (R369, R375). -/
structure LinkKeys where
  tx : List Byte
  rx : List Byte
  deriving DecidableEq, Repr

/-- A message that waits for credit or for the port's lanes, with the receive buffer it still occupies when it is being
forwarded: port, channel, class and flits. -/
structure LinkOut where
  op : Nat
  msg : LinkMsg
  mgmt : Option Mgmt
  holds : Option (Nat × Nat × Nat × Nat)
  deriving DecidableEq, Repr

/-- A time master as a neighbour advertises it (R397), with the grid index of the last renewal. -/
structure Advert where
  id : Nat
  prio : Nat
  hops : Nat
  ofs : Int
  grid : Nat
  deriving DecidableEq, Repr

/-- One Tsuholt port (R374–R401). -/
structure TlPort where
  st : PortSt
  stepAt : Nat                  -- when the present step of R374 began
  fails : Nat                   -- failed attempts in a row
  retrains : List Nat           -- times of retrains in the last 2^36 gticks
  en : Bool
  lowOk : Bool
  told : Bool                   -- a TIME message has told the peer's IDs
  peerPkg : Nat
  peerPort : Nat
  peerSize : Nat
  mismatch : Bool               -- as TL_EVT last saw it
  asym : Int
  peerId : BitVec 384           -- the peer's package identity digest
  keyx : Option Keyx
  keys : Option LinkKeys
  nextKeys : Option LinkKeys    -- agreed by a rekey
  switched : Bool               -- the peer's SWITCH has arrived
  epoch : Nat
  frames : Nat                  -- frames sent under the key by `frameAt`
  frameAt : Nat
  lastGood : Nat                -- the last received frame that passed (R379)
  badRun : Nat
  tagGrid : Nat                 -- the grid period of `tagRun`
  tagRun : Nat
  fecCorr : U32
  tagFail : U32
  resend : U32
  proto : U32
  ofs : U32
  delay : U32
  tx : U64
  rx : U64
  used : Tab Nat                -- credits in use, by 4 * channel + class; class 3 is the per-hop pool
  kept : List (Nat × LinkOut)   -- unacknowledged messages with their frame numbers (R379)
  sendq : List LinkOut
  waking : Bool                 -- WAKE has been sent
  inbox : List (Nat × LinkMsg)  -- stall traffic that waits in the receive buffer during a warm reset (R544)
  tTx : Nat                     -- this period's stamps (R395), 0 for none
  tRx : Nat
  advert : Option Advert
  deriving DecidableEq, Repr

def TlPort.init : TlPort :=
  { st := .disabled, stepAt := 0, fails := 0, retrains := [], en := true, lowOk := true, told := false, peerPkg := 0, peerPort := 0, peerSize := 0
    mismatch := false, asym := 0, peerId := 0, keyx := none, keys := none, nextKeys := none, switched := false, epoch := 0, frames := 0, frameAt := 0
    lastGood := 0, badRun := 0, tagGrid := 0, tagRun := 0, fecCorr := 0, tagFail := 0, resend := 0, proto := 0, ofs := 0, delay := 0
    tx := 0, rx := 0, used := [], kept := [], sendq := [], waking := false, inbox := [], tTx := 0, tRx := 0, advert := none }

/-- The TL block (R397–R401). -/
structure Tsuholt where
  ports : Tab TlPort
  evt : BitVec 6
  freq : Int                    -- F (R398)
  holdover : Bool
  up : Option Nat               -- the upstream port
  isMaster : Bool
  masterId : Nat                -- 0xFF for none
  masterPrio : Nat
  masterHops : Nat              -- 0xFF for none
  est : Option Int              -- the latest MASTER_OFS through an upstream port
  sentGrid : Nat                -- the grid index of the last TIME sent
  alignFrom : Nat               -- when the alignment wait of R399 began
  deriving DecidableEq, Repr

/-- An export (R385). -/
structure Export where
  ctx : Nat
  rights : Nat
  va : Nat
  bytes : Nat
  allow : List (Nat × Nat)
  deriving DecidableEq, Repr

/-- A REMOTE_EXPORT not yet answered: its slot and what it puts there (R385). -/
structure ExportWait where
  req : Req
  num : Nat
  new : Option Export
  deriving DecidableEq, Repr

/-- A claim of a stall's slots (R388, R389): its key, the peer at its other end and the chunk it is for. -/
structure Claim where
  keyT : Nat
  srcPkg : Nat
  srcStall : Nat
  ticket : Nat
  own : Bool
  port : Nat
  peer : Nat
  peerStall : Nat
  granted : Bool                -- the stall's own claim has its grant
  committed : Bool              -- it holds a slot
  read : Bool
  addr : Nat                    -- the range at the far end of its requester
  span : Nat
  num : Nat                     -- the export, for a peer's claim
  qk : Nat                      -- the command, for an own claim
  pos : U32
  loc : Nat                     -- the local address of the chunk
  ofs : Nat                     -- its offset in the command's bytes
  done : Nat                    -- bytes acknowledged or landed
  data : List Byte
  deriving DecidableEq, Repr

/-- A group (R392): its members in order, and for each other member what its share of STAGE holds and the credit it has
given. -/
structure Group where
  id : Nat
  index : Nat
  ctx : Nat
  stage : Nat
  stageBytes : Nat
  members : List (Nat × Nat)
  inbox : Tab (List Byte)       -- received and not yet used, by member
  bad : Tab (List Bool)         -- whether each of those bytes is poison
  got : Tab Nat                 -- bytes received in all
  given : Tab Nat               -- bytes of theirs freed in all
  sent : Tab Nat                -- bytes sent in all
  freed : Tab Nat               -- bytes of ours the member has freed in all
  ready : Tab Nat               -- COLL_READY received and not yet used
  deriving DecidableEq, Repr

/-- A COLLECTIVE that has started (R393, R394). -/
structure Coll where
  qk : Nat
  pos : U32
  group : Nat
  begun : Bool                  -- it is sending
  toSend : Tab (List Byte)      -- what is still to go, by member
  bad : Tab (List Bool)
  buf : Tab (List Byte)         -- what has been taken from each member
  bufBad : Tab (List Bool)
  heard : Tab Nat               -- when data was last heard from each member it waits for
  deriving DecidableEq, Repr

/-- A stall's Relay Engine. -/
structure Relay where
  exports : Tab Export
  waits : List ExportWait
  claims : List Claim           -- in key order
  groups : List Group
  clears : List (Req × Nat)     -- GROUP_CLEAR requests that wait for a collective to end
  colls : List Coll
  deriving DecidableEq, Repr

def Relay.init : Relay := { exports := [], waits := [], claims := [], groups := [], clears := [], colls := [] }

end Sys2Proof.Machine
end

