-- ==== Sys2Proof/Machine/StMgmt.lean ====
section
/-! DEFINITION. The part of State that is the part's two management paths (R550–R572): the MUART and its console, the I3C
target, its MCTP endpoint and its PLDM terminus. -/

namespace Sys2Proof.Machine

/-- A console command line, read (R563). -/
inductive ConCmd where
  | status | time
  | confirmEnrol (code : List Byte)
  | confirmDecom (code : List Byte)
  | selftest | zeroise | yes | resetWarm | resetCold | line
  deriving DecidableEq, Repr

/-- The MUART: its registers (R572) and its transmitter. -/
structure Muart where
  ctl : BitVec 11               -- EN, HALF, DATA_BITS, PARITY, STOP, CON_EN in effect
  lock : Bool
  div : U16
  pendCtl : Option (BitVec 11)  -- written, and taking effect when no frame is in progress (R552)
  pendDiv : Option U16
  rxAwake : Bool
  brk : Bool                    -- MU_STATUS.BREAK
  lineFault : Bool
  evt : BitVec 4
  stuck : Byte
  sleep : Byte
  framing : Byte
  parity : Byte
  overrun : Byte
  collision : Byte
  wakeLost : U16
  breaks : U16
  faultAt : U64
  lastActive : Nat              -- when a character was last received or sent
  tx : List Byte                -- characters to send, the head first
  hits : Nat                    -- consecutive collisions on the head (R556)
  backoff : Bool                -- a collision stopped it, and it waits for two idle character times
  deriving DecidableEq, Repr

/-- The console (R561). -/
structure Console where
  chars : List Byte             -- the line so far
  bad : Bool                    -- it held a discarded or unprintable character
  long : Bool                   -- it passed 128 characters
  lastCr : Bool                 -- the character before was a CR
  buf : List (Option (BitVec 9))  -- received while a command runs; none for a discarded character
  cmd : Option ConCmd           -- the line taken and not yet answered
  running : Bool                -- it has begun and its result is still to come
  yesFrom : Option Nat          -- `zeroise` has asked for its yes, at this time
  deriving DecidableEq, Repr

/-- A platform event (R571): the sensor and the state it changed to, or the threshold crossed and whether upwards. -/
inductive PlatEvent where
  | state (sensor value : Nat)
  | cross (sensor level : Nat) (up : Bool)
  deriving DecidableEq, Repr

/-- Both paths. -/
structure Sideband where
  mu : Muart
  con : Console
  addr : BitVec 7               -- the I3C dynamic address
  assigned : Bool
  ibiEn : Bool
  eid : Byte
  tid : Byte
  events : List PlatEvent       -- not yet collected, oldest first, at most 32
  eventLost : Bool
  seen : Tab Nat                -- the state sensors 20, 21, 22 and 30 as last compared
  conns : Tab SpdmConn          -- SPDM connections (R449): MCTP at 0, port p's PF0 at 1 + p, its VF n at 8 + 128 p + n
  deriving DecidableEq, Repr

end Sys2Proof.Machine
end

