-- ==== Sys2Proof/Machine/StPlan.lean ====
section
/-! DEFINITION. The parts of State that hold yard plans (R109–R139) and a change in progress (R140–R169). Records
hold the numbers of their fields as the plan's little-endian bytes spell them. -/

namespace Sys2Proof.Machine

/-- A BAYS record (R115). -/
structure BayRec where
  bay : Nat
  stall : Nat
  order : Nat
  deriving DecidableEq, Repr

/-- A STALLS record (R116). -/
structure StallRec where
  stall : Nat
  iso : Nat
  ctxMax : Nat
  flags : Nat
  hostPorts : Nat
  journalMib : Nat
  mirrorBay : Nat
  preempt : Nat
  pause : Nat
  droverSeq : Nat
  loftPages : Nat
  deriving DecidableEq, Repr

/-- A REGIONS record (R118). -/
structure RegionRec where
  stall : Nat
  index : Nat
  prio : Nat
  rights : Nat
  keyIndex : Nat
  attr : Nat
  base : Nat
  size : Nat
  deriving DecidableEq, Repr

/-- A REGULATORS record (R119). -/
structure RegulRec where
  stall : Nat
  kind : Nat
  mode : Nat
  prio : Nat
  budget : Nat
  latTarget : Nat
  deriving DecidableEq, Repr

/-- A GATES record (R120). -/
structure GateRec where
  gate : Nat
  stall : Nat
  deriving DecidableEq, Repr

/-- A LINKS record (R121). -/
structure LinkRec where
  port : Nat
  stall : Nat
  kind : Nat
  share : Nat
  deriving DecidableEq, Repr

/-- A KEYSLOTS record (R122). -/
structure SlotRec where
  slot : Nat
  stall : Nat
  index : Nat
  deriving DecidableEq, Repr

/-- The POLICY record (R123). -/
structure Policy where
  sole : Bool
  flashStore : Bool
  podPkgId : Nat
  podSize : Nat
  timePriority : Nat
  deriving DecidableEq, Repr

/-- A ROUTES record (R124). -/
structure RouteRec where
  dest : Nat
  hops : Nat
  mask : Nat
  deriving DecidableEq, Repr

/-- The CHANGE section (R140, R141): its head and its (stall, WHAT) records. -/
structure ChangeSec where
  baseEpoch : Nat
  width : Nat
  holdAction : Nat
  holdGrids : Nat
  startGrid : Nat
  baseDigest : Nat
  recs : List (Nat × Nat)
  deriving DecidableEq, Repr

/-- A plan, read from its bytes. -/
structure Plan where
  epoch : Nat
  commitGrid : Nat
  digest : BitVec 384
  totalLen : Nat
  bays : List BayRec
  stalls : List StallRec
  regions : List RegionRec
  regulators : List RegulRec
  gates : List GateRec
  links : List LinkRec
  slots : List SlotRec
  policy : Policy
  routes : List RouteRec
  change : Option ChangeSec
  deriving DecidableEq, Repr

/-- The default plan (R137): epoch 0, no stall, no pod, TIME_PRIORITY 0. DEDUCED, log 93. -/
def Plan.default : Plan :=
  { epoch := 0, commitGrid := 0, digest := 0, totalLen := 0, bays := [], stalls := [], regions := [],
    regulators := [], gates := [], links := [], slots := [],
    policy := { sole := false, flashStore := false, podPkgId := 0xFF, podSize := 0, timePriority := 0 },
    routes := [], change := none }

/-- YP_STATUS.STATE (R131). -/
inductive YpState where
  | idle | fetching | validating | waitGroom | armed | changing
  deriving DecidableEq, Repr

/-- YP_STATUS.KEY_STATE (R126). -/
inductive KeyState where
  | unenrolled | pending | enrolled
  deriving DecidableEq, Repr

/-- A plan store slot's contents (R135): the plan's bytes and the trailer's EPOCH, WRITE_SEQ and DIGEST. A slot not
listed is not valid. -/
structure StoreSlot where
  bytes : List Byte
  epoch : Nat
  writeSeq : Nat
  digest : BitVec 384
  deriving DecidableEq, Repr

/-- A plan-store write in progress, and one waiting for it (R135). -/
structure StoreWrite where
  slot : Fin 2
  data : StoreSlot
  deriving DecidableEq, Repr

/-- YP_CHG_STATE.STEP (R169). -/
inductive ChgStep where
  | none | prepare | pausing | hold | grooming | grantWait
  deriving DecidableEq, Repr

/-- A hold as the change report tells it (R194): ACTION 0 while it lasts. -/
structure HoldRec where
  stall : Nat
  phase : Nat
  action : Nat
  grids : Nat
  startGrid : Nat
  deriving DecidableEq, Repr

/-- One deleted stall's last sequence numbers (R147, R194). -/
structure DeletedRec where
  stall : Nat
  queues : List (Nat × Nat × Nat × U64)   -- context, engine, queue, LAST_ASN
  deriving DecidableEq, Repr

/-- The kinds of resource a change releases and grants (R148). -/
inductive ResKind where
  | bay | slot | gate | port
  deriving DecidableEq, Repr

/-- A resource by kind and number. -/
abbrev Res := ResKind × Nat

/-- A change plan in progress (R148–R168). What a stall held before it, for an abort, lies with the stall. -/
structure Change where
  old : Plan
  new : Plan
  phase : Nat                   -- current phase, 0 before T_1
  step : ChgStep                -- none: the next phase tick is due at `nextTick`
  abortable : Bool
  tk : Nat                      -- T_k of the current phase (R150, R152)
  prepLeft : List Nat           -- stalls whose new mirror copy is not complete (R160)
  oldMirrors : List (Nat × Nat) -- (stall, bay) of the mirrors that moved, until their areas are released (R160)
  released : List Nat           -- stalls that have released
  pend : List Nat               -- stalls with transitions to come (YP_CHG_PEND)
  quar : List (Res × Nat)       -- quarantined resources, with the phase at whose grant tick each leaves (R153, R154)
  grooming : List Nat           -- quarantined bays not yet cleared (R154)
  slots : List Nat              -- released key slots whose clearing has begun (R154)
  areas : List Nat              -- bays with an old mirror area not yet cleared (R160)
  hold : List Nat               -- stalls holding the phase (YP_CHG_HOLD)
  holdAt : Nat                  -- when the hold began
  atGrant : Bool                -- the hold is at a grant tick (R168)
  forcing : Nat                 -- ACTION of a force in progress, 0 for none
  forced : Bool                 -- at least one force (YP_CHG_LAST.OUTCOME)
  kills : Nat
  nextTick : Nat                -- the next phase or grant tick, 0 for none (YP_CHG_NEXT)
  frozenAt : Option Nat         -- main power failed then (R168)
  excluded : Nat                -- ride-through excluded from the running PAUSE_LIMIT and HOLD_GRIDS
  deriving DecidableEq, Repr

/-- The change report of the last change (R194). -/
structure Report where
  epoch : Nat
  outcome : Nat
  kills : Nat
  holds : List HoldRec
  deleted : List DeletedRec
  deriving DecidableEq, Repr

/-- The YP block (R138, R139, R169), the key store's plan facts (R114, R126) and the plan store (R135). -/
structure Yard where
  st : YpState
  staged : List Byte            -- the bytes delivered into staging
  stagedFrom : Option Nat       -- the plan store slot they came from, if any
  plan : Option Plan            -- the accepted plan that waits (WAIT_GROOM, ARMED)
  planBytes : List Byte         -- its bytes
  waitReq : Option Req        -- the PLAN_SUBMIT not yet answered
  waitBays : List Nat           -- granted bays not yet clear (WAIT_GROOM)
  waitSlots : List Nat
  armedGrid : U64
  active : Plan
  base : Plan
  isDefault : Bool              -- YP_STATUS.DEFAULT
  fromFlash : Bool
  mixed : Bool
  storeFail : Bool
  rejected : Bool
  committed : Bool
  reason : Byte
  sub : Byte
  rejOfs : U32
  rejEpoch : U32
  keyState : KeyState
  keySeq : U32
  key : List Byte               -- the enrolled key, 96 bytes
  pendKey : List Byte           -- the pending key
  pendAt : Nat
  epochFloor : U32
  floorDigest : BitVec 384
  commitAt : U64
  accepted : U16
  rejections : U16
  store : Tab StoreSlot
  writing : Option StoreWrite   -- STORING
  writeWait : Option StoreSlot
  bayOwner : Tab Byte
  gateOwner : Tab Byte
  portOwner : Tab Byte
  slotOwner : Tab Byte
  chg : Option Change
  chgEpoch : U32
  chgFirst : U64                -- YP_CHG_FIRST
  chgLast : U32
  chgPhase : Nat                -- PHASE and PHASES of YP_CHG_STATE as the last change left them (R169)
  chgPhases : Nat
  report : Report
  deriving DecidableEq, Repr

end Sys2Proof.Machine
end

