-- ==== Sys2Proof/Machine/StPower.lean ====
section
/-! DEFINITION. The parts of State that hold sky states, resets, boot and temperatures (R527–R549). -/

namespace Sys2Proof.Machine

/-- The sky states (R527). -/
inductive Sky where
  | clear | scattered | broken | overcast
  deriving DecidableEq, Repr

/-- A cluster's sky state with the idle period it is in (R530). -/
structure ClusterSky where
  sky : Sky
  since : Nat                   -- start of the idle period, or of Scattered
  scatter : Nat                 -- IDLE_SCATTER as it stood when the period began, in gticks
  clearAfter : Nat              -- IDLE_CLEAR as it stood when the period began, in gticks
  waking : Option (Sky × Nat)   -- the state it is on its way to, and when it arrives
  haltHold : Bool               -- a debug halt holds it at Broken
  deriving DecidableEq, Repr

def ClusterSky.init : ClusterSky :=
  { sky := .clear, since := 0, scatter := 0, clearAfter := 0, waking := none, haltHold := false }

/-- Where entry to or leaving package Clear stands (R533, R534). -/
inductive ClearSt where
  | awake | entering | inClear | waking (phase : Nat)
  deriving DecidableEq, Repr

/-- A compute die's or I/O die's temperatures (R539, R549). -/
structure Therm where
  tmax : Byte
  level : BitVec 3
  hot : Bool
  peak : Byte
  time : U32                    -- PWR_THERM_TIME
  sinceTick : Byte              -- the highest sample since the last grid tick
  coolTicks : Nat               -- grid ticks in a row with every sample below 95 °C
  deriving DecidableEq, Repr

def Therm.init : Therm := { tmax := 0, level := 0, hot := false, peak := 0, time := 0, sinceTick := 0, coolTicks := 0 }

/-- A warm reset in progress (R544). -/
structure WarmReset where
  reqs : List Waiter            -- the requests it answers
  deriving DecidableEq, Repr

/-- The PWR block. -/
structure Power where
  sky : Tab ClusterSky
  clearSt : ClearSt
  clearFrom : Nat               -- when the present stay in package Clear began
  wakeNeedsCluster : Bool       -- the wake in progress ends with phase 5 (R533)
  ctl : U32
  idle : U32
  evt : BitVec 6
  wakeSrc : BitVec 8
  phase : Nat                   -- PWR_BOOT.PHASE
  cause : Nat                   -- PWR_BOOT.CAUSE
  causeDue : Nat                -- the CAUSE that the boot in progress will show
  bootAt : U64
  warmCnt : U32
  clearTime : Nat               -- gticks spent in package Clear in stays that have ended
  thermStop : Bool
  thermTrip : Bool              -- THERMTRIP# is latched
  therm : Tab Therm             -- compute dies 0-3, I/O dies 4-7
  warm : Option WarmReset
  warmDeferred : Bool           -- a warm reset waits for a change's grant tick (R168)
  deferredReqs : List Waiter    -- the requests that wait with it
  coldReq : Option Nat          -- a requested cold reset: its CAUSE (R546)
  coldReply : List Waiter       -- cold-reset requests not yet answered
  powerGood : Bool              -- PWR_GOOD with every rail in regulation
  deriving DecidableEq, Repr

end Sys2Proof.Machine
end

