-- ==== Sys2Proof/Machine/StProt.lean ====
section
/-! DEFINITION. The parts of State that protect memory and the module (R403–R439, R594): the slot ledger, the Groom's
work, the module's status, debug sessions and self-tests. -/

namespace Sys2Proof.Machine

/-- A slot's ledger state (R418). -/
inductive SlotSt where
  | clean | held | clearing | internal
  deriving DecidableEq, Repr

/-- An interval of a slot's reach (R419): a bay and a range [lo, hi) of bay bytes. -/
structure Interval where
  bay : Nat
  lo : Nat
  hi : Nat
  deriving DecidableEq, Repr

/-- One slot of the ledger (R418–R420). -/
structure SlotLedger where
  st : SlotSt
  reach : List Interval
  settled : List Interval := []   -- the intervals of a CLEARING slot that are settled (R420)
  deriving DecidableEq, Repr

def SlotLedger.init : SlotLedger := { st := .clean, reach := [] }

/-- The TAP's instruction (R424, R426). -/
inductive TapInstr where
  | bypass | idcode | samplePreload | highz | clamp | extest | scan
  deriving DecidableEq, Repr

/-- The MEE block's module, debug and ledger state (R439) and the key store's values. -/
structure Prot where
  approved : Bool
  error : Bool
  zeroised : Bool
  selftestBusy : Bool
  selftestWait : List Waiter         -- those who wait for the run in progress (R434, R563, R570)
  standbyOk : Bool
  fipsCause : U32
  stLast : U64
  bank : BitVec 2
  spent : Bool
  decommissioned : Bool
  scope : Nat                   -- MEE_DBG_STATE.SCOPE, 0 for locked
  viaTap : Bool
  notAfter : U64
  stallMask : BitVec 128
  challenge : Option (List Byte × Nat)   -- the valid nonce and when it was issued (R425)
  tap : TapInstr
  slots : Tab SlotLedger
  ueTimes : Tab (List Nat)      -- by pseudo-channel: uncorrectable events in the last 2^36 gticks (R415)
  grooming : List Nat           -- bays the Groom is clearing (R416)
  zeroising : Bool              -- ZEROISE has begun and its grooming is not complete (R437)
  zeroiseReq : List Waiter
  decom : Option (Req × Nat)  -- a DECOMMISSION awaiting confirmation, and when it was taken (R438)
  deriving DecidableEq, Repr

end Sys2Proof.Machine
end

