-- ==== Sys2Proof/Machine/StRegul.lean ====
section
/-! DEFINITION. The parts of State that regulate and count delivery (R344–R366): a stall's regulators, its link shares
and delivery page, and the RG block with the yard memory regulator. -/

namespace Sys2Proof.Machine

/-- The counters of a regulator's block of the delivery page (R364). -/
structure RegCounts where
  bytesIn : U64
  bytesOver : U64
  bytesUrgent : U64
  requests : U64
  latSum : U64
  winOver : U64
  winGated : U64
  latMax : U32
  deriving DecidableEq, Repr

def RegCounts.init : RegCounts :=
  { bytesIn := 0, bytesOver := 0, bytesUrgent := 0, requests := 0, latSum := 0, winOver := 0, winGated := 0, latMax := 0 }

/-- A request at a master port: its size, whether it is an urgent drain, the link record it travels over with the
direction (true for transmit), and its number. -/
structure PortReq where
  id : Nat
  size : Nat
  urgent : Bool
  link : Option (Nat × Bool)
  deriving DecidableEq, Repr

/-- One regulator (R344–R352). -/
structure Regulator where
  credit : Nat
  charged : Bool                -- a request has been charged in this window
  held : List PortReq           -- waiting at the port, oldest first
  flying : List (PortReq × Nat) -- issued and not complete, with the issue time
  live : RegCounts              -- counts up to now
  shown : RegCounts             -- as of the last update of the page
  winN : Nat                    -- requests completed in the window, and their latencies
  winLat : Nat
  overNow : Bool                -- a request was over budget in the window
  gatedNow : Bool               -- the duty gate was closed at a step of the window
  ewma : Nat                    -- E
  prio : Nat
  step : Nat
  creditLeft : Nat
  duty : U32                    -- RG_DUTY
  gateShut : Bool               -- the duty gate as last sampled
  mode : Nat                    -- MODE, PRIO_BASE and LAT_TARGET in effect since the last window start (R361)
  base : Nat
  target : Nat
  deriving DecidableEq, Repr

def Regulator.init : Regulator :=
  { credit := 0, charged := false, held := [], flying := [], live := RegCounts.init, shown := RegCounts.init, winN := 0
    winLat := 0, overNow := false, gatedNow := false, ewma := 0, prio := 0, step := 0, creditLeft := 0, duty := 0
    gateShut := false, mode := 0, base := 0, target := 0 }

/-- A link record's bytes and, for a share, what is left of the window's credit in each direction (R356, R364). -/
structure LinkCount where
  tx : U64
  rx : U64
  txShown : U64
  rxShown : U64
  txCredit : Nat
  rxCredit : Nat
  txCharged : Bool
  rxCharged : Bool
  deriving DecidableEq, Repr

def LinkCount.init : LinkCount :=
  { tx := 0, rx := 0, txShown := 0, rxShown := 0, txCredit := 0, rxCredit := 0, txCharged := false, rxCharged := false }

/-- A stall's delivery: its regulators, link records and the page's heads (R364). -/
structure Delivery where
  regs : Tab Regulator
  links : Tab LinkCount         -- by index of the manifest's LINKS
  window : U64
  since : U64
  linkSince : U64
  gen : U32
  deriving DecidableEq, Repr

/-- What a job of the yard memory regulator does (R357). -/
inductive JobKind where
  | mirror
  | rebuild
  | area (bay : Nat)
  deriving DecidableEq, Repr

/-- A job, running from `start` or waiting. -/
structure YardJob where
  stall : Nat
  kind : JobKind
  bytes : Nat
  start : Option Nat
  deriving DecidableEq, Repr

/-- The RG block. -/
structure RegBlock where
  urgLink : U32
  urgHost : U32
  evtLink : U16                 -- urgency assertions by link buffers (RG_URG_EVT)
  evtHost : U16
  linkUrgent : BitVec 48        -- buffers that assert urgency
  hostUrgent : BitVec 4
  capShort : BitVec 128
  jobs : List YardJob           -- running and waiting, in the order they fell due
  nextReq : Nat                 -- numbers requests
  deriving DecidableEq, Repr

end Sys2Proof.Machine
end

