-- ==== Sys2Proof/Machine/StAcc.lean ====
section
/-! DEFINITION. The parts of State that account for accepted commands: a stall's journal (R477–R487), recovery events
(R497, R498), orphan lists (R500) and the ACC block (R503). -/

namespace Sys2Proof.Machine

/-- A segment of the journal area (R478). -/
structure Segment where
  ofs : Nat
  bytes : Nat
  deriving DecidableEq, Repr

/-- A stall's journal. The records lie with their queues' entries; both copies hold the same. -/
structure Journal where
  era : Nat
  definedAt : Nat
  gen : U64
  copies : List Nat             -- the bays of the copies in service, primary's place first
  rebuild : Option Nat          -- the bay of a replacement being built (R495)
  broken : Bool                 -- ACC_BROKEN
  next : Tab Nat                -- NEXT_COUNT by queue number, 1 where none is listed (R485)
  segs : Tab Segment            -- by queue number
  quota : Nat                   -- Q_s as last computed (R511)
  deriving DecidableEq, Repr

/-- An event record (R497). -/
structure AccEvent where
  seq : U32
  kind : Nat
  phase : Nat
  index : Nat
  at' : U64
  affected : Nat
  replayed : Nat
  faulted : Nat
  stall : Nat
  outcome : Nat
  era : Nat
  deriving DecidableEq, Repr

/-- A command's place: stall, queue number and position. -/
structure CmdAt where
  stall : StallNo
  qk : Nat
  pos : U32
  deriving DecidableEq, Repr

/-- A recovery in progress (R489–R498). -/
structure Recovery where
  kind : Nat
  index : Nat
  outcome : Nat
  undecided : List CmdAt
  affected : Nat
  replayed : Nat
  faulted : Nat
  rebuilds : List Nat           -- stalls whose lost copy is not yet rebuilt or given up
  stalls : List Nat             -- stalls concerned
  untold : List Nat             -- those of them whose log has no COMPLETE record yet
  footprint : List (Nat × Nat)  -- HBM ranges [lo, hi) whose content was lost (R488)
  deriving DecidableEq, Repr

/-- An orphan entry (R500, R519): the command's place, its last STATE and the end status it reached. -/
structure Orphan where
  qk : Nat
  pos : U32
  asn : U64
  opcode : Byte
  tag : U32
  state : Nat
  status : Byte
  detail : Byte
  value : U64
  carried : Bool
  deriving DecidableEq, Repr

/-- The orphan list of a stall number. -/
structure OrphanList where
  planDigest : BitVec 384
  entries : List Orphan
  deriving DecidableEq, Repr

/-- The ACC block and the key store's ERA_FLOOR. -/
structure Acct where
  eraFloor : Tab Nat
  log : List AccEvent           -- the last 256, oldest first
  seq : U32
  lastDone : U64
  recoveries : List Recovery
  orphans : Tab OrphanList
  brokenLater : BitVec 128      -- stall numbers whose ACC_BROKEN sets as they are defined again (R500)
  componentFaults : Tab (List Nat)  -- times of the last faults of clusters and slices (R488)
  deriving DecidableEq, Repr

end Sys2Proof.Machine
end

