-- ==== Sys2Proof/Machine/StRsv.lean ====
section
/-! DEFINITION. The part of State that is the reserve (R506–R526): the hold-up controller, its bank, the journal images
in flash and the key store's flush counters. -/

namespace Sys2Proof.Machine

/-- RSV_STATUS.STATE (R508). -/
inductive RsvSt where
  | charging | armed | degraded | fault | ride | flush | held
  deriving DecidableEq, Repr

/-- A stall record of an image with its entries (R519). -/
structure ImageStall where
  stall : Nat
  defined : Bool
  oneCopy : Bool
  era : Nat
  planDigest : BitVec 384
  entries : List Orphan
  deriving DecidableEq, Repr

/-- A journal image whose MARKER is written (R518–R520). -/
structure Image where
  seq : Nat
  cause : Nat
  lossAt : U64
  flushAt : U64
  bank : BitVec 2               -- the root bank its MAC is made under
  stalls : List ImageStall
  deriving DecidableEq, Repr

/-- The RSV block, the flash image slots and the key store's counters. -/
structure Reserve where
  st : RsvSt
  mainOk : Bool
  testBusy : Bool
  evt : BitVec 7
  unguarded : Bool
  lock : Bool
  vbank : Nat                   -- millivolts, as the ADC shows them
  vmain : Nat
  cap : Nat                     -- C in mF
  esr : Nat                     -- in milliohms
  usable : Nat                  -- U in mJ
  vFlush : Nat
  vAccept : Nat
  rideMs : Nat
  testFailed : Bool             -- the last test did not complete
  testWanted : Bool             -- TEST_START has been written
  testAt : U64
  lossAt : U64
  links : BitVec 4              -- host ports whose links were up at the loss
  intent : Nat
  consumed : Nat
  live : Bool
  lastKind : Nat
  lastSecs : Nat
  slotErased : Bool             -- the slot for the next flush is erased
  images : Tab Image            -- 0 slot A, 1 slot B: those with a MARKER
  covered : BitVec 128          -- stall numbers the flush in progress, or lost, would have covered
  flushCause : Nat
  flushAt : Nat
  deriving DecidableEq, Repr

end Sys2Proof.Machine
end

