-- ==== Sys2Proof/Machine/StQueue.lean ====
section
/-! DEFINITION. The parts of State that hold a stall's queues and their commands (R205–R237) together with the
journal record each accepted command has (R481–R483). -/

namespace Sys2Proof.Machine

/-- Where an accepted command stands. `ready` has done its work and waits for COMMAND_END to write its status. -/
inductive EntrySt where
  | accepted | started | ready | ended | visible
  deriving DecidableEq, Repr

/-- An accepted command: its record in the journal (R481) and what the part keeps of its execution. -/
structure Entry where
  pos : U32
  asn : U64
  bytes : List Byte             -- the 64 command bytes, as journalled
  st : EntrySt
  status : Byte
  detail : Byte
  value : U64
  acceptAt : Nat
  startAt : Nat                 -- 0 when it never started
  beginAt : Nat                 -- when its execution began (R57): the first task's start for a LAUNCH
  endAt : Nat                   -- 0 until it ends
  progress : Nat                -- bytes or elements done so far (R299)
  gate : Option Nat             -- the global gate bound at acceptance (R225)
  seed : U64                    -- the stall's rounding seed as the command saw it (R256)
  aux0 : U64                    -- AUX0, AUX1 of the record (R481)
  aux1 : U64
  replays : Nat                 -- re-executions by recovery (R492)
  lateRef : Option Nat          -- CMP or AT that R57 measures this gated command against
  dataDigest : BitVec 384       -- digest of the data a receipt reports (R468)
  moved : List Byte             -- the bytes moved so far that its data digest covers
  lastCtr : Nat                 -- the bounce counter last accepted in this execution (R456)
  sideEffect : Bool             -- SIDE_EFFECT (R483)
  undecided : Bool              -- stopped by a fault and not yet decided (R489)
  stopped : Bool                -- a Copy or Relay operation stopped at a boundary (R299)
  poll : Option Byte := none    -- a waiting SEM_WAIT has read poison, and the DETAIL that names its source (R228, R414)
  deriving DecidableEq, Repr

/-- The command record a receipt reports, final once the completion is visible (R468). -/
structure CmdRec where
  pos : U32
  asn : U64
  opcode : Byte
  status : Byte
  detail : Byte
  tag : U32
  value : U64
  endAt : U64
  cmdDigest : BitVec 384
  dataDigest : BitVec 384
  deriving DecidableEq, Repr

/-- A doorbell's check whose publication is due (R216, R217): its tail, the commands journalled, the first refusal
(code, detail), and the host port it came through. -/
structure Check where
  tail : U32
  fresh : List Entry
  refusal : Option (Byte × Byte)
  port : Nat
  deriving DecidableEq, Repr

/-- One queue: what QUEUE_CREATE set, the header's fields (R210) and the doorbell slot's (R237). -/
structure Queue where
  log2Depth : Nat
  weight : Nat
  vector : Nat
  ringHost : Bool
  isSealed : Bool
  irqRefuse : Bool
  irqPressure : Bool
  admLimit : Nat
  ring : Nat
  cpl : Nat
  hdr : Nat
  session : U32                 -- the secure session of a SEALED queue (R460)
  hdrSeq : U32
  pressure : Bool
  faulted : Bool
  held : Bool
  acceptedAsn : U64
  acceptedPos : U32
  refusedCount : U32
  completedAsn : U64
  completedPos : U32
  refCode : Byte
  refDetail : Byte
  refPos : U32
  refAt : U64
  baseAsn : U64
  eraPos : U32                  -- ERA_POS (R480)
  stranded : Bool               -- QSTATE 2 (R494)
  ringFault : Bool              -- a fault on its own ring, header or completion area (R278)
  consumed : U32
  staleDb : U16
  waiting : List (U32 × Nat)    -- doorbell tails and ports, held or waiting for a check to publish (R218)
  checking : Option Check
  pages : Tab Nat               -- sealed rings: the counter last accepted by command-ring page (R456)
  shadow : Memory                -- a sealed completion ring's content, which the part alone writes
  records : List CmdRec         -- the last 4,096 final command records, oldest first (R468); their ASNs also answer R225's check of FIRST_ASN
  entries : List Entry          -- accepted and not yet forgotten, oldest first
  served : Nat                  -- tasks placed for it in the present round (R233)
  gated : Option (U32 × Nat)    -- the position a wait that has passed gates, with its CMP or AT (R57, R226)
  deriving DecidableEq, Repr

end Sys2Proof.Machine
end

