-- ==== Sys2Proof/Machine/StStall.lean ====
section
/-! DEFINITION. The parts of State that make up a stall: what its plan gives it (R80, R116), its manifest's own
fields (R93–R95), its contexts (R264–R280), its tasks (R291–R309) and its scheduling (R302–R307). -/

namespace Sys2Proof.Machine

/-- What the stall holds at this moment (R80, R105). -/
structure Holdings where
  iso : Nat
  ctxMax : Nat
  debugConsent : Bool
  bar2En : Bool
  receipts : Bool
  farLoft : Bool
  hostPorts : BitVec 4
  journalMib : Nat
  mirrorBay : Nat
  preemptLimit : Nat            -- effective (R116)
  pauseLimit : Nat
  droverSeq : Nat
  loftPages : Nat
  bays : List Nat               -- in bay order (R115)
  retired : BitVec 128          -- RETIRED_MAP
  slots : List Nat              -- by key index (R122)
  gates : List Nat              -- by local index (R120)
  links : List LinkRec          -- ascending port (R121)
  regs : List RegulRec          -- in the order of R80
  regions : List RegionRec
  sole : Bool
  deriving DecidableEq, Repr

/-- The manifest's fields that are not holdings (R93–R95, R104). -/
structure Manifest where
  epoch : Nat
  planDigest : BitVec 384
  seq : U32
  issuedAt : U64
  pending : Bool
  windowGen : U32
  draw : Nat                    -- which draw the window's signature is
  deriving DecidableEq, Repr

/-- A context (R264–R270, R279). -/
structure Ctx where
  key : Option Nat              -- KEY_INDEX, none for all of the stall's
  root : Nat
  faultRec : Nat
  seq : U32
  faults : U32
  multiHit : U32
  conflicts : U32
  killing : Bool                -- CTX_KILL in progress (R309)
  pauseReq : Bool               -- preemption requests outstanding (R299), by source
  rotReq : Option Nat           -- rotation, with the time of the request
  sliceReq : Option Nat         -- CTX_SLICE, with the time of the request
  stopped : Bool                -- every part of it has stopped
  tlb : Tab U64                 -- cached valid entries by the stall offset they were read from (R270)
  deriving DecidableEq, Repr

/-- A valid live-range entry: its PC, the core-state groups it saves and the bytes its ranges take (R296–R298). -/
structure LrdEntry where
  pc : Nat
  coreMask : U64
  ranges : List (Nat × Nat)
  deriving DecidableEq, Repr

/-- A LAUNCH's live-range descriptor as read when the command started (R296). -/
structure Lrd where
  saveBytes : Nat
  saveBase : Nat
  entries : List LrdEntry
  deriving DecidableEq, Repr

/-- A task holding a cluster. -/
structure RunTask where
  idx : Nat
  cluster : Nat
  startAt : Nat
  back : Option (Nat × U32) := none   -- a restored task's save slot and program counter, its own until it resumes (R298)
  deriving DecidableEq, Repr

/-- A LAUNCH or LAUNCH_INDIRECT that has started (R292). -/
structure Launch where
  qk : Nat                      -- its queue, 32 c + 8 e + q
  pos : U32
  gridX : Nat
  gridY : Nat
  gridZ : Nat
  limit : Nat                   -- S
  next : Nat                    -- the next unstarted linear index
  done : Nat                    -- tasks completed
  lrd : Option Lrd
  running : List RunTask
  saved : Tab (Nat × U32)       -- by save slot: the stopped task's index and pc (R298)
  again : List Nat              -- tasks a replay runs again, rising (R492)
  stopping : Bool               -- a fault stopped it: no further task starts (R278)
  deriving DecidableEq, Repr

/-- A MEM_CLEAR in progress (R310). -/
structure MemClear where
  req : Req
  keyIndex : Nat
  offset : Nat
  bytes : Nat
  deriving DecidableEq, Repr

/-- Scheduling of a stall (R302–R307). -/
structure Sched where
  rotSlice : U32                -- as SCHED_SET gave it, 0 for the default
  ctxSlice : U32
  resident : Option Nat         -- key index of the resident tenant
  residentAt : Nat
  sliceNow : Nat                -- the slice the residency in progress began with
  rotating : Option (Option Nat × Nat)  -- outgoing tenant and request time of a rotation in progress
  incoming : Option Nat
  forward : List (U64 × Nat)    -- tenants moved forward by a waking gate, with its CMP (R304)
  waitSince : Tab Nat           -- by context: since when it has had ready work and no free cluster (R302)
  preemptRefused : U32
  rotations : U32
  switches : U32
  lastRot : U32
  kills : U32
  deriving DecidableEq, Repr

def Sched.init : Sched :=
  { rotSlice := 0, ctxSlice := 0, resident := none, residentAt := 0, sliceNow := 0, rotating := none,
    incoming := none, forward := [], waitSince := [], preemptRefused := 0, rotations := 0, switches := 0,
    lastRot := 0, kills := 0 }

/-- A stall's fault and conflict counters (R280). -/
structure MemStats where
  multiHit : U32
  conflicts : U32
  accessFaults : U32
  xlatFaults : U32
  deriving DecidableEq, Repr

def MemStats.init : MemStats := { multiHit := 0, conflicts := 0, accessFaults := 0, xlatFaults := 0 }

/-- A cluster as the Compute Engine uses it (R291–R302). -/
structure Cluster where
  stall : Option Nat            -- the stall whose task it holds
  ctx : Nat                     -- the context of that task
  lastCtx : Option Nat          -- the context whose task it held last
  clearUntil : Nat              -- when the clearing after a kill ends (R309)
  heldSince : Nat               -- since when that context has held it continuously (R302)
  freedAt : Nat                 -- when its last task left it
  atSafe : Bool                 -- that task stopped at a safe point (R301)
  deriving DecidableEq, Repr

def Cluster.init : Cluster :=
  { stall := none, ctx := 0, lastCtx := none, clearUntil := 0, heldSince := 0, freedAt := 0, atSafe := false }

end Sys2Proof.Machine
end

