-- ==== Sys2Proof/Machine/StTime.lean ====
section
/-! DEFINITION. The parts of State that identify the package (R22–R42) and keep time (R43–R79). -/

namespace Sys2Proof.Machine

/-- Package identity and availability (R41). The in-service sets read 0 until the boot checks end. -/
structure Package where
  variant : Variant
  stepping : Stepping
  checked : Bool            -- the RTP has completed its boot checks
  cdieOk : BitVec 4
  iodieOk : BitVec 4
  stkOk : BitVec 12
  bayOk : BitVec 128
  portOk : BitVec 48
  rtpStandby : Bool
  rtpDie : Bool
  deadCluster : BitVec 512  -- components retired since cold reset (R38)
  deadSlice : BitVec 128
  deadPc : BitVec 768
  deadStack : BitVec 12
  deadCdie : BitVec 4
  deadPort : BitVec 48
  deadIodie : BitVec 4
  deriving DecidableEq, Repr

/-- The GTB (R43–R50): the integer part at the start of the current reference cycle, the whole steps since, the
hidden fraction accumulator, and the block's control and status fields. -/
structure Gtb where
  base : U64
  prevBase : Nat            -- the integer part at the edge before (R63)
  k : Nat
  acc : U32
  trim : U32
  running : Bool            -- cold reset has been released and power is on
  servoAuto : Bool
  lock : Bool
  aligned : Bool
  refSrc : Bool
  refSw : Bool
  coarse : Bool
  trimLimit : Bool
  servoOfs : U32
  align : U64
  lockCount : Nat           -- consecutive estimates within ±64 gticks (R49)
  switchedAt : Nat          -- completion of the last switch to the oscillator (R48)
  returnedAt : Option Nat   -- the last return to the external reference (R48)
  goodPeriods : Nat         -- consecutive good measurement periods (R48)
  needPeriods : Nat         -- 16, or 1,024 after an early loss (R48)
  coarseEnd : Option Nat    -- when the step becomes 8 gticks again (R46)
  deriving DecidableEq, Repr

/-- The states of a launch gate (R54). -/
inductive GateSt where
  | idle | armed | waking | fired
  deriving DecidableEq, Repr

/-- A write of ARM, DISARM, CMP or PREROLL that has landed and takes effect at the next step boundary (R54, R55). -/
inductive GateWrite where
  | arm | disarm | disarmArm
  | cmp (v : U64)
  | preroll (v : U32)
  deriving DecidableEq, Repr

/-- One launch gate (R52–R60, R79). -/
structure Gate where
  cmp : U64
  stagedLo : Option U32
  preroll : U32
  wakeN : BitVec 10
  st : GateSt
  lateArm : Bool
  pastArm : Bool
  fireCount : U16
  firedAt : U64
  pend : List GateWrite       -- landed at `landed`, oldest first
  landed : Nat
  held : BitVec 512           -- clusters the gate woke and holds at Broken or above (R59)
  holdEnd : Option Nat        -- when that hold ends after a firing (R59)
  deriving DecidableEq, Repr

/-- DESIGN CHOICE, log 8. -/
def Gate.init : Gate :=
  { cmp := 0, stagedLo := none, preroll := 0, wakeN := 0, st := .idle, lateArm := false, pastArm := false,
    fireCount := 0, firedAt := 0, pend := [], landed := 0, held := 0, holdEnd := none }

/-- One tick channel (R61–R64, R78). -/
structure TickCh where
  cmp : U64
  stagedLo : Option U32
  period : U64
  en : Bool
  live : Bool
  skip : Bool
  irqEn : Bool
  wakeEn : Bool
  fired : Bool
  armed : Bool
  armedAt : Nat               -- the GTB at which the pending arm or CMP write landed (R55)
  fireCount : U16
  firedAt : U64
  missed : U32
  deriving DecidableEq, Repr

/-- DESIGN CHOICE, log 8. -/
def TickCh.init : TickCh :=
  { cmp := 0, stagedLo := none, period := 0, en := false, live := false, skip := false,
    irqEn := false, wakeEn := false, fired := false, armed := false, armedAt := 0, fireCount := 0, firedAt := 0,
    missed := 0 }

/-- One capture input (R65–R69, R78). -/
structure Capture where
  rise : U64
  fall : U64
  pairRise : U64
  pw : U32
  en : Bool
  invert : Bool
  wakeEn : Bool
  irqEn : Bool
  filter : Byte
  pairNew : Bool
  overrun : Bool
  stuckHi : Bool
  stuckLo : Bool
  level : Bool                -- the filtered level
  coarse : Bool
  pairCount : U16
  stuckLimit : U16
  openEdge : Option U64       -- the opening edge of a pair not yet closed (R67)
  heldSince : Nat             -- when the filtered level was reached, or the stuck count restarted (R69)
  deriving DecidableEq, Repr

/-- DESIGN CHOICE, log 8. -/
def Capture.init : Capture :=
  { rise := 0, fall := 0, pairRise := 0, pw := 0, en := false, invert := false, wakeEn := false, irqEn := false,
    filter := 0, pairNew := false, overrun := false, stuckHi := false, stuckLo := false, level := false,
    coarse := false, pairCount := 0, stuckLimit := 0, openEdge := none, heldSince := 0 }

/-- One relay timer (R70–R73, R78). -/
structure Timer where
  count : U32
  top : U32
  mtch : U32
  en : Bool
  oneshot : Bool
  events : Bool               -- CLK_KIND
  prescale : BitVec 6
  irqWrap : Bool
  irqMatch : Bool
  gateInv : Bool
  gateSrc : Byte
  resetSrc : Byte
  clockSrc : Byte
  wrapped : Bool
  matched : Bool
  deriving DecidableEq, Repr

/-- DESIGN CHOICE, log 8. PRESUMED, log 32. -/
def Timer.init : Timer :=
  { count := 0, top := 0, mtch := 0, en := false, oneshot := false, events := false, prescale := 0,
    irqWrap := false, irqMatch := false, gateInv := false, gateSrc := 0, resetSrc := 0, clockSrc := 0,
    wrapped := false, matched := false }

/-- One SYNC_OUT pin (R74). -/
structure SyncOut where
  en : Bool
  invert : Bool
  levelMode : Bool
  src : Byte
  width : BitVec 24
  pulseFrom : Nat             -- a pulse drives the pin active from here
  pulseEnd : Option Nat       -- to here
  deriving DecidableEq, Repr

def SyncOut.init : SyncOut :=
  { en := false, invert := false, levelMode := false, src := 0, width := 0, pulseFrom := 0, pulseEnd := none }

/-- What hangs off the GTB. -/
structure TimeBlock where
  gates : Tab Gate
  ticks : Tab TickCh
  caps : Tab Capture
  timers : Tab Timer
  outs : Tab SyncOut
  matrix : List Byte          -- event codes of the present step, due at the next step (R72)
  gridDone : Nat              -- grid ticks handled (R51)
  winDone : Nat               -- regulation windows begun (R51)
  irqLater : List Nat         -- vectors held until PCIe returns from a ride-through (R77)
  deriving DecidableEq, Repr

end Sys2Proof.Machine
end

