-- ==== Sys2Proof/Machine/State.lean ====
section
/-! DEFINITION. The block's state: everything the spec gives the package, and the queue of commands that wait. -/

namespace Sys2Proof.Machine

/-- What a stall held before a change plan reached it, for an abort (R106, R164). -/
structure Before where
  hold : Holdings
  man : Manifest
  ctxs : Tab Ctx                -- the contexts its release ended
  slots : Tab SlotLedger        -- the ledger entries of the slots it released
  deriving DecidableEq, Repr

/-- A stall: everything the part holds for it while it is defined. -/
structure Stall where
  hold : Holdings
  man : Manifest
  ctxs : Tab Ctx                -- by context number, those that exist
  queues : Tab Queue            -- by 32 c + 8 e + q, those that exist (R215)
  launches : List Launch
  sched : Sched
  stats : MemStats
  seed : U64                    -- stochastic rounding seed (R256)
  kills : Tab (List Req)        -- by context: kills in progress, with the requests each answers (R309)
  invals : List Req           -- XLAT_INVAL requests not yet answered (R270)
  memClear : List MemClear
  measuring : List Req          -- MEASURE_IMAGE requests not yet answered (R445)
  manReqs : List Req            -- MANIFEST_REQ that waits for a transition to complete (R99)
  reset : List Req              -- STALL_RESET in progress, with the requests it answers (R545)
  bar2Deny : U32                -- HL_VBAR2_DENY
  halted : BitVec 512           -- clusters a debug halt holds (R75, R426)
  debugCount : Nat              -- SCOPE 1 sessions that named it since it was defined (R427)
  paused : Bool                 -- a change plan's pause request stands (R152)
  before : Option Before        -- from T_1 of a change until it ends
  journal : Journal
  evLog : List AccEvent         -- the last 64 events that concern it, oldest first (R497)
  evSeq : U32
  attest : Attest
  drover : Drover
  relay : Relay
  dlv : Delivery
  deriving DecidableEq, Repr

/-- The MEE's counters and the last event of R413 (R439). -/
structure Mee where
  tagFail : U32
  eccCe : U32
  eccUe : U32
  poisonWr : U32
  errKind : U32
  errDpa : BitVec 52
  errAt : U64
  deriving DecidableEq, Repr

/-- Why the machine stops. -/
inductive Fault where
  /-- A command that names a unit this variant is not fitted with (a port, die or stack number beyond R35's figures):
  there is nothing there for the command to act on. Raised by the commands that name such a unit. Safe: the machine
  stops where no hardware could go on. -/
  | notFitted
  deriving DecidableEq, Repr

/-- Why the model has no meaning to give. -/
inductive Refusal where
  /-- A command whose meaning has not been written. Unsafe for no claim: the machine stops. -/
  | notModelled (mnemonic : String)
  deriving DecidableEq, Repr

/-- The state of the block. -/
structure State where
  pending : List Instr          -- commands that wait, first in, first out
  pkg : Package
  gtb : Gtb
  tb : TimeBlock
  yard : Yard
  host : HostBlock
  clusters : Tab Cluster
  stalls : Tab Stall            -- by stall number, those the active plan defines
  hbm : Memory                   -- pseudo-channel p, channel offset c at p * 2^30 + c (R262)
  poison : List Nat             -- lines (address / 64) whose poison bit is set (R413), rising
  lineSlot : Tab Nat            -- line (address / 64) to the key slot it was last written under
  mee : Mee
  prot : Prot
  power : Power
  acct : Acct
  rsv : Reserve
  rg : RegBlock
  tl : Tsuholt
  side : Sideband
  sessions : Tab Session        -- by SPDM session ID (R451)
  free : Nat                    -- the model's own: how many free values have been drawn
  xlatCaching : Bool            -- whether the part caches valid translation entries (R270 leaves it open)
  deriving DecidableEq, Repr

/-! The state after reset. A register's value is the one its table gives; where the spec gives none (the key store, the
flash and the fuses of a part fresh from manufacture) the assumption log names it. -/

/-- DESIGN CHOICE, log 6. -/
def Package.reset : Package :=
  { variant := .xh5124, stepping := .b0, checked := false, cdieOk := 0, iodieOk := 0, stkOk := 0, bayOk := 0, portOk := 0, rtpStandby := false
    rtpDie := false, deadCluster := 0, deadSlice := 0, deadPc := 0, deadStack := 0, deadCdie := 0, deadPort := 0, deadIodie := 0 }
def Gtb.reset : Gtb :=
  { base := 0, prevBase := 0, k := 0, acc := 0, trim := 0, running := true, servoAuto := true, lock := false, aligned := false, refSrc := false
    refSw := false, coarse := false, trimLimit := false, servoOfs := 0, align := 0, lockCount := 0, switchedAt := 0, returnedAt := none
    goodPeriods := 0, needPeriods := 16, coarseEnd := none }
def TimeBlock.reset : TimeBlock :=
  { gates := [], ticks := [], caps := [], timers := [], outs := [], matrix := [], gridDone := 0, winDone := 0, irqLater := [] }
/-- DESIGN CHOICE, log 7. -/
def Yard.reset : Yard :=
  { st := .idle, staged := [], stagedFrom := none, plan := none, planBytes := [], waitReq := none, waitBays := [], waitSlots := [], armedGrid := 0
    active := Plan.default, base := Plan.default, isDefault := false, fromFlash := false, mixed := false, storeFail := false, rejected := false
    committed := false, reason := 0, sub := 0, rejOfs := 0, rejEpoch := 0, keyState := .unenrolled, keySeq := 0, key := [], pendKey := [], pendAt := 0
    epochFloor := 0, floorDigest := 0, commitAt := 0, accepted := 0, rejections := 0, store := [], writing := none, writeWait := none, bayOwner := []
    gateOwner := [], portOwner := [], slotOwner := [(0, 0xFD)], chg := none, chgEpoch := 0, chgFirst := 0, chgLast := 0, chgPhase := 0, chgPhases := 0
    report := { epoch := 0, outcome := 0, kills := 0, holds := [], deleted := [] } }
def HostBlock.reset : HostBlock :=
  { pf := [], vf := [], rtpLat := Latches.init, ports := [], unreach := 0, history := [], out := [], hostMem := [], hostBad := [] }
def Mee.reset : Mee := { tagFail := 0, eccCe := 0, eccUe := 0, poisonWr := 0, errKind := 0, errDpa := 0, errAt := 0 }
/-- DESIGN CHOICE, log 7. PRESUMED, log 65. -/
def Prot.reset : Prot :=
  { approved := false, error := false, zeroised := false, selftestBusy := false, selftestWait := [], standbyOk := false, fipsCause := 0, stLast := 0
    bank := 0, spent := false, decommissioned := false, scope := 0, viaTap := false, notAfter := 0, stallMask := 0, challenge := none, tap := .idcode
    slots := [(0, { st := .internal, reach := [] })], ueTimes := [], grooming := [], zeroising := false, zeroiseReq := [], decom := none }
/-- DEDUCED, log 81. -/
def Power.reset : Power :=
  { sky := [], clearSt := .awake, clearFrom := 0, wakeNeedsCluster := false, ctl := 3, idle := 0x00103120, evt := 0, wakeSrc := 0
    phase := 1, cause := 0, causeDue := 1, bootAt := 0, warmCnt := 0, clearTime := 0, thermStop := false, thermTrip := false, therm := []
    warm := none, warmDeferred := false, deferredReqs := [], coldReq := none, coldReply := [], powerGood := true }
/-- DESIGN CHOICE, log 7. -/
def Acct.reset : Acct :=
  { eraFloor := [], log := [], seq := 0, lastDone := 0, recoveries := [], orphans := [], brokenLater := 0, componentFaults := [] }
/-- DESIGN CHOICE, log 7. DESIGN CHOICE, log 76. DEDUCED, log 81. -/
def Reserve.reset : Reserve :=
  { st := .charging, mainOk := false, testBusy := false, evt := 0, unguarded := false, lock := false, vbank := 0, vmain := 0, cap := 4000, esr := 0
    usable := 403000, vFlush := 7808, vAccept := 9271, rideMs := 47407, testFailed := false, testWanted := false, testAt := 0, lossAt := 0
    links := 0, intent := 0, consumed := 0, live := false, lastKind := 0, lastSecs := 0, slotErased := true, images := [], covered := 0
    flushCause := 0, flushAt := 0 }
def RegBlock.reset : RegBlock :=
  { urgLink := 0x8C, urgHost := 0x8C, evtLink := 0, evtHost := 0, linkUrgent := 0, hostUrgent := 0, capShort := 0, jobs := [], nextReq := 0 }
def Tsuholt.reset : Tsuholt :=
  { ports := [], evt := 0, freq := 0, holdover := false, up := none, isMaster := false, masterId := 0xFF, masterPrio := 0, masterHops := 0xFF
    est := none, sentGrid := 0, alignFrom := 0 }
def Muart.reset : Muart :=
  { ctl := 0x421, lock := false, div := 868, pendCtl := none, pendDiv := none, rxAwake := true, brk := false, lineFault := false, evt := 0
    stuck := 0x40, sleep := 0x40, framing := 0, parity := 0, overrun := 0, collision := 0, wakeLost := 0, breaks := 0, faultAt := 0
    lastActive := 0, tx := [], hits := 0, backoff := false }
def Console.reset : Console :=
  { chars := [], bad := false, long := false, lastCr := false, buf := [], cmd := none, running := false, yesFrom := none }
def Sideband.reset : Sideband :=
  { mu := Muart.reset, con := Console.reset, addr := 0, assigned := false, ibiEn := false, eid := 0, tid := 1, events := [], eventLost := false
    seen := [(20, 1), (21, 4), (22, 2), (30, 1)], conns := [] }

/-- The machine right after a package cold reset has released (R547): the GTB at 0, boot in its first phase, no plan, no
stall, nothing in memory, and no command waiting. DESIGN CHOICE, log 3. DESIGN CHOICE, log 8. -/
def State.reset : State :=
  { pending := [], pkg := Package.reset, gtb := Gtb.reset, tb := TimeBlock.reset, yard := Yard.reset, host := HostBlock.reset, clusters := []
    stalls := [], hbm := [], poison := [], lineSlot := [], mee := Mee.reset, prot := Prot.reset, power := Power.reset, acct := Acct.reset
    rsv := Reserve.reset, rg := RegBlock.reset, tl := Tsuholt.reset, side := Sideband.reset, sessions := [], free := 0, xlatCaching := true }

end Sys2Proof.Machine
end

