-- ==== Sys2Proof/Machine/Tab.lean ====
section
/-! DEFINITION. Sparse tables, sparse byte memory, bit sets and little-endian fields: the helpers every
operation of the model reads and writes its data with. -/

namespace Sys2Proof

/-- What number `k` holds; an unlisted number holds `d`. -/
def Tab.get {α : Type} (d : α) : Tab α → Nat → α
  | [], _ => d
  | (j, v) :: t, k => if j = k then v else Tab.get d t k

/-- Put an entry before the first greater key. -/
def Tab.insert {α : Type} (k : Nat) (v : α) : Tab α → Tab α
  | [] => [(k, v)]
  | (j, w) :: t => if k < j then (k, v) :: (j, w) :: t else (j, w) :: Tab.insert k v t

/-- Take every entry of number `k` out. -/
def Tab.erase {α : Type} (t : Tab α) (k : Nat) : Tab α := t.filter (fun e => e.1 ≠ k)

/-- Number `k` now holds `v`. Writing what an unlisted number reads as removes the entry. -/
def Tab.set {α : Type} [DecidableEq α] (d : α) (t : Tab α) (k : Nat) (v : α) : Tab α :=
  if v = d then t.erase k else Tab.insert k v (t.erase k)

/-- Apply `f` to what number `k` holds. -/
def Tab.upd {α : Type} [DecidableEq α] (d : α) (t : Tab α) (k : Nat) (f : α → α) : Tab α :=
  t.set d k (f (t.get d k))

/-- A table of things that may be absent. -/
def Tab.find? {α : Type} : Tab α → Nat → Option α
  | [], _ => none
  | (j, v) :: t, k => if j = k then some v else Tab.find? t k

/-- Set, or with `none` remove, the thing of number `k`. -/
def Tab.put {α : Type} (t : Tab α) (k : Nat) : Option α → Tab α
  | none => t.erase k
  | some v => Tab.insert k v (t.erase k)

/-- The keys rise strictly. -/
def Tab.sorted {α : Type} : Tab α → Bool
  | [] => true
  | [_] => true
  | (j, _) :: (k, w) :: t => decide (j < k) && Tab.sorted ((k, w) :: t)

/-! Bit sets: bit `i` of a register names element `i`. -/

/-- Is element `i` in the set. -/
def has {w : Nat} (b : BitVec w) (i : Nat) : Bool := b.getLsbD i
/-- The set with one element, empty when the number lies outside it. -/
def bit (w i : Nat) : BitVec w := BitVec.ofNat w (2 ^ i)
/-- Add element `i`. -/
def incl {w : Nat} (b : BitVec w) (i : Nat) : BitVec w := b ||| bit w i
/-- Take element `i` out. -/
def excl {w : Nat} (b : BitVec w) (i : Nat) : BitVec w := b &&& ~~~ bit w i
/-- Element `i` is in the set exactly when `p`. -/
def setTo {w : Nat} (b : BitVec w) (i : Nat) (p : Bool) : BitVec w := if p then incl b i else excl b i
/-- The elements of the set, rising. -/
def members {w : Nat} (b : BitVec w) : List Nat := (List.range w).filter (has b)
/-- The set of the listed elements. -/
def bitsOf (w : Nat) (l : List Nat) : BitVec w := l.foldl incl 0
/-- A Bool as a register bit at place `i`. -/
def bitIf (w i : Nat) (p : Bool) : BitVec w := if p then bit w i else 0
/-- Field [lo + w - 1 : lo] of a word. -/
def fld {n : Nat} (x : BitVec n) (lo w : Nat) : BitVec w := x.extractLsb' lo w

/-! Sparse byte memory. -/

/-- The byte at an address; an unlisted byte reads 0. DESIGN CHOICE, log 9. -/
def Memory.read (m : Memory) (a : Nat) : Byte := Tab.get (0 : Byte) m a
/-- Store one byte. -/
def Memory.write (m : Memory) (a : Nat) (b : Byte) : Memory := Tab.set (0 : Byte) m a b
/-- The canonical form: addresses strictly rising and no entry of an unlisted byte's value. -/
def Memory.wf (m : Memory) : Bool := Tab.sorted m && m.all (fun c => c.2 ≠ 0)
/-- `n` bytes from `a`. -/
def Memory.readN (m : Memory) (a n : Nat) : List Byte := (List.range n).map (fun i => Memory.read m (a + i))
/-- Store a run of bytes from `a`. -/
def Memory.writeL (m : Memory) (a : Nat) : List Byte → Memory
  | [] => m
  | b :: t => Memory.writeL (Memory.write m a b) (a + 1) t
/-- Every listed byte of [a, a + n) reads 0 afterwards. -/
def Memory.clear (m : Memory) (a n : Nat) : Memory := m.filter (fun c => !(decide (a ≤ c.1) && decide (c.1 < a + n)))

/-! Little-endian fields (R15). -/

/-- The number a byte string spells, first byte least significant. -/
def leNat : List Byte → Nat
  | [] => 0
  | b :: t => b.toNat + 256 * leNat t
/-- The `n` bytes of a number, least significant first. -/
def leBytes : Nat → Nat → List Byte
  | 0, _ => []
  | n + 1, v => BitVec.ofNat 8 v :: leBytes n (v / 256)
/-- The `n` bytes at offset `o` of a structure; bytes beyond its end read 0. -/
def slice (p : List Byte) (o n : Nat) : List Byte := (p.drop o).take n
def f8 (p : List Byte) (o : Nat) : Nat := leNat (slice p o 1)
def f16 (p : List Byte) (o : Nat) : Nat := leNat (slice p o 2)
def f32 (p : List Byte) (o : Nat) : Nat := leNat (slice p o 4)
def f64 (p : List Byte) (o : Nat) : Nat := leNat (slice p o 8)
/-- Are `n` bytes at offset `o` all 0 (a reserved field, R20). -/
def zeroAt (p : List Byte) (o n : Nat) : Bool := (slice p o n).all (· == 0)
/-- The first nonzero byte's offset among the reserved ranges (offset, length), if any. DEDUCED, log 14. -/
def firstNonzero (p : List Byte) (rs : List (Nat × Nat)) : Option Nat :=
  let offs := rs.flatMap (fun r => (List.range r.2).map (fun i => r.1 + i))
  offs.find? (fun o => f8 p o ≠ 0)
/-- `n` zero bytes. -/
def zeros (n : Nat) : List Byte := List.replicate n 0

/-! Checks that report the lowest offending offset. -/

/-- The lowest offset listed. -/
def lowest : List Nat → Option Nat
  | [] => none
  | a :: l => some (l.foldl min a)
/-- The offset, where the condition is broken. -/
def badIf (p : Bool) (o : Nat) : List Nat := if p then [o] else []

/-! Plain arithmetic shared by many rules. -/

/-- Increment without passing the register's greatest value. -/
def satAdd {w : Nat} (x : BitVec w) (n : Nat) : BitVec w := BitVec.ofNat w (min (x.toNat + n) (2 ^ w - 1))
/-- Divide, rounding up. -/
def ceilDiv (a b : Nat) : Nat := (a + b - 1) / b
/-- The low and the high 32 bits of a 64-bit register. -/
def lo32 (x : BitVec 64) : BitVec 32 := x.extractLsb' 0 32
def hi32 (x : BitVec 64) : BitVec 32 := x.extractLsb' 32 32
/-- A 64-bit register from its halves. -/
def join64 (hi lo : BitVec 32) : BitVec 64 := hi ++ lo
/-- Repeat a state change over a list of numbers, in its order. -/
def forAll {σ α : Type} (l : List α) (f : α → σ → σ) (s : σ) : σ := l.foldl (fun t a => f a t) s

end Sys2Proof
end

