-- ==== Sys2Proof/Machine/Ops.lean ====
section
/-! DEFINITION. The named operations every family of commands shares: what a variant is fitted with, time and its
advance, interrupt messages and causes, and reading and changing one stall. -/

namespace Sys2Proof.Machine

/-! Figures of the variant (R4, R25, R33, R35). -/

/-- HBM stacks per compute die, S. -/
def stacksPerDie : Variant → Nat
  | .xh5126m => 3
  | _ => 2
/-- I/O dies fitted, which is also host ports fitted. -/
def iodies : Variant → Nat
  | .xh5128l => 4
  | _ => 2
/-- Stacks fitted. -/
def stackCount (v : Variant) : Nat := 4 * stacksPerDie v
/-- Tsuholt ports fitted (R27). -/
def linkPorts (v : Variant) : Nat := 12 * iodies v
/-- FL_PKG_ID.PART (R41). -/
def partCode : Variant → Nat
  | .xh5124 => 0x5124
  | .xh5126m => 0x5126
  | .xh5128l => 0x5128
/-- Pseudo-channels per bay, P (R33). -/
def pcPerBay (v : Variant) : Nat := 2 * stacksPerDie v
/-- The pseudo-channels of bay `b`, in ascending global number (R33, R262). -/
def bayPcs (v : Variant) (b : Nat) : List Nat :=
  (List.range (stacksPerDie v)).flatMap
    (fun k => [64 * (stacksPerDie v * (b / 32) + k) + 2 * (b % 32), 64 * (stacksPerDie v * (b / 32) + k) + 2 * (b % 32) + 1])
/-- The bay of a pseudo-channel (R33). -/
def pcBay (v : Variant) (p : Nat) : Nat := 32 * (p / 64 / stacksPerDie v) + p % 64 / 2
/-- The addressable amount A of one bay in bytes (R261): 720 MiB of each pseudo-channel. -/
def bayBytes (v : Variant) : Nat := 720 * 2 ^ 20 * pcPerBay v
def mib : Nat := 2 ^ 20

/-! Time (R43–R51). -/

/-- The GTB value of the present step (R46). DEDUCED, log 5. -/
def Gtb.now (g : Gtb) : Nat := g.base.toNat + 8 * g.k
/-- What one reference cycle adds, in units of 2^-32 gtick (R44). -/
def Gtb.rate (g : Gtb) : Nat := (160 * 2 ^ 32 + g.trim.toInt).toNat
/-- The block `n` reference cycles on, at step `k` of that cycle: the closed form of R44 applied `n` times. DEDUCED, log 5. -/
def Gtb.cycles (g : Gtb) (n k : Nat) : Gtb :=
  { g with
    base := BitVec.ofNat 64 (g.base.toNat + (g.acc.toNat + n * g.rate) / 2 ^ 32)
    acc := BitVec.ofNat 32 (g.acc.toNat + n * g.rate)
    k := if n = 0 then max k g.k else k
    prevBase := if n = 0 then g.prevBase
      else (BitVec.ofNat 64 (g.base.toNat + (g.acc.toNat + (n - 1) * g.rate) / 2 ^ 32)).toNat }
/-- Whole reference cycles until the last cycle that starts at or before `t`. -/
def Gtb.cyclesTo (g : Gtb) (t : Nat) : Nat := ((t - g.base.toNat + 1) * 2 ^ 32 - g.acc.toNat - 1) / g.rate
/-- The block at the first step whose GTB value is at or after `t`; never backwards (R44, R46). Twenty steps of
8 gticks make a cycle, and while COARSE the step is the whole cycle. DEDUCED, log 5. -/
def Gtb.advance (g : Gtb) (t : Nat) : Gtb :=
  if !g.running || t ≤ g.now then g
  else
    let n := g.cyclesTo t
    let b := (g.cycles n 0).base.toNat
    let k := ceilDiv (t - b) 8
    if g.coarse then (if t ≤ b then g.cycles n 0 else g.cycles (n + 1) 0)
    else if k ≤ 19 then g.cycles n k else g.cycles (n + 1) 0

/-- The block at the first reference edge at or after `t` (R63). -/
def Gtb.advanceEdge (g : Gtb) (t : Nat) : Gtb :=
  { ({ g with coarse := true } : Gtb).advance t with coarse := g.coarse }

/-- The GTB value of the present step as a register shows it. -/
def State.now (s : State) : Nat := s.gtb.now
def State.nowW (s : State) : U64 := BitVec.ofNat 64 s.now
/-- The step after the present one. -/
def State.nextStep (s : State) : Nat := (s.gtb.advance (s.now + 1)).now

/-! Interrupt messages and causes (R184–R188). -/

/-- Host ports the package is fitted with. -/
def State.portFitted (s : State) (p : Nat) : Bool := decide (p < iodies s.pkg.variant)
/-- Host ports in service: fitted, the die not retired, the port not lost (R197, R203). -/
def State.portServing (s : State) (p : Nat) : Bool :=
  s.portFitted p && !has s.pkg.deadIodie p && !(s.host.ports.get HostPortSt.init p).lost
def hostPorts : List Nat := List.range 4

def State.pf (s : State) (p : Nat) : PfInst := s.host.pf.get PfInst.init p
def State.setPf (s : State) (p : Nat) (f : PfInst → PfInst) : State :=
  { s with host := { s.host with pf := s.host.pf.upd PfInst.init p f } }
/-- The number of a VF instance in its table. -/
def vfKey (p n : Nat) : Nat := 128 * p + n
def State.vf (s : State) (p n : Nat) : VfInst := s.host.vf.get VfInst.init (vfKey p n)
def State.setVf (s : State) (p n : Nat) (f : VfInst → VfInst) : State :=
  { s with host := { s.host with vf := s.host.vf.upd VfInst.init (vfKey p n) f } }
/-- Change a function's latches (R50). -/
def State.setLat (s : State) (f : Fn) (g : Latches → Latches) : State :=
  match f with
  | .pf0 p => s.setPf p (fun i => { i with lat := g i.lat })
  | .vf p n => s.setVf p n (fun i => { i with lat := g i.lat })
  | .rtp => { s with host := { s.host with rtpLat := g s.host.rtpLat } }
/-- A function's latches. -/
def State.lat (s : State) : Fn → Latches
  | .pf0 p => (s.pf p).lat
  | .vf p n => (s.vf p n).lat
  | .rtp => s.host.rtpLat
/-- Put something in the outbox. DESIGN CHOICE, log 94. -/
def State.emit (s : State) (o : Out) : State := { s with host := { s.host with out := s.host.out ++ [o] } }

/-- What a function's MSI-X does with a vector: sends it, holds it pending under a mask, or drops it while MSI-X is
off. PRESUMED, log 20. -/
def Msix.raise (m : Msix) (v : Nat) : Msix × Bool :=
  if !m.enabled then (m, false)
  else if m.fmask || (m.table.get MsixEntry.init v).masked then ({ m with pba := incl m.pba v }, false)
  else (m, true)

/-- Send a message on vector `v` of PF0 instance `p`. -/
def State.msiPf (s : State) (p : HostPort) (v : Nat) : State :=
  let r := (s.pf p).msix.raise v
  let s := s.setPf p (fun i => { i with msix := r.1 })
  if r.2 then s.emit (.msi (.pf0 p) v) else s
/-- Send a message on vector `v` of the VF instance of stall `n` on port `p`. -/
def State.msiVf (s : State) (p : HostPort) (n : StallNo) (v : Nat) : State :=
  let r := (s.vf p n).msix.raise v
  let s := s.setVf p n (fun i => { i with msix := r.1 })
  if r.2 then s.emit (.msi (.vf p n) v) else s

def allPorts : List HostPort := [0, 1, 2, 3]

/-- A per-element vector of R185, sent once per firing on every PF0 instance in service. -/
def State.pfVector (s : State) (v : Nat) : State :=
  forAll allPorts (fun p t => if t.portServing p then t.msiPf p v else t) s

/-- Bits of HL_PF_CAUSE (R187). -/
inductive PfCause where
  | mailbox | plan | fault | time | reserve | power | sideband | host | accounting
  deriving DecidableEq, Repr
def PfCause.bit : PfCause → Nat
  | .mailbox => 0 | .plan => 1 | .fault => 2 | .time => 3 | .reserve => 4
  | .power => 5 | .sideband => 6 | .host => 7 | .accounting => 8

/-- Set a cause bit in one PF0 instance; a bit that goes from 0 to 1 while enabled sends its vector (R186). -/
def State.pfCauseOn (s : State) (c : PfCause) (p : HostPort) : State :=
  let i := s.pf p
  let t := s.setPf p (fun i => { i with cause := incl i.cause c.bit })
  if !has i.cause c.bit && has i.causeEn c.bit then t.msiPf p c.bit else t
/-- Set a cause bit in every PF0 instance in service. -/
def State.pfCause (s : State) (c : PfCause) : State :=
  forAll allPorts (fun p t => if t.portServing p then t.pfCauseOn c p else t) s

/-- Set bits of HL_HOST_EVT in every PF0 instance in service; a register that becomes nonzero raises HOST (R187). -/
def State.hostEvt (s : State) (b : BitVec 4) : State :=
  forAll allPorts (fun p t =>
    if t.portServing p then
      let was := (t.pf p).hostEvt
      let t := t.setPf p (fun i => { i with hostEvt := i.hostEvt ||| b })
      if was = 0 && b ≠ 0 then t.pfCauseOn .host p else t
    else t) s

/-- Do the engines stand still for good: the module is in its error state, or it is or has been zeroised (R436, R437). -/
def State.moduleStopped (s : State) : Bool := s.prot.error || s.prot.zeroised || s.prot.zeroising

/-- Is the part at work: main power is there, it is not thermally stopped, and no cold reset has been requested (R513, R522,
R541). DEDUCED, log 80. -/
def State.running (s : State) : Bool := s.power.powerGood && !s.power.thermStop && s.power.coldReq.isNone

/-! One stall. -/

def State.stall? (s : State) (n : Nat) : Option Stall := s.stalls.find? n
def State.setStall (s : State) (n : Nat) (t : Stall) : State := { s with stalls := s.stalls.put n (some t) }
/-- Change stall `n` where it is defined. -/
def State.modStall (s : State) (n : Nat) (f : Stall → Stall) : State :=
  match s.stall? n with
  | none => s
  | some t => s.setStall n (f t)
/-- Numbers of the defined stalls, rising. -/
def State.stallNos (s : State) : List Nat := s.stalls.map (·.1)
def State.stallIds (s : State) : List StallNo := s.stalls.filterMap (fun e => if h : e.1 < 128 then some ⟨e.1, h⟩ else none)

/-- Do something for a stall named by a plain number. -/
def onStall (n : Nat) (f : StallNo → State → State) (s : State) : State := if h : n < 128 then f ⟨n, h⟩ s else s

/-- Bits of HL_VF_CAUSE (R187). -/
inductive VfCause where
  | mailbox | manifest | accounting | reserve | host
  deriving DecidableEq, Repr
def VfCause.bit : VfCause → Nat
  | .mailbox => 0 | .manifest => 1 | .accounting => 2 | .reserve => 3 | .host => 4

/-- Set a cause bit in one VF instance; vector 0 carries the register (R186, R188). -/
def State.vfCauseOn (s : State) (n : StallNo) (c : VfCause) (p : HostPort) : State :=
  let i := s.vf p n
  let t := s.setVf p n (fun i => { i with cause := incl i.cause c.bit })
  if !has i.cause c.bit && has i.causeEn c.bit then t.msiVf p n 0 else t
/-- Is the VF of stall `n` carried by port `p` (R174, without what the host has enabled). DEDUCED, log 19. -/
def State.vfOn (s : State) (n p : Nat) : Bool :=
  s.portServing p && (match s.stall? n with | none => false | some t => has t.hold.hostPorts p)
/-- Is the VF of stall `n` presented on port `p`: as R174 says of a defined stall; an undefined stall's, which R82 describes, on
every port in service. DEDUCED, log 19. -/
def State.vfSeen (s : State) (n p : Nat) : Bool :=
  (s.vfOn n p || (s.portServing p && (s.stall? n).isNone)) && (s.pf p).vfEnable && decide (n < (s.pf p).numVfs.toNat)
/-- Set a cause bit in every VF instance of the stall on a port in service. -/
def State.vfCause (s : State) (n : StallNo) (c : VfCause) : State :=
  forAll allPorts (fun p t => if t.vfOn n p then t.vfCauseOn n c p else t) s

/-- A message on a queue's vector, on every instance of the stall's VF in service (R236). -/
def State.queueMsi (s : State) (n : StallNo) (v : Nat) : State :=
  forAll allPorts (fun p t => if t.vfOn n p then t.msiVf p n v else t) s

/-- Draw a free value of `w` bits: a value the spec leaves open. DESIGN CHOICE, log 11. -/
def State.draw (w : Nat) (s : State) : BitVec w × State := (Config.freeValue w s.free, { s with free := s.free + 1 })
/-- Draw `n` bytes of the DRBG. DESIGN CHOICE, log 11. -/
def State.drawBytes (n : Nat) (s : State) : List Byte × State :=
  ((Config.random n s.free).toList, { s with free := s.free + 1 })

/-! The reissue of a manifest (R93, R94). -/

/-- A signature is drawn. -/
def State.signed (s : State) : State := { s with free := s.free + 1 }

/-- The RTP reissues the manifest of stall `n`: MANIFEST_SEQ rises by 1, ISSUED_AT takes the GTB value, WINDOW_GEN
rises by 2, and the manifest cause is raised. -/
def State.reissue (s : State) (n : StallNo) : State :=
  (s.modStall n (fun t => { t with man :=
    { t.man with seq := t.man.seq + 1, issuedAt := s.nowW, windowGen := t.man.windowGen + 2, draw := s.free } })).signed.vfCause n .manifest

/-- JOURNAL_BYTES (R117): both copies when the mirror lies in one of the stall's own bays. -/
def Holdings.journalBytes (h : Holdings) : Nat :=
  h.journalMib * mib * (if h.bays.contains h.mirrorBay then 2 else 1)
/-- HBM_BYTES (R95). -/
def Holdings.hbmBytes (h : Holdings) (v : Variant) : Nat :=
  (h.bays.filter (fun b => !has h.retired b)).length * bayBytes v - h.journalBytes
/-- Bytes of the stall's journal areas in bay `b` (R117, R261). -/
def Holdings.journalIn (h : Holdings) (b : Nat) : Nat :=
  h.journalMib * mib * ((if h.bays.head? = some b then 1 else 0) + (if h.mirrorBay = b then 1 else 0))
/-- The end of the stall's memory space (R261). -/
def Holdings.spaceEnd (h : Holdings) (v : Variant) : Nat :=
  (h.bays.map (fun b => bayBytes v - h.journalIn b)).sum
/-- Clusters of the stall by local index (R291). -/
def Holdings.clusters (h : Holdings) : List Nat := h.bays.flatMap (fun b => [4 * b, 4 * b + 1, 4 * b + 2, 4 * b + 3])
/-- Clusters of the stall whose bay is not retired. -/
def Holdings.liveClusters (h : Holdings) : List Nat := (h.bays.filter (fun b => !has h.retired b)).flatMap
  (fun b => [4 * b, 4 * b + 1, 4 * b + 2, 4 * b + 3])

/-- The stall's key slot of key index `i` (R122). -/
def Holdings.slotOf (h : Holdings) (i : Nat) : Nat := h.slots.getD i 0

end Sys2Proof.Machine
end

