-- ==== Sys2Proof/Machine/MgmtOps.lean ====
section
/-! DEFINITION. Shared operations of the management paths (R556–R571): the MUART's characters and events, the console's
answers, MCTP answers, and the platform events that follow the part's states. -/

namespace Sys2Proof.Machine

def State.setMu (s : State) (f : Muart → Muart) : State := { s with side := { s.side with mu := f s.side.mu } }
def State.setCon (s : State) (f : Console → Console) : State := { s with side := { s.side with con := f s.side.con } }

/-! The MUART's fields (R550, R572). -/

def Muart.en (u : Muart) : Bool := has u.ctl 0
def Muart.half (u : Muart) : Bool := has u.ctl 1
def Muart.dataBits (u : Muart) : Nat := (fld u.ctl 2 4).toNat
def Muart.parityMode (u : Muart) : Nat := (fld u.ctl 6 2).toNat
def Muart.stopMode (u : Muart) : Nat := (fld u.ctl 8 2).toNat
def Muart.conEn (u : Muart) : Bool := has u.ctl 10
/-- Twice the frame length N in bit times. -/
def Muart.frame2 (u : Muart) : Nat := 2 * (1 + u.dataBits + (if u.parityMode = 0 then 0 else 1)) + 2 + u.stopMode
/-- A character time in gticks: N × DIV reference cycles of 160 gticks. -/
def Muart.charTime (u : Muart) : Nat := u.frame2 * u.div.toNat * 80

def muBreakSeen : BitVec 4 := bit 4 0
def muFaultSet : BitVec 4 := bit 4 1
def muFaultClear : BitVec 4 := bit 4 2
def muTxAbort : BitVec 4 := bit 4 3
/-- Set bits of MU_EVT; each bit that sets raises SIDEBAND. -/
def State.muEvt (s : State) (b : BitVec 4) : State :=
  let fresh := b &&& ~~~ s.side.mu.evt
  let s := s.setMu (fun u => { u with evt := u.evt ||| b })
  if fresh = 0 then s else s.pfCause .sideband

/-! What the console says (R562). -/

/-- ASCII text as bytes. -/
def ascii (t : String) : List Byte := t.toList.map (fun c => BitVec.ofNat 8 c.toNat)
def crlf : List Byte := [0x0D, 0x0A]
def decDigits : Nat → Nat → List Byte
  | 0, _ => []
  | f + 1, n => (if n < 10 then [] else decDigits f (n / 10)) ++ [BitVec.ofNat 8 (0x30 + n % 10)]
/-- A number in decimal. -/
def dec (n : Nat) : List Byte := decDigits 24 n
def hexDigit (n : Nat) : Byte := BitVec.ofNat 8 (if n < 10 then 0x30 + n else 0x37 + n)
/-- A byte as two hex digits. -/
def hexByte (b : Byte) : List Byte := [hexDigit (b.toNat / 16), hexDigit (b.toNat % 16)]
/-- 16 hex digits in groups of four joined by underscores, after 0x. -/
def hexGtb (v : U64) : List Byte :=
  ascii "0x" ++ (List.range 4).flatMap (fun i =>
    (if i = 0 then [] else [0x5F]) ++ (List.range 4).map (fun j => hexDigit (v.toNat / 16 ^ (15 - 4 * i - j) % 16)))
/-- Characters join the transmit queue. -/
def State.say (s : State) (l : List Byte) : State := s.setMu (fun u => { u with tx := u.tx ++ l })
/-- Data lines. -/
def State.sayLines (s : State) (ls : List (List Byte)) : State := forAll ls (fun l u => u.say (l ++ crlf)) s
/-- A result line and the prompt after it; the line's command is over. -/
def State.conResult (s : State) (result : List Byte) : State :=
  (s.say (result ++ crlf ++ ascii "> ")).setCon (fun c => { c with cmd := none, running := false, yesFrom := none })
/-- The refusals of R563. -/
inductive ConErr where
  | line | long | unknown | nothing | mismatch | state | abandoned
  deriving DecidableEq, Repr
/-- PRESUMED, log 84. -/
def ConErr.text : ConErr → List Byte
  | .line => ascii "ERR 01 LINE"
  | .long => ascii "ERR 02 LONG"
  | .unknown => ascii "ERR 03 UNKNOWN"
  | .nothing => ascii "ERR 04 NOTHING"
  | .mismatch => ascii "ERR 05 MISMATCH"
  | .state => ascii "ERR 06 STATE"
  | .abandoned => ascii "ERR 07 ABANDONED"

/-! Reading a line (R561, R563). -/

/-- Upper and lower case are equal. -/
def lower (b : Byte) : Byte := if 0x41 ≤ b.toNat && b.toNat ≤ 0x5A then b + 0x20 else b
def hexValue (b : Byte) : Option Nat :=
  let n := b.toNat
  if 0x30 ≤ n && n ≤ 0x39 then some (n - 0x30) else if 0x61 ≤ n && n ≤ 0x66 then some (n - 0x57) else none
/-- The bytes that hex digits spell, two digits a byte. -/
def hexBytes : List Byte → Option (List Byte)
  | [] => some []
  | [_] => none
  | a :: b :: t =>
    match hexValue a, hexValue b, hexBytes t with
    | some x, some y, some l => some (BitVec.ofNat 8 (16 * x + y) :: l)
    | _, _, _ => none
/-- What follows a prefix. -/
def after? (p l : List Byte) : Option (List Byte) := if l.take p.length = p then some (l.drop p.length) else none
/-- A code of 8 hex digits after the words of a confirmation. -/
def codeAfter (p : String) (l : List Byte) : Option (List Byte) :=
  ((after? (ascii p) l).filter (fun x => x.length = 8)).bind hexBytes
/-- The command a line in lower case spells. -/
def readLine (l : List Byte) : Option ConCmd :=
  if l = ascii "status" then some .status
  else if l = ascii "time" then some .time
  else if l = ascii "selftest" then some .selftest
  else if l = ascii "zeroise" then some .zeroise
  else if l = ascii "reset warm" then some .resetWarm
  else if l = ascii "reset cold" then some .resetCold
  else if l = ascii "line" then some .line
  else match codeAfter "confirm enrol " l with
    | some c => some (.confirmEnrol c)
    | none => (codeAfter "confirm decom " l).map ConCmd.confirmDecom
/-- How long `zeroise` waits for its yes: 10 s. -/
def yesWindow : Nat := 160000000000
/-- A line has ended: it is answered at once where it is bad, and otherwise its command waits to run. -/
def State.conLine (s : State) : State :=
  let c := s.side.con
  let l := c.chars.map lower
  let s := s.setCon (fun c => { c with chars := [], bad := false, long := false })
  match c.yesFrom with
  | some t =>
    if !c.bad && !c.long && l = ascii "yes" && s.now ≤ t + yesWindow then
      s.setCon (fun c => { c with cmd := some .yes, running := false, yesFrom := none })
    else s.conResult ConErr.abandoned.text
  | none =>
    if c.bad then s.conResult ConErr.line.text
    else if c.long then s.conResult ConErr.long.text
    else match readLine l with
      | none => s.conResult ConErr.unknown.text
      | some k => s.setCon (fun c => { c with cmd := some k, running := false })
/-- The console takes one received character, or learns that one was discarded. -/
def State.conFeed (s : State) (x : Option (BitVec 9)) : State :=
  let c := s.side.con
  match x with
  | none => s.setCon (fun c => { c with bad := true, lastCr := false })
  | some x =>
    if x = 0x0D then (s.setCon (fun c => { c with lastCr := true })).conLine
    else if x = 0x0A then (if c.lastCr then s.setCon (fun c => { c with lastCr := false }) else s.conLine)
    else
      let s := s.setCon (fun c => { c with lastCr := false })
      if x = 0xFF && c.chars.isEmpty && !c.bad && !c.long then s
      else if c.long then s
      else if 0x20 ≤ x.toNat && x.toNat ≤ 0x7E then
        if c.chars.length = 128 then s.setCon (fun c => { c with long := true })
        else s.setCon (fun c => { c with chars := c.chars ++ [x.setWidth 8] })
      else s.setCon (fun c => { c with bad := true })
/-- Does the console read now: no command runs, or `zeroise` waits for its yes. -/
def Console.reads (c : Console) : Bool := c.cmd.isNone || c.yesFrom.isSome
/-- What was buffered while a command ran is read, as far as the next command. -/
def State.conDrain (s : State) : Nat → State
  | 0 => s
  | f + 1 =>
    if !s.side.con.reads then s
    else match s.side.con.buf with
      | [] => s
      | x :: l => ((s.setCon (fun c => { c with buf := l })).conFeed x).conDrain f
def State.conRead (s : State) : State := s.conDrain s.side.con.buf.length
/-- The result of a command that succeeded, with the service indicator (R433). -/
def State.conOk (s : State) : State := (s.conResult (if s.prot.approved then ascii "OK A" else ascii "OK -")).conRead
def State.conErr (s : State) (e : ConErr) : State := (s.conResult e.text).conRead

/-! MCTP answers (R566, R567). -/

/-- An in-band interrupt, while ENEC has enabled them. -/
def State.ibi (s : State) : State := if s.side.ibiEn then s.emit (.ibi Config.mctpMdb) else s
/-- An MCTP answer of one packet. PRESUMED, log 86. -/
def State.mctp (s : State) (c : McCode) (values : List Nat) : State := (s.emit (.mctp c values)).ibi

/-! Sensors 20, 21, 22 and 30 and the platform events (R569, R571). -/

/-- RSV_STATUS.STATE's codes (R508). -/
def rsvCode : RsvSt → Nat
  | .charging => 1 | .armed => 2 | .degraded => 3 | .fault => 4 | .ride => 5 | .flush => 6 | .held => 7
/-- PWR_BOOT.PHASE at the end of boot, and on failure. -/
def bootDone : Nat := 8
def bootError : Nat := 15
/-- A state sensor's reading. -/
def State.stateSensor (s : State) (id : Nat) : Option Nat :=
  if id = 20 then some (rsvCode s.rsv.st)
  else if id = 21 then some (if s.power.thermStop then 3 else if s.power.phase ≠ bootDone then 4 else if s.power.clearSt = .inClear then 2 else 1)
  else if id = 22 then some (if s.prot.error then 3 else if s.prot.zeroised || s.prot.zeroising then 4 else if s.prot.approved then 1 else 2)
  else if id = 30 then some (if s.side.mu.lineFault then 3 else if s.side.mu.brk then 2 else 1)
  else none
/-- A platform event is queued; a full queue drops it, and the first in an empty queue raises an IBI. -/
def State.platEvent (s : State) (e : PlatEvent) : State :=
  if 32 ≤ s.side.events.length then { s with side := { s.side with eventLost := true } }
  else
    let first := s.side.events.isEmpty
    let s := { s with side := { s.side with events := s.side.events ++ [e] } }
    if first then s.ibi else s
/-- The state sensors that have changed queue their events. -/
def State.platform (s : State) : State :=
  forAll [20, 21, 22, 30] (fun id u =>
    match u.stateSensor id with
    | none => u
    | some v =>
      if u.side.seen.get 0 id = v then u
      else ({ u with side := { u.side with seen := u.side.seen.set 0 id v } }).platEvent (.state id v)) s

end Sys2Proof.Machine
end

