-- ==== Sys2Proof/Machine/TimeOps.lean ====
section
/-! DEFINITION. Shared operations of the GTB block: the trigger matrix, the relay timers' count, SYNC_OUT pulses and
the advance of the whole block to a later step (R43–R74). -/

namespace Sys2Proof.Machine

def State.timer (s : State) (n : Nat) : Timer := s.tb.timers.get Timer.init n
def State.setTimer (s : State) (n : Nat) (f : Timer → Timer) : State :=
  { s with tb := { s.tb with timers := s.tb.timers.upd Timer.init n f } }
def State.cap (s : State) (n : Nat) : Capture := s.tb.caps.get Capture.init n
def State.setCap (s : State) (n : Nat) (f : Capture → Capture) : State :=
  { s with tb := { s.tb with caps := s.tb.caps.upd Capture.init n f } }
def State.tick (s : State) (n : Nat) : TickCh := s.tb.ticks.get TickCh.init n
def State.setTick (s : State) (n : Nat) (f : TickCh → TickCh) : State :=
  { s with tb := { s.tb with ticks := s.tb.ticks.upd TickCh.init n f } }
def State.gate (s : State) (g : Nat) : Gate := s.tb.gates.get Gate.init g
def State.setGate (s : State) (g : Nat) (f : Gate → Gate) : State :=
  { s with tb := { s.tb with gates := s.tb.gates.upd Gate.init g f } }
def State.syncOut (s : State) (n : Nat) : SyncOut := s.tb.outs.get SyncOut.init n
def State.setOut (s : State) (n : Nat) (f : SyncOut → SyncOut) : State :=
  { s with tb := { s.tb with outs := s.tb.outs.upd SyncOut.init n f } }

/-! The trim (R45). -/

/-- The greatest trim, 2^27 (R45). -/
def trimMax : Int := 2 ^ 27
/-- A trim demand as the accepted range stores it, and whether it was clamped (R45). -/
def clampTrim (v : Int) : U32 × Bool :=
  if v < -trimMax then (BitVec.ofInt 32 (-trimMax), true)
  else if trimMax < v then (BitVec.ofInt 32 trimMax, true)
  else (BitVec.ofInt 32 v, false)
/-- Set TRIM from a demand; a clamp sets TRIM_LIMIT, which raises TIME as it sets (R45, R187). -/
def State.setTrim (s : State) (v : Int) : State :=
  let r := clampTrim v
  let was := s.gtb.trimLimit
  let s := { s with gtb := { s.gtb with trim := r.1, trimLimit := s.gtb.trimLimit || r.2 } }
  if r.2 && !was then s.pfCause .time else s

/-! The trigger matrix (R71). -/

/-- Is the code an event source of R71. -/
def isEvent (c : Nat) : Bool :=
  (0x10 ≤ c && c ≤ 0x2F) || (0x40 ≤ c && c ≤ 0x5F) || (0x60 ≤ c && c ≤ 0x6F) || c == 0x80 || c == 0x81
/-- Is the code a level source of R71. -/
def isLevel (c : Nat) : Bool := (0x30 ≤ c && c ≤ 0x3F) || (0x70 ≤ c && c ≤ 0x77)
/-- A relay timer's LEVEL (R70). -/
def Timer.level (t : Timer) : Bool := decide (t.count.toNat < t.mtch.toNat)
/-- The present level of a level source. -/
def State.matrixLevel (s : State) (c : Nat) : Bool :=
  if 0x30 ≤ c && c ≤ 0x3F then (s.timer (c - 0x30)).level
  else if 0x70 ≤ c && c ≤ 0x77 then (s.cap (c - 0x70)).level
  else false

/-- The step's length on a SYNC_OUT edge: the pin follows its source 256 gticks later (R74). -/
def outDelay : Nat := 256
/-- How long a pulse lasts (R74): a WIDTH of 0 acts as 1. -/
def SyncOut.pulse (o : SyncOut) : Nat := max 1 o.width.toNat * 8

/-- An event of the present step: it reaches the timers in the next step (R72) and starts or extends the pulse of
every SYNC_OUT pin that selects it (R74). DEDUCED, log 30. -/
def State.event (s : State) (c : Nat) : State :=
  let s := { s with tb := { s.tb with matrix := s.tb.matrix ++ [BitVec.ofNat 8 c] } }
  forAll (List.range 4) (fun n t =>
    let o := t.syncOut n
    if o.en && !o.levelMode && o.src.toNat = c then
      t.setOut n (fun o =>
        { o with pulseFrom := if o.pulseEnd.isSome then o.pulseFrom else t.now + outDelay
                 pulseEnd := some (t.now + outDelay + o.pulse) })
    else t) s

/-- The level a SYNC_OUT pin is driven to (R74), `lv` the selected level 256 gticks ago. DEDUCED, log 30. -/
def SyncOut.pin (o : SyncOut) (now : Nat) (lv : Bool) : Bool :=
  let active := o.en && (if o.levelMode then lv else
    match o.pulseEnd with
    | none => false
    | some e => decide (o.pulseFrom ≤ now) && decide (now < e))
  active != o.invert

/-! Counting (R70). -/

/-- Advances from the present COUNT to the next wrap: a COUNT above TOP first counts through 2^32. -/
def Timer.toWrap (t : Timer) : Nat :=
  if t.count.toNat ≤ t.top.toNat then t.top.toNat - t.count.toNat + 1 else 2 ^ 32 - t.count.toNat + t.top.toNat + 1
/-- Advances from the present COUNT until COUNT becomes MATCH, if it does. -/
def Timer.toMatch (t : Timer) : Option Nat :=
  if t.count.toNat < t.mtch.toNat then
    (if t.mtch.toNat ≤ t.top.toNat || t.count.toNat > t.top.toNat then some (t.mtch.toNat - t.count.toNat) else none)
  else if t.mtch.toNat > t.top.toNat then none
  else if t.count.toNat > t.top.toNat then some (2 ^ 32 - t.count.toNat + t.mtch.toNat)
  else if t.oneshot then none
  else some (t.toWrap + t.mtch.toNat)
/-- The timer after `k` advances: wrapping from TOP to 0, or under ONESHOT stopping at TOP with EN cleared; with
whether it wrapped and whether it advanced into MATCH. -/
def Timer.countOn (t : Timer) (k : Nat) : Timer × Bool × Bool :=
  let w := t.toWrap
  let m := match t.toMatch with
    | none => false
    | some d => decide (d ≤ k)
  if k < w then
    ({ t with count := BitVec.ofNat 32 (t.count.toNat + k), matched := t.matched || m }, false, m)
  else if t.oneshot then
    ({ t with count := t.top, en := false, wrapped := true, matched := t.matched || m }, true, m)
  else
    ({ t with count := BitVec.ofNat 32 ((k - w) % (t.top.toNat + 1)), wrapped := true, matched := t.matched || m }, true, m)

/-- Is the timer's gate open, given the level its GATE_SRC had in the step before (R71). -/
def State.gateOpen (s : State) (t : Timer) : Bool :=
  if isLevel t.gateSrc.toNat then s.matrixLevel t.gateSrc.toNat != t.gateInv else true

/-- How far timer `t` advances when the GTB goes from `g0` to `g1` with `ev` the events of the step before: multiples
of 2^P gticks crossed, or events of CLOCK_SRC (R70). -/
def Timer.advances (t : Timer) (g0 g1 : Nat) (ev : List Byte) : Nat :=
  if t.events then (ev.filter (fun e => e == t.clockSrc && t.clockSrc != 0)).length
  else g1 / 2 ^ t.prescale.toNat - g0 / 2 ^ t.prescale.toNat

/-- One timer's share of an advance of the block. A reset that reaches it in the same step wins, without a WRAP (R72). -/
def State.timerOn (s : State) (g0 g1 : Nat) (ev : List Byte) (n : Nat) (was : State) : State :=
  let t := s.timer n
  if t.resetSrc != 0 && ev.contains t.resetSrc then s.setTimer n (fun t => { t with count := 0 })
  else if t.en && was.gateOpen t then
    let r := t.countOn (t.advances g0 g1 ev)
    let s := s.setTimer n (fun _ => r.1)
    let s := if r.2.1 then s.event (0x10 + n) else s
    let s := if r.2.2 then s.event (0x20 + n) else s
    if (r.2.1 && t.irqWrap) || (r.2.2 && t.irqMatch) then s.pfVector (45 + n) else s
  else s

/-- The block goes on to where the GTB has reached `g`: the GTB counts, the events of the step before reach the timers,
and the timers count. Nothing goes backwards; a time already passed leaves everything as it is. DEDUCED, log 4. -/
def State.advanceTo (s : State) (g : Gtb) : State :=
  if g.now ≤ s.now then s
  else
    let ev := s.tb.matrix
    let s1 := { s with gtb := g, tb := { s.tb with matrix := [] } }
    forAll (s.tb.timers.map (·.1)) (fun n u => u.timerOn s.now g.now ev n s) s1
/-- The same, to the first step at or after `t`. DESIGN CHOICE, log 2. DEDUCED, log 4. -/
def State.advance (s : State) (t : Nat) : State := s.advanceTo (s.gtb.advance t)
/-- The same, to the first reference edge at or after `t`. DEDUCED, log 4. -/
def State.advanceEdge (s : State) (t : Nat) : State := s.advanceTo (s.gtb.advanceEdge t)

/-- One step on (R46). DESIGN CHOICE, log 2. -/
def State.stepOn (s : State) : State := s.advance (s.now + 1)

/-- When a GTB-clocked timer makes its `d`-th advance: the `d`-th multiple of 2^P after now. -/
def Timer.crossing (t : Timer) (now d : Nat) : Nat := (now / 2 ^ t.prescale.toNat + d) * 2 ^ t.prescale.toNat

end Sys2Proof.Machine
end

