-- ==== Sys2Proof/Machine/PowerOps.lean ====
section
/-! DEFINITION. Shared operations on sky states: waking the package and clusters, placing and ending work on a
cluster, and the power events every family raises (R527–R536). -/

namespace Sys2Proof.Machine

def State.sky (s : State) (c : Nat) : ClusterSky := s.power.sky.get ClusterSky.init c
def State.setSky (s : State) (c : Nat) (f : ClusterSky → ClusterSky) : State :=
  { s with power := { s.power with sky := s.power.sky.upd ClusterSky.init c f } }

/-- Set bits of PWR_EVT; each bit that sets raises POWER (R549). -/
def State.pwrEvt (s : State) (b : BitVec 6) : State :=
  let fresh := b &&& ~~~ s.power.evt
  let s := { s with power := { s.power with evt := s.power.evt ||| b } }
  if fresh = 0 then s else s.pfCause .power
def evtWake : BitVec 6 := bit 6 0
def evtThrottleOn : BitVec 6 := bit 6 1
def evtThrottleOff : BitVec 6 := bit 6 2
def evtHot : BitVec 6 := bit 6 3
def evtTrip : BitVec 6 := bit 6 4
def evtWarmDone : BitVec 6 := bit 6 5

/-- IDLE_SCATTER and IDLE_CLEAR of PWR_IDLE in gticks (R549). -/
def State.idleScatter (s : State) : Nat := (fld s.power.idle 0 8).toNat * 1024
def State.idleClear (s : State) : Nat := (fld s.power.idle 8 8).toNat * 65536
def State.clusterClearEn (s : State) : Bool := has s.power.ctl 1
def State.pkgClearEn (s : State) : Bool := has s.power.ctl 0

/-- A new idle period begins, with the idle times as they stand now (R530, R549). -/
def State.beginIdle (s : State) (c : Nat) : State :=
  s.setSky c (fun k => { k with since := s.now, scatter := s.idleScatter, clearAfter := s.idleClear })

/-- A wake source of R536 that takes the package out of package Clear, or meets its entry: the wake begins, its bit
sets in PWR_WAKE_SRC, and the interpolator's return is due 16,000 gticks later (R46, R533, R534). While the package
is awake the source has no effect, and while main power is gone or the part is thermally stopped it is ignored
(R77, R541). -/
def State.wakePackage (s : State) (src : Nat) (needsCluster : Bool) : State :=
  if !s.running then s
  else match s.power.clearSt with
  | .awake => s
  | .waking k =>
    { s with power := { s.power with wakeSrc := incl s.power.wakeSrc src, clearSt := .waking k,
                                     wakeNeedsCluster := s.power.wakeNeedsCluster || needsCluster } }
  | .entering =>
    { s with power := { s.power with wakeSrc := incl s.power.wakeSrc src, clearSt := .waking 1,
                                     wakeNeedsCluster := needsCluster } }
  | .inClear =>
    { s with
      power := { s.power with wakeSrc := incl s.power.wakeSrc src, clearSt := .waking 1,
                              wakeNeedsCluster := needsCluster, clearTime := s.power.clearTime + (s.now - s.power.clearFrom) }
      gtb := { s.gtb with coarseEnd := some (s.now + 16000) } }.platform

/-- Are the engines up: the package is awake, or has come to phase 5 of a wake (R533). -/
def State.enginesUp (s : State) : Bool :=
  match s.power.clearSt with
  | .awake => true
  | .waking k => decide (4 < k)
  | _ => false
/-- A write arrives on a host port: a wake source (R536). -/
def State.barWrite (s : State) : State := s.wakePackage 0 false

/-- The time a cluster takes to come up from its sky state (R531). -/
def wakeTime : Sky → Nat
  | .clear => 32000
  | .scattered => 4800
  | _ => 0

/-- Wake a cluster to Broken, for a gate or a debug session (R530). -/
def State.wakeCluster (s : State) (c : Nat) : State :=
  match (s.sky c).sky with
  | .clear => s.setSky c (fun k => { k with waking := some (.broken, s.now + wakeTime .clear) })
  | .scattered => s.setSky c (fun k => { k with waking := some (.broken, s.now + wakeTime .scattered) })
  | _ => s

/-- Work is placed on a cluster: a Broken one is Overcast at once, a sleeping one after its wake (R530, R531). The
answer is when the work can begin. -/
def State.occupy (s : State) (c : Nat) : State × Nat :=
  let k := s.sky c
  match k.sky with
  | .overcast => (s, s.now)
  | .broken => (s.setSky c (fun k => { k with sky := .overcast, waking := none }), s.now)
  | _ =>
    let at' := match k.waking with
      | some (_, t) => t
      | none => s.now + wakeTime k.sky
    (s.setSky c (fun k => { k with waking := some (.overcast, at') }), at')

/-- A cluster's work ends: Overcast goes to Broken and its idle period begins (R530). A halted cluster stays Broken. -/
def State.vacate (s : State) (c : Nat) : State :=
  (s.setSky c (fun k => { k with sky := if k.sky = .overcast then .broken else k.sky,
                                  waking := match k.waking with
                                    | some (.overcast, t) => some (.broken, t)
                                    | w => w })).beginIdle c

/-- A cluster goes to Clear at once: its bay has left its stall or is retired (R530), or its die was reset (R544). -/
def State.darken (s : State) (c : Nat) : State :=
  s.setSky c (fun _ => { ClusterSky.init with since := s.now })

/-- Is a cluster held at Broken or above by a gate (R59). -/
def State.gateHeld (s : State) (c : Nat) : Bool := s.tb.gates.any (fun e => has e.2.held c)

/-- PWR_PKG_STATE.STATE (R529): the highest state of any cluster; Scattered when all are Clear and the package is not
in package Clear. -/
def State.pkgState (s : State) : Nat :=
  let code : Sky → Nat := fun k => match k with | .clear => 0 | .scattered => 1 | .broken => 2 | .overcast => 3
  let m := (s.power.sky.map (fun e => code e.2.sky)).foldl max 0
  if m = 0 && s.power.clearSt ≠ .inClear then 1 else m

/-- A gate's hold on the clusters it woke ends; their idle periods start (R59, R530). -/
def State.endHold (s : State) (g : Nat) : State :=
  let cs := members (s.gate g).held
  let s := s.setGate g (fun x => { x with held := 0, holdEnd := none })
  forAll cs (fun c t => if t.gateHeld c then t else t.beginIdle c) s

end Sys2Proof.Machine
end

