-- ==== Sys2Proof/Machine/QueueOps.lean ====
section
/-! DEFINITION. Shared operations on queues and their accepted commands (R205–R235). -/

namespace Sys2Proof.Machine

/-- Engine codes (R205, R194). -/
def engineCode : Engine → Nat
  | .compute => 0 | .copy => 1 | .relay => 2 | .drover => 3
/-- The number of a queue in its stall: 32 c + 8 e + q, as its doorbell slot (R215). -/
def qkey (c e q : Nat) : Nat := 32 * c + 8 * e + q
def queueKey (q : QueueId) : Nat := qkey q.ctx (engineCode q.engine) q.queue
/-- Context, engine and queue of a queue's number. -/
def qkCtx (k : Nat) : Nat := k / 32
def qkEngine (k : Nat) : Nat := k / 8 % 4
def qkQueue (k : Nat) : Nat := k % 8

def Stall.queue? (t : Stall) (k : Nat) : Option Queue := t.queues.find? k
def Stall.setQueue (t : Stall) (k : Nat) (q : Queue) : Stall := { t with queues := t.queues.put k (some q) }
def Stall.modQueue (t : Stall) (k : Nat) (f : Queue → Queue) : Stall :=
  match t.queue? k with
  | none => t
  | some q => t.setQueue k (f q)
def State.queue? (s : State) (n k : Nat) : Option Queue :=
  match s.stall? n with
  | none => none
  | some t => t.queue? k
def State.modQueue (s : State) (n k : Nat) (f : Queue → Queue) : State := s.modStall n (fun t => t.modQueue k f)
def Stall.ctx? (t : Stall) (c : Nat) : Option Ctx := t.ctxs.find? c
def Stall.modCtx (t : Stall) (c : Nat) (f : Ctx → Ctx) : Stall :=
  match t.ctx? c with
  | none => t
  | some x => { t with ctxs := t.ctxs.put c (some (f x)) }
def State.modCtx (s : State) (n c : Nat) (f : Ctx → Ctx) : State := s.modStall n (fun t => t.modCtx c f)

/-! Fields of a command (R219). -/
def Entry.opcode (e : Entry) : Nat := f8 e.bytes 0
def Entry.flags (e : Entry) : Nat := f8 e.bytes 1
def Entry.irq (e : Entry) : Bool := e.flags % 2 = 1
def Entry.concurrent (e : Entry) : Bool := e.flags / 2 % 2 = 1
def Entry.nonreplay (e : Entry) : Bool := e.flags / 4 % 2 = 1
def Entry.clear (e : Entry) : Bool := e.flags / 8 % 2 = 1
def Entry.tag (e : Entry) : Nat := f32 e.bytes 4
/-- Has the command's execution finished. -/
def Entry.isOver (e : Entry) : Bool := e.st = .ready || e.st = .ended || e.st = .visible
/-- Has the command's end been written. -/
def Entry.isEnded (e : Entry) : Bool := e.st = .ended || e.st = .visible

def Queue.depth (q : Queue) : Nat := 2 ^ q.log2Depth
def Queue.entry? (q : Queue) (pos : U32) : Option Entry := q.entries.find? (fun e => e.pos = pos)
def Queue.modEntry (q : Queue) (pos : U32) (f : Entry → Entry) : Queue :=
  { q with entries := q.entries.map (fun e => if e.pos = pos then f e else e) }
def State.modEntry (s : State) (n k : Nat) (pos : U32) (f : Entry → Entry) : State :=
  s.modQueue n k (fun q => q.modEntry pos f)
/-- The entry before position `pos`. -/
def Queue.before? (q : Queue) (pos : U32) : Option Entry := q.entry? (pos - 1)
/-- Entries at positions before `e`'s, which are those before it in the list. -/
def Queue.earlier (q : Queue) (pos : U32) : List Entry := q.entries.takeWhile (fun e => e.pos ≠ pos)

/-- Statuses (R227). -/
def stDone : Byte := 0x01
def stDoneLate : Byte := 0x02
def stDoneReplayed : Byte := 0x03
def stNotRun : Byte := 0x20
def stPartial : Byte := 0x21
def stPoison : Byte := 0x22
def stKilled : Byte := 0x23
def stPreempt : Byte := 0x24
def stOrphaned : Byte := 0x25

/-- The command's work is over with this outcome; COMMAND_END writes it (R227). A command already over keeps what it
has. -/
def Entry.finish (e : Entry) (status detail : Byte) (value : U64) : Entry :=
  if e.isOver then e else { e with st := .ready, status := status, detail := detail, value := value }
def State.finish (s : State) (n k : Nat) (pos : U32) (status detail : Byte) (value : U64) : State :=
  s.modEntry n k pos (fun e => e.finish status detail value)

/-- The commands that wait before the next one may start (R226). -/
def waitsBefore : Nat → Bool := fun op => [0x08, 0x09, 0x11, 0x12, 0x13, 0x14].contains op

/-- The next command of the queue to start: the first that has not started. -/
def Queue.next? (q : Queue) : Option Entry := q.entries.find? (fun e => e.st = .accepted)

/-- Does R226 let the next command start: without CONCURRENT every earlier command has ended; with it the one before has
started, or ended where it is a wait, a FENCE or a RECEIPT; FENCE and RECEIPT wait for all. -/
def Queue.orderFree (q : Queue) (e : Entry) : Bool :=
  let before := q.earlier e.pos
  let all := before.all Entry.isEnded
  if !e.concurrent || e.opcode = 0x13 || e.opcode = 0x14 then all
  else match q.before? e.pos with
    | none => all
    | some b => b.st ≠ .accepted && (if waitsBefore b.opcode then b.isEnded else true)

/-- Release the queues of stall `n` that wait on global gate `g` as it fires, in ascending context, engine and queue
(R56, R58): each WAIT_GATE passes with GATE_FIRED_AT as its VALUE, and keeps
the CMP that R57 measures its gated command against. -/
def State.releaseGate (s : State) (n g : Nat) (firedAt cmp : U64) : State :=
  s.modStall n (fun t => { t with queues := t.queues.map (fun kq =>
    (kq.1, forAll kq.2.entries (fun e q =>
      if e.st = .started && e.opcode = 0x09 && e.gate = some g then
        { q.modEntry e.pos (fun e => e.finish stDone 0 firedAt) with gated := some (e.pos + 1, cmp.toNat) }
      else q) kq.2)) })

/-- Commands bound to a gate the plan has released end FAULTED_NOT_RUN with DETAIL 0x06 (R60, R225). -/
def State.gateReleased (s : State) (n g : Nat) : State :=
  s.modStall n (fun t => { t with queues := t.queues.map (fun kq =>
    (kq.1, { kq.2 with entries := kq.2.entries.map (fun e =>
      if !e.isOver && e.gate = some g then e.finish stNotRun 0x06 0 else e) })) })

end Sys2Proof.Machine
end

