-- ==== Sys2Proof/Machine/Mem.lean ====
section
/-! DEFINITION. Stall memory: where an offset lies (R261–R263), regions (R272–R276), translation (R267–R270), lines
read and written through the MEE (R407–R414), faults and their record (R278–R280), and atomics (R281). -/

namespace Sys2Proof.Machine

/-! Where bytes lie. -/

/-- Bay and bay byte of a stall offset (R261): bays in order, each without the stall's own journal areas. -/
def placeIn (v : Variant) (jb : Nat → Nat) : List Nat → Nat → Option (Nat × Nat)
  | [], _ => none
  | b :: l, o => if o < bayBytes v - jb b then some (b, o) else placeIn v jb l (o - (bayBytes v - jb b))
def Holdings.place (h : Holdings) (v : Variant) (o : Nat) : Option (Nat × Nat) := placeIn v h.journalIn h.bays o
/-- The HBM key of a bay byte (R262): pseudo-channel in [41:30], channel offset in [29:0]. -/
def bayAddr (v : Variant) (b x : Nat) : Nat :=
  (bayPcs v b).getD (x / 256 % pcPerBay v) 0 * 2 ^ 30 + x / 256 / pcPerBay v * 256 + x % 256
/-- A line's number: its address less the six low bits. -/
def lineOf (a : Nat) : Nat := a / 64

/-! Regions (R272, R273). -/

/-- What a line's resolution gives. -/
structure Resolved where
  keyIndex : Nat
  rights : Nat
  cache : Nat
  multi : Bool
  conflict : Bool
  deriving DecidableEq, Repr

/-- The rights of a REGIONS record (R118). -/
def rRead : Nat := 1
def rWrite : Nat := 2
def rExec : Nat := 4
def rAtomic : Nat := 8
def rDma : Nat := 16
/-- Do rights `r` include every right of `need`. -/
def rightsOk (r need : Nat) : Bool := r &&& need == need

def RegionRec.covers (r : RegionRec) (o : Nat) : Bool := decide (r.base ≤ o) && decide (o < r.base + r.size)

/-- Resolution of offset `o` for a key set (R272, R273): the candidates of highest PRIO supply the rights they share,
the lowest INDEX the cache attribute, and differing key indices conflict. -/
def resolve (regions : List RegionRec) (keys : Nat → Bool) (o : Nat) : Option Resolved :=
  let c := regions.filter (fun r => r.covers o && keys r.keyIndex)
  let top := (c.map (·.prio)).foldl max 0
  let h := c.filter (fun r => r.prio = top)
  match h with
  | [] => none
  | r :: l =>
    let first := l.foldl (fun a b => if b.index < a.index then b else a) r
    some { keyIndex := first.keyIndex
           rights := (r :: l).foldl (fun a b => a &&& b.rights) 31
           cache := first.attr % 4
           multi := !l.isEmpty
           conflict := l.any (fun b => b.keyIndex ≠ r.keyIndex) }

/-- A context's key set (R265). -/
def Ctx.keys (x : Ctx) (h : Holdings) : Nat → Bool := fun i =>
  match x.key with
  | some k => i = k
  | none => decide (i < h.slots.length)

/-! Lines in HBM (R407–R413). -/

/-- Is the line clear: nothing was written to it since the Groom last cleared it (R411). -/
def State.isClear (s : State) (l : Nat) : Bool := (s.lineSlot.find? l).isNone && !s.poison.contains l
/-- Put a line in or out of the poison list, which rises. -/
def setPoison (l : Nat) (p : Bool) (ps : List Nat) : List Nat :=
  let rest := ps.filter (· ≠ l)
  if p then rest.filter (· < l) ++ l :: rest.filter (l < ·) else rest

/-- MEE_ERR_KIND, MEE_ERR_DPA and MEE_ERR_AT take an event of R413. The address carries the slot in [51:42]. -/
def State.meeErr (s : State) (kind slot a : Nat) : State :=
  { s with mee := { s.mee with errKind := BitVec.ofNat 32 kind, errDpa := BitVec.ofNat 52 (slot * 2 ^ 42 + a), errAt := s.nowW } }

/-- `n` bytes at `a` inside one line, read under `slot` (R411–R413): zeros and poison when the poison bit is set or the
line was last written under another slot; the latter counts in MEE_TAG_FAIL, whatever the poison bit. DESIGN CHOICE, log 45. DEDUCED, log 46. -/
def State.lineRead (s : State) (a n slot : Nat) : List Byte × Bool × State :=
  let l := lineOf a
  if (s.lineSlot.find? l).any (fun k => k ≠ slot) then
    (zeros n, true, ({ s with mee := { s.mee with tagFail := satAdd s.mee.tagFail 1 } }).meeErr 1 slot a)
  else if s.poison.contains l then (zeros n, true, s)
  else (s.hbm.readN a n, false, s)

/-- Write bytes inside one line under `slot`, poisoned or not (R408, R414). A whole unpoisoned line clears the poison
bit; a partial write of a line of another slot fails its read and leaves the line poisoned. DESIGN CHOICE, log 45. -/
def State.lineWrite (s : State) (a slot : Nat) (bs : List Byte) (poisoned : Bool) : State :=
  let l := lineOf a
  let whole := a % 64 = 0 && bs.length = 64
  let foreign := match s.lineSlot.find? l with
    | none => false
    | some k => k ≠ slot
  let s := if foreign && !whole then
      ({ s with mee := { s.mee with tagFail := satAdd s.mee.tagFail 1 } }).meeErr 1 slot a
    else s
  let bad := poisoned || (!whole && (foreign || s.poison.contains l))
  { s with
    hbm := s.hbm.writeL a bs
    lineSlot := s.lineSlot.put l (some slot)
    poison := setPoison l bad s.poison
    mee := if poisoned then { s.mee with poisonWr := satAdd s.mee.poisonWr 1 } else s.mee }

/-- The Groom makes the lines of [a, a + n) clear (R411, R416); both are multiples of 64. -/
def State.groomRange (s : State) (a n : Nat) : State :=
  { s with
    hbm := s.hbm.clear a n
    lineSlot := s.lineSlot.filter (fun e => !(decide (lineOf a ≤ e.1) && decide (e.1 < lineOf (a + n))))
    poison := s.poison.filter (fun l => !(decide (lineOf a ≤ l) && decide (l < lineOf (a + n)))) }
/-- The Groom clears a whole bay: every line of its pseudo-channels, carve-out included (R416). -/
def State.groomBay (s : State) (b : Nat) : State :=
  forAll (bayPcs s.pkg.variant b) (fun p t => t.groomRange (p * 2 ^ 30) (2 ^ 30)) s

/-! Who accesses, and what an access meets. -/

/-- The master of a translated access (R279). -/
structure Who where
  stall : Nat
  ctx : Nat
  engine : Nat
  queue : Nat
  asn : U64
  deriving DecidableEq, Repr

/-- ACC bits of a fault record (R279). -/
def accRead : Nat := 1
def accWrite : Nat := 2
def accFetch : Nat := 4
def accAtomic : Nat := 8
def accWalk : Nat := 16
def accRing : Nat := 32

/-- What a translated access came to: nothing wrong; delivered data is poison from memory; a fault that stops the
command with this DETAIL; a key conflict; a retired bay's range (R278). -/
inductive Met where
  | ok | poisoned
  | stops (detail : Byte)
  | conflict | retired
  deriving DecidableEq, Repr

/-- The 64 bytes of a fault record (R279). -/
def faultBytes (x : Ctx) (w : Who) (kind acc level va ofs now : Nat) : List Byte :=
  leBytes 4 x.seq.toNat ++ leBytes 1 kind ++ leBytes 1 acc ++ leBytes 1 level ++ leBytes 1 w.engine ++ leBytes 8 va
    ++ leBytes 8 ofs ++ leBytes 8 now ++ leBytes 8 w.asn.toNat ++ leBytes 4 x.faults.toNat ++ leBytes 4 x.multiHit.toNat
    ++ leBytes 4 x.conflicts.toNat ++ leBytes 1 w.queue ++ zeros 11

/-- A plain write of one line of stall memory for a context, whose own fault is not recorded (R279). -/
def State.quietWrite (s : State) (n : Nat) (x : Ctx) (o : Nat) (bs : List Byte) : State :=
  match s.stall? n with
  | none => s
  | some t =>
    match resolve t.hold.regions (x.keys t.hold) o, t.hold.place s.pkg.variant o with
    | some r, some (b, y) =>
      if r.conflict || !rightsOk r.rights rWrite || has t.hold.retired b then s
      else s.lineWrite (bayAddr s.pkg.variant b y) (t.hold.slotOf r.keyIndex) bs false
    | _, _ => s

/-- Record a fault, a conflict or a retired-range access in the context's fault record and the counters (R279, R280).
KIND 1 translation, 2 access, 3 key conflict, 5 retired bay. -/
def State.recordFault (s : State) (w : Who) (kind acc level va ofs : Nat) : State :=
  let bump (x : Ctx) : Ctx := { x with seq := x.seq + 1
                                       faults := if kind = 1 || kind = 2 then satAdd x.faults 1 else x.faults
                                       conflicts := if kind = 3 then satAdd x.conflicts 1 else x.conflicts }
  let s := s.modStall w.stall (fun t => (t.modCtx w.ctx bump))
  let s := s.modStall w.stall (fun t => { t with stats :=
    { t.stats with conflicts := if kind = 3 then satAdd t.stats.conflicts 1 else t.stats.conflicts
                   accessFaults := if kind = 2 then satAdd t.stats.accessFaults 1 else t.stats.accessFaults
                   xlatFaults := if kind = 1 then satAdd t.stats.xlatFaults 1 else t.stats.xlatFaults } })
  match (s.stall? w.stall).bind (fun t => t.ctx? w.ctx) with
  | none => s
  | some x => s.quietWrite w.stall x x.faultRec (faultBytes x w kind acc level va ofs s.now)

/-- Count a multi-hit line (R273, R280). -/
def State.countMulti (s : State) (n : Nat) (c : Option Nat) : State :=
  s.modStall n (fun t =>
    let t := { t with stats := { t.stats with multiHit := satAdd t.stats.multiHit 1 } }
    match c with
    | none => t
    | some c => t.modCtx c (fun x => { x with multiHit := satAdd x.multiHit 1 }))

/-! The walk (R267–R270). -/

def walkShift : Nat → Nat
  | 0 => 39 | 1 => 30 | 2 => 21 | _ => 16
def walkIndex (va l : Nat) : Nat := if l = 3 then va / 2 ^ 16 % 32 else va / 2 ^ walkShift l % 512
/-- Alignment of what an entry at level `l` names (R268). -/
def walkAlign (l : Nat) (leaf : Bool) : Nat :=
  if leaf then (if l = 2 then 2 ^ 21 else 2 ^ 16) else (if l = 2 then 256 else 4096)

/-- The entry fields of R268. -/
structure Pte where
  valid : Bool
  leaf : Bool
  rights : Nat                  -- read, write, execute, atomic as region rights
  addr : Nat
  reservedOk : Bool
  deriving DecidableEq, Repr
def pteOf (w : Nat) : Pte :=
  { valid := w % 2 = 1
    leaf := w / 2 % 2 = 1
    rights := w / 4 % 16
    addr := w / 2 ^ 8 % 2 ^ 32 * 2 ^ 8
    reservedOk := w / 64 % 4 = 0 && w / 2 ^ 40 % 2 ^ 16 = 0 }

/-- A walk's read of one entry: a cached valid entry, else the eight bytes at the offset where they resolve to read
rights and deliver no poison (R269, R270). A key conflict on the way is counted. -/
def State.walkRead (s : State) (w : Who) (x : Ctx) (o : Nat) : Option Nat × State :=
  match x.tlb.find? o with
  | some v => (some v.toNat, s)
  | none =>
    match s.stall? w.stall with
    | none => (none, s)
    | some t =>
      match resolve t.hold.regions (x.keys t.hold) o, t.hold.place s.pkg.variant o with
      | some r, some (b, y) =>
        let s := if r.multi then s.countMulti w.stall (some w.ctx) else s
        if r.conflict then
          (none, s.modStall w.stall (fun t =>
            ({ t with stats := { t.stats with conflicts := satAdd t.stats.conflicts 1 } }).modCtx w.ctx
              (fun x => { x with conflicts := satAdd x.conflicts 1 })))
        else if !rightsOk r.rights rRead || has t.hold.retired b then (none, s)
        else
          let d := s.lineRead (bayAddr s.pkg.variant b y) 8 (t.hold.slotOf r.keyIndex)
          if d.2.1 then (none, d.2.2) else (some (leNat d.1), d.2.2)
      | _, _ => (none, s)

/-- The levels of a walk from `l` on, at most `fuel` of them: the stall offset and page rights, or the level of the
translation fault. Valid entries read are kept where the part caches them. DESIGN CHOICE, log 44. -/
def State.walkFrom (s : State) (w : Who) (x : Ctx) (va : Nat) : Nat → Nat → Nat → (Nat ⊕ (Nat × Nat)) × State
  | 0, l, _ => (.inl l, s)
  | fuel + 1, l, table =>
    let o := table + 8 * walkIndex va l
    let r := s.walkRead w x o
    match r.1 with
    | none => (.inl l, r.2)
    | some v =>
      let e := pteOf v
      if !e.valid || !e.reservedOk || (e.leaf && l < 2) || (!e.leaf && l = 3) || e.addr % walkAlign l e.leaf ≠ 0 then (.inl l, r.2)
      else
        let s := if s.xlatCaching then
            r.2.modCtx w.stall w.ctx (fun x => { x with tlb := x.tlb.put o (some (BitVec.ofNat 64 v)) })
          else r.2
        if e.leaf then (.inr (e.addr + va % 2 ^ walkShift l, e.rights), s)
        else State.walkFrom s w x va fuel (l + 1) e.addr

/-- Translate a stall virtual address of a context (R269): an address with a bit of [63:48] set faults at level 0. -/
def State.translate (s : State) (w : Who) (x : Ctx) (va : Nat) : (Nat ⊕ (Nat × Nat)) × State :=
  if va / 2 ^ 48 ≠ 0 then (.inl 0, s) else s.walkFrom w x va 4 0 x.root

/-! One line of a translated access (R272–R275, R278). -/

/-- Where a line of an access goes when nothing stops it: its HBM address and key slot. -/
inductive Goes where
  | to (addr slot : Nat)
  | not (m : Met)
  deriving DecidableEq, Repr

/-- Translate, resolve and check one access inside a line: `need` the region rights, `page` the page rights, `acc` the
ACC bits of R279. Faults, conflicts and retired ranges are recorded. -/
def State.aim (s : State) (w : Who) (va need page acc : Nat) : Goes × State :=
  match (s.stall? w.stall).bind (fun t => (t.ctx? w.ctx).map (fun x => (t, x))) with
  | none => (.not (.stops 0x01), s)
  | some (t, x) =>
    let r := s.translate w x va
    match r.1 with
    | .inl level => (.not (.stops 0x01), r.2.recordFault w 1 (acc ||| accWalk) level va 0)
    | .inr (o, pr) =>
      let s := r.2
      match resolve t.hold.regions (x.keys t.hold) o with
      | none => (.not (.stops 0x02), s.recordFault w 2 acc 0xFF va (o / 64 * 64))
      | some q =>
        let s := if q.multi then s.countMulti w.stall (some w.ctx) else s
        if !rightsOk pr page || !rightsOk q.rights need then (.not (.stops 0x02), s.recordFault w 2 acc 0xFF va (o / 64 * 64))
        else if q.conflict then (.not .conflict, (s.recordFault w 3 acc 0xFF va (o / 64 * 64)).meeErr 4 0 o)
        else match t.hold.place s.pkg.variant o with
          | none => (.not (.stops 0x02), s.recordFault w 2 acc 0xFF va (o / 64 * 64))
          | some (b, y) =>
            if has t.hold.retired b then
              (.not .retired, (s.recordFault w 5 acc 0xFF va (o / 64 * 64)).meeErr 5 (t.hold.slotOf q.keyIndex) (bayAddr s.pkg.variant b y))
            else (.to (bayAddr s.pkg.variant b y) (t.hold.slotOf q.keyIndex), s)

/-- Read `n` bytes at `va`, inside one line. -/
def State.readPiece (s : State) (w : Who) (va n need page acc : Nat) : List Byte × Met × State :=
  let g := s.aim w va need page acc
  match g.1 with
  | .not m => (zeros n, m, g.2)
  | .to a k =>
    let d := g.2.lineRead a n k
    (d.1, if d.2.1 then .poisoned else .ok, d.2.2)
/-- Write bytes at `va`, inside one line; a key conflict or a retired range drops them (R263, R274). -/
def State.writePiece (s : State) (w : Who) (va : Nat) (bs : List Byte) (poisoned : Bool) (need : Nat) : Met × State :=
  let g := s.aim w va need rWrite accWrite
  match g.1 with
  | .not m => (m, g.2)
  | .to a k => (.ok, g.2.lineWrite a k bs poisoned)

/-- A run of lines read for a command: the bytes, whether any was poison, and what else was met. -/
structure Got where
  bytes : List Byte
  poison : List Bool            -- one flag a byte
  met : List Met                -- conflicts, retired ranges and at most one stop, in order
  deriving DecidableEq, Repr

/-- The bytes of a run left in the line `va` lies in. -/
def pieceLen (va n : Nat) : Nat := min n (64 - va % 64)

/-- Read `n` bytes from `va` line by line, at most `fuel` lines; a fault ends the run (R272, R278). -/
def State.readRunF (s : State) (w : Who) (need page acc : Nat) : Nat → Nat → Nat → Got × State
  | 0, _, _ => (⟨[], [], []⟩, s)
  | fuel + 1, va, n =>
    if n = 0 then (⟨[], [], []⟩, s)
    else
      let k := pieceLen va n
      let r := s.readPiece w va k need page acc
      match r.2.1 with
      | .stops d => (⟨[], [], [.stops d]⟩, r.2.2)
      | m =>
        let g := State.readRunF r.2.2 w need page acc fuel (va + k) (n - k)
        (⟨r.1 ++ g.1.bytes, List.replicate k (decide (m ≠ .ok)) ++ g.1.poison, (if m = .ok || m = .poisoned then [] else [m]) ++ g.1.met⟩, g.2)
def State.readRun (s : State) (w : Who) (va n need : Nat) : Got × State := s.readRunF w need rRead accRead (n / 64 + 2) va n

/-- Write a run of bytes line by line; a destination line fed by a poisoned byte is written poisoned (R414). The
answer counts the bytes written and lists what was met. -/
def State.writeRunF (s : State) (w : Who) (need : Nat) : Nat → Nat → List Byte → List Bool → (Nat × List Met) × State
  | 0, _, _, _ => ((0, []), s)
  | fuel + 1, va, bs, ps =>
    if bs.isEmpty then ((0, []), s)
    else
      let k := pieceLen va bs.length
      let r := s.writePiece w va (bs.take k) ((ps.take k).any id) need
      match r.1 with
      | .stops d => ((0, [.stops d]), r.2)
      | m =>
        let g := State.writeRunF r.2 w need fuel (va + k) (bs.drop k) (ps.drop k)
        ((k + g.1.1, (if m = .ok then [] else [m]) ++ g.1.2), g.2)
def State.writeRun (s : State) (w : Who) (va : Nat) (bs : List Byte) (ps : List Bool) (need : Nat) : (Nat × List Met) × State :=
  s.writeRunF w need (bs.length / 64 + 2) va bs ps

/-! From what was met to a status (R278). -/

/-- The status and DETAIL of a command that read with `rd` and wrote with `wr`, in that order, poison from memory
aside: a stop or a dropped write or a retired range is FAULTED_PARTIAL with the first one's DETAIL, a conflict read is
POISON_CONSUMED with 0x03. -/
def metStatus (rd wr : List Met) (poisoned : Bool) : Byte × Byte :=
  let f : Met → Option Byte := fun m => match m with | .stops d => some d | .retired => some 0x05 | _ => none
  let g : Met → Option Byte := fun m => match m with | .conflict => some 0x03 | x => f x
  match rd.findSome? f with
  | some d => (stPartial, d)
  | none =>
    match wr.findSome? g with
    | some d => (stPartial, d)
    | none =>
      if rd.contains .conflict then (stPoison, 0x03)
      else if poisoned then (stPoison, 0x00)
      else (stDone, 0x00)

/-! Host memory (R15, R206), reached over a host port. -/

/-- Does an access of host bytes complete with an error. -/
def State.hostErr (s : State) (a n : Nat) : Bool := s.host.hostBad.any (fun r => decide (a < r.1 + r.2) && decide (r.1 < a + n))
/-- DESIGN CHOICE, log 10. -/
def State.hostRead (s : State) (a n : Nat) : Option (List Byte) :=
  if s.hostErr a n then none else some (s.host.hostMem.readN a n)
/-- DESIGN CHOICE, log 10. -/
def State.hostWrite (s : State) (a : Nat) (bs : List Byte) : Option State :=
  if s.hostErr a bs.length then none
  else some { s with host := { s.host with hostMem := s.host.hostMem.writeL a bs } }

/-! Atomics (R281, R224). -/

/-- The operations tasks may issue on a location of `w` bits (R281), FADD apart. -/
inductive AtomicOp where
  | swap | cas (cmp : Nat) | add | sub | and | or | xor | smin | smax | umin | umax
  deriving DecidableEq, Repr
/-- The new value of a location (R281). -/
def AtomicOp.apply (op : AtomicOp) (w : Nat) (old x : BitVec w) : BitVec w :=
  match op with
  | .swap => x
  | .cas c => if old = BitVec.ofNat w c then x else old
  | .add => old + x
  | .sub => old - x
  | .and => old &&& x
  | .or => old ||| x
  | .xor => old ^^^ x
  | .smin => if old.toInt ≤ x.toInt then old else x
  | .smax => if old.toInt ≤ x.toInt then x else old
  | .umin => if old.toNat ≤ x.toNat then old else x
  | .umax => if old.toNat ≤ x.toNat then x else old

/-- An atomic of a context on `n` bytes at `va` (R275, R282): the previous value, unless something was met. -/
def State.atomic (s : State) (w : Who) (va n : Nat) (op : AtomicOp) (x : Nat) : Option Nat × Met × State :=
  let g := s.aim w va (rRead + rWrite + rAtomic) (rRead + rWrite + rAtomic) accAtomic
  match g.1 with
  | .not m => (none, m, g.2)
  | .to a k =>
    let d := g.2.lineRead a n k
    if d.2.1 then (none, .poisoned, d.2.2)
    else
      let old := leNat d.1
      let new := op.apply (8 * n) (BitVec.ofNat _ old) (BitVec.ofNat _ x)
      (some old, .ok, d.2.2.lineWrite a k (leBytes n new.toNat) false)

end Sys2Proof.Machine
end

