-- ==== Sys2Proof/Machine/RingOps.lean ====
section
/-! DEFINITION. Shared operations on a queue's areas: bounce pages (R453–R458), reading its command ring, writing its
header and completion records, and publication (R209–R214, R235, R236). -/

namespace Sys2Proof.Machine

/-- The list cut or padded with zeros to `n` bytes. -/
def fit (n : Nat) (l : List Byte) : List Byte := (l ++ zeros (n - l.length)).take n

/-! Bounce pages. -/

def asciiXHBB : List Byte := [0x58, 0x48, 0x42, 0x42]
/-- The bounce key of a direction (R453). -/
def Session.bounceKey (x : Session) (dir : Nat) : List Byte := (Config.kdf x.secret asciiXHBB [BitVec.ofNat 8 dir]).toList
/-- Trailer bytes 0 to 15 (R454). -/
def trailerHead (ctr stall dir qid area : Nat) : List Byte :=
  leBytes 8 ctr ++ leBytes 1 stall ++ leBytes 1 dir ++ leBytes 2 qid ++ leBytes 1 area ++ zeros 3
def bounceNonce (ctr stall dir qid : Nat) : List Byte :=
  leBytes 1 stall ++ leBytes 1 dir ++ leBytes 2 qid ++ leBytes 8 ctr
/-- The live session of an ID: known, finished and not ended. -/
def State.session? (s : State) (id : Nat) : Option Session :=
  (s.sessions.find? id).filter (fun x => x.finished && !x.ended)
/-- The stall a session belongs to. -/
def Session.stall (x : Session) : Option Nat :=
  match x.fn with
  | some (.vf _ n) => some n.val
  | _ => none
/-- The last counter used, or the high-water mark, of a QID and direction (R456). -/
def Session.counter (x : Session) (qid dir : Nat) : Nat := x.counters.get 0 (2 * qid + dir)
def State.setCounter (s : State) (id qid dir v : Nat) : State :=
  match s.sessions.find? id with
  | none => s
  | some x => { s with sessions := s.sessions.put id (some { x with counters := x.counters.set 0 (2 * qid + dir) v }) }

/-- The part seals a page of a bounce area with the next counter of direction 1 (R455, R456). No page is written under
a session that has ended. DEDUCED, log 75. -/
def State.sealPage (s : State) (id n qid area base pages page : Nat) (plain : List Byte) : Option State :=
  match s.session? id with
  | none => some s
  | some x =>
    let ctr := x.counter qid 1 + 1
    let head := trailerHead ctr n 1 qid area
    let c := fit 4112 (Config.gcmSeal (x.bounceKey 1) (bounceNonce ctr n 1 qid) (head ++ leBytes 8 page) (fit 4096 plain))
    ((s.setCounter id qid 1 ctr).hostWrite (base + 4096 * page) (c.take 4096)).bind
      (fun t => t.hostWrite (base + 4096 * pages + 32 * page) (head ++ c.drop 4096))

/-- What opening a page of direction 0 came to. -/
inductive Opened where
  | page (ctr : Nat) (plain : List Byte)
  | bad
  deriving DecidableEq, Repr

/-- Open a page the host sealed: its trailer names the use, its counter satisfies `fresh`, its tag verifies (R456). DEDUCED, log 75. -/
def State.openPage (s : State) (x : Session) (n qid area base pages page : Nat) (fresh : Nat → Bool) : Opened :=
  match s.hostRead (base + 4096 * page) 4096, s.hostRead (base + 4096 * pages + 32 * page) 32 with
  | some body, some tr =>
    let ctr := f64 tr 0
    let head := tr.take 16
    if head ≠ trailerHead ctr n 0 qid area || !fresh ctr then .bad
    else match Config.gcmOpen (x.bounceKey 0) (bounceNonce ctr n 0 qid) (head ++ leBytes 8 page) (body ++ tr.drop 16) with
      | none => .bad
      | some p => .page ctr (fit 4096 p)
  | _, _ => .bad

/-! A queue's own areas. -/

/-- The master of a queue's ring accesses (R271, R279). -/
def ringWho (n k : Nat) : Who := { stall := n, ctx := qkCtx k, engine := qkEngine k, queue := qkQueue k, asn := 0 }
/-- Pages of a sealed queue's areas (R458). -/
def Queue.ringPages (q : Queue) : Nat := q.depth / 64
def Queue.cplPages (q : Queue) : Nat := max 1 (q.depth / 128)

/-- What reading a command slot came to: its bytes, a rejected sealed page, or an area that cannot be reached. -/
inductive RingGot where
  | bytes (b : List Byte)
  | rejected
  | dead
  deriving DecidableEq, Repr

/-- Read a run of stall memory for a queue's own area. -/
def State.ringReadStall (s : State) (n k va len : Nat) : RingGot × State :=
  let g := s.readRunF (ringWho n k) rRead rRead (accRead ||| accRing) (len / 64 + 2) va len
  if g.1.met.isEmpty then (.bytes g.1.bytes, g.2) else (.dead, g.2)

/-- The command at position `p` (R209): from stall memory, from the host, or from an opened page (R456, R457). -/
def State.readSlot (s : State) (n k : Nat) (q : Queue) (p : U32) : RingGot × State :=
  let i := p.toNat % q.depth
  if !q.ringHost then s.ringReadStall n k (q.ring + 64 * i) 64
  else if !q.isSealed then
    match s.hostRead (q.ring + 64 * i) 64 with
    | some b => (.bytes b, s)
    | none => (.dead, s)
  else match s.session? q.session.toNat with
    | none => (.rejected, s)
    | some x =>
      let pg := i / 64
      let hw := x.counter k 0
      match s.openPage x n k 1 q.ring q.ringPages pg (fun c => c = q.pages.get 0 pg && c ≠ 0 || hw < c) with
      | .bad => (.rejected, s)
      | .page c plain =>
        let s := s.setCounter q.session.toNat k 0 (max hw c)
        (.bytes (slice plain (64 * (i % 64)) 64), s.modQueue n k (fun q => { q with pages := q.pages.set 0 pg c }))

/-- The queue's own area could not be reached: it stops taking commands and shows FAULTED (R278). -/
def State.ringDead (s : State) (n k : Nat) : State :=
  s.modQueue n k (fun q => { q with ringFault := true, faulted := true })

/-- Write bytes of a queue's completion ring or header at offset `o` of area `area` (R206, R458): to stall memory, to the
host, or by resealing the page they lie in. A write that is refused leaves the queue without its area. -/
def State.writeArea (s : State) (n k : Nat) (q : Queue) (area base pages o : Nat) (bs : List Byte) (page : List Byte) : State :=
  if !q.ringHost then
    let r := s.writeRunF (ringWho n k) rWrite (bs.length / 64 + 2) (base + o) bs (List.replicate bs.length false)
    if r.1.2.isEmpty then r.2 else r.2.ringDead n k
  else if !q.isSealed then
    match s.hostWrite (base + o) bs with
    | some t => t
    | none => s.ringDead n k
  else match s.sealPage q.session.toNat n k area base pages (o / 4096) page with
    | some t => t
    | none => s.ringDead n k

/-- STATE of the header and of QDB_STATUS (R210). -/
def Queue.stateBits (q : Queue) : Nat := q.pressure.toNat + 2 * q.faulted.toNat + 4 * q.held.toNat
/-- The 64-byte header (R210). -/
def Queue.header (q : Queue) : List Byte :=
  leBytes 4 q.hdrSeq.toNat ++ leBytes 4 q.stateBits ++ leBytes 8 q.acceptedAsn.toNat ++ leBytes 4 q.acceptedPos.toNat
    ++ leBytes 4 q.refusedCount.toNat ++ leBytes 8 q.completedAsn.toNat ++ leBytes 4 q.completedPos.toNat ++ zeros 4
    ++ [q.refCode, q.refDetail] ++ zeros 2 ++ leBytes 4 q.refPos.toNat ++ leBytes 8 q.refAt.toNat ++ leBytes 8 q.baseAsn.toNat
/-- Write the header as it stands. -/
def State.writeHeader (s : State) (n k : Nat) : State :=
  match s.queue? n k with
  | none => s
  | some q => s.writeArea n k q 3 q.hdr 1 0 q.header q.header

/-- Commands between CONSUMED and the end of the accepted ones (R234). -/
def Queue.outstanding (q : Queue) : Nat := (q.acceptedPos - q.consumed).toNat
/-- PRESSURE after a publication (R235). -/
def Queue.pressureAfter (q : Queue) : Bool :=
  if q.admLimit ≤ q.outstanding then true
  else if 4 * q.outstanding ≤ 3 * q.admLimit then false   -- at most the floor of 0.75 ADM_LIMIT
  else q.pressure

/-- One publication (R211, R217, R235, R236): the changed fields, HDR_SEQ two on, PRESSURE, and at most one message for
all of its events. `irq` says that an event of the publication itself calls for one. DEDUCED, log 17. DEDUCED, log 92. -/
def State.publish (s : State) (n : StallNo) (k : Nat) (irq : Bool) (f : Queue → Queue) : State :=
  match s.queue? n k with
  | none => s
  | some q =>
    let q1 := f q
    let q2 := { q1 with hdrSeq := q1.hdrSeq + 2, pressure := q1.pressureAfter }
    let s := (s.modQueue n k (fun _ => q2)).writeHeader n k
    if irq || (q2.irqPressure && q2.pressure != q.pressure) then s.queueMsi n q2.vector else s

/-! Completion records (R212, R213). -/

/-- The 32-byte record of a command that has ended. -/
def Entry.record (e : Entry) : List Byte :=
  leBytes 8 e.asn.toNat ++ [e.status, e.detail, BitVec.ofNat 8 e.opcode, 0] ++ leBytes 4 e.tag
    ++ leBytes 8 (if e.startAt = 0 then 0 else e.endAt) ++ leBytes 8 e.value.toNat

/-- The receipt's command record of an ended command (R468). -/
def Entry.cmdRec (e : Entry) : CmdRec :=
  { pos := e.pos, asn := e.asn, opcode := BitVec.ofNat 8 e.opcode, status := e.status, detail := e.detail
    tag := BitVec.ofNat 32 e.tag, value := e.value, endAt := BitVec.ofNat 64 (if e.startAt = 0 then 0 else e.endAt)
    cmdDigest := Config.sha384 e.bytes, dataDigest := e.dataDigest }

/-- The first command whose record is not visible. -/
def Queue.nextVisible? (q : Queue) : Option Entry := q.entries.find? (fun e => e.st ≠ .visible)
/-- A fault status, which puts the queue in FAULTED as its record becomes visible (R230). -/
def isFaultStatus (st : Byte) : Bool := decide (0x20 ≤ st.toNat) && decide (st.toNat ≤ 0x24)

/-- Make the record of `e`, the first not yet visible, visible: the record, then COMPLETED_POS in one publication with
any FAULTED and the command's message (R213, R230, R236). -/
def State.makeVisible (s : State) (n : StallNo) (k : Nat) (e : Entry) : State :=
  match s.queue? n k with
  | none => s
  | some q =>
    let o := 32 * (e.pos.toNat % q.depth)
    let shadow := if q.isSealed then q.shadow.writeL o e.record else q.shadow
    let s := s.modQueue n k (fun q => { q with shadow := shadow })
    let s := if q.stranded then s
      else s.writeArea n k q 2 q.cpl q.cplPages o e.record (shadow.readN (o / 4096 * 4096) 4096)
    s.publish n k e.irq (fun q =>
      let q := q.modEntry e.pos (fun e => { e with st := .visible })
      { q with completedPos := e.pos + 1, completedAsn := e.asn, faulted := q.faulted || isFaultStatus e.status
               records := (q.records ++ [e.cmdRec]).drop (q.records.length + 1 - 4096) })

/-- Make visible, in order, the records of every ended command at the front, at most `fuel` of them. -/
def State.flushVisible (s : State) (n : StallNo) (k : Nat) : Nat → State
  | 0 => s
  | fuel + 1 =>
    match (s.queue? n k).bind Queue.nextVisible? with
    | none => s
    | some e => if e.st = .ended then State.flushVisible (s.makeVisible n k e) n k fuel else s
/-- All of one queue's. -/
def State.allVisible (s : State) (n : StallNo) (k : Nat) : State :=
  match s.queue? n k with
  | none => s
  | some q => s.flushVisible n k q.entries.length

/-- Does the part still write this queue's areas: not a sealed queue whose session has ended (R460). -/
def State.queueServed (s : State) (q : Queue) : Bool := !q.isSealed || (s.session? q.session.toNat).isSome

end Sys2Proof.Machine
end

