-- ==== Sys2Proof/Machine/AccOps.lean ====
section
/-! DEFINITION. Shared operations of the accounting (R473–R511), the measurement log (R443, R444), the key-slot ledger
(R418–R421) and the yard memory regulator (R357). -/

namespace Sys2Proof.Machine

/-- A 48-byte digest, byte 0 first. -/
def digestBytes (d : BitVec 384) : List Byte := leBytes 48 d.toNat
/-- Availability of a bay and of a Tsuholt port (R38, R41). -/
def State.bayAvail (s : State) (b : Nat) : Bool := has s.pkg.bayOk b
def State.portAvail (s : State) (p : Nat) : Bool := has s.pkg.portOk p && decide (p < linkPorts s.pkg.variant)

/-! Events (R497). -/

/-- Append a record to a log that keeps its last `keep`. -/
def appendEvent (keep : Nat) (l : List AccEvent) (e : AccEvent) : List AccEvent := (l ++ [e]).drop (l.length + 1 - keep)

/-- An event record as the package log takes it. Kinds 9 to 11 have PHASE 0; kinds 10 and 11 name their stall and its new
era in both logs; INDEX names no component there and is a free value. -/
def State.event' (s : State) (kind phase index affected replayed faulted outcome stall era : Nat) : AccEvent :=
  let cap := fun x => min x 0xFFFF
  let own := kind = 10 || kind = 11
  { seq := s.acct.seq + 1, kind := kind, phase := phase, index := if 9 ≤ kind then (Config.freeValue 16 s.free).toNat else index, at' := s.nowW, affected := cap affected
    replayed := cap replayed, faulted := cap faulted, stall := if own then stall else 0xFF, outcome := outcome
    era := if own then era else 0 }
/-- A record joins the package log, which raises ACCOUNTING. -/
def State.packageEvent (s : State) (e : AccEvent) : State :=
  ({ s with acct := { s.acct with log := appendEvent 256 s.acct.log e, seq := s.acct.seq + 1 } }).pfCause .accounting
/-- A record joins the log of stall `n`, with that log's SEQ, and raises its ACCOUNTING. -/
def State.stallEvent (s : State) (n : Nat) (e : AccEvent) : State :=
  let own := e.kind = 10 || e.kind = 11
  onStall n (fun m u => u.vfCause m .accounting) (s.modStall n (fun x =>
    { x with evSeq := x.evSeq + 1
             evLog := appendEvent 64 x.evLog { e with seq := x.evSeq + 1, stall := n, era := if own then e.era else x.journal.era } }))
/-- The part appends an event to the package log and to the logs of the stalls concerned, and raises ACCOUNTING. DEDUCED, log 61. DEDUCED, log 62. -/
def State.accEvent (s : State) (kind phase index affected replayed faulted outcome : Nat) (stall era : Nat) (concern : List Nat) : State :=
  let e := s.event' kind phase index affected replayed faulted outcome stall era
  forAll concern (fun n t => t.stallEvent n e) ({ s with free := s.free + 1 }.packageEvent e)

/-! Eras (R485–R487). -/

def eraMax : Nat := 0xFFFFFF
def countMax : Nat := 0xFFFFFFFFFF
def State.eraFloor (s : State) (n : Nat) : Nat := s.acct.eraFloor.get 0 n
/-- Give stall number `n` a new era, ERA_FLOOR + 1, raising the floor to it. -/
def State.raiseEra (s : State) (n : Nat) : State :=
  { s with acct := { s.acct with eraFloor := s.acct.eraFloor.set 0 n (s.eraFloor n + 1) } }
/-- The era advance of a defined stall whose floor allows one: counts restart at 1, ERA_POS of each live queue becomes
its ACCEPTED_POS, and the advance is an event (R486). -/
def State.advanceEra (s : State) (n : Nat) : State :=
  let s := s.raiseEra n
  let s := s.modStall n (fun t =>
    { t with journal := { t.journal with era := s.eraFloor n, next := [], gen := t.journal.gen + 1 }
             queues := t.queues.map (fun e => (e.1, { e.2 with eraPos := e.2.acceptedPos })) })
  s.accEvent 10 0 0 0 0 0 0 n (s.eraFloor n) [n]
/-- An ASN from its era and count (R484). -/
def asnOf (era count : Nat) : U64 := BitVec.ofNat 64 (era * 2 ^ 40 + count)
/-- NEXT_COUNT of a queue number. -/
def Journal.nextCount (j : Journal) (k : Nat) : Nat := j.next.get 1 k

/-! Journal space and copies (R478, R495, R496). -/

def segUnit : Nat := 0x10000
def segBytes (depth : Nat) (receipts : Bool) : Nat := 128 * depth + (if receipts then 524288 else 0)
/-- The lowest aligned offset at which `need` bytes lie clear of every segment. -/
def Journal.place (j : Journal) (fin need : Nat) : Option Nat :=
  let starts := segUnit :: j.segs.map (fun e => ceilDiv (e.2.ofs + e.2.bytes) segUnit * segUnit)
  let ok := starts.filter (fun c => decide (c + need ≤ fin)
    && j.segs.all (fun e => decide (c + need ≤ e.2.ofs) || decide (e.2.ofs + e.2.bytes ≤ c)))
  match ok with
  | [] => none
  | c :: l => some (l.foldl min c)
/-- The largest free range in bytes, from any aligned start (R504). -/
def Journal.largestFree (j : Journal) (fin : Nat) : Nat :=
  let starts := segUnit :: j.segs.map (fun e => ceilDiv (e.2.ofs + e.2.bytes) segUnit * segUnit)
  let room (c : Nat) : Nat :=
    if j.segs.any (fun e => decide (e.2.ofs ≤ c) && decide (c < e.2.ofs + e.2.bytes)) then 0
    else ((j.segs.filter (fun e => decide (c ≤ e.2.ofs))).map (fun e => e.2.ofs)).foldl min fin - c
  (starts.map room).foldl max 0

/-- Mebibytes of journal copies that lie, or are being built, in a bay. -/
def State.mirrorMib (s : State) (b : Nat) : Nat :=
  (s.stalls.map (fun e =>
    e.2.hold.journalMib * (e.2.journal.copies.filter (· = b)).length
      + (if e.2.journal.rebuild = some b then e.2.hold.journalMib else 0))).sum
/-- The bay R495 gives a replacement copy: the lowest-numbered available yard bay, on a die other than the survivor's,
with room. -/
def State.rebuildBay (s : State) (mibs : Nat) (survivors : List Nat) : Option Nat :=
  (List.range 128).find? (fun b =>
    s.yard.bayOwner.get 0xFF b = 0xFF && s.bayAvail b && survivors.all (fun x => x / 32 ≠ b / 32)
      && decide (s.mirrorMib b + mibs ≤ bayBytes s.pkg.variant / mib))

/-- Has the stall both journal copies in service (R474). -/
def Journal.durable (j : Journal) : Bool := decide (2 ≤ j.copies.length) && j.rebuild.isNone

/-! Jobs of the yard memory regulator (R357). -/

/-- Waiting jobs start as running ones end: at most 8 run, in ascending stall number, then in the order they fell due. -/
def startJobs (now : Nat) : Nat → List YardJob → List YardJob
  | 0, js => js
  | fuel + 1, js =>
    if 8 ≤ (js.filter (fun j => j.start.isSome)).length then js
    else
      let w := js.filter (fun j => j.start.isNone)
      match w with
      | [] => js
      | j :: l =>
        let pick := l.foldl (fun a b => if b.stall < a.stall then b else a) j
        let i := js.idxOf pick
        startJobs now fuel (js.set i { pick with start := some now })
def State.addJob (s : State) (stall bytes : Nat) (k : JobKind) : State :=
  { s with rg := { s.rg with jobs := startJobs s.now 8 (s.rg.jobs ++ [{ stall := stall, kind := k, bytes := bytes, start := none }]) } }
/-- The first running job that serves `stall` so, ends. -/
def State.endJob (s : State) (stall : Nat) (k : JobKind) : State :=
  match s.rg.jobs.find? (fun j => j.stall = stall && j.kind = k) with
  | none => s
  | some j => { s with rg := { s.rg with jobs := startJobs s.now 8 (s.rg.jobs.erase j) } }

/-- Bytes a rebuild copies: the header, the queue table and every allocated segment (R495). -/
def Journal.copyBytes (j : Journal) : Nat := 0x9000 + (j.segs.map (fun e => e.2.bytes)).sum

/-- Place and start the replacement of a stall's lost copy; where no bay serves, the stall keeps one copy (R495, R496). -/
def State.startRebuild (s : State) (n : Nat) : State :=
  match s.stall? n with
  | none => s
  | some t =>
    if t.journal.durable || t.journal.copies.isEmpty || t.journal.rebuild.isSome then s
    else match s.rebuildBay t.hold.journalMib t.journal.copies with
      | none => s
      | some b =>
        (s.modStall n (fun t => { t with journal := { t.journal with rebuild := some b } })).addJob n t.journal.copyBytes .rebuild

/-! Acceptance (R510, R511). -/

/-- Flush entries of a stall: command records not VISIBLE and the carried orphans of its number. -/
def State.flushEntries (s : State) (n : Nat) : Nat :=
  let own := match s.stall? n with
    | none => 0
    | some t => (t.queues.map (fun e =>
        (e.2.entries.filter (fun x => x.st ≠ .visible)).length
          + (match e.2.checking with | some c => c.fresh.length | none => 0))).sum
  own + (match s.acct.orphans.find? n with | some o => o.entries.length | none => 0)
def flushCap : Nat := 8387328
/-- The quotas of every defined stall (R511). -/
def State.setQuotas (s : State) : State :=
  let carried := ((s.acct.orphans.filter (fun e => (s.stall? e.1).isNone)).map (fun e => e.2.entries.length)).sum
  let total := (s.stalls.map (fun e => e.2.hold.journalMib)).sum
  { s with stalls := s.stalls.map (fun e =>
      (e.1, { e.2 with journal := { e.2.journal with quota := (flushCap - carried) * e.2.hold.journalMib / total } })) }
/-- Does the controller's state refuse acceptance (R508, R512). DEDUCED, log 77. -/
def Reserve.refuses (r : Reserve) : Bool := (r.st = .charging || r.st = .fault) && !r.unguarded
/-- DETAIL of REFUSED_RESERVE for one more command of stall `n`, `more` of the same doorbell already journalled. -/
def State.reserveRefusal (s : State) (n more : Nat) : Option Byte :=
  match s.stall? n with
  | none => some 1
  | some t =>
    if s.rsv.refuses || decide (t.journal.quota < s.flushEntries n + more + 1) then some 1
    else if !t.journal.durable then some 2
    else none

/-! The measurement log (R443, R444). -/

def LogEntry.bytes (e : LogEntry) : List Byte :=
  leBytes 1 e.kind ++ leBytes 1 e.ctx ++ leBytes 2 e.handle ++ leBytes 4 e.index ++ leBytes 8 e.at'.toNat ++ digestBytes e.digest
/-- Append an entry to a log: kept while fewer than 4,096 are, chained always. -/
def Attest.append (a : Attest) (kind ctx handle : Nat) (now : U64) (d : BitVec 384) : Attest :=
  let e : LogEntry := { kind := kind, ctx := ctx, handle := handle, index := a.count, at' := now, digest := d }
  { a with log := if a.count < 4096 then a.log ++ [e] else a.log, count := a.count + 1
           digest := Config.sha384 (digestBytes a.digest ++ e.bytes) }
def State.logAppend (s : State) (n kind ctx handle : Nat) (d : BitVec 384) : State :=
  s.modStall n (fun t => { t with attest := t.attest.append kind ctx handle s.nowW d })

/-! The slot ledger (R418–R421). -/

def State.slot (s : State) (k : Nat) : SlotLedger := s.prot.slots.get SlotLedger.init k
def State.setSlot (s : State) (k : Nat) (f : SlotLedger → SlotLedger) : State :=
  { s with prot := { s.prot with slots := s.prot.slots.upd SlotLedger.init k f } }
/-- A slot is granted: HELD with an empty reach. -/
def State.grantSlot (s : State) (k : Nat) : State := s.setSlot k (fun _ => { st := .held, reach := [] })

/-- The intervals of a range of a stall's memory space, bay by bay (R261, R419). -/
def intervalsIn (v : Variant) (jb : Nat → Nat) : List Nat → Nat → Nat → Nat → List Interval
  | [], _, _, _ => []
  | b :: l, start, lo, hi =>
    let len := bayBytes v - jb b
    let a := max lo start - start
    let z := min hi (start + len) - start
    let rest := intervalsIn v jb l (start + len) lo hi
    if max lo start < min hi (start + len) then { bay := b, lo := a, hi := z } :: rest else rest
def Holdings.intervals (h : Holdings) (v : Variant) (base size : Nat) : List Interval :=
  intervalsIn v h.journalIn h.bays 0 base (base + size)

/-- The gap between two intervals of one bay. -/
def Interval.gap (a b : Interval) : Nat := if a.hi ≤ b.lo then b.lo - a.hi else a.lo - b.hi
/-- The closest pair of intervals of one bay, if any bay has two. -/
def closestPair : List Interval → Option (Interval × Interval)
  | [] => none
  | a :: l =>
    let own := (l.filter (fun b => b.bay = a.bay)).foldl
      (fun (m : Option Interval) b => match m with | none => some b | some c => if a.gap b < a.gap c then some b else m) none
    match own, closestPair l with
    | some b, some (c, d) => if a.gap b ≤ c.gap d then some (a, b) else some (c, d)
    | some b, none => some (a, b)
    | none, r => r
/-- Merge the closest pairs until at most 256 intervals remain. -/
def mergeReach : Nat → List Interval → List Interval
  | 0, l => l
  | fuel + 1, l =>
    if l.length ≤ 256 then l
    else match closestPair l with
      | none => l
      | some (a, b) => mergeReach fuel ({ bay := a.bay, lo := min a.lo b.lo, hi := max a.hi b.hi } :: (l.erase a).erase b)
/-- An interval joins a reach: with those of its bay that it overlaps or touches it is one interval. DEDUCED, log 95. -/
def joinReach (l : List Interval) (i : Interval) : List Interval :=
  let near (j : Interval) : Bool := j.bay = i.bay && decide (j.lo ≤ i.hi) && decide (i.lo ≤ j.hi)
  let m := l.filter near
  l.filter (fun j => !near j) ++ [{ bay := i.bay, lo := m.foldl (fun a j => min a j.lo) i.lo, hi := m.foldl (fun a j => max a j.hi) i.hi }]
/-- A region of a stall comes into force: its lines join the reach of the slot its key index names (R419). -/
def State.addReach (s : State) (h : Holdings) (r : RegionRec) : State :=
  s.setSlot (h.slotOf r.keyIndex) (fun x =>
    let l := (h.intervals s.pkg.variant r.base r.size).foldl joinReach x.reach
    { x with reach := mergeReach l.length l })
/-- The regions that are new in `h` come into force. -/
def State.reachAll (s : State) (old : List RegionRec) (h : Holdings) : State :=
  forAll (h.regions.filter (fun r => !old.contains r)) (fun r t => t.addReach h r) s

/-- The intervals of a reach that are not settled. -/
def SlotLedger.left (x : SlotLedger) : List Interval := x.reach.filter (fun i => !x.settled.contains i)
/-- Intervals of a slot that is being cleared settle: those that satisfy `p`. A slot with none left is CLEAN (R420). -/
def SlotLedger.settle (x : SlotLedger) (p : Interval → Bool) : SlotLedger :=
  if x.st ≠ .clearing then x
  else
    let y := { x with settled := x.settled ++ x.left.filter p }
    if y.left.isEmpty then SlotLedger.init else y
/-- A slot is released by a stall that holds the bays `own`: CLEARING, with lines in retired bays, and in bays that left the
stall before and so were cleared, settled at once (R420). -/
def State.releaseSlot (s : State) (own : List Nat) (k : Nat) : State :=
  s.setSlot k (fun x => ({ x with st := .clearing } : SlotLedger).settle (fun i => !s.bayAvail i.bay || !own.contains i.bay))
/-- The Groom has cleared a whole bay, or it is retired. -/
def State.settleBay (s : State) (b : Nat) : State :=
  let all := s.prot.slots.map (fun e => (e.1, e.2.settle (fun i => i.bay = b)))
  { s with prot := { s.prot with slots := all.filter (fun e => e.2 ≠ SlotLedger.init) } }
/-- The bay and the bay byte of an HBM address (R262). -/
def bayByteOf (v : Variant) (a : Nat) : Nat × Nat :=
  let p := a / 2 ^ 30
  let c := a % 2 ^ 30
  let b := pcBay v p
  (b, (c / 256 * pcPerBay v + (bayPcs v b).idxOf p) * 256 + c % 256)
/-- The Groom makes clear the lines of one interval of a bay's bytes. -/
def State.groomInterval (s : State) (i : Interval) : State :=
  let v := s.pkg.variant
  let inside (a : Nat) : Bool :=
    let x := bayByteOf v a
    x.1 = i.bay && decide (i.lo / 64 * 64 ≤ x.2) && decide (x.2 < ceilDiv i.hi 64 * 64)
  { s with
    hbm := s.hbm.filter (fun c => !inside c.1)
    lineSlot := s.lineSlot.filter (fun e => !inside (64 * e.1))
    poison := s.poison.filter (fun l => !inside (64 * l)) }
/-- The Groom clears the reach of slot `k` in the bays its stall still holds (R416, R422): of a slot that is CLEARING nothing is
left in a bay of another stall. -/
def State.clearReach (s : State) (k : Nat) : State :=
  let mine := (s.slot k).left.filter (fun i => (s.yard.bayOwner.get 0xFF i.bay).toNat < 128)
  (forAll mine (fun i t => t.groomInterval i) s).setSlot k (fun x => x.settle (fun i => mine.contains i))

end Sys2Proof.Machine
end

