-- ==== Sys2Proof/Machine/DrvOps.lean ====
section
/-! DEFINITION. Shared operations of Drover: shares, the loft and admission (R314, R322–R325), output rings and their
headers (R326, R333, R334), and the end of a sequence (R335, R340, R341). -/

namespace Sys2Proof.Machine

/-! Limits, shares and the loft. -/

/-- The numbers and weights of the stall's Drover queues. -/
def Stall.drvQueues (t : Stall) : List (Nat × Nat) := (t.queues.filter (fun e => qkEngine e.1 = 3)).map (fun e => (e.1, e.2.weight))
/-- L, the sequence limit in effect (R312), never above DROVER_SEQ. -/
def Stall.seqLimit (t : Stall) : Nat :=
  match t.drover.cfg with
  | none => t.hold.droverSeq
  | some c => if c.seqLimit = 0 then t.hold.droverSeq else min c.seqLimit t.hold.droverSeq
/-- g_q of a Drover queue (R323). -/
def Stall.share (t : Stall) (k : Nat) : Nat :=
  let w := ((t.drvQueues.find? (fun e => e.1 = k)).map (·.2)).getD 0
  t.seqLimit * w / (t.drvQueues.map (·.2)).sum
/-- o_q: sequences of the queue, kept ones whose last command came from it included (R323). -/
def Drover.outstanding (d : Drover) (k : Nat) : Nat := (d.seqs.filter (fun x => x.qk = k)).length
/-- Pages lent, borrowed, held, and reserved but not yet held (R314, R324). -/
def Drover.lentPages (d : Drover) : Nat := match d.cfg with | none => 0 | some c => d.lent / c.pageBytes
def Drover.borrowed (d : Drover) : Nat := (d.borrows.map (fun e => e.2.pages)).sum
def Drover.held (d : Drover) : Nat := (d.seqs.map (fun x => x.pages.length)).sum
def Drover.reserved (d : Drover) : Nat := (d.seqs.map (fun x => x.reserved)).sum
/-- Local loft pages the stall may use: those below the lent ones. -/
def Drover.localPages (d : Drover) : Nat := match d.cfg with | none => 0 | some c => c.loftBytes / c.pageBytes - d.lentPages
/-- LOFT_CAP (R314). -/
def Stall.loftCap (t : Stall) : Nat :=
  match t.drover.cfg with
  | none => 0
  | some _ => min t.hold.loftPages (t.drover.localPages + t.drover.borrowed)
def Stall.freeLoft (t : Stall) : Nat := t.loftCap - t.drover.held - t.drover.reserved
/-- Pages for `n` tokens. -/
def pagesFor (n : Nat) : Nat := ceilDiv n 256
/-- The page a sequence takes next: local while one is free, then far (R335). -/
def Drover.freePage (d : Drover) : Option LoftPage :=
  let used := d.seqs.flatMap (·.pages)
  match (List.range d.localPages).find? (fun i => !used.contains (.near i)) with
  | some i => some (.near i)
  | none =>
    d.borrows.findSome? (fun e => ((List.range e.2.pages).find? (fun i => !used.contains (.far e.1 i))).map (fun i => .far e.1 i))
/-- W_min (R318) for a vocabulary of `v` tokens. -/
def wMin (v b l loft page : Nat) : Nat := 4 * v * min b l + 36 * b + 8 * loft + 2 * page + 64

/-! Admission (R322–R324). -/

/-- The kept sequence a DRV_SUBMIT's PARENT names: of the same context and model, and not claimed. -/
def Drover.parent? (d : Drover) (ctx model asn : Nat) : Option Sequence :=
  d.seqs.find? (fun x => x.st = .kept && x.asn.toNat = asn && x.ctx = ctx && x.model = model && !x.claimed)
/-- The reservation of a DRV_SUBMIT (R324). -/
def submitPages (b : List Byte) (parent : Option Sequence) : Nat :=
  let p := (parent.map (fun x => x.tokens.length)).getD 0
  let h := (parent.map (fun x => x.pages.length)).getD 0
  pagesFor (p + f32 b 0x0C + f8 b 0x0A % 2 + f32 b 0x18) - h
/-- DETAIL of REFUSED_BUSY, if Drover does not admit the DRV_SUBMIT. -/
def Stall.drvRefusal (t : Stall) (k : Nat) (b : List Byte) : Option Byte :=
  let d := t.drover
  let model := f8 b 8
  let pasn := f64 b 0x38
  let parent := d.parent? (qkCtx k) model pasn
  let o := d.outstanding k
  let others := (t.drvQueues.filter (fun e => e.1 ≠ k)).map (fun e => t.share e.1 - d.outstanding e.1)
  if d.cfg.isNone then some 0x06
  else if (d.rings.find? k).isNone then some 0x05
  else if !(d.models.find? model).any (fun m => m.loading.isNone) then some 0x03
  else if pasn ≠ 0 && parent.isNone then some 0x04
  else if !(decide (o < t.share k) || decide (d.seqs.length + others.sum < t.seqLimit)) then some 0x01
  else if t.freeLoft < submitPages b (if pasn = 0 then none else parent) then some 0x02
  else none
/-- Take the DRV_SUBMIT's entry, reservation and claim; `asn` is the one it will be accepted with. -/
def Drover.takeIn (d : Drover) (k : Nat) (pos : U32) (asn : U64) (b : List Byte) : Drover :=
  let pasn := f64 b 0x38
  let parent := if pasn = 0 then none else d.parent? (qkCtx k) (f8 b 8) pasn
  let seqs := d.seqs.map (fun x => if some x.asn = parent.map (·.asn) && x.st = .kept then { x with claimed := true } else x)
  { d with seqs := seqs ++
      [{ qk := k, pos := pos, asn := asn, tag := BitVec.ofNat 32 (f32 b 4), ctx := qkCtx k, model := f8 b 8, st := .admitted
         acceptAt := 0, parent := parent.map (·.asn), claimed := false, reserved := submitPages b parent, pages := []
         tokens := [], read := 0, prompt := 0, generated := 0, text := [], emitted := 0, visible := 0, lastStep := 0
         stop := { tokens := [], strings := [] }, cancel := false, step := 0 }] }
/-- A DRV_SUBMIT taken at a check and not accepted after all: its entry and claim are undone. -/
def Drover.unadmit (d : Drover) (k : Nat) (pos : U32) : Drover :=
  match d.seqs.find? (fun x => x.qk = k && x.pos = pos && x.st = .admitted) with
  | none => d
  | some x => { d with seqs := (d.seqs.erase x).map (fun y => if some y.asn = x.parent then { y with claimed := false } else y) }

def State.modDrover (s : State) (n : Nat) (f : Drover → Drover) : State := s.modStall n (fun t => { t with drover := f t.drover })
def Drover.modRing (d : Drover) (k : Nat) (f : OutRing → OutRing) : Drover :=
  match d.rings.find? k with
  | none => d
  | some r => { d with rings := d.rings.put k (some (f r)) }
def Drover.modSeq (d : Drover) (asn : U64) (f : Sequence → Sequence) : Drover :=
  { d with seqs := d.seqs.map (fun x => if x.asn = asn then f x else x) }

/-! Output rings. -/

def OutRing.depth (r : OutRing) : Nat := 2 ^ r.log2Depth
/-- Free record slots (R334). -/
def OutRing.room (r : OutRing) : Nat := r.depth - (r.produced - r.consumed).toNat
/-- +0x00 to +0x1F of the output header (R326). -/
def OutRing.header (r : OutRing) (o g : Nat) : List Byte :=
  leBytes 4 r.outSeq.toNat ++ leBytes 4 r.busy.toNat ++ leBytes 4 r.produced.toNat ++ leBytes 4 o ++ leBytes 4 g
    ++ leBytes 4 r.busyCount.toNat ++ zeros 8

/-- One publication of an output header (R326): `f` changes the ring, the header is written, and a change of
BUSY_PRESSURE sends the queue's message when IRQ_PRESSURE is set. -/
def State.outPublish (s : State) (n : StallNo) (k : Nat) (f : OutRing → OutRing) : State :=
  match (s.stall? n).bind (fun t => (t.drover.rings.find? k).bind (fun r => (t.queue? k).map (fun q => (t, r, q)))) with
  | none => s
  | some (t, r, q) =>
    let r1 := f r
    let r2 := { r1 with outSeq := r1.outSeq + 2 }
    let s := s.modDrover n (fun d => d.modRing k (fun _ => r2))
    let h := r2.header (t.drover.outstanding k) (t.share k)
    let s := if s.queueServed q then s.writeArea n k q 5 r.hdr 1 0 h h else s
    if q.irqPressure && r2.busy != r.busy then s.queueMsi n q.vector else s

/-- Write records into an output ring and make them visible (R334): the bytes, then PRODUCED. Records beyond the free
slots wait. -/
def State.outRecords (s : State) (n : StallNo) (k : Nat) (recs : List (List Byte)) : State :=
  match (s.stall? n).bind (fun t => (t.drover.rings.find? k).bind (fun r => (t.queue? k).map (fun q => (r, q)))) with
  | none => s
  | some (r, q) =>
    let all := r.late ++ recs
    let now := all.take r.room
    let places := now.zipIdx.map (fun e => (64 * ((r.produced.toNat + e.2) % r.depth), e.1))
    let s := forAll places (fun p t =>
      let sh := match (t.stall? n).bind (fun x => x.drover.rings.find? k) with
        | none => []
        | some r => r.shadow
      let sh := if q.isSealed then sh.writeL p.1 p.2 else sh
      let t := t.modDrover n (fun d => d.modRing k (fun r => { r with shadow := sh }))
      if t.queueServed q then
        t.writeArea n k q 4 r.ring (max 1 (r.depth / 64)) p.1 p.2 (sh.readN (p.1 / 4096 * 4096) 4096)
      else t) s
    let s := s.modDrover n (fun d => d.modRing k (fun r => { r with late := all.drop now.length }))
    if now.isEmpty then s else s.outPublish n k (fun r => { r with produced := r.produced + BitVec.ofNat 32 now.length })

/-- An output record (R333). -/
def outRecord (x : Sequence) (kind count pos : Nat) (data : List Byte) : List Byte :=
  leBytes 8 x.asn.toNat ++ leBytes 1 kind ++ leBytes 1 count ++ zeros 2 ++ leBytes 4 x.tag.toNat ++ leBytes 4 pos ++ zeros 4
    ++ fit 40 data
/-- The END record of a sequence. -/
def endRecord (x : Sequence) (reason : Nat) : List Byte :=
  outRecord x 3 0 0 (leBytes 1 reason ++ zeros 3 ++ leBytes 4 x.generated ++ leBytes 4 x.prompt ++ leBytes 4 x.pages.length)

/-- After an END of one of the queue's sequences, BUSY_PRESSURE clears when o_q has fallen to three quarters of the share
(R326). -/
def Stall.busyClears (t : Stall) (k : Nat) : Bool := decide (4 * t.drover.outstanding k ≤ 3 * t.share k)

/-- A sequence stops (R331, R335, R340): its END record, then its pages return or it is kept, and its entry is freed.
The command's end is the caller's. DEDUCED, log 43. -/
def State.endSequence (s : State) (n : StallNo) (x : Sequence) (reason : Nat) (keep : Bool) : State :=
  let s := s.modDrover n (fun d =>
    { d with seqs := if keep then d.seqs.map (fun y => if y.asn = x.asn then { x with st := .kept, reserved := 0, step := 0 } else y)
                     else d.seqs.filter (fun y => y.asn ≠ x.asn) })
  let s := s.outRecords n x.qk [endRecord x reason]
  match s.stall? n with
  | none => s
  | some t => s.outPublish n x.qk (fun r => { r with busy := r.busy && !t.busyClears x.qk })

/-- Every sequence of a context stops: END with REASON 7 for those not kept, and kept ones are freed (R340). -/
def State.drvKill (s : State) (n : StallNo) (c : Nat) : State :=
  match s.stall? n with
  | none => s
  | some t =>
    forAll (t.drover.seqs.filter (fun x => x.ctx = c)) (fun x u =>
      if x.st = .kept then u.modDrover n (fun d => { d with seqs := d.seqs.filter (fun y => y.asn ≠ x.asn) })
      else u.endSequence n x 7 false) s

/-- Sequences that satisfy `p` stop with REASON 6 and their commands end FAULTED_PARTIAL with a DETAIL (R340). -/
def State.drvFail (s : State) (n : StallNo) (p : Sequence → Bool) (detail : Byte) : State :=
  match s.stall? n with
  | none => s
  | some t =>
    forAll (t.drover.seqs.filter p) (fun x u =>
      if x.st = .kept then u.modDrover n (fun d => { d with seqs := d.seqs.filter (fun y => y.asn ≠ x.asn) })
      else (u.endSequence n x 6 false).finish n x.qk x.pos stPartial detail (BitVec.ofNat 64 x.generated)) s

end Sys2Proof.Machine
end

