-- ==== Sys2Proof/Machine/Operands.lean ====
section
/-! DEFINITION. The 64-byte commands (R219–R223, R319): each opcode's engines, fields and ranges, and the checks of form
and rights that a doorbell makes (R216 checks 3 and 4, R225). -/

namespace Sys2Proof.Machine

/-! Fields of a body, by offset. -/
def Entry.u8 (e : Entry) (o : Nat) : Nat := f8 e.bytes o
def Entry.u16 (e : Entry) (o : Nat) : Nat := f16 e.bytes o
def Entry.u32 (e : Entry) (o : Nat) : Nat := f32 e.bytes o
def Entry.u64 (e : Entry) (o : Nat) : Nat := f64 e.bytes o

/-- The engines that take an opcode (R220, R319): none for a reserved one. -/
def opEngines (op : Nat) : List Nat :=
  if [0x01, 0x08, 0x09, 0x0A, 0x0B, 0x0C, 0x10, 0x11, 0x12, 0x13, 0x14].contains op then [0, 1, 2, 3]
  else if op = 0x02 || op = 0x03 || op = 0x04 then [0]
  else if 0x20 ≤ op && op ≤ 0x23 then [1]
  else if 0x30 ≤ op && op ≤ 0x32 then [2]
  else if 0x40 ≤ op && op ≤ 0x42 then [3]
  else []

/-- The named bytes of an opcode's body, as (offset, size); every other byte of +0x08 to +0x3F is reserved. -/
def opFields (op : Nat) : List (Nat × Nat) :=
  match op with
  | 0x02 => [(0x08, 8), (0x10, 8), (0x18, 8), (0x20, 4), (0x24, 4), (0x28, 2), (0x2A, 2), (0x2C, 4)]
  | 0x03 => [(0x08, 8), (0x10, 8), (0x18, 8), (0x20, 8), (0x2A, 2), (0x2C, 4)]
  | 0x04 => [(0x08, 1)]
  | 0x08 => [(0x08, 8)]
  | 0x09 => [(0x08, 1)]
  | 0x0A => [(0x08, 1), (0x0A, 2), (0x0C, 4), (0x10, 8)]
  | 0x0B => [(0x08, 1)]
  | 0x0C => [(0x08, 8)]
  | 0x10 => [(0x08, 8), (0x10, 8), (0x18, 1)]
  | 0x11 => [(0x08, 8), (0x10, 8), (0x18, 1), (0x20, 8)]
  | 0x12 => [(0x08, 1), (0x09, 1), (0x10, 8), (0x18, 8)]
  | 0x13 => [(0x08, 1)]
  | 0x14 => [(0x08, 8), (0x10, 8), (0x18, 32)]
  | 0x20 => [(0x08, 8), (0x10, 8), (0x18, 8), (0x20, 1), (0x21, 1), (0x24, 4)]
  | 0x21 => [(0x08, 8), (0x10, 8), (0x18, 4), (0x1C, 4), (0x20, 4), (0x24, 4), (0x28, 1), (0x29, 1)]
  | 0x22 => [(0x08, 8), (0x10, 8), (0x18, 8), (0x20, 1)]
  | 0x23 => [(0x08, 8), (0x10, 8), (0x18, 8), (0x20, 1), (0x24, 4), (0x28, 8)]
  | 0x30 | 0x31 => [(0x08, 8), (0x10, 8), (0x18, 8), (0x20, 1), (0x21, 1), (0x22, 1)]
  | 0x32 => [(0x08, 1), (0x09, 1), (0x0A, 1), (0x0B, 1), (0x0C, 4), (0x10, 8), (0x18, 8), (0x20, 8), (0x28, 8)]
  | 0x40 => [(0x08, 1), (0x09, 1), (0x0A, 1), (0x0C, 4), (0x10, 8), (0x18, 4), (0x1C, 2), (0x1E, 2), (0x20, 2), (0x28, 8),
      (0x30, 8), (0x38, 8)]
  | 0x41 | 0x42 => [(0x08, 1), (0x10, 8)]
  | _ => []

/-- Reserved bytes that are not 0 (R20, R219). -/
def reservedBadCmd (b : List Byte) : List Nat :=
  let named := (opFields (f8 b 0)).flatMap (fun r => (List.range r.2).map (fun i => r.1 + i))
  ([2, 3] ++ (List.range 56).map (· + 8)).filter (fun o => !named.contains o && f8 b o ≠ 0)

/-- Bits of one element of a format (R239); 0 for a code that names none. -/
def formatBits (c : Nat) : Nat :=
  match c with
  | 0x01 => 2 | 0x02 => 4 | 0x03 => 8 | 0x04 => 16 | 0x05 => 4 | 0x06 => 6 | 0x07 => 6 | 0x08 => 8 | 0x09 => 8
  | 0x0A => 16 | 0x0B => 16 | 0x0C => 32 | 0x0D => 32 | 0x0E => 8 | _ => 0
/-- DTYPEs of a reducing collective (R393). -/
def reduceType (c : Nat) : Bool := [0x03, 0x04, 0x08, 0x09, 0x0A, 0x0B, 0x0C, 0x0D].contains c

/-- What an acceptance check needs to know of the stall and the queue beside the command. -/
structure CmdEnv where
  hold : Holdings
  podSize : Nat
  receiptOk : Nat → Bool        -- FIRST_ASN names a command within reach (R225)
  sessionOk : Nat → Bool        -- a secure session of the stall (R459)
  deleted : Bool

/-- Offsets of fields outside their ranges (R221–R223, R225, R319, R459). -/
def rangeBad (v : CmdEnv) (b : List Byte) : List Nat :=
  let u8 := f8 b; let u16 := f16 b; let u32 := f32 b; let u64 := f64 b
  let launch := badIf (u64 0x08 % 4096 ≠ 0) 0x08 ++ badIf (u64 0x10 % 64 ≠ 0) 0x10 ++ badIf (4096 < u32 0x2C) 0x2C
  match u8 0 with
  | 0x02 => launch ++ badIf (u32 0x20 = 0) 0x20 ++ badIf (u32 0x24 = 0) 0x24 ++ badIf (u16 0x28 = 0) 0x28
  | 0x03 => launch
  | 0x04 => badIf (1 < u8 8) 8
  | 0x0A => badIf (1023 < u16 0x0A) 0x0A
  | 0x0C => badIf (u64 8 % 8 ≠ 0) 8
  | 0x10 => badIf (u64 8 % 8 ≠ 0) 8 ++ badIf (2 < u8 0x18) 0x18
  | 0x11 => badIf (u64 8 % 8 ≠ 0) 8 ++ badIf (2 < u8 0x18) 0x18
  | 0x12 => badIf (3 < u8 8) 8 ++ badIf (7 < u8 9) 9 ++ badIf (u64 0x10 = 0) 0x10
  | 0x13 => badIf (2 < u8 8) 8
  | 0x14 => badIf (u64 8 % 64 ≠ 0) 8 ++ badIf (!v.receiptOk (u64 0x10)) 0x10
  | 0x20 =>
    badIf (u64 0x18 = 0 || 2 ^ 40 < u64 0x18) 0x18 ++ badIf (2 < u8 0x20) 0x20 ++ badIf (2 < u8 0x21) 0x21
    ++ badIf (u8 0x20 ≠ 0 && u8 0x21 ≠ 0) 0x21
    ++ (if u8 0x20 = 2 || u8 0x21 = 2 then badIf (u64 0x18 % 4096 ≠ 0) 0x18 ++ badIf (!v.sessionOk (u32 0x24)) 0x24
        else badIf (u32 0x24 ≠ 0) 0x24)
  | 0x21 =>
    badIf (u32 0x18 = 0) 0x18 ++ badIf (u32 0x1C = 0) 0x1C ++ badIf (u32 0x20 < u32 0x18) 0x20 ++ badIf (u32 0x24 < u32 0x18) 0x24
    ++ badIf (1 < u8 0x28) 0x28 ++ badIf (1 < u8 0x29) 0x29 ++ badIf (u8 0x28 ≠ 0 && u8 0x29 ≠ 0) 0x29
  | 0x22 =>
    let pat := [1, 2, 4, 8].contains (u8 0x20)
    badIf (u64 0x10 = 0 || 2 ^ 40 < u64 0x10) 0x10 ++ badIf (!pat || u64 0x10 % u8 0x20 ≠ 0) 0x20
  | 0x23 => badIf (u64 0x18 = 0 || u64 0x18 % 4096 ≠ 0) 0x18 ++ badIf (1 < u8 0x20) 0x20 ++ badIf (u64 0x28 % 4096 ≠ 0) 0x28
  | 0x30 | 0x31 =>
    badIf (u64 0x18 = 0 || 2 ^ 40 < u64 0x18) 0x18 ++ badIf (v.podSize ≤ u8 0x20) 0x20 ++ badIf (127 < u8 0x21) 0x21
  | 0x32 =>
    let op := u8 8
    let reducing := op = 0 || op = 2
    badIf (4 < op) 8 ++ badIf (2 < u8 9 || (!reducing && u8 9 ≠ 0)) 9
    ++ badIf (if reducing then !reduceType (u8 0x0A) else u8 0x0A = 0 || 0x0D < u8 0x0A) 0x0A
    ++ badIf (63 < u8 0x0B || (op ≠ 3 && u8 0x0B ≠ 0)) 0x0B
    ++ badIf (u64 0x20 = 0 || (u64 0x20 * formatBits (u8 0x0A)) % 8 ≠ 0) 0x20
  | 0x40 =>
    badIf (3 < u8 8) 8 ++ badIf (1 < u8 9) 9 ++ badIf (31 < u8 0x0A) 0x0A
    ++ badIf ((u32 0x0C = 0 && u64 0x38 = 0)) 0x0C
    ++ badIf (u32 0x18 = 0 || 2 ^ 24 - 1 < u32 0x18 || 2 ^ 24 < u32 0x0C + u32 0x18 + u8 0x0A % 2) 0x18
    ++ badIf (1024 < u16 0x1E) 0x1E
  | 0x41 | 0x42 => badIf (7 < u8 8) 8
  | _ => []

/-- Check 3 of R216: the DETAIL of REFUSED_MALFORMED, if the command is malformed. -/
def malformedAt (v : CmdEnv) (engine : Nat) (b : List Byte) : Option Nat :=
  if !(opEngines (f8 b 0)).contains engine then some 0
  else lowest (badIf (15 < f8 b 1) 1 ++ reservedBadCmd b ++ rangeBad v b)

/-- Check 4 of R216: the DETAIL of REFUSED_RIGHTS, if the stall lacks what the command names (R225). -/
def rightsAt (v : CmdEnv) (b : List Byte) : Option Nat :=
  let op := f8 b 0
  let h := v.hold
  let kindBad (o : Nat) : List Nat := badIf ((f8 b o = 1 && h.iso = 3) || (f8 b o = 2 && h.iso ≠ 3)) o
  lowest (badIf v.deleted 0
    ++ (if op = 0x09 || op = 0x0A || op = 0x0B then badIf (h.gates.length ≤ f8 b 8) 8 else [])
    ++ (if op = 0x23 then badIf (h.iso ≠ 3) 0 ++ kindBad 0x20 else [])
    ++ (if op = 0x14 then badIf (!h.receipts) 0 else [])
    ++ (if op = 0x20 then kindBad 0x20 ++ kindBad 0x21 else [])
    ++ (if op = 0x21 then kindBad 0x28 ++ kindBad 0x29 else [])
    ++ (if op = 0x30 || op = 0x31 || op = 0x32 then badIf h.links.isEmpty 0 else [])
    ++ (if op = 0x30 || op = 0x31 then badIf (f8 b 0x22 ≠ 0xFF && h.links.length ≤ f8 b 0x22) 0x22 else []))

/-- Is the command's side effect non-replayable (R229). -/
def nonReplayable (b : List Byte) : Bool :=
  let op := f8 b 0
  f8 b 1 / 4 % 2 = 1 || (op = 0x10 && f8 b 0x18 = 1) || op = 0x30 || op = 0x31 || op = 0x32 || op = 0x0A || op = 0x0B || op = 0x14

end Sys2Proof.Machine
end

