-- ==== Sys2Proof/Machine/LinkOps.lean ====
section
/-! DEFINITION. Shared operations of the Tsuholt ports: channels and credits (R370–R373), frames and what is kept for
resending (R379, R380), sending and forwarding messages (R382, R383). -/

namespace Sys2Proof.Machine

def State.tlp (s : State) (p : Nat) : TlPort := s.tl.ports.get TlPort.init p
def State.setTlp (s : State) (p : Nat) (f : TlPort → TlPort) : State :=
  { s with tl := { s.tl with ports := s.tl.ports.upd TlPort.init p f } }
def State.tlEvt (s : State) (b : Nat) : State := { s with tl := { s.tl with evt := incl s.tl.evt b } }
/-- Bits of TL_EVT (R401). -/
def evtDown : Nat := 0
def evtRetired : Nat := 1
def evtMaster : Nat := 2
def evtMismatch : Nat := 3
def evtApart : Nat := 4
def evtRekey : Nat := 5

/-- This package's POD_PKG_ID and POD_SIZE; the default plan takes none (R137). DEDUCED, log 93. -/
def State.podId (s : State) : Nat := if s.yard.isDefault then 0xFF else s.yard.active.policy.podPkgId
/-- DEDUCED, log 93. -/
def State.podSize (s : State) : Nat := if s.yard.isDefault then 0 else s.yard.active.policy.podSize
/-- Does a port carry time frames: it is ACTIVE or LOWPOWER (R395). -/
def TlPort.up (x : TlPort) : Bool := x.st = .active || x.st = .lowpower
/-- Do the peer's IDs keep stall traffic off the port (R377). -/
def State.mismatched (s : State) (x : TlPort) : Bool :=
  s.yard.isDefault || (x.told && (x.peerPkg = s.podId || x.peerSize ≠ s.podSize || x.peerSize = 0))
/-- May a stall's or forwarded message use the port. DEDUCED, log 54. -/
def State.portUsable (s : State) (p : Nat) : Bool := (s.tlp p).up && !s.mismatched (s.tlp p)

/-! Channels, classes and credits (R370, R371). -/

/-- The virtual channel of an opcode. -/
def channelOf (op : Nat) : Nat :=
  if op = 0x12 then 0 else if op = 0x11 || op = 0x13 then 1 else if op = 0x10 || op = 0x20 then 2 else 3
/-- Messages of VC3's per-hop pool. -/
def perHop (op : Nat) : Bool := 0x30 ≤ op && op ≤ 0x34
def classOf (op : Nat) (m : LinkMsg) : Nat := if perHop op then 3 else m.hops - 1
/-- Flits of the receive buffer for a channel and class. -/
def creditCap : Nat → Nat
  | 0 => 128 | 1 => 512 | 2 => 640 | _ => 64
def creditKey (vc cls : Nat) : Nat := 4 * vc + cls
/-- Flits a message takes: its header flit and its data flits. -/
def msgFlits (m : LinkMsg) : Nat := 1 + ceilDiv m.data.length 256
/-- The 32-byte header (R371). -/
def msgHeader (m : LinkMsg) (op : Nat) : List Byte :=
  leBytes 1 op ++ leBytes 1 m.hops ++ leBytes 1 m.src ++ leBytes 1 m.dst ++ leBytes 1 m.srcStall ++ leBytes 1 m.dstStall
    ++ leBytes 2 (ceilDiv m.data.length 256) ++ leBytes 8 m.addr ++ leBytes 8 m.keyT ++ leBytes 2 m.ticket ++ leBytes 2 m.data.length
    ++ leBytes 4 m.seq

/-! Frames (R367, R376, R379). -/

/-- The number of the frame the port is sending: frames follow one another every 819.2 gticks, or every 6,553.6 on lane 0
alone (R367, R378). DEDUCED, log 54. -/
def TlPort.frame (x : TlPort) (now : Nat) : Nat :=
  x.frames + (if x.st = .lowpower then (now - x.frameAt) * 10 / 65536 else (now - x.frameAt) * 10 / 8192)
/-- When the port sends frame `f`, at its present rate. -/
def TlPort.frameTime (x : TlPort) (f : Nat) : Nat :=
  x.frameAt + (if x.st = .lowpower then ceilDiv ((f - x.frames) * 65536) 10 else ceilDiv ((f - x.frames) * 8192) 10)
/-- The count so far, from which it goes on at another rate or under other keys; a rekey's new keys come into use after
frame 2^32 - 1 (R376). -/
def TlPort.settle (x : TlPort) (now : Nat) : TlPort :=
  if !x.up then x
  else
    let f := x.frame now
    if 2 ^ 32 ≤ f && x.switched && x.nextKeys.isSome then
      { x with frames := f - 2 ^ 32, frameAt := now, epoch := x.epoch + 1, keys := x.nextKeys, nextKeys := none, switched := false, keyx := none }
    else { x with frames := f, frameAt := now }

/-! Sending. -/

/-- Put one message on the wire: its credits are in use, it is kept for resending, and the buffer a forwarded one occupied
is free. -/
def State.emitLink (s : State) (p : Nat) (x : LinkOut) : State :=
  let key := creditKey (channelOf x.op) (classOf x.op x.msg)
  let n := msgFlits x.msg
  let s := s.setTlp p (fun t =>
    let f := t.frame s.now
    { t with used := t.used.upd 0 key (· + n), tx := t.tx + BitVec.ofNat 64 (256 * n)
             kept := (t.kept ++ [(f, x)]).filter (fun e => f < e.1 + 256) })
  let s := s.emit (match x.mgmt with
    | none => .link p x.op x.msg
    | some b => .mgmt p x.msg b)
  match x.holds with
  | none => s
  | some (q, vc, cls, k) => s.emit (.credit q vc cls k)
/-- May a message leave now: the port's state carries it and its channel and class have credit (R370, R374, R378). -/
def TlPort.maySend (t : TlPort) (x : LinkOut) : Bool :=
  (match t.st with
    | .active => true
    | .lowpower | .keyx => perHop x.op
    | _ => false)
  && decide (t.used.get 0 (creditKey (channelOf x.op) (classOf x.op x.msg)) + msgFlits x.msg ≤ creditCap (channelOf x.op))
/-- Send what the port can, in order within each channel and class; a port on lane 0 with more to carry sends WAKE. -/
def State.pump (s : State) (p : Nat) : State :=
  let q := (s.tlp p).sendq
  let r := q.foldl (fun (a : State × List LinkOut × List Nat) x =>
    let key := creditKey (channelOf x.op) (classOf x.op x.msg)
    if a.2.2.contains key || !(a.1.tlp p).maySend x then (a.1, a.2.1 ++ [x], key :: a.2.2)
    else (a.1.emitLink p x, a.2.1, a.2.2)) (s.setTlp p (fun t => { t with sendq := [] }), [], [])
  let s := r.1.setTlp p (fun t => { t with sendq := r.2.1 })
  let t := s.tlp p
  if t.st = .lowpower && !t.waking && !t.sendq.isEmpty then
    (s.setTlp p (fun t => { t with waking := true })).emitLink p
      { op := 0x34, mgmt := none, holds := none
        msg := { hops := 1, src := s.podId, dst := 0xFF, srcStall := 0xFF, dstStall := 0xFF, addr := 0, keyT := 0, ticket := 0, seq := 0
                 data := [], poison := false, read := false, span := 0, fault := false } }
  else s
/-- Queue a message on a port that has a neighbour, and send what can go. -/
def State.sendOut (s : State) (p : Nat) (x : LinkOut) : State :=
  if (s.tlp p).st = .disabled || (s.tlp p).st = .detect || (s.tlp p).st = .retired then s
  else (s.setTlp p (fun t => { t with sendq := t.sendq ++ [x] })).pump p
def State.sendMsg (s : State) (p op : Nat) (m : LinkMsg) : State := s.sendOut p { op := op, msg := m, mgmt := none, holds := none }
def State.sendMgmt (s : State) (p : Nat) (m : LinkMsg) (b : Mgmt) : State := s.sendOut p { op := 0x38, msg := m, mgmt := some b, holds := none }
/-- A message of this package. -/
def State.newMsg (s : State) (srcStall dst dstStall : Nat) : LinkMsg :=
  { hops := 1, src := s.podId, dst := dst, srcStall := srcStall, dstStall := dstStall, addr := 0, keyT := 0, ticket := 0, seq := 0
    data := [], poison := false, read := false, span := 0, fault := false }
/-- A message of the link itself. -/
def State.hopMsg (s : State) (data : List Byte) : LinkMsg := { s.newMsg 0xFF 0xFF 0xFF with data := data }

/-! Routing (R382–R384). -/

/-- The port a stall's traffic leaves on: link record `link`, or for 0xFF the lowest held port whose neighbour is the
destination, else the lowest that is usable. At ISO_LEVEL 3 only a neighbour is reached. -/
def State.stallPort (s : State) (h : Holdings) (link dst : Nat) : Option Nat :=
  let ports := h.links.map (·.port)
  let near (p : Nat) : Bool := (s.tlp p).told && (s.tlp p).peerPkg = dst
  let pick := if link ≠ 0xFF then ports[link]?
    else match List.find? (fun (p : Nat) => near p && s.portUsable p) ports with
      | some p => some p
      | none => List.find? (fun (p : Nat) => s.portUsable p) ports
  pick.filter (fun p => s.portUsable p && (h.iso ≠ 3 || near p))
/-- The port a forwarded message leaves on (R383). -/
def State.routePort (s : State) (m : LinkMsg) : Option Nat :=
  match List.find? (fun (r : RouteRec) => r.dest = m.dst) s.yard.active.routes with
  | none => none
  | some r =>
    let ports := (List.range 48).filter (fun p => has (BitVec.ofNat 48 r.mask) p && s.portUsable p)
    ports[(m.src + m.ticket) % ports.length]?
/-- Does a message carry a ticket. -/
def ticketed (op : Nat) : Bool := [0x01, 0x02, 0x04, 0x10, 0x11, 0x12, 0x13].contains op
/-- TK_DENY to a message's source, with its cause in the first data byte. -/
def State.deny (s : State) (p : Nat) (m : LinkMsg) (cause : Nat) : State :=
  s.sendMsg p 0x03 { s.newMsg m.dstStall m.src m.srcStall with keyT := m.keyT, ticket := m.ticket, data := leBytes 1 cause }
/-- Forward a message that came in on port `p`, or discard it (R383). DEDUCED, log 56. -/
def State.forwardMsg (s : State) (p op : Nat) (m : LinkMsg) (b : Option Mgmt) : State :=
  let free (u : State) : State := u.emit (.credit p (channelOf op) (classOf op m) (msgFlits m))
  match if 3 < m.hops + 1 then none else s.routePort m with
  | none => if ticketed op then (free s).deny p m 2 else free s
  | some q =>
    s.sendOut q { op := op, msg := { m with hops := m.hops + 1 }, mgmt := b, holds := some (p, channelOf op, classOf op m, msgFlits m) }

/-! Pod time (R396–R398). -/

/-- A candidate for time master: priority, ID, hops, and the port whose neighbour advertises it. -/
structure Cand where
  prio : Nat
  id : Nat
  hops : Nat
  port : Option Nat
  deriving DecidableEq, Repr
/-- Every candidate (R397). -/
def State.candidates (s : State) : List Cand :=
  let own := s.yard.active.policy.timePriority
  (if own ≠ 0 && !s.yard.isDefault then [⟨own, s.podId, 0, none⟩] else [])
    ++ s.tl.ports.filterMap (fun e => e.2.advert.map (fun a => ⟨a.prio, a.id, a.hops, some e.1⟩))
/-- The better of two: higher priority, then lower ID; of one master, this package itself, then fewer hops, then the lower
port, which stands first. -/
def Cand.beats (a b : Cand) : Bool :=
  if a.prio ≠ b.prio then decide (b.prio < a.prio)
  else if a.id ≠ b.id then decide (a.id < b.id)
  else if a.port.isNone || b.port.isNone then a.port.isNone && b.port.isSome
  else decide (a.hops < b.hops)
def bestCand (l : List Cand) : Option Cand := l.foldl (fun (m : Option Cand) c => match m with
  | none => some c
  | some b => if c.beats b then some c else some b) none
/-- With no upstream port an aligned package is locked and its offset reads 0 (R49). -/
def State.freeRun (s : State) : State :=
  if s.tl.up.isNone && s.gtb.aligned then { s with gtb := { s.gtb with lock := true, servoOfs := 0 } } else s
/-- Choose the time master afresh (R397). An upstream port whose advertisement is gone leaves TRIM at F and holds over
(R398). -/
def State.chooseMaster (s : State) : State :=
  let b := bestCand s.candidates
  let lost := match s.tl.up with
    | none => false
    | some p => (s.tlp p).advert.isNone
  let t := s.tl
  let new : Tsuholt :=
    { t with
      up := b.bind (·.port), isMaster := b.any (fun c => c.port.isNone), masterId := (b.map (·.id)).getD 0xFF
      masterPrio := (b.map (·.prio)).getD 0, holdover := t.holdover || lost
      masterHops := (b.map (fun c => if c.port.isNone then 0 else c.hops + 1)).getD 0xFF }
  let s := { s with tl := new }
  let s := if new.masterId ≠ t.masterId then s.tlEvt evtMaster else s
  let s := if lost && s.gtb.servoAuto then s.setTrim t.freq else s
  s.freeRun

/-! Leaving ACTIVE (R380, R381). -/

/-- Has the port retrained 16 times within 2^36 gticks. -/
def TlPort.worn (x : TlPort) : Bool := decide (16 ≤ x.retrains.length)
/-- The port goes back to TRAIN and keeps its unacknowledged messages. DEDUCED, log 57. -/
def State.retrainPort (s : State) (p : Nat) : State :=
  if !(s.tlp p).up then s
  else (s.setTlp p (fun x =>
    { x with st := .train, stepAt := s.now, keyx := none, keys := none, nextKeys := none, switched := false, badRun := 0, tagRun := 0
             waking := false, retrains := x.retrains.filter (fun t => s.now < t + 2 ^ 36) ++ [s.now] })).tlEvt evtDown
/-- A port that can carry nothing any more forgets its frames and its neighbour. -/
def TlPort.shut (x : TlPort) (st : PortSt) (now : Nat) : TlPort :=
  { x with st := st, stepAt := now, fails := 0, keyx := none, keys := none, nextKeys := none, switched := false, kept := [], sendq := [], used := []
           waking := false, inbox := [], told := false, peerPkg := 0, peerPort := 0, peerSize := 0, mismatch := false, tTx := 0, tRx := 0
           advert := none }

end Sys2Proof.Machine
end

