-- ==== Sys2Proof/Machine/Mailbox.lean ====
section
/-! DEFINITION. The RTP mailbox (R189–R195, R593): taking a request at GO, the checks every request meets, and its
response. -/

namespace Sys2Proof.Machine

/-- RESULT codes (R192). -/
def resOk : Byte := 0x01
def resRefused : Byte := 0x02
def resMalformed : Byte := 0x03
def resNotPermitted : Byte := 0x04
def resUnknown : Byte := 0x05
def resFetchFailed : Byte := 0x06
def resRejected : Byte := 0x07

/-- A response: RESULT, DETAIL and payload (R191). -/
structure Answer where
  result : Byte
  detail : Byte
  payload : List Byte
  deriving DecidableEq, Repr
def okWith (p : List Byte) : Answer := ⟨resOk, 0, p⟩
def ok : Answer := okWith []
def refuse (d : Nat) : Answer := ⟨resRefused, BitVec.ofNat 8 d, []⟩
/-- DETAIL is the offset of the first bad field in the payload, saturating at 0xFF (R192, R594). DEDUCED, log 14. -/
def malformed (o : Nat) : Answer := ⟨resMalformed, BitVec.ofNat 8 (min o 0xFF), []⟩
/-- A wrong LEN is reported at LEN's own offset in the request header. DEDUCED, log 14. -/
def badLen : Answer := malformed 0x04
def notPermitted : Answer := ⟨resNotPermitted, 0, []⟩

/-- REFUSED for a state whose DETAIL the spec does not give: a free value. DESIGN CHOICE, log 13. -/
def State.refuseFree (s : State) : Answer × State := let r := s.draw 8; (⟨resRefused, r.1, []⟩, r.2)

/-- The mailbox of the requesting instance. -/
def State.mb (s : State) : Fn → Mailbox
  | .pf0 p => (s.pf p).mb
  | .vf p n => (s.vf p n).mb
  | .rtp => Mailbox.init
def State.setMb (s : State) (f : Fn) (g : Mailbox → Mailbox) : State :=
  match f with
  | .pf0 p => s.setPf p (fun i => { i with mb := g i.mb })
  | .vf p n => s.setVf p n (fun i => { i with mb := g i.mb })
  | .rtp => s
/-- The number of a mailbox instance in the history table: PF0 of port p at p, a VF at 4 + 128 p + s. -/
def mbKey : Fn → Nat
  | .pf0 p => p
  | .vf p n => 4 + vfKey p n
  | .rtp => 4096

/-- A response header as bytes (R191). -/
def RespHdr.bytes (h : RespHdr) : List Byte :=
  leBytes 2 h.opcode.toNat ++ leBytes 2 h.tag.toNat ++ leBytes 4 h.len ++ [h.result, h.detail] ++ zeros 6

/-- The stall a request of a VF acts on. -/
def fnStall : Fn → Option StallNo
  | .vf _ n => some n
  | _ => none
def fnIsPf : Fn → Bool
  | .pf0 _ => true
  | _ => false
def fnIsVf : Fn → Bool
  | .vf _ _ => true
  | _ => false

/-- Is the port of a function in service. -/
def State.fnServed (s : State) : Fn → Bool
  | .pf0 p | .vf p _ => s.portServing p
  | .rtp => true
/-- A request as it stands in MB_REQUEST (R191). -/
def reqBytes (m : Req) (op : Nat) : List Byte := leBytes 2 op ++ leBytes 2 m.tag.toNat ++ leBytes 4 m.payload.length ++ m.payload
/-- GO (R190), for a request through a mailbox: ignored with OVERRUN while BUSY or DONE is set; ignored from the VF of an undefined stall (R82), and not
there without a host path. A write wakes the package (R536). -/
def State.mbGo (s : State) (m : Req) (op : Nat) : State × Bool :=
  if m.session.isSome then (s, true) else
  let b := s.mb m.fn
  let live := match fnStall m.fn with
    | some n => (s.stall? n).isSome
    | none => true
  let reached := s.power.powerGood && !s.power.thermStop
  if !live || !reached || !s.fnServed m.fn then (s, false)
  else if b.busy || b.done then (s.setMb m.fn (fun b => { b with overrun := true }), false)
  else
    let r := reqBytes m op
    (s.barWrite.setMb m.fn (fun b =>
      { b with busy := true, lastTag := m.tag, response := [], request := r ++ b.request.drop r.length }), true)

/-- The RTP answers (R190, R195). Through a mailbox the response is written, BUSY clears, DONE sets, the MAILBOX cause
is raised and the header joins the last 16 of the instance's history (a mailbox that was reset meanwhile keeps its reset
values, R200); inside a session it returns as the response
message (R452). DESIGN CHOICE, log 16. -/
def State.mbAnswer (s : State) (m : Req) (op : Nat) (a : Answer) : State :=
  let h : RespHdr := RespHdr.mk (BitVec.ofNat 16 op) m.tag a.payload.length a.result a.detail
  if m.session.isSome then s.emit (.spdm (some m.fn) 0x7E (h.bytes ++ a.payload))
  else
    let old := s.host.history.get [] (mbKey m.fn)
    let new := (old ++ [h]).drop (old.length + 1 - 16)
    let s := { s with host := { s.host with history := s.host.history.set [] (mbKey m.fn) new } }
    if !(s.mb m.fn).busy || !(reqBytes m op).isPrefixOf (s.mb m.fn).request then s
    else
      let s := s.setMb m.fn (fun b => { b with busy := false, done := true, response := h.bytes ++ a.payload })
      match m.fn with
      | .pf0 p => s.pfCauseOn .mailbox p
      | .vf p n => s.vfCauseOn n .mailbox p
      | .rtp => s

/-- Requests of a mailbox opcode are answered, oldest first. -/
def State.answerAll (s : State) (op : Nat) (rs : List Req) (a : Answer) : State := forAll rs (fun r u => u.mbAnswer r op a) s

/-- The RTP answers whoever waits: the console with its result, PLDM with its completion code (R563, R570). -/
def State.answerWaiter (s : State) (w : Waiter) (op : Nat) (a : Answer) : State :=
  match w with
  | .mailbox m => s.mbAnswer m op a
  | .console => if a.result = resOk then s.conOk else s.conErr .state
  | .pldm => s.mctp (if a.result = resOk then .success else .notReady) []

/-- What a request's own rule fixes before its checks: who may send it, its LEN, its reserved bytes, its other MALFORMED
checks, and whether R452 leaves it in the clear at ISO_LEVEL 3. -/
structure MbForm where
  op : Nat
  pf : Bool
  vf : Bool
  len : Nat
  reserved : List (Nat × Nat)
  bad : List Byte → Option Nat      -- the lowest offset of a field out of range or misaligned
  clear3 : Bool
  stallAt : Option Nat              -- where a PF0 request names a stall it must find defined (R593)
  always : Bool                     -- served before approval and when zeroised (R593)
  inError : Bool                    -- served in the error state (R593)

/-- A form with none of the exceptions. -/
def form (op : Nat) (pf vf : Bool) (len : Nat) (reserved : List (Nat × Nat)) : MbForm :=
  { op := op, pf := pf, vf := vf, len := len, reserved := reserved, bad := fun _ => none, clear3 := false,
    stallAt := none, always := false, inError := false }

/-- The lower of two offsets. -/
def minOfs : Option Nat → Option Nat → Option Nat
  | none, b => b
  | a, none => a
  | some a, some b => some (min a b)

/-- ISO_LEVEL of the stall a VF request comes from. -/
def State.isoOf (s : State) (f : Fn) : Nat :=
  match fnStall f with
  | some n => match s.stall? n with | some t => t.hold.iso | none => 0
  | none => 0

/-- The first refusal a request meets, in the order of R593: the right, MALFORMED, the module's state, an undefined
stall. R452 does not apply to a request inside a secure session. DEDUCED, log 14. DEDUCED, log 15. -/
def State.mbCheck (s : State) (f : MbForm) (m : Req) : Option Answer :=
  let p := m.payload
  let stallBad : Option Nat := match f.stallAt with
    | some o => if fnIsPf m.fn && 128 ≤ f8 p o then some o else none
    | none => none
  if !((fnIsPf m.fn && f.pf) || (fnIsVf m.fn && f.vf)) then some notPermitted
  else if m.session.isNone && s.isoOf m.fn = 3 && !f.clear3 then some notPermitted
  else if p.length ≠ f.len then some badLen
  else match minOfs stallBad (minOfs (firstNonzero p f.reserved) (f.bad p)) with
    | some o => some (malformed o)
    | none =>
      if s.prot.error then (if f.inError then none else some (refuse 0xFE))
      else if (!s.prot.approved || s.prot.zeroised) && !f.always then some (refuse 0xFE)
      else match f.stallAt with
        | some o => if fnIsPf m.fn && (s.stall? (f8 p o)).isNone then some (refuse 0xFF) else none
        | none => none

/-- The stall a request acts on: a VF's own, or the one PF0 names (R193). -/
def stallArg (f : MbForm) (m : Req) : Nat :=
  match fnStall m.fn with
  | some n => n
  | none => f8 m.payload (f.stallAt.getD 0)

/-- Serve a request: GO, the checks, and then its own body, which answers it or leaves it BUSY. DESIGN CHOICE, log 16. -/
def State.mbServe (s : State) (f : MbForm) (m : Req) (body : State → State) : State :=
  let r := s.mbGo m f.op
  if !r.2 then r.1
  else match r.1.mbCheck f m with
    | some a => r.1.mbAnswer m f.op a
    | none => body r.1
/-- A request through the mailbox. -/
def plain (m : MbReq) : Req := { toMbReq := m, session := none }
/-- Serve a request whose body answers at once. DESIGN CHOICE, log 16. -/
def State.mbServeA (s : State) (f : MbForm) (m : Req) (body : State → Answer × State) : State :=
  s.mbServe f m (fun s => let r := body s; r.2.mbAnswer m f.op r.1)

end Sys2Proof.Machine
end

