-- ==== Sys2Proof/Machine/RelayOps.lean ====
section
/-! DEFINITION. Shared operations of a stall's Relay Engine: claims and slots (R387–R391), giving up what a command held,
and the exports a peer may use (R385, R386). -/

namespace Sys2Proof.Machine

def State.modRelay (s : State) (n : Nat) (f : Relay → Relay) : State := s.modStall n (fun t => { t with relay := f t.relay })
/-- A command's place for a master's accesses. -/
def relayWho (n k : Nat) (asn : U64) : Who := { stall := n, ctx := qkCtx k, engine := 2, queue := qkQueue k, asn := asn }

/-- The order of keys (R388): KEY_T, SRC_PKG, SRC_STALL, TICKET. -/
def Claim.before (a b : Claim) : Bool :=
  if a.keyT ≠ b.keyT then decide (a.keyT < b.keyT)
  else if a.srcPkg ≠ b.srcPkg then decide (a.srcPkg < b.srcPkg)
  else if a.srcStall ≠ b.srcStall then decide (a.srcStall < b.srcStall)
  else decide (a.ticket < b.ticket)
def insertClaim (c : Claim) : List Claim → List Claim
  | [] => [c]
  | d :: l => if c.before d then c :: d :: l else d :: insertClaim c l
def Claim.same (a b : Claim) : Bool := a.keyT = b.keyT && a.srcPkg = b.srcPkg && a.srcStall = b.srcStall && a.ticket = b.ticket
def Relay.modClaim (r : Relay) (c : Claim) (f : Claim → Claim) : Relay :=
  { r with claims := r.claims.map (fun d => if d.same c then f d else d) }
def Relay.dropClaim (r : Relay) (c : Claim) : Relay := { r with claims := r.claims.filter (fun d => !d.same c) }
/-- Slots committed (R387: a stall has four). -/
def Relay.slotsUsed (r : Relay) : Nat := (r.claims.filter (·.committed)).length
/-- A message about a claim, to the end that is not this one. -/
def State.claimMsg (s : State) (n : Nat) (c : Claim) : LinkMsg := { s.newMsg n c.peer c.peerStall with keyT := c.keyT, ticket := c.ticket }

/-- Pieces of a chunk: messages carry at most 4,096 bytes. -/
def pieceBytes : Nat := 4096
def pieceCount (span : Nat) : Nat := ceilDiv span pieceBytes
def pieceSpan (span i : Nat) : Nat := min pieceBytes (span - pieceBytes * i)

/-- What an access met, added to a command's status so far; 0 stands for none (R278). -/
def addMets (write : Bool) (a : Byte × Byte) (ms : List Met) (poisoned : Bool) : Byte × Byte :=
  let one (a : Byte × Byte) (m : Met) : Byte × Byte :=
    if a.1 = stPartial then a
    else match m with
      | .ok => a
      | .poisoned => if a.1 = stPoison then a else (stPoison, 0x00)
      | .conflict => if write then (stPartial, 0x03) else (stPoison, 0x03)
      | .retired => (stPartial, 0x05)
      | .stops d => (stPartial, d)
  (if poisoned then ms ++ [.poisoned] else ms).foldl one a
/-- Does a list of what was met stop a command. -/
def metsStop (ms : List Met) : Bool := ms.any (fun m => match m with | .stops _ => true | _ => false)

/-- A remote command ends: its status and the bytes done, and each of its claims is given up at both ends. -/
def State.relayEnd (s : State) (n k : Nat) (pos : U32) (status detail : Byte) : State :=
  let v := match (s.queue? n k).bind (fun q => q.entry? pos) with
    | some e => e.progress
    | none => 0
  let s := s.finish n k pos status detail (BitVec.ofNat 64 v)
  match s.stall? n with
  | none => s
  | some t =>
    forAll (t.relay.claims.filter (fun c => c.own && c.qk = k && c.pos = pos))
      (fun c u => (u.modRelay n (fun r => r.dropClaim c)).sendMsg c.port 0x04 (u.claimMsg n c)) s

/-- The data of a committed chunk starts (R389, R390): the WRs of a write, read from the stall's memory, or the RDs of a
read. A fault of the source ends the command. -/
def State.startChunk (s : State) (n : Nat) (c : Claim) : State :=
  match (s.queue? n c.qk).bind (fun q => q.entry? c.pos) with
  | none => s
  | some e =>
    if c.read then
      forAll (List.range (pieceCount c.span)) (fun i u => u.sendMsg c.port 0x12
        { u.claimMsg n c with addr := c.addr + pieceBytes * i, seq := i, span := pieceSpan c.span i }) s
    else
      let g := s.readRun (relayWho n c.qk e.asn) c.loc c.span rRead
      let st := addMets false (e.status, e.detail) g.1.met (g.1.poison.any id)
      let s := g.2.modEntry n c.qk c.pos (fun x => { x with status := st.1, detail := st.2 })
      if metsStop g.1.met then s.relayEnd n c.qk c.pos st.1 st.2
      else
        forAll (List.range (pieceCount c.span)) (fun i u => u.sendMsg c.port 0x10
          { u.claimMsg n c with addr := c.addr + pieceBytes * i, seq := i, data := slice g.1.bytes (pieceBytes * i) pieceBytes
                                poison := (slice' g.1.poison (pieceBytes * i) pieceBytes).any id })
          (s.modRelay n (fun r => r.modClaim c (fun d => { d with data := g.1.bytes })))
where
  slice' (l : List Bool) (o m : Nat) : List Bool := (l.drop o).take m

/-- Free slots commit to the claims at the head of the queue (R389). -/
def State.commitSlots (n : Nat) : Nat → State → State
  | 0, s => s
  | fuel + 1, s =>
    match s.stall? n with
    | none => s
    | some t =>
      if 4 ≤ t.relay.slotsUsed then s
      else match List.find? (fun (c : Claim) => !c.committed) t.relay.claims with
        | none => s
        | some c =>
          let took := s.modRelay n (fun r => r.modClaim c (fun d => { d with committed := true }))
          if !c.own then State.commitSlots n fuel (took.sendMsg c.port 0x02 (took.claimMsg n c))
          else if c.granted then State.commitSlots n fuel (took.startChunk n { c with committed := true })
          else s
def State.commitAll (s : State) (n : Nat) : State :=
  match s.stall? n with
  | none => s
  | some t => State.commitSlots n (t.relay.claims.length + 1) s

/-- A GROUP_CLEAR whose group has no collective running is carried out and answered (R392). -/
def State.settleClears (s : State) (n : Nat) : State :=
  match s.stall? n with
  | none => s
  | some t =>
    forAll t.relay.clears (fun w u =>
      if (u.stall? n).any (fun t => t.relay.colls.any (fun c => c.group = w.2)) then u
      else (u.modRelay n (fun r =>
        { r with groups := r.groups.filter (fun g => g.id ≠ w.2), clears := r.clears.filter (fun x => decide (x ≠ w)) })).mbAnswer w.1 0x0052 ok) s

/-- A warm reset (R544): TK_DONE goes out for every ticket the Relay Engine holds, and claims still queued are discarded. DEDUCED, log 56. -/
def State.relayDrop (s : State) (n : Nat) : State :=
  match s.stall? n with
  | none => s
  | some t =>
    forAll (t.relay.claims.filter (fun c => c.own || !c.committed)) (fun c u =>
      let u := u.modRelay n (fun r => r.dropClaim c)
      if c.own && c.granted then u.sendMsg c.port 0x04 (u.claimMsg n c) else u) s

/-- Give up what the Relay Engine holds for commands that are over: their claims at both ends, and their collectives. -/
def State.relaySweep (s : State) (n : Nat) : State :=
  match s.stall? n with
  | none => s
  | some t =>
    let live (k : Nat) (pos : U32) : Bool := ((t.queue? k).bind (fun q => q.entry? pos)).any (fun e => e.st = .started)
    let gone := t.relay.claims.filter (fun c => c.own && !live c.qk c.pos)
    let lost := t.relay.colls.filter (fun c => !live c.qk c.pos)
    if gone.isEmpty && lost.isEmpty then s
    else
      let s := forAll gone (fun c u => (u.modRelay n (fun r => r.dropClaim c)).sendMsg c.port 0x04 (u.claimMsg n c)) s
      let s := s.modRelay n (fun r =>
        { r with colls := r.colls.filter (fun c => live c.qk c.pos)
                 groups := r.groups.map (fun g => if lost.any (fun c => c.group = g.id) then { g with inbox := [], bad := [], ready := [] } else g) })
      (s.commitAll n).settleClears n

/-- The export that covers a peer's range and allows the peer the access (R386), with its number. One that is being
replaced takes no new ticket. -/
def Relay.exportFor (r : Relay) (pkg stall addr span : Nat) (write : Bool) : Option (Nat × Export) :=
  List.find? (fun (e : Nat × Export) =>
    !r.waits.any (fun w => w.num = e.1)
    && decide (e.2.va ≤ addr) && decide (addr + span ≤ e.2.va + e.2.bytes)
    && e.2.allow.any (fun a => a = (0xFF, 0xFF) || a = (pkg, stall))
    && has (BitVec.ofNat 8 e.2.rights) (if write then 1 else 0)) r.exports
/-- A REMOTE_EXPORT whose slot has no ticket left under its old export is carried out and answered (R385). -/
def State.settleExports (s : State) (n : Nat) : State :=
  match s.stall? n with
  | none => s
  | some t =>
    forAll t.relay.waits (fun w u =>
      if (u.stall? n).any (fun t => t.relay.claims.any (fun c => !c.own && c.num = w.num)) then u
      else
        (u.modRelay n (fun r =>
          { r with exports := r.exports.put w.num w.new, waits := r.waits.filter (fun x => decide (x ≠ w)) })).mbAnswer w.req 0x0050 ok) s

/-- A lender whose stall goes away tells its borrowers (R340). -/
def State.recallLoans (s : State) (n : Nat) : State :=
  match s.stall? n with
  | none => s
  | some t =>
    let s := forAll t.drover.loans (fun l u => match u.stallPort t.hold 0xFF l.peer with
      | none => u
      | some p => u.sendMgmt p (u.newMsg n l.peer l.stall) .withdrawn) s
    s.modStall n (fun t => { t with drover := { t.drover with loans := [] } })

end Sys2Proof.Machine
end

