-- ==== Sys2Proof/Machine/StallOps.lean ====
section
/-! DEFINITION. Shared operations on a stall's running commands: a command's end (R213, R227), the kill of a context
(R309), preemption of a context (R298–R300), and the break of a stall's continuity (R499). -/

namespace Sys2Proof.Machine

/-! A command's end. -/

/-- The command's end is written (R482): a normal end is DONE_REPLAYED after a replay, DONE_LATE when a gated command
began later than its reference + 1,600 gticks (R57, R227). -/
def Entry.conclude (e : Entry) (now : Nat) : Entry :=
  let late := match e.lateRef with
    | some r => decide (r + 1600 < e.beginAt)
    | none => false
  let st := if e.status ≠ stDone then e.status
    else if 0 < e.replays then stDoneReplayed
    else if late then stDoneLate
    else stDone
  { e with st := .ended, status := st, endAt := if e.startAt = 0 then 0 else now, undecided := false }
/-- The command is ended from outside with this status; one whose work is already over ends as it stands. -/
def Entry.endBy (e : Entry) (now : Nat) (status detail : Byte) (value : U64) : Entry :=
  if e.isEnded then e
  else if e.st = .ready then e.conclude now
  else ({ e with status := status, detail := detail, value := value } : Entry).conclude now

/-! Tasks. -/

/-- The launch of a command. -/
def Stall.launch? (t : Stall) (qk : Nat) (pos : U32) : Option Launch := t.launches.find? (fun l => l.qk = qk && l.pos = pos)
def Stall.modLaunch (t : Stall) (qk : Nat) (pos : U32) (f : Launch → Launch) : Stall :=
  { t with launches := t.launches.map (fun l => if l.qk = qk && l.pos = pos then f l else l) }
/-- The save slot a restored task still has at `now`, before it resumes. -/
def RunTask.slotAt (r : RunTask) (now : Nat) : Option (Nat × U32) := if now < r.startAt then r.back else none
/-- Indices that are to run again, kept in ascending order (R292). -/
def insertIdx (l : List Nat) (i : Nat) : List Nat := l.filter (fun j => decide (j < i)) ++ i :: l.filter (fun j => decide (i < j))
/-- A task that leaves its cluster with nothing saved for it: it will run from its start, or from the slot it was restored from
if it had not resumed (R295, R492). -/
def Launch.putBack (l : Launch) (now : Nat) (r : RunTask) : Launch :=
  match r.slotAt now with
  | some (slot, pc) => { l with saved := l.saved.put slot (some (r.idx, pc)) }
  | none => { l with again := insertIdx l.again r.idx }
/-- Is some task of the context on a cluster. -/
def Stall.running (t : Stall) (c : Nat) : Bool := t.launches.any (fun l => qkCtx l.qk = c && !l.running.isEmpty)
def State.setCluster (s : State) (c : Nat) (f : Cluster → Cluster) : State :=
  { s with clusters := s.clusters.upd Cluster.init c f }
/-- Clearing a cluster after a kill takes 12.6 µs (R309). -/
def clearTime : Nat := 201600
/-- A cluster's task is gone; `clean` when the cluster's state is then cleared (R309), `safe` when the task stopped at a
safe point. -/
def State.freeCluster (s : State) (c : Nat) (clean safe : Bool) : State :=
  (s.setCluster c (fun x =>
    { x with stall := none, lastCtx := some x.ctx, clearUntil := if clean then s.now + clearTime else x.clearUntil
             freedAt := s.now, atSafe := safe })).vacate c
/-- Every running and saved task of these launches is given up. -/
def State.dropLaunches (s : State) (n : Nat) (p : Launch → Bool) (clean : Bool) : State :=
  match s.stall? n with
  | none => s
  | some t =>
    let cs := ((t.launches.filter p).flatMap (fun l => l.running)).map (·.cluster)
    let s := s.modStall n (fun t => { t with launches := t.launches.filter (fun l => !p l) })
    forAll cs (fun c u => u.freeCluster c clean false) s
/-- What a command has done so far: tasks completed, tokens generated, or bytes (R220, R319). -/
def Stall.doneOf (t : Stall) (k : Nat) (e : Entry) : U64 :=
  match t.launch? k e.pos with
  | some l => BitVec.ofNat 64 l.done
  | none =>
    match t.drover.seqs.find? (fun x => x.asn = e.asn && x.st ≠ .kept) with
    | some x => BitVec.ofNat 64 x.generated
    | none => BitVec.ofNat 64 e.progress
/-- Queue numbers of a context, rising. -/
def Stall.queuesOf (t : Stall) (c : Nat) : List Nat := (t.queues.filter (fun e => qkCtx e.1 = c)).map (·.1)
/-- Every accepted command of the context that has not ended takes the status and DETAIL `f` gives it. -/
def State.endAll (s : State) (n : Nat) (c : Nat) (f : Nat → Entry → Byte × Byte) : State :=
  match s.stall? n with
  | none => s
  | some t =>
    s.setStall n { t with queues := t.queues.map (fun kq =>
      if qkCtx kq.1 = c then
        (kq.1, { kq.2 with entries := kq.2.entries.map (fun e =>
          e.endBy s.now (f kq.1 e).1 (f kq.1 e).2 (t.doneOf kq.1 e)) })
      else kq) }
/-- The records of the context's ended commands become visible, queue by queue. -/
def State.showCtx (s : State) (n : StallNo) (c : Nat) : State :=
  match s.stall? n with
  | none => s
  | some t => forAll (t.queuesOf c) (fun k u =>
      match u.queue? n k with
      | none => u
      | some q => if u.queueServed q then u.allVisible n k else u) s

/-! Peers of a collective (R309, R394). -/

/-- Groups whose collectives the context's commands have in progress. -/
def Stall.groupsOf (t : Stall) (c : Nat) : List Nat :=
  (t.queues.filter (fun e => qkCtx e.1 = c)).flatMap (fun e =>
    (e.2.entries.filter (fun x => x.st = .started && x.opcode = 0x32)).map (fun x => x.u32 0x0C))

/-- The kill of a context (R309 steps 2 to 4; R147 with DETAIL 0x0B): its tasks stop at once, its sequences stop, every
accepted command not ended becomes KILLED, and the records become visible. Its clusters are left to be cleared. -/
def State.killCtx (s : State) (n : StallNo) (c : Nat) (detail : Byte) : State :=
  let s := s.endAll n c (fun _ _ => (stKilled, detail))
  let s := s.dropLaunches n (fun l => qkCtx l.qk = c) true
  let s := (s.drvKill n c).relaySweep n
  let s := s.modCtx n c (fun x => { x with stopped := true })
  s.showCtx n c
/-- Every context of a stall is killed, in ascending order. DEDUCED, log 48. -/
def State.killAll (s : State) (n : StallNo) (detail : Byte) : State :=
  match s.stall? n with
  | none => s
  | some t => forAll (t.ctxs.map (·.1)) (fun c u => u.killCtx n c detail) s

/-! Preemption (R299, R300). -/

def Ctx.requested (x : Ctx) : Bool := x.pauseReq || x.rotReq.isSome || x.sliceReq.isSome
/-- Copy and remote transfers stop at a boundary of 2 MiB (R299). -/
def stopsAtChunk (op : Nat) : Bool := [0x20, 0x21, 0x22, 0x23, 0x30, 0x31].contains op
/-- Has every part of a requested context stopped: no running task, each transfer at a boundary, no collective running
and Drover between steps (R299). -/
def Stall.halted? (t : Stall) (c : Nat) : Bool :=
  !t.running c
  && t.queues.all (fun e => qkCtx e.1 ≠ c || e.2.entries.all (fun x =>
      !(x.st = .started && ((stopsAtChunk x.opcode && !x.stopped) || x.opcode = 0x32))))
  && !(t.drover.stepping && t.drover.seqs.any (fun x => x.ctx = c && 0 < x.step))
/-- What R300 ends with PREEMPT_REFUSED: a command with a running task, or a transfer or Drover operation not stopped. -/
def Stall.resists (t : Stall) (k : Nat) (e : Entry) : Bool :=
  (t.launch? k e.pos).any (fun l => !l.running.isEmpty)
  || (e.st = .started && ((stopsAtChunk e.opcode && !e.stopped) || e.opcode = 0x32))
  || (t.drover.stepping && t.drover.seqs.any (fun x => x.asn = e.asn && 0 < x.step))
/-- A context that did not stop within PREEMPT_LIMIT (R300). -/
def State.refusePreempt (s : State) (n : StallNo) (c : Nat) : State :=
  match s.stall? n with
  | none => s
  | some t =>
    let s := s.endAll n c (fun k e => (if t.resists k e then stPreempt else stKilled, 0x0C))
    let s := s.dropLaunches n (fun l => qkCtx l.qk = c) true
    let s := (s.drvKill n c).relaySweep n
    let s := s.modStall n (fun t => { t with sched := { t.sched with preemptRefused := satAdd t.sched.preemptRefused 1 } })
    let s := s.modCtx n c (fun x => { x with stopped := true })
    s.showCtx n c

/-! Debug halts (R426, R427, R530). -/

/-- A halted cluster goes on: it is Overcast where it holds a task, and otherwise its idle period begins. -/
def State.resumeCluster (s : State) (c : Nat) : State :=
  let s := s.setSky c (fun k => { k with haltHold := false })
  if (s.clusters.get Cluster.init c).stall.isSome then (s.occupy c).1 else s.beginIdle c
/-- Every halt of a stall ends. -/
def State.endHalts (s : State) (n : Nat) : State :=
  match s.stall? n with
  | none => s
  | some t => forAll (members t.halted) (fun c u => u.resumeCluster c) (s.setStall n { t with halted := 0 })
/-- A stall's rights under a SCOPE 1 session end (R427). -/
def State.dropDebug (s : State) (n : Nat) : State :=
  ({ s with prot := { s.prot with stallMask := excl s.prot.stallMask n } }).endHalts n
/-- The open session ends (R426): every halt ends, and the TAP falls back to what a locked part implements. DEDUCED, log 66. -/
def State.endDebug (s : State) : State :=
  let s := { s with prot := { s.prot with
    scope := 0, viaTap := false, stallMask := 0, notAfter := 0, tap := if s.prot.tap = .idcode then .idcode else .bypass } }
  forAll s.stallNos (fun n u => u.endHalts n) s

/-! A break of continuity (R498, R499). -/

/-- The places of new empty journal copies: the plan's where they are available, else by R495. -/
def State.freshCopies (s : State) (h : Holdings) : List Nat :=
  let prim := match h.bays.head? with
    | some b => if s.bayAvail b then some b else s.rebuildBay h.journalMib [h.mirrorBay]
    | none => none
  let mirr := if s.bayAvail h.mirrorBay then some h.mirrorBay else s.rebuildBay h.journalMib prim.toList
  prim.toList ++ mirr.toList
/-- The stall's continuity is broken: engines stop, queues are destroyed with no record, the era advances where the
floor allows one, and new empty copies are placed. -/
def State.breakContinuity (s : State) (n : StallNo) : State :=
  match s.stall? n with
  | none => s
  | some _ =>
    let s := s.dropLaunches n (fun _ => true) true
    let floored := s.eraFloor n = eraMax
    let s := if floored then s else s.raiseEra n
    let era := s.eraFloor n
    let s := s.modStall n (fun t =>
      { t with queues := [], kills := [], drover := { t.drover with rings := [], seqs := [], stepping := false }
               journal := { t.journal with era := era, next := [], segs := [], gen := t.journal.gen + 1, broken := true
                                           copies := if floored then [] else s.freshCopies t.hold
                                           rebuild := none } })
    let s := s.relaySweep n
    let s := if floored then s else s.accEvent 10 0 0 0 0 0 0 n era [n]
    s.accEvent 11 0 0 0 0 0 2 n era [n]

end Sys2Proof.Machine
end

