-- ==== Sys2Proof/Machine/Time.lean ====
section
/-! DEFINITION. The commands of the GTB block: the reference clock, reads and trims, launch gates, tick channels,
capture inputs, relay timers and SYNC_OUT (R43–R79). -/

namespace Sys2Proof.Machine

/-! The reference clock (R48). -/

/-- The external reference is lost: the part runs on the oscillator, and the next return needs 1,024 good periods when
the last return was within 2^30 gticks, else 16 (R48). -/
def refClockLost (s : State) : State :=
  if s.gtb.refSrc then s
  else
    let need := match s.gtb.returnedAt with
      | some r => if s.now - r ≤ 2 ^ 30 then 1024 else 16
      | none => 16
    ({ s with gtb := { s.gtb with refSrc := true, refSw := true, switchedAt := s.now, goodPeriods := 0,
                                  needPeriods := need } }).pfCause .time

/-- The external reference counts as present: the part switches back at the first reference cycle boundary (R48). -/
def refClockSwitchBack (s : State) : State :=
  if s.gtb.refSrc && decide (s.gtb.needPeriods ≤ s.gtb.goodPeriods) then
    let t := s.advanceEdge (s.now + 1)
    ({ t with gtb := { t.gtb with refSrc := false, refSw := true, returnedAt := some t.now, goodPeriods := 0 } }).pfCause .time
  else s

def execRefClockLost (s : State) : Host.Outcome State Fault Refusal := .next (refClockLost s)
def execRefClockSwitchBack (s : State) : Host.Outcome State Fault Refusal := .next (refClockSwitchBack s)

/-- A measurement period ends at a grid tick (R48): it counts when it began at or after the switch, and a period that
is not good restarts the count. -/
def Gtb.periodEnds (g : Gtb) (tick : Nat) (good : Bool) : Gtb :=
  if !g.refSrc || tick - 2 ^ 20 < g.switchedAt then g
  else { g with goodPeriods := if good then g.goodPeriods + 1 else 0 }

/-- COARSE ends (R46). -/
def gtbCoarseEnd (s : State) : State :=
  match s.gtb.coarseEnd with
  | none => s
  | some t =>
    let s := s.advance t
    { s with gtb := { s.gtb with coarse := false, coarseEnd := none } }
def execGtbCoarseEnd (s : State) : Host.Outcome State Fault Refusal := .next (gtbCoarseEnd s)

/-! Reads and writes of the GTB's own registers (R45, R50). -/

/-- The answer to a register read of `n` bytes. -/
def State.answer (s : State) (f : Fn) (n v : Nat) : State := s.emit (.readData f (leBytes n v) false)

/-- A 4-byte read of GTB_NOW_LO: bits [31:0], with [63:32] latched for the reading function (R50). -/
def gtbNowLoRead (f : Fn) (s : State) : State :=
  (s.setLat f (fun l => { l with gtbHi := hi32 s.nowW })).answer f 4 (lo32 s.nowW).toNat
def execGtbNowLoRead (f : Fn) (s : State) : Host.Outcome State Fault Refusal := .next (gtbNowLoRead f s)

/-- A PF0 write of GTB_TRIM: ignored while SERVO_AUTO is 1 (R45). -/
def gtbTrimWrite (v : U32) (s : State) : State := if s.gtb.servoAuto then s else s.setTrim v.toInt
def execGtbTrimWrite (v : U32) (s : State) : Host.Outcome State Fault Refusal := .next (gtbTrimWrite v s.barWrite)

/-! Launch gates (R52–R60). -/

/-- The global gate a stall's local index names (R52). -/
def State.gateOf (s : State) (n g : Nat) : Option Nat :=
  match s.stall? n with
  | none => none
  | some t => t.hold.gates[g]?
/-- The stall that holds a gate. -/
def State.gateStall (s : State) (g : Nat) : Option StallNo :=
  let b := (s.yard.gateOwner.get 0xFF g).toNat
  if h : b < 128 then some ⟨b, h⟩ else none

/-- A write that takes effect at the next step boundary lands (R54, R55). -/
def State.landGate (s : State) (g : Nat) (w : GateWrite) : State :=
  s.setGate g (fun x => { x with pend := x.pend ++ [w], landed := s.now })
def onGate (n g : Nat) (f : Nat → State → State) (s : State) : State :=
  match s.gateOf n g with
  | none => s
  | some i => f i s

/-- Has the pre-roll begun: GTB ≥ CMP − PREROLL (R54). -/
def Gate.due (x : Gate) (now : Nat) : Bool := decide (x.cmp.toNat ≤ now + x.preroll.toNat)

/-- The tenant (key index) of a context of a stall. -/
def Stall.tenantOf (t : Stall) (c : Nat) : Option Nat := (t.ctx? c).bind (fun x => x.key)
/-- Tenants moved forward in the rotation order: lower CMP first, then lower key index (R304). -/
def forwardIns (e : U64 × Nat) : List (U64 × Nat) → List (U64 × Nat)
  | [] => [e]
  | a :: l => if e.1.toNat < a.1.toNat || (e.1 = a.1 && decide (e.2 < a.2)) then e :: a :: l else a :: forwardIns e l
/-- A gate that enters WAKING moves every non-resident tenant with a queue waiting on it to the front of its SHARED
stall's rotation (R304). -/
def Stall.moveForward (t : Stall) (g : Nat) (cmp : U64) : Stall :=
  if t.hold.iso ≠ 1 then t
  else
    let ks := t.queues.filterMap (fun kq =>
      match kq.2.entries.find? (fun e => !e.isOver) with
      | some e => if e.opcode = 0x09 && e.gate = some g then t.tenantOf (qkCtx kq.1) else none
      | none => none)
    forAll ks (fun k t =>
      if t.sched.resident = some k || t.sched.forward.any (fun e => e.2 = k) then t
      else { t with sched := { t.sched with forward := forwardIns (cmp, k) t.sched.forward } }) t

/-- A WAKING gate wakes its first WAKE_N clusters in bay order, and the package for them (R59). -/
def State.wakeGate (s : State) (g : Nat) : State :=
  match (s.gateStall g).bind (fun n => s.stall? n) with
  | none => s
  | some t =>
    let cs := t.hold.liveClusters.take (s.gate g).wakeN.toNat
    if cs.isEmpty || !s.running then s
    else
      let s := s.setGate g (fun x => { x with held := x.held ||| bitsOf 512 cs, holdEnd := none })
      forAll cs (fun c u => u.wakeCluster c) (s.wakePackage 1 true)
/-- Every gate still in WAKING wakes its clusters again (R76, R544). -/
def State.rewakeGates (s : State) : State :=
  forAll (List.range 256) (fun g u => if (u.gate g).st = .waking then u.wakeGate g else u) s
/-- The gate enters WAKING: its first WAKE_N clusters in bay order are woken and held, the package is woken for them,
and its tenants move forward (R54, R59, R304). While main power is lost the wake is deferred (R76). -/
def State.enterWaking (s : State) (g : Nat) : State :=
  let x := s.gate g
  let s := s.setGate g (fun x => { x with st := .waking })
  match s.gateStall g with
  | none => s
  | some n =>
    match s.stall? n with
    | none => s
    | some t =>
      (s.setStall n (t.moveForward g x.cmp)).wakeGate g

/-- The gate fires (R56): GATE_FIRED_AT, FIRE_COUNT, the FIRED state, and the release of the waiting queues. The hold
on the clusters it woke ends 16,000 gticks later (R59). -/
def State.fireGate (s : State) (g : Nat) : State :=
  let x := s.gate g
  let s1 := s.setGate g (fun x =>
    { x with st := .fired, firedAt := s.nowW, fireCount := x.fireCount + 1,
             holdEnd := if x.held = 0 then none else some (s.now + 16000) })
  match s.gateStall g with
  | none => s1
  | some n => s1.releaseGate n g s.nowW x.cmp

/-- ARM as it takes effect: only an IDLE or FIRED gate is armed; LATE_ARM and PAST_ARM are evaluated here (R54). DEDUCED, log 28. -/
def State.armGate (s : State) (g : Nat) : State :=
  let x := s.gate g
  match x.st with
  | .idle | .fired =>
    let s := s.setGate g (fun x =>
      { x with st := .armed, lateArm := decide (x.cmp.toNat < s.now + x.preroll.toNat),
               pastArm := decide (x.cmp.toNat ≤ s.now) })
    if x.due s.now then s.enterWaking g else s
  | _ => s
/-- DISARM as it takes effect: the gate is IDLE and its hold ends (R54, R59). -/
def State.disarmGate (s : State) (g : Nat) : State := (s.endHold g).setGate g (fun x => { x with st := .idle })
/-- A new CMP or PREROLL in ARMED or WAKING: the state is evaluated again (R54). -/
def State.reevalGate (s : State) (g : Nat) : State :=
  let x := s.gate g
  match x.st with
  | .armed => if x.due s.now then s.enterWaking g else s
  | .waking => if x.due s.now then s else (s.endHold g).setGate g (fun x => { x with st := .armed })
  | _ => s
/-- One landed write takes effect. -/
def State.applyGate (s : State) (g : Nat) : GateWrite → State
  | .arm => s.armGate g
  | .disarm => s.disarmGate g
  | .disarmArm => (s.disarmGate g).armGate g
  | .cmp v => (s.setGate g (fun x => { x with cmp := v })).reevalGate g
  | .preroll v => (s.setGate g (fun x => { x with preroll := v })).reevalGate g
/-- An ARMED or WAKING gate whose CMP has passed fires (R55). -/
def State.fireIfDue (s : State) (g : Nat) : State :=
  let x := s.gate g
  if (x.st = .armed || x.st = .waking) && decide (x.cmp.toNat ≤ s.now) then s.fireGate g else s

/-- GATE_WRITE_TAKES_EFFECT: at the first step boundary after the writes landed they are applied in the order they
landed, and the gate may fire at that step (R54, R55). -/
def gateWriteTakesEffect (g : GateNo) (s : State) : State :=
  let x := s.gate g
  if x.pend.isEmpty then s
  else
    let s := s.advance (x.landed + 1)
    let s := s.setGate g (fun x => { x with pend := [] })
    (forAll x.pend (fun w t => t.applyGate g w) s).fireIfDue g

/-- GATE_WAKING: an ARMED gate reaches CMP − PREROLL (R54, R59). -/
def gateWaking (g : GateNo) (s : State) : State :=
  let x := s.gate g
  if x.st = .armed then
    let s := s.advance (x.cmp.toNat - x.preroll.toNat)
    if x.due s.now then s.enterWaking g else s
  else s
/-- GATE_FIRE: the first step with GTB ≥ CMP (R55, R56). -/
def gateFire (g : GateNo) (s : State) : State :=
  let x := s.gate g
  if x.st = .armed || x.st = .waking then (s.advance x.cmp.toNat).fireIfDue g else s
/-- GATE_HOLD_END: 16,000 gticks after the firing (R59). -/
def gateHoldEnd (g : GateNo) (s : State) : State :=
  match (s.gate g).holdEnd with
  | none => s
  | some t => (s.advance t).endHold g

/-- A CMP_LO write: staged, the comparator unchanged (R53). PF0's writes of channels 0–3 are ignored (R61). -/
def gateCmpLoWrite (t : CmpReg) (v : U32) (s : State) : State :=
  match t with
  | .gate n g => onGate n g (fun i s => s.setGate i (fun x => { x with stagedLo := some v })) s
  | .tick byRtp n => if n.val < 4 && !byRtp then s else s.setTick n (fun x => { x with stagedLo := some v })
/-- A CMP_HI write, or with `lo` an 8-byte write: both halves in one instant (R53), effective at the next step boundary
(R55), or at once for a live tick channel (R63). A high half written with no low half staged takes a free low half. DEDUCED, log 29. -/
def gateCmpHiWrite (t : CmpReg) (hi : U32) (lo : Option U32) (s : State) : State :=
  let go (staged : Option U32) (s : State) : U64 × State :=
    match lo, staged with
    | some l, _ => (join64 hi l, s)
    | none, some l => (join64 hi l, s)
    | none, none => let r := s.draw 32; (join64 hi r.1, r.2)
  match t with
  | .gate n g => onGate n g (fun i s =>
      let r := go (s.gate i).stagedLo s
      (r.2.setGate i (fun x => { x with stagedLo := lo })).landGate i (.cmp r.1)) s
  | .tick byRtp n =>
    if n.val < 4 && !byRtp then s
    else
      let r := go (s.tick n).stagedLo s
      r.2.setTick n (fun x => { x with stagedLo := lo, cmp := r.1, armedAt := s.now })
def gatePrerollWrite (n : StallNo) (g : Fin 64) (v : U32) (s : State) : State :=
  onGate n g (fun i s => s.landGate i (.preroll v)) s
def gateCtl (n : StallNo) (g : Fin 64) (w : GateWrite) (s : State) : State := onGate n g (fun i s => s.landGate i w) s

def execGateCmpLoWrite (t : CmpReg) (v : U32) (s : State) : Host.Outcome State Fault Refusal := .next (gateCmpLoWrite t v s.barWrite)
def execGateCmpHiWrite (t : CmpReg) (hi : U32) (lo : Option U32) (s : State) : Host.Outcome State Fault Refusal :=
  .next (gateCmpHiWrite t hi lo s.barWrite)
def execGatePrerollWrite (n : StallNo) (g : Fin 64) (v : U32) (s : State) : Host.Outcome State Fault Refusal :=
  .next (gatePrerollWrite n g v s.barWrite)
/-- ARM lands; an ARM given in ARMED or WAKING will have no effect (R54). -/
def execGateCtlArm (n : StallNo) (g : Fin 64) (s : State) : Host.Outcome State Fault Refusal := .next (gateCtl n g .arm s.barWrite)
/-- DISARM lands (R54). -/
def execGateCtlDisarm (n : StallNo) (g : Fin 64) (s : State) : Host.Outcome State Fault Refusal := .next (gateCtl n g .disarm s.barWrite)
/-- Both bits land: a DISARM followed at once by an ARM (R54). -/
def execGateCtlDisarmArm (n : StallNo) (g : Fin 64) (s : State) : Host.Outcome State Fault Refusal :=
  .next (gateCtl n g .disarmArm s.barWrite)
def execGateWriteTakesEffect (g : GateNo) (s : State) : Host.Outcome State Fault Refusal := .next (gateWriteTakesEffect g s)
def execGateWaking (g : GateNo) (s : State) : Host.Outcome State Fault Refusal := .next (gateWaking g s)
def execGateFire (g : GateNo) (s : State) : Host.Outcome State Fault Refusal := .next (gateFire g s)
def execGateHoldEnd (g : GateNo) (s : State) : Host.Outcome State Fault Refusal := .next (gateHoldEnd g s)

/-! Tick channels (R61–R64). -/

/-- What every firing does (R64): FIRED_AT, STATUS.FIRED, the interrupt or wake if enabled, and the matrix event.
During ride-through the interrupt waits for PCIe's return and the wake is ignored (R77). DEDUCED, log 31. -/
def State.tickFires (s : State) (n : Nat) : State :=
  let c := s.tick n
  let s := s.setTick n (fun c => { c with fired := true, firedAt := s.nowW, fireCount := c.fireCount + 1 })
  let s := if c.irqEn && 4 ≤ n then
      (if s.running then s.pfVector (n + 5) else { s with tb := { s.tb with irqLater := s.tb.irqLater ++ [n + 5] } })
    else s
  let s := if c.wakeEn then s.wakePackage 2 false else s
  s.event (0x40 + n)

/-- TICK_CHANNEL_ARM: CTL.ARM, catch-up only, effective at the next step boundary (R55, R62). -/
def tickChannelArm (byRtp : Bool) (n : Fin 32) (s : State) : State :=
  if n.val < 4 && !byRtp then s
  else if (s.tick n).live then s
  else s.setTick n (fun c => { c with armed := true, armedAt := s.now })

/-- What a catch-up firing does to CMP (R62): one-shot without PERIOD; with it the next period, or under SKIP the first
period beyond the present GTB with the skipped periods counted. -/
def TickCh.reload (c : TickCh) (now : Nat) : TickCh :=
  if c.period = 0 then { c with armed := false }
  else
    let next := c.cmp.toNat + c.period.toNat
    if !c.skip || now < next then { c with cmp := BitVec.ofNat 64 next, armedAt := now }
    else
      let extra := (now - next) / c.period.toNat + 1
      { c with cmp := BitVec.ofNat 64 (next + extra * c.period.toNat), armedAt := now, missed := satAdd c.missed extra }

/-- TICK_CHANNEL_FIRE_CATCHUP (R55, R62): the first step at or after CMP that follows the arm. -/
def tickChannelFireCatchup (n : Fin 32) (s : State) : State :=
  let c := s.tick n
  if c.en && !c.live && c.armed then
    let s := s.advance (max c.cmp.toNat (c.armedAt + 1))
    if c.cmp.toNat ≤ s.now then (s.tickFires n).setTick n (fun c => c.reload s.now) else s
  else s

/-- TICK_CHANNEL_FIRE_LIVE (R63): the crossing test G_prev < CMP ≤ G at a reference edge, with the CMP that stood
before that edge; the reload follows the test. -/
def tickChannelFireLive (n : Fin 32) (s : State) : State :=
  let c := s.tick n
  let reload (s : State) : State := s.setTick n (fun c => { c with cmp := c.cmp + c.period })
  if !(c.en && c.live) then s
  else if s.gtb.base.toNat < c.cmp.toNat then
    let s := s.advanceEdge c.cmp.toNat
    if c.cmp.toNat ≤ s.gtb.base.toNat then reload (s.tickFires n) else s
  else if s.gtb.prevBase < c.cmp.toNat && (c.armedAt < s.gtb.base.toNat) && (c.firedAt.toNat < s.gtb.base.toNat) then
    reload (s.tickFires n)
  else s

def execTickChannelArm (byRtp : Bool) (n : Fin 32) (s : State) : Host.Outcome State Fault Refusal := .next (tickChannelArm byRtp n (if byRtp then s else s.barWrite))
def execTickChannelFireCatchup (n : Fin 32) (s : State) : Host.Outcome State Fault Refusal := .next (tickChannelFireCatchup n s)
def execTickChannelFireLive (n : Fin 32) (s : State) : Host.Outcome State Fault Refusal := .next (tickChannelFireLive n s)

/-! Capture inputs (R65–R69). -/

def Capture.stuck (c : Capture) : Bool := c.stuckHi || c.stuckLo

/-- An accepted edge in the capture's registers (R67): it overwrites CAP_RISE or CAP_FALL, opens or closes a pair, and
a close updates PAIR_RISE and PW together. The Bool says whether a pair closed. -/
def Capture.edge (c : Capture) (rising : Bool) (at' : U64) (coarse : Bool) : Capture × Bool :=
  let c := { c with level := rising, heldSince := at'.toNat, rise := if rising then at' else c.rise,
                    fall := if rising then c.fall else at' }
  if rising != c.invert then ({ c with openEdge := some at' }, false)
  else match c.openEdge with
    | none => (c, false)
    | some o =>
      ({ c with pairRise := o, pw := BitVec.ofNat 32 (min (at'.toNat - o.toNat) (2 ^ 32 - 1)), openEdge := none,
                overrun := c.overrun || c.pairNew, pairNew := true, pairCount := c.pairCount + 1, coarse := coarse }, true)

/-- SYNC_IN_EDGE_ACCEPTED (R66): the pin has held its new level for the filter time, in whole reference cycles while
COARSE; the captured value is the instant it first reached it. -/
def syncInEdgeAccepted (n : Fin 8) (rising : Bool) (reached : U64) (s : State) : State :=
  let c := s.cap n
  if !c.en || c.stuck || c.level = rising then s
  else
    let wait := 8 * c.filter.toNat
    let s := s.advance (reached.toNat + (if s.gtb.coarse then ceilDiv wait 160 * 160 else wait))
    let r := c.edge rising reached s.gtb.coarse
    let s := s.setCap n (fun _ => r.1)
    let s := if r.2 && c.irqEn then s.pfVector (37 + n) else s
    let s := if c.wakeEn then s.wakePackage 3 false else s
    s.event ((if rising then 0x60 else 0x68) + n)

/-- CAP_LO_READ: the matching high register, and PW for a pair, latch for the reading function (R68). -/
def capLoRead (f : Fn) (n : Fin 8) (which : CapReg) (s : State) : State :=
  let c := s.cap n
  match which with
  | .rise => (s.setLat f (fun l => { l with riseHi := l.riseHi.set 0 n (hi32 c.rise) })).answer f 4 (lo32 c.rise).toNat
  | .fall => (s.setLat f (fun l => { l with fallHi := l.fallHi.set 0 n (hi32 c.fall) })).answer f 4 (lo32 c.fall).toNat
  | .pair => (s.setLat f (fun l => { l with pairHi := l.pairHi.set 0 n (hi32 c.pairRise), pairPw := l.pairPw.set 0 n c.pw })).answer
      f 4 (lo32 c.pairRise).toNat

/-- SYNC_IN_STUCK (R69): one level for STUCK_LIMIT × 2^20 gticks. -/
def syncInStuck (n : Fin 8) (s : State) : State :=
  let c := s.cap n
  if c.stuckLimit = 0 || c.stuck then s
  else
    let s := s.advance (c.heldSince + c.stuckLimit.toNat * 2 ^ 20)
    let s := s.setCap n (fun c => { c with stuckHi := c.level, stuckLo := !c.level })
    if c.irqEn then s.pfVector (37 + n) else s

/-- CAP_STUCK_CLEAR (R69): a cleared flag accepts edges again and restarts the stuck count. -/
def capStuckClear (n : Fin 8) (hi lo : Bool) (s : State) : State :=
  let c := s.cap n
  if (hi && c.stuckHi) || (lo && c.stuckLo) then
    s.setCap n (fun c => { c with stuckHi := c.stuckHi && !hi, stuckLo := c.stuckLo && !lo, heldSince := s.now })
  else s

def execSyncInEdgeAccepted (n : Fin 8) (rising : Bool) (reached : U64) (s : State) : Host.Outcome State Fault Refusal :=
  .next (syncInEdgeAccepted n rising reached s)
def execCapLoRead (f : Fn) (n : Fin 8) (which : CapReg) (s : State) : Host.Outcome State Fault Refusal := .next (capLoRead f n which s)
def execSyncInStuck (n : Fin 8) (s : State) : Host.Outcome State Fault Refusal := .next (syncInStuck n s)
def execCapStuckClear (n : Fin 8) (hi lo : Bool) (s : State) : Host.Outcome State Fault Refusal := .next (capStuckClear n hi lo s.barWrite)

/-! Relay timers (R70–R72) and SYNC_OUT (R74). -/

/-- RELAY_TIMER_WRAP (R70): the block goes to the step at which the timer next advances from TOP; a timer that counts
events advances with the events of the step before, one step later. -/
def relayTimerWrap (n : Fin 16) (s : State) : State :=
  let t := s.timer n
  if !t.en then s
  else if t.events then s.stepOn
  else s.advance (t.crossing s.now t.toWrap)
/-- RELAY_TIMER_MATCH (R70): the same for the advance into MATCH. -/
def relayTimerMatch (n : Fin 16) (s : State) : State :=
  let t := s.timer n
  if !t.en then s
  else if t.events then s.stepOn
  else match t.toMatch with
    | none => s
    | some d => s.advance (t.crossing s.now d)
/-- RELAY_TIMER_RESET (R72): one step after its RESET_SRC event the COUNT is 0. -/
def relayTimerReset (n : Fin 16) (s : State) : State :=
  let t := s.timer n
  if t.resetSrc != 0 && s.tb.matrix.contains t.resetSrc then s.stepOn else s

/-- GTB_RT_TRIG (R71): a selector given a source of the wrong kind, or a reserved code, stores none. -/
def rtTrigWrite (n : Fin 16) (v : U32) (s : State) : State :=
  let keep (lo : Nat) (p : Nat → Bool) : Byte := if p (fld v lo 8).toNat then fld v lo 8 else 0
  s.setTimer n (fun t => { t with gateSrc := keep 0 isLevel, resetSrc := keep 8 isEvent, clockSrc := keep 16 isEvent })

/-- SYNC_OUT_PULSE_END (R74). -/
def syncOutPulseEnd (n : Fin 4) (s : State) : State :=
  match (s.syncOut n).pulseEnd with
  | none => s
  | some t => (s.advance t).setOut n (fun o => { o with pulseEnd := none, pulseFrom := 0 })

def execRelayTimerWrap (n : Fin 16) (s : State) : Host.Outcome State Fault Refusal := .next (relayTimerWrap n s)
def execRelayTimerMatch (n : Fin 16) (s : State) : Host.Outcome State Fault Refusal := .next (relayTimerMatch n s)
def execRelayTimerReset (n : Fin 16) (s : State) : Host.Outcome State Fault Refusal := .next (relayTimerReset n s)
def execRtTrigWrite (n : Fin 16) (v : U32) (s : State) : Host.Outcome State Fault Refusal := .next (rtTrigWrite n v s.barWrite)
def execSyncOutPulseEnd (n : Fin 4) (s : State) : Host.Outcome State Fault Refusal := .next (syncOutPulseEnd n s)

end Sys2Proof.Machine
end

