-- ==== Sys2Proof/Machine/CmdOps.lean ====
section
/-! DEFINITION. Shared operations of the commands of a queue: when the next may start (R226, R230, R231, R299, R303), the
moving of bytes (R223, R224, R278, R454–R459) and what it adds to a command's status. -/

namespace Sys2Proof.Machine

/-- The master a queue's command acts as (R279). -/
def cmdWho (n k : Nat) (e : Entry) : Who := { stall := n, ctx := qkCtx k, engine := qkEngine k, queue := qkQueue k, asn := e.asn }

/-- Does the part run the queues of context `c`: power is good and the engines are up, no reset or kill is in progress, the stall is not paused
(R161), no preemption request stands (R299), and in a SHARED stall its tenant is resident (R303). -/
def State.serves (s : State) (t : Stall) (c : Nat) : Bool :=
  s.running && s.enginesUp && s.power.warm.isNone && !s.moduleStopped && !t.paused && t.reset.isEmpty && (t.kills.find? c).isNone
  && (match t.ctx? c with
      | none => false
      | some x => !x.killing && !x.requested && (t.hold.iso ≠ 1 || (t.sched.resident = x.key && x.key.isSome)))

/-- The next command of a queue where it may start now and has this opcode. DESIGN CHOICE, log 40. -/
def State.startable (s : State) (n k op : Nat) : Option (Stall × Queue × Entry) :=
  match s.stall? n with
  | none => none
  | some t =>
    match t.queue? k with
    | none => none
    | some q =>
      match q.next? with
      | none => none
      | some e => if e.opcode = op && !e.undecided && q.orderFree e && s.serves t (qkCtx k) then some (t, q, e) else none

/-- Start the next command of the queue: on a FAULTED queue it ends FAULTED_NOT_RUN with DETAIL 0x08 unless CLEAR ends
that state first (R230, R231); in a stall that has lost every bay it ends with DETAIL 0x05 (R491); otherwise it is STARTED, measured against the wait it follows (R57), and `body` runs. DESIGN CHOICE, log 40. -/
def State.begin (s : State) (q : QueueId) (op : Nat) (body : Entry → State → State) : State :=
  let n := q.stall
  let k := queueKey q
  match s.startable n k op with
  | none => s
  | some (t, x, e) =>
    if x.faulted && !e.clear then s.finish n k e.pos stNotRun 0x08 0
    else if t.hold.liveClusters.isEmpty then s.finish n k e.pos stNotRun 0x05 0
    else
      let s := if x.faulted then s.publish n k false (fun q => { q with faulted := false }) else s
      let ref := match x.gated with
        | some (p, r) => if p = e.pos then some r else none
        | none => none
      let e1 := { e with st := .started, startAt := s.now, beginAt := s.now, lateRef := ref }
      body e1 (s.modEntry n k e.pos (fun _ => e1))

/-- A wait passes: its value, and what it gates the next command against (R57, R226). -/
def State.passWait (s : State) (n k : Nat) (pos : U32) (v : U64) (ref : Nat) : State :=
  (s.finish n k pos stDone 0 v).modQueue n k (fun q => { q with gated := some (pos + 1, ref) })

/-- The entry at a position, where it has started and has not finished. -/
def State.started? (s : State) (n k : Nat) (pos : U32) : Option Entry :=
  ((s.queue? n k).bind (fun q => q.entry? pos)).filter (fun e => e.st = .started)
/-- The first command of this opcode in progress on the queue. -/
def State.inProgress? (s : State) (n k op : Nat) : Option Entry :=
  (s.queue? n k).bind (fun q => q.entries.find? (fun e => e.st = .started && e.opcode = op && !e.undecided))

/-! Statuses as they gather (R278). -/

/-- What one access adds to a status so far; 0 stands for none. The first cause of FAULTED_PARTIAL stays. -/
def addMet (write : Bool) (a : Byte × Byte) (m : Met) : Byte × Byte :=
  if a.1 = stPartial then a
  else match m with
    | .ok => a
    | .poisoned => if a.1 = stPoison then a else (stPoison, 0x00)
    | .conflict => if write then (stPartial, 0x03) else (stPoison, 0x03)
    | .retired => (stPartial, 0x05)
    | .stops d => (stPartial, d)
/-- Does the access stop the command. -/
def Met.isStop : Met → Bool
  | .stops _ => true
  | _ => false
/-- The status a command ends with that ran to its end. -/
def finalStatus (a : Byte × Byte) : Byte × Byte := if a.1 = 0 then (stDone, 0) else a

/-! Moving bytes. -/

/-- How far a transfer has come: bytes written, the status so far, whether it stopped, and the bytes moved. -/
structure Moved where
  done : Nat
  status : Byte × Byte
  halted : Bool
  data : List Byte
  deriving DecidableEq, Repr

/-- One side of a transfer: how many bytes lie together from byte `t` on, and how they are read or written. -/
structure Source where
  room : Nat → Nat
  read : Nat → Nat → State → List Byte × Met × State
structure Dest where
  room : Nat → Nat
  write : Nat → List Byte → Bool → State → Met × State

/-- Move bytes [t, fin) piece by piece, at most `fuel` pieces; a fault stops it (R278). DEDUCED, log 34. -/
def moveRun (src : Source) (dst : Dest) (fin : Nat) : Nat → Nat → Moved → State → Moved × State
  | 0, _, m, s => (m, s)
  | fuel + 1, t, m, s =>
    if fin ≤ t || m.halted then (m, s)
    else
      let n := max 1 (min (min (src.room t) (dst.room t)) (fin - t))
      let r := src.read t n s
      let st := addMet false m.status r.2.1
      if r.2.1.isStop then ({ m with status := st, halted := true }, r.2.2)
      else
        let w := dst.write t r.1 (r.2.1 ≠ .ok) r.2.2
        let st := addMet true st w.1
        if w.1.isStop then ({ m with status := st, halted := true }, w.2)
        else moveRun src dst fin fuel (t + n) { m with done := t + n, status := st, data := m.data ++ r.1 } w.2

/-- Bytes left in the line of an address. -/
def lineRoom (a : Nat) : Nat := 64 - a % 64
/-- A source in stall memory at addresses `a t`, `room` bytes of it together. -/
def stallSource (w : Who) (dma : Bool) (a room : Nat → Nat) : Source :=
  { room := fun t => min (room t) (lineRoom (a t))
    read := fun t n s => s.readPiece w (a t) n (if dma then rRead + rDma else rRead) rRead accRead }
def stallDest (w : Who) (dma : Bool) (a room : Nat → Nat) : Dest :=
  { room := fun t => min (room t) (lineRoom (a t))
    write := fun t bs p s => s.writePiece w (a t) bs p (if dma then rWrite + rDma else rWrite) }
/-- A source and a destination in host memory, reached while the stall has a host port with its link up. -/
def State.hostPath (s : State) (n : Nat) : Bool :=
  allPorts.any (fun p => s.vfOn n p && (s.host.ports.get HostPortSt.init p).linkUp)
def hostSource (n : Nat) (a room : Nat → Nat) : Source :=
  { room := fun t => min (room t) (lineRoom (a t))
    read := fun t len s =>
      match if s.hostPath n then s.hostRead (a t) len else none with
      | some b => (b, .ok, s)
      | none => ([], .stops 0x04, s) }
def hostDest (n : Nat) (a room : Nat → Nat) : Dest :=
  { room := fun t => min (room t) (lineRoom (a t))
    write := fun t bs _ s =>
      match if s.hostPath n then s.hostWrite (a t) bs else none with
      | some u => (.ok, u)
      | none => (.stops 0x04, s) }
/-- A source of given bytes. -/
def listSource (base : Nat) (l : List Byte) (poisoned : Bool) : Source :=
  { room := fun t => base + l.length - t
    read := fun t n s => (slice l (t - base) n, if poisoned then .poisoned else .ok, s) }
/-- A repeated pattern. -/
def fillSource (pat : List Byte) : Source :=
  { room := fun _ => 64
    read := fun t n s => ((List.range n).map (fun i => pat.getD ((t + i) % pat.length) 0), .ok, s) }

/-- The chunk of R299: transfers stop at boundaries of 2 MiB of destination bytes. -/
def chunkBytes : Nat := 2 ^ 21
/-- DEDUCED, log 34. -/
def chunkEnd (progress total : Nat) : Nat := min total ((progress / chunkBytes + 1) * chunkBytes)

/-- Does this transfer's data digest cover its bytes (R468). -/
def hashes (t : Stall) (e : Entry) : Bool :=
  t.hold.receipts && ((e.opcode = 0x20 && (e.u8 0x20 ≠ 0 || e.u8 0x21 ≠ 0)) || (e.opcode = 0x21 && (e.u8 0x28 ≠ 0 || e.u8 0x29 ≠ 0))
    || e.opcode = 0x30 || e.opcode = 0x31)
/-- Record a chunk's outcome in its entry: a transfer that stopped, or reached its end, is over; one with more to do keeps
its place, stopped there when a preemption request stands (R299). -/
def State.settleMove (s : State) (n : StallNo) (k : Nat) (e : Entry) (total : Nat) (m : Moved) : State :=
  match s.stall? n with
  | none => s
  | some t =>
    let data := if hashes t e then e.moved ++ m.data else []
    let digest := if data.isEmpty then e.dataDigest else Config.sha384 data
    let req := (t.ctx? (qkCtx k)).any Ctx.requested || t.paused
    s.modEntry n k e.pos (fun x =>
      if m.halted then { x.finish m.status.1 m.status.2 (BitVec.ofNat 64 m.done) with progress := m.done, dataDigest := digest, moved := [] }
      else if total ≤ m.done then
        { x.finish (finalStatus m.status).1 (finalStatus m.status).2 (BitVec.ofNat 64 m.done) with
          progress := m.done, dataDigest := digest, moved := [] }
      else { x with progress := m.done, status := m.status.1, detail := m.status.2, moved := data, stopped := req })

/-- Does a transfer in progress go on to its next boundary though its context is asked to stop (R299). -/
def State.finishes (s : State) (t : Stall) (c : Nat) : Bool :=
  s.running && s.power.warm.isNone && !s.moduleStopped && t.reset.isEmpty && (t.kills.find? c).isNone
  && (t.ctx? c).any (fun x => !x.killing && x.requested)
/-- The transfer a row moves on with: the queue's next command where it may start, else the first in progress that the
part still runs; a stopped one continues (R299). -/
def State.transfer (s : State) (q : QueueId) (op : Nat) (first : Entry → State → Option (Byte × Byte)) (chunk : Entry → State → State) : State :=
  let n := q.stall
  let k := queueKey q
  if (s.startable n k op).isSome then
    s.begin q op (fun e s =>
      match first e s with
      | some r => s.modEntry n k e.pos (fun x => { x.finish r.1 r.2 0 with startAt := if r.1 = stNotRun then 0 else x.startAt })
      | none => chunk e s)
  else match s.stall? n, s.inProgress? n k op with
    | some t, some e => if s.serves t (qkCtx k) || (!e.stopped && s.finishes t (qkCtx k)) then chunk { e with stopped := false } (s.modEntry n k e.pos (fun x => { x with stopped := false })) else s
    | _, _ => s

end Sys2Proof.Machine
end

