-- ==== Sys2Proof/Machine/Placement.lean ====
section
/-! DEFINITION. Kernels: starting a LAUNCH, placing tasks, safe points, preemption, slices and rotation, kills and the
clearing of memory (R221, R291–R311, R442, R443). -/

namespace Sys2Proof.Machine

/-! Starting a launch (R221, R292, R296, R297, R442). -/

/-- What reading an engine's structure came to. -/
inductive Fetched where
  | bytes (b : List Byte) (st : Byte × Byte)
  | stops (detail : Byte)
  deriving DecidableEq, Repr
/-- Read `n` bytes for a command, with the status its conflicts and poison add. -/
def State.fetch (s : State) (w : Who) (va n need page acc : Nat) (st : Byte × Byte) : Fetched × State :=
  let g := s.readRunF w need page acc (n / 64 + 2) va n
  let stop := g.1.met.findSome? (fun m => match m with | .stops d => some d | _ => none)
  match stop with
  | some d => (.stops d, g.2)
  | none => (.bytes g.1.bytes (g.1.met.foldl (addMet false) (if g.1.poison.any (fun x => x) then addMet false st .poisoned else st)), g.2)

/-- The checks of a program image's header (R442): its IMAGE_BYTES, if it passes. -/
def imageHeader (h : List Byte) : Option Nat :=
  let n := f32 h 8
  if h.take 4 = [0x4B, 0x50, 0x52, 0x47] && f16 h 4 = 1 && zeroAt h 6 2 && zeroAt h 0x0C 4 && n % 256 = 0 && 4096 ≤ n && n ≤ 268435456
  then some n else none

/-- A live-range descriptor's table (R296), and its valid entries (R297); none where a check fails. -/
def readLrd (b : List Byte) : Option Lrd :=
  let cnt := f16 b 6
  let rc := f32 b 0x0C
  let save := f32 b 8
  let ent (i : Nat) : Nat := 0x40 + 16 * i
  let rng (i : Nat) : Nat := 0x40 + 16 * cnt + 8 * i
  let okRange (i : Nat) : Bool :=
    f32 b (rng i) % 256 = 0 && f32 b (rng i + 4) % 256 = 0 && f32 b (rng i + 4) ≠ 0 && f32 b (rng i) + f32 b (rng i + 4) ≤ 12 * mib
  let rising := (List.range (cnt - 1)).all (fun i => decide (f32 b (ent i) < f32 b (ent (i + 1))))
  if rising && (List.range rc).all okRange then
    some
      { saveBytes := save, saveBase := f64 b 0x10
        entries := (List.range cnt).filterMap (fun i =>
          let first := f16 b (ent i + 4)
          let num := f16 b (ent i + 6)
          let rs := (List.range num).map (fun j => (f32 b (rng (first + j)), f32 b (rng (first + j) + 4)))
          if first + num ≤ rc && 4096 + (rs.map (·.2)).sum ≤ save then
            some { pc := f32 b (ent i), coreMask := BitVec.ofNat 64 (f64 b (ent i + 8)) ||| bit 64 63, ranges := rs }
          else none) }
  else none
/-- The checks of a live-range descriptor's 64-byte head (R296): the bytes of the whole table, if they pass. -/
def lrdBytes (h : List Byte) : Option Nat :=
  let save := f32 h 8
  if h.take 4 = [0x4C, 0x52, 0x44, 0x54] && f8 h 4 = 1 && f8 h 5 = 0 && decide (1 ≤ f16 h 6) && decide (f16 h 6 ≤ 4096) && save % 256 = 0
      && decide (4096 ≤ save) && decide (save ≤ 12587008) && decide (f32 h 0x0C ≤ 65536) && f64 h 0x10 % 4096 = 0 && zeroAt h 0x18 40 then
    some (0x40 + 16 * f16 h 6 + 8 * f32 h 0x0C)
  else none

/-- What loading a program, its arguments and its table came to. -/
structure Loaded where
  status : Byte × Byte
  program : BitVec 384
  args : BitVec 384
  lrd : Option Lrd
  deriving DecidableEq, Repr

/-- Load a kernel for a command: the program image, fetched with execute rights and measured, its argument block and its
live-range descriptor; or the status the command ends with. -/
def State.loadKernel (s : State) (w : Who) (program args argBytes lrd : Nat) : (Loaded ⊕ (Byte × Byte)) × State :=
  match s.fetch w program 16 rExec rExec accFetch (0, 0) with
  | (.stops d, s) => (.inr (stPartial, d), s)
  | (.bytes h st, s) =>
    match imageHeader h with
    | none => (.inr (stNotRun, 0x09), s)
    | some len =>
      match s.fetch w program len rExec rExec accFetch st with
      | (.stops d, s) => (.inr (stPartial, d), s)
      | (.bytes img st, s) =>
        match s.fetch w args argBytes rRead rRead accRead st with
        | (.stops d, s) => (.inr (stPartial, d), s)
        | (.bytes a st, s) =>
          let l0 : Loaded := { status := st, program := Config.sha384 img, args := Config.sha384 a, lrd := none }
          if lrd = 0 then (.inl l0, s)
          else match s.fetch w lrd 64 rRead rRead accRead st with
            | (.stops d, s) => (.inr (stPartial, d), s)
            | (.bytes h st, s) =>
              match lrdBytes h with
              | none => (.inr (stNotRun, 0x09), s)
              | some n =>
                match s.fetch w lrd n rRead rRead accRead st with
                | (.stops d, s) => (.inr (stPartial, d), s)
                | (.bytes b st, s) =>
                  match readLrd b with
                  | none => (.inr (stNotRun, 0x09), s)
                  | some l => (.inl { l0 with status := st, lrd := some l }, s)

/-- A program digest that differs from every PROGRAM entry of the log is appended (R443). -/
def State.measureProgram (s : State) (n c : Nat) (d : BitVec 384) : State :=
  match s.stall? n with
  | none => s
  | some t => if t.attest.log.any (fun e => e.kind = 1 && e.digest = d) then s else s.logAppend n 1 c 0 d

/-- Start a LAUNCH with its grid. -/
def State.startLaunch (s : State) (n : StallNo) (k : Nat) (e : Entry) (x y z : Nat) : State :=
  let r := s.loadKernel (cmdWho n k e) (e.u64 8) (e.u64 0x10) (e.u32 0x2C) (e.u64 0x18)
  match r.1 with
  | .inr st =>
    r.2.modEntry n k e.pos (fun y => { y.finish st.1 st.2 0 with startAt := if st.1 = stNotRun then 0 else y.startAt })
  | .inl l =>
    let s := r.2.measureProgram n (qkCtx k) l.program
    let d := Config.sha384 (digestBytes l.program ++ digestBytes l.args)
    let s := s.modEntry n k e.pos (fun y => { y with beginAt := 0, status := l.status.1, detail := l.status.2, dataDigest := d })
    s.modStall n (fun t =>
      let all := t.hold.liveClusters.length
      let lim := e.u16 0x2A
      { t with launches := t.launches ++
          [{ qk := k, pos := e.pos, gridX := x, gridY := y, gridZ := z, limit := if lim = 0 || all < lim then all else lim
             next := 0, done := 0, lrd := l.lrd, running := [], saved := [], again := [], stopping := false }] })

/-- LAUNCH (R221, R224). -/
def launchCmd (q : QueueId) (s : State) : State :=
  s.begin q 0x02 (fun e s => s.startLaunch q.stall (queueKey q) e (e.u32 0x20) (e.u32 0x24) (e.u16 0x28))
/-- LAUNCH_INDIRECT (R221): GRID_PTR is read as the command starts; a zero, or Z above 65,535, ends it FAULTED_NOT_RUN with
DETAIL 0x0F. -/
def launchIndirect (q : QueueId) (s : State) : State :=
  s.begin q 0x03 (fun e s =>
    let n := q.stall
    let k := queueKey q
    match s.fetch (cmdWho n k e) (e.u64 0x20) 12 rRead rRead accRead (0, 0) with
    | (.stops d, s) => s.finish n k e.pos stPartial d 0
    | (.bytes b _, s) =>
      if f32 b 0 = 0 || f32 b 4 = 0 || f32 b 8 = 0 || 65535 < f32 b 8 then
        s.modEntry n k e.pos (fun y => { y.finish stNotRun 0x0F 0 with startAt := 0 })
      else s.startLaunch n k e (f32 b 0) (f32 b 4) (f32 b 8))

/-! Placing tasks (R233, R291–R293, R298). -/

def Launch.total (l : Launch) : Nat := l.gridX * l.gridY * l.gridZ
/-- Tasks of the command not placed: saved ones and unstarted ones. -/
def Launch.unplaced (l : Launch) : Bool := !l.saved.isEmpty || !l.again.isEmpty || (decide (l.next < l.total) && !l.stopping)
/-- Is every task of the command over. -/
def Launch.isOver (l : Launch) : Bool := l.running.isEmpty && l.saved.isEmpty && l.again.isEmpty && (l.stopping || decide (l.total ≤ l.next))
/-- A free cluster of the stall (R291): bay granted and not retired, no task, nothing clearing it; a debug halt holds none. -/
def State.clusterFree (s : State) (t : Stall) (c : Nat) : Bool :=
  let x := s.clusters.get Cluster.init c
  x.stall.isNone && decide (x.clearUntil ≤ s.now) && !has t.halted c
def State.freeCluster? (s : State) (t : Stall) : Option Nat := t.hold.liveClusters.find? (s.clusterFree t)
/-- The ready launch of a queue: its earliest command with unplaced tasks, where the S of that command leaves room. -/
def Stall.readyLaunch (t : Stall) (k : Nat) : Option Launch :=
  match t.launches.find? (fun l => l.qk = k && l.unplaced) with
  | none => none
  | some l => if l.running.length < l.limit && !((t.queue? k).bind (fun q => q.entry? l.pos)).any (·.undecided) then some l else none
/-- Queues with a ready task, of contexts that satisfy `p`. -/
def State.readyQueues (s : State) (t : Stall) (p : Nat → Bool) : List Nat :=
  (t.queues.filter (fun e => qkEngine e.1 = 0 && p (qkCtx e.1) && s.serves t (qkCtx e.1) && (t.readyLaunch e.1).isSome)).map (·.1)
/-- The queue served next (R233): the least served in the round, then the earliest accepted head, then the lowest context
and queue; queues that have had their WEIGHT wait for the next round. -/
def Stall.nextServed (t : Stall) (ks : List Nat) : Option Nat :=
  let key (k : Nat) : Nat × Nat × Nat :=
    match t.queue? k with
    | none => (0, 0, k)
    | some q => (q.served, ((q.entries.find? (fun e => !e.isOver)).map (·.acceptAt)).getD 0, k)
  let lt (a b : Nat × Nat × Nat) : Bool := a.1 < b.1 || (a.1 = b.1 && (a.2.1 < b.2.1 || (a.2.1 = b.2.1 && a.2.2 < b.2.2)))
  match ks with
  | [] => none
  | k :: l => some (l.foldl (fun a b => if lt (key b) (key a) then b else a) k)

/-- The rest of a restored task's slot is read back (R298); a fault abandons the task and ends its command. -/
def State.restoreTask (s : State) (l : Launch) (slot : Nat) (pc : U32) (w : Who) : Option Byte × State :=
  match l.lrd with
  | none => (none, s)
  | some d =>
    let len := 4096 + (((d.entries.find? (fun e => e.pc = pc.toNat)).map (fun e => (e.ranges.map (·.2)).sum)).getD 0)
    let g := s.readRun w (d.saveBase + slot * d.saveBytes) len rRead
    (g.1.met.findSome? (fun m => match m with | .stops x => some x | .retired => some 0x05 | .conflict => some 0x03 | _ => none), g.2)

/-- A command whose tasks are all over ends (R224): DONE, or the status they gathered; VALUE counts the tasks completed. -/
def State.launchOver (s : State) (n : StallNo) (k : Nat) (pos : U32) : State :=
  match (s.stall? n).bind (fun t => t.launch? k pos) with
  | none => s
  | some l =>
    if !l.isOver then s
    else
      let s := s.modStall n (fun t => { t with launches := t.launches.filter (fun x => !(x.qk = k && x.pos = pos)) })
      s.modEntry n k pos (fun e =>
        let st := finalStatus (e.status, e.detail)
        e.finish st.1 st.2 (BitVec.ofNat 64 l.done))
/-- A task met a cause that stops its command (R278). -/
def State.stopLaunch (s : State) (n : StallNo) (k : Nat) (pos : U32) (m : Met) (write : Bool) : State :=
  let s := s.modEntry n k pos (fun e =>
    let st := addMet write (e.status, e.detail) m
    { e with status := st.1, detail := st.2 })
  if m.isStop then s.modStall n (fun t => t.modLaunch k pos (fun l => { l with stopping := true, saved := [], again := [] })) else s

/-- Put one task of a queue's ready launch on a cluster: a saved one by ascending slot, else the next index. -/
def State.placeOne (s : State) (n : StallNo) (t : Stall) (k c : Nat) (l : Launch) : State :=
  match (t.queue? k).bind (fun q => q.entry? l.pos) with
  | none => s
  | some e =>
    let x := s.clusters.get Cluster.init c
    let ctx := qkCtx k
    let (idx, restored) := match l.saved, l.again with
      | (slot, i, pc) :: _, _ => (i, some (slot, pc))
      | [], i :: _ => (i, none)
      | [], [] => (l.next, none)
    let s := s.modStall n (fun t => (t.modQueue k (fun q => { q with served := q.served + 1 })).modLaunch k l.pos (fun l =>
      match l.saved, l.again with
      | _ :: rest, _ => { l with saved := rest }
      | [], _ :: rest => { l with again := rest }
      | [], [] => { l with next := l.next + 1 }))
    let back := match restored with
      | none => (none, s)
      | some (slot, pc) => s.restoreTask l slot pc (cmdWho n k e)
    match back.1 with
    | some d => (back.2.stopLaunch n k l.pos (.stops d) false).launchOver n k l.pos
    | none =>
      let r := back.2.occupy c
      let s := r.1.setCluster c (fun y =>
        { y with stall := some n.val, ctx := ctx, heldSince := if x.lastCtx = some ctx && x.freedAt = s.now then y.heldSince else s.now })
      let s := s.modStall n (fun t =>
        let t := if x.atSafe && x.lastCtx ≠ some ctx then { t with sched := { t.sched with switches := satAdd t.sched.switches 1 } } else t
        t.modLaunch k l.pos (fun l => { l with running := l.running ++ [{ idx := idx, cluster := c, startAt := r.2, back := restored }] }))
      s.modEntry n k l.pos (fun e => { e with beginAt := if e.beginAt = 0 then r.2 else min e.beginAt r.2 })

/-- Place ready tasks while a free cluster and a ready task of a context that satisfies `p` exist; the answer tells
whether any was placed. DESIGN CHOICE, log 40. -/
def State.placeLoop (n : StallNo) (p : Nat → Bool) : Nat → Bool → State → Bool × State
  | 0, b, s => (b, s)
  | fuel + 1, b, s =>
    match s.stall? n with
    | none => (b, s)
    | some t =>
      let ks := s.readyQueues t p
      let fresh := ks.filter (fun k => (t.queue? k).any (fun q => decide (q.served < q.weight)))
      match s.freeCluster? t with
      | none => (b, s)
      | some c =>
        if ks.isEmpty then (b, s)
        else if fresh.isEmpty then
          State.placeLoop n p fuel b (s.modStall n (fun t => { t with queues := t.queues.map (fun e => (e.1, { e.2 with served := 0 })) }))
        else match t.nextServed fresh with
          | none => (b, s)
          | some k =>
            match t.readyLaunch k with
            | none => (b, s)
            | some l => State.placeLoop n p fuel true (s.placeOne n t k c l)
/-- Contexts with ready work and no free cluster keep, or begin, their wait (R302). -/
def State.noteWaits (s : State) (n : StallNo) : State :=
  match s.stall? n with
  | none => s
  | some t =>
    let full := (s.freeCluster? t).isNone
    let waiting := ((s.readyQueues t (fun _ => true)).map qkCtx).filter (fun _ => full)
    let keep (c : Nat) : Option Nat := if waiting.contains c then some ((t.sched.waitSince.find? c).getD s.now) else none
    s.setStall n { t with sched := { t.sched with waitSince := forAll (List.range 16) (fun c w => w.put c (keep c)) ([] : Tab Nat) } }
/-- Rounds of placement: two for each cluster, since a round of service may end between placements. -/
def placeFuel : Nat := 1024
/-- TASK_PLACE (R292). DEDUCED, log 49. -/
def taskPlace (n : StallNo) (s : State) : State := (State.placeLoop n (fun _ => true) placeFuel false s).2.noteWaits n

/-! The end and the stop of a task. -/

/-- The stall, launch and task a cluster holds and runs; one that a debug halt holds does nothing (R426). -/
def State.taskOn (s : State) (c : Nat) : Option (StallNo × Launch × RunTask) :=
  match (s.clusters.get Cluster.init c).stall with
  | none => none
  | some n =>
    if h : n < 128 then
      (s.stall? n).bind (fun t => if has t.halted c then none else t.launches.findSome? (fun l =>
        (l.running.find? (fun r => r.cluster = c)).map (fun r => (⟨n, h⟩, l, r))))
    else none
/-- Stores of a task, each a run of bytes at a stall address, poisoned or not. DESIGN CHOICE, log 41. -/
def State.taskWrites (s : State) (n : StallNo) (k : Nat) (e : Entry) (poisoned : Bool) : List (Nat × List Byte) → State
  | [] => s
  | w :: l =>
    let r := s.writeRun (cmdWho n k e) w.1 w.2 (List.replicate w.2.length poisoned) rWrite
    let t := r.1.2.foldl (fun u m => State.stopLaunch u n k e.pos m true) r.2
    if r.1.2.any Met.isStop then t else State.taskWrites t n k e poisoned l

/-- TASK_END (R293): its stores, and how it ended; its cluster is free. A task that ends normally after its command was
stopped is not counted as completed. DESIGN CHOICE, log 41. -/
def taskEnd (c : Fin 512) (writes : List (Nat × List Byte)) (how : TaskEnd) (s : State) : State :=
  match s.taskOn c with
  | none => s
  | some (n, l, r) =>
    match (s.queue? n l.qk).bind (fun q => q.entry? l.pos) with
    | none => s
    | some e =>
      let s := s.advance r.startAt
      let poisoned := match how with
        | .poison _ => true
        | _ => false
      let s := if writes.isEmpty then s else s.modEntry n l.qk l.pos (fun e => { e with sideEffect := e.sideEffect || nonReplayable e.bytes })
      let s := s.taskWrites n l.qk e poisoned writes
      let stopped := ((s.stall? n).bind (fun t => t.launch? l.qk l.pos)).any (·.stopping)
      let s := match how with
        | .done => s
        | .poison true => s.stopLaunch n l.qk l.pos .conflict false
        | .poison false => s.stopLaunch n l.qk l.pos .poisoned false
        | .fault d => s.stopLaunch n l.qk l.pos (.stops d) false
      let fine := !stopped && (match how with | .fault _ => false | _ => true)
      let s := s.modStall n (fun t => t.modLaunch l.qk l.pos (fun l =>
        { l with running := l.running.filter (fun x => x.cluster ≠ c.val), done := if fine then l.done + 1 else l.done }))
      ((s.freeCluster c false false).launchOver n l.qk l.pos).noteWaits n

/-- The lowest save slot below S that is free at `now`. -/
def Launch.freeSlot (l : Launch) (now : Nat) : Nat :=
  ((List.range l.limit).find? (fun i => (l.saved.find? i).isNone && !l.running.any (fun r => (r.slotAt now).any (fun b => b.1 = i)))).getD 0
/-- A task that has not begun goes back to its pool, for nothing of it is live before its first instruction (R295); its command
begins when its first remaining task does. DEDUCED, log 99. -/
def State.unplace (s : State) (n : StallNo) (l : Launch) (r : RunTask) : State :=
  let s := s.modStall n (fun t => t.modLaunch l.qk l.pos (fun l =>
    let m := { l with running := l.running.filter (fun y => y.cluster ≠ r.cluster) }
    if l.stopping then m else m.putBack s.now r))
  let rest := ((l.running.filter (fun y => y.cluster ≠ r.cluster)).map (fun y => y.startAt)).min?
  let s := s.modEntry n l.qk l.pos (fun e => { e with beginAt := if s.now < e.beginAt then rest.getD 0 else e.beginAt })
  (s.freeCluster r.cluster false false).launchOver n l.qk l.pos
/-- TASK_SAFE_POINT_STOP (R295–R298): a task of a context asked to stop reaches a valid entry of its descriptor, saves the
live core groups and ranges into the lowest free slot, and leaves its cluster. One that has not begun leaves it at once. -/
def taskSafePointStop (c : Fin 512) (pc : U32) (core ranges : List Byte) (s : State) : State :=
  match s.taskOn c with
  | none => s
  | some (n, l, r) =>
    if !(s.stall? n).any (fun t => t.paused || (t.ctx? (qkCtx l.qk)).any Ctx.requested) then s
    else if s.now < r.startAt then s.unplace n l r
    else match l.lrd, (s.queue? n l.qk).bind (fun q => q.entry? l.pos) with
    | some d, some e =>
      match d.entries.find? (fun x => x.pc = pc.toNat) with
      | none => s
      | some x =>
        let slot := l.freeSlot s.now
        let base := d.saveBase + slot * d.saveBytes
        let groups := (members x.coreMask).map (fun i => (base + 64 * i, fit 64 (slice core (64 * i) 64)))
        let total := (x.ranges.map (·.2)).sum
        let ws := groups ++ (if total = 0 then [] else [(base + 4096, fit total ranges)])
        let s := s.modEntry n l.qk l.pos (fun e => { e with sideEffect := e.sideEffect || nonReplayable e.bytes })
        let s := s.taskWrites n l.qk e false ws
        let s := s.modStall n (fun t => t.modLaunch l.qk l.pos (fun l =>
          { l with running := l.running.filter (fun y => y.cluster ≠ c.val)
                   saved := if l.stopping then l.saved else l.saved.put slot (some (r.idx, pc)) }))
        (s.freeCluster c false true).launchOver n l.qk l.pos
    | _, _ => s

/-- SAFE_HINT (R224): a request that stands takes effect here; with YIELD 1 ready tasks of other contexts of the tenant take
free clusters first. VALUE tells whether the context switched out. DEDUCED, log 49. -/
def safeHint (q : QueueId) (s : State) : State :=
  let n := q.stall
  let k := queueKey q
  let c := qkCtx k
  let asked := (s.stall? n).any (fun t => (t.ctx? c).any Ctx.requested)
  let put (f : Ctx → Ctx) (s : State) : State := s.modCtx n c f
  let old := (s.stall? n).bind (fun t => t.ctx? c)
  let s1 := put (fun x => { x with pauseReq := false, rotReq := none, sliceReq := none }) s
  let s2 := s1.begin q 0x04 (fun e s =>
    let r := if e.u8 8 = 1 then State.placeLoop n (fun d => d ≠ c) placeFuel false s else (false, s)
    r.2.finish n k e.pos stDone 0 (if asked || r.1 then 1 else 0))
  match old with
  | none => s2
  | some o => s2.modCtx n c (fun x => { x with pauseReq := o.pauseReq, rotReq := o.rotReq, sliceReq := o.sliceReq })

/-! Preemption (R299–R302). -/

/-- CONTEXT_STOPPED: every part of a context asked to stop has stopped, in time; after a CTX_SLICE request its stopped
tasks become ready again (R299, R300, R302). -/
def contextStopped (c : CtxId) (s : State) : State :=
  match (s.stall? c.stall).bind (fun t => (t.ctx? c.ctx).map (fun x => (t, x))) with
  | none => s
  | some (t, x) =>
    let late (r : Option Nat) : Bool := match r with
      | none => false
      | some a => decide (a + t.hold.preemptLimit < s.now)
    if x.requested && t.halted? c.ctx && !late x.rotReq && !late x.sliceReq then
      s.modCtx c.stall c.ctx (fun x => { x with stopped := true, sliceReq := none })
    else s
/-- PREEMPT_LIMIT_EXPIRY: the first step after request + PREEMPT_LIMIT finds the context not stopped (R300). -/
def preemptLimitExpiry (c : CtxId) (s : State) : State :=
  match (s.stall? c.stall).bind (fun t => (t.ctx? c.ctx).map (fun x => (t, x))) with
  | none => s
  | some (t, x) =>
    match x.rotReq.orElse (fun _ => x.sliceReq) with
    | none => s
    | some r =>
      if x.stopped then s
      else
        let s := s.advance (r + t.hold.preemptLimit + 1)
        (s.refusePreempt c.stall c.ctx).modCtx c.stall c.ctx (fun x => { x with sliceReq := none })

/-- Effective ROT_SLICE (R306). -/
def Sched.rotEff (x : Sched) : Nat := if x.rotSlice = 0 then 64000000 else x.rotSlice.toNat
/-- Since when a context has held a cluster continuously, the earliest of those its running tasks hold. -/
def State.holding (s : State) (t : Stall) (c : Nat) : Option Nat :=
  let cs := ((t.launches.filter (fun l => qkCtx l.qk = c)).flatMap (fun l => l.running)).map (fun r => (s.clusters.get Cluster.init r.cluster).heldSince)
  match cs with
  | [] => none
  | a :: l => some (l.foldl min a)
/-- CTX_SLICE_EXPIRY (R302): when a context of the resident tenant has waited CTX_SLICE, the other context that has held a
cluster longest, for at least that time, is asked to stop; of equals the higher number. DEDUCED, log 49. -/
def ctxSliceExpiry (n : StallNo) (s : State) : State :=
  match s.stall? n with
  | none => s
  | some t =>
    let sl := t.sched.ctxSlice.toNat
    let due := (t.sched.waitSince.map (fun e => e.2 + sl))
    match due with
    | [] => s
    | d :: l =>
      if sl = 0 || t.hold.sole then s
      else
        let s := s.advance (l.foldl min d)
        let waits := (t.sched.waitSince.filter (fun e => e.2 + sl ≤ s.now)).map (·.1)
        let cands := (t.ctxs.map (·.1)).filterMap (fun c =>
          match s.holding t c with
          | none => none
          | some h => if h + sl ≤ s.now && waits.any (fun w => w ≠ c) && !(t.ctx? c).any Ctx.requested then some (h, c) else none)
        match cands with
        | [] => s
        | a :: l =>
          let pick := l.foldl (fun a b => if b.1 < a.1 || (b.1 = a.1 && a.2 < b.2) then b else a) a
          s.modCtx n pick.2 (fun x => { x with sliceReq := some s.now, stopped := false })

/-! Rotation (R303–R305). -/

/-- Could a queue's head command run once its tenant is resident (R303): it may start, or it stopped at a boundary. -/
def Queue.headReady (q : Queue) : Bool :=
  (match q.next? with | some e => q.orderFree e && !e.undecided | none => false)
  || q.entries.any (fun e => e.st = .started && e.stopped)
/-- Is tenant `i` eligible. -/
def Stall.eligible (t : Stall) (i : Nat) : Bool :=
  t.ctxs.any (fun e => e.2.key = some i
    && (t.launches.any (fun l => qkCtx l.qk = e.1 && l.unplaced)
      || t.queues.any (fun q => qkCtx q.1 = e.1 && q.2.headReady)))
/-- The next eligible key index in ascending cyclic order after `i`. -/
def Stall.nextTenant (t : Stall) (i : Nat) : Option Nat :=
  let cnt := t.hold.slots.length
  ((List.range cnt).map (fun d => (i + 1 + d) % cnt)).find? (fun j => j ≠ i && t.eligible j)
/-- Does the resident tenant have nothing to do: no running task, no command in progress, no ready work. -/
def Stall.idleTenant (t : Stall) (i : Nat) : Bool :=
  !t.ctxs.any (fun e => e.2.key = some i && (t.running e.1
    || t.queues.any (fun q => qkCtx q.1 = e.1 && (q.2.headReady || q.2.entries.any (fun x => x.st = .started)))))
/-- A tenant becomes resident: its slice begins. -/
def Stall.reside (t : Stall) (i now : Nat) : Stall :=
  { t with sched := { t.sched with resident := some i, residentAt := now, sliceNow := t.sched.rotEff, rotating := none, incoming := none
                                   forward := t.sched.forward.filter (fun e => e.2 ≠ i) } }
/-- ROT_SLICE_EXPIRY (R303, R304): with no resident the first eligible tenant becomes resident; otherwise, once the slice
has elapsed or the resident has nothing to do and another tenant is eligible, its contexts are asked to stop. A rotation
that falls due while the stall is pausing waits for the resume (R168). DEDUCED, log 49. -/
def rotSliceExpiry (n : StallNo) (s : State) : State :=
  match s.stall? n with
  | none => s
  | some t =>
    if t.hold.iso ≠ 1 || t.hold.sole || t.paused || t.sched.rotating.isSome then s
    else match t.sched.resident with
      | none =>
        match (t.sched.forward.head?.map (·.2)).orElse (fun _ => (List.range t.hold.slots.length).find? t.eligible) with
        | none => s
        | some i => s.setStall n (t.reside i s.now)
      | some i =>
        match (t.sched.forward.head?.map (·.2)).orElse (fun _ => t.nextTenant i) with
        | none => s
        | some j =>
          if (t.nextTenant i).isNone then s
          else
            let s := if t.idleTenant i then s else s.advance (t.sched.residentAt + t.sched.sliceNow)
            s.modStall n (fun t =>
              { t with sched := { t.sched with rotating := some (some i, s.now), incoming := some j }
                       ctxs := t.ctxs.map (fun e => if e.2.key = some i then (e.1, { e.2 with rotReq := some s.now, stopped := false }) else e) })
/-- TENANT_RESIDENT (R305): the outgoing contexts have stopped, the scrub is done, and the incoming tenant is resident. -/
def tenantResident (n : StallNo) (s : State) : State :=
  match s.stall? n with
  | none => s
  | some t =>
    match t.sched.rotating, t.sched.incoming with
    | some (out, at'), some j =>
      if t.paused || t.ctxs.any (fun e => e.2.key = out && e.2.rotReq.isSome && !e.2.stopped) then s
      else
        let t := t.reside j s.now
        s.setStall n
          { t with
            sched := { t.sched with rotations := satAdd t.sched.rotations 1, lastRot := BitVec.ofNat 32 (min (s.now - at') (2 ^ 32 - 1)) }
            ctxs := t.ctxs.map (fun e => if e.2.key = out then (e.1, { e.2 with rotReq := none, stopped := false }) else e) }
    | _, _ => s

/-! Requests (R306, R307, R309–R311). -/

/-- SCHED_SET (R306). -/
def schedSetForm : MbForm :=
  { form 0x0038 true true 16 [(1, 3), (12, 4)] with
    stallAt := some 0
    bad := fun p =>
      lowest (badIf (f32 p 4 ≠ 0 && (f32 p 4 < 1600000 || 1600000000 < f32 p 4)) 4
        ++ badIf (f32 p 8 ≠ 0 && (f32 p 8 < 160000 || 1600000000 < f32 p 8)) 8) }
/-- SCHED_SET (R306). -/
def schedSet (m : Req) (s : State) : State :=
  let f := schedSetForm
  s.mbServeA f m (fun s =>
    let n := stallArg f m
    match s.stall? n with
    | none => (refuse 0xFF, s)
    | some t =>
      let x := t.sched
      let y := { x with rotSlice := if t.hold.iso = 1 then BitVec.ofNat 32 (f32 m.payload 4) else x.rotSlice
                        ctxSlice := if t.hold.sole then x.ctxSlice else BitVec.ofNat 32 (f32 m.payload 8) }
      (okWith (leBytes 4 x.rotSlice.toNat ++ leBytes 4 x.ctxSlice.toNat), s.setStall n { t with sched := y }))
/-- SCHED_STAT (R307). -/
def schedStatForm : MbForm :=
  { form 0x0039 true true 8 [(1, 7)] with stallAt := some 0, clear3 := true }
/-- SCHED_STAT (R307). -/
def schedStat (m : Req) (s : State) : State :=
  let f := schedStatForm
  s.mbServeA f m (fun s =>
    match s.stall? (stallArg f m) with
    | none => (refuse 0xFF, s)
    | some t =>
      let x := t.sched
      (okWith (leBytes 1 (x.resident.getD 0xFF) ++ zeros 3 ++ leBytes 4 x.rotEff ++ leBytes 4 x.ctxSlice.toNat
        ++ leBytes 4 x.preemptRefused.toNat ++ leBytes 4 x.rotations.toNat ++ leBytes 4 x.switches.toNat ++ leBytes 4 x.lastRot.toNat
        ++ leBytes 4 x.kills.toNat), s))

/-- STATE.HELD of a context's queues changes, in a publication of each (R218). -/
def State.holdQueues (s : State) (n : StallNo) (c : Nat) (h : Bool) : State :=
  match s.stall? n with
  | none => s
  | some t => forAll (t.queuesOf c) (fun k u =>
      match u.queue? n k with
      | none => u
      | some q => if u.queueServed q then u.publish n k false (fun q => { q with held := h }) else u.modQueue n k (fun q => { q with held := h })) s
/-- CTX_KILL (R309). -/
def ctxKillForm : MbForm :=
  { form 0x0021 true true 8 [(2, 6)] with stallAt := some 0, bad := fun p => lowest (badIf (15 < f8 p 1) 1) }
/-- MEM_CLEAR (R310). -/
def memClearForm : MbForm :=
  { form 0x0037 true true 24 [(2, 6)] with
    stallAt := some 0
    bad := fun p => lowest (badIf (f64 p 8 % 65536 ≠ 0) 8 ++ badIf (f64 p 16 = 0 || f64 p 16 % 65536 ≠ 0) 16) }
/-- CTX_KILL (R309): steps 1 to 4 at GO; the answer comes with CTX_KILL_DONE. Of a context that does not exist nothing is
to be killed, and the answer is OK at once. DEDUCED, log 48. -/
def ctxKill (m : Req) (s : State) : State :=
  let f := ctxKillForm
  s.mbServe f m (fun s =>
    let n := stallArg f m
    let c := f8 m.payload 1
    if h : n < 128 then
      match (s.stall? n).bind (fun t => (t.ctx? c).map (fun _ => t)) with
      | none => s.mbAnswer m f.op ok
      | some t =>
        match t.kills.find? c with
        | some rs => s.modStall n (fun t => { t with kills := t.kills.put c (some (rs ++ [m])) })
        | none =>
          let s := s.modStall n (fun t => { t with kills := t.kills.put c (some [m]) })
          let s := s.modCtx n c (fun x => { x with killing := true })
          let s := s.holdQueues ⟨n, h⟩ c true
          (s.killCtx ⟨n, h⟩ c 0x0A).modStall n (fun t => { t with sched := { t.sched with kills := satAdd t.sched.kills 1 } })
    else s.mbAnswer m f.op (malformed 0))

/-! MEM_CLEAR (R310, R311). -/

def memClear (m : Req) (s : State) : State :=
  let f := memClearForm
  s.mbServe f m (fun s =>
    let n := stallArg f m
    let p := m.payload
    match s.stall? n with
    | none => s.mbAnswer m f.op (refuse 0xFF)
    | some t =>
      if t.hold.slots.length ≤ f8 p 1 then s.mbAnswer m f.op (refuse 1)
      else if t.hold.spaceEnd s.pkg.variant < f64 p 8 + f64 p 16 then s.mbAnswer m f.op (refuse 2)
      else if t.man.pending then s.mbAnswer m f.op (refuse 3)
      else s.setStall n { t with memClear := t.memClear ++ [{ req := m, keyIndex := f8 p 1, offset := f64 p 8, bytes := f64 p 16 }] })
/-- One line of a MEM_CLEAR: written with zeros under the key where it resolves to that key with write rights; the answer
tells whether it was cleared. -/
def State.clearLine (s : State) (n : Nat) (t : Stall) (key o : Nat) : Bool × State :=
  match resolve t.hold.regions (fun i => i = key) o, t.hold.place s.pkg.variant o with
  | some r, some (b, y) =>
    let s := if r.multi then s.countMulti n none else s
    if r.keyIndex = key && !r.conflict && rightsOk r.rights rWrite && !has t.hold.retired b then
      (true, s.lineWrite (bayAddr s.pkg.variant b y) (t.hold.slotOf key) (zeros 64) false)
    else (false, s)
  | _, _ => (false, s)
/-- MEM_CLEAR_DONE: the stall's oldest MEM_CLEAR completes with CLEARED and SKIPPED, in bytes. -/
def memClearDone (n : StallNo) (s : State) : State :=
  match s.stall? n with
  | none => s
  | some t =>
    match t.memClear with
    | [] => s
    | x :: l =>
      let step (a : Nat × State) (i : Nat) : Nat × State :=
        let r := a.2.clearLine n t x.keyIndex (x.offset + 64 * i)
        (if r.1 then a.1 + 64 else a.1, r.2)
      let r := (List.range (x.bytes / 64)).foldl step (0, s)
      (r.2.modStall n (fun t => { t with memClear := l })).mbAnswer x.req 0x0037 (okWith (leBytes 8 r.1 ++ leBytes 8 (x.bytes - r.1)))

def execLaunch (q : QueueId) (s : State) : Host.Outcome State Fault Refusal := .next (launchCmd q s)
def execLaunchIndirect (q : QueueId) (s : State) : Host.Outcome State Fault Refusal := .next (launchIndirect q s)
def execSafeHint (q : QueueId) (s : State) : Host.Outcome State Fault Refusal := .next (safeHint q s)
def execTaskPlace (n : StallNo) (s : State) : Host.Outcome State Fault Refusal := .next (taskPlace n s)
def execTaskEnd (c : Fin 512) (writes : List (Nat × List Byte)) (how : TaskEnd) (s : State) : Host.Outcome State Fault Refusal :=
  .next (taskEnd c writes how s)
def execTaskSafePointStop (c : Fin 512) (pc : U32) (core ranges : List Byte) (s : State) : Host.Outcome State Fault Refusal :=
  .next (taskSafePointStop c pc core ranges s)
def execContextStopped (c : CtxId) (s : State) : Host.Outcome State Fault Refusal := .next (contextStopped c s)
def execPreemptLimitExpiry (c : CtxId) (s : State) : Host.Outcome State Fault Refusal := .next (preemptLimitExpiry c s)
def execCtxSliceExpiry (n : StallNo) (s : State) : Host.Outcome State Fault Refusal := .next (ctxSliceExpiry n s)
def execRotSliceExpiry (n : StallNo) (s : State) : Host.Outcome State Fault Refusal := .next (rotSliceExpiry n s)
def execTenantResident (n : StallNo) (s : State) : Host.Outcome State Fault Refusal := .next (tenantResident n s)
def execSchedSet (m : MbReq) (s : State) : Host.Outcome State Fault Refusal := .next (schedSet (plain m) s)
def execSchedStat (m : MbReq) (s : State) : Host.Outcome State Fault Refusal := .next (schedStat (plain m) s)
def execCtxKill (m : MbReq) (s : State) : Host.Outcome State Fault Refusal := .next (ctxKill (plain m) s)
def execMemClear (m : MbReq) (s : State) : Host.Outcome State Fault Refusal := .next (memClear (plain m) s)
def execMemClearDone (n : StallNo) (s : State) : Host.Outcome State Fault Refusal := .next (memClearDone n s)

end Sys2Proof.Machine
end

