-- ==== Sys2Proof/Machine/PlanFmt.lean ====
section
/-! DEFINITION. The yard plan bit-stream (R109–R125): framing, records, and the checks of R129 and R130 that every plan
meets. A check lists the byte offsets of the fields that fail it, and the lowest is reported. -/

namespace Sys2Proof.Machine

/-- A rejection: reason code, sub-reason and YP_REJECT_OFS (R129, R130). -/
structure Rej where
  reason : Nat
  sub : Nat
  ofs : Nat
  deriving DecidableEq, Repr

/-- YP_REJECT_OFS of a check that concerns no single field (R129). -/
def noField : Nat := 0xFFFFFFFF

/-- The first check that fails, in order: reason code and the offsets that fail it. -/
def firstRej (checks : List (Nat × List Nat)) : Option Rej :=
  checks.findSome? (fun c => (lowest c.2).map (fun o => { reason := c.1, sub := 0, ofs := o }))
/-! Framing (R109, R110). -/

/-- A section as framed: its header's offset, TYPE, SVER and LEN. -/
structure Sec where
  at' : Nat
  type : Nat
  sver : Nat
  len : Nat
  deriving DecidableEq, Repr
def Sec.body (x : Sec) : Nat := x.at' + 8
def Sec.fin (x : Sec) : Nat := x.at' + 8 + x.len
/-- The next multiple of 8 at or after `n`. -/
def up8 (n : Nat) : Nat := (n + 7) / 8 * 8

/-- Take section headers from their prescribed positions, up to SIGNATURE: the sections, and where a header or body would
extend beyond TOTAL_LEN its LEN field's offset (R110). -/
def frameFrom (bs : List Byte) (total : Nat) : Nat → Nat → List Sec × Option Nat
  | 0, _ => ([], none)
  | fuel + 1, at' =>
    if total ≤ at' then ([], none)
    else if total < at' + 8 then ([], some (at' + 4))
    else
      let x : Sec := { at' := at', type := f8 bs at', sver := f8 bs (at' + 1), len := f32 bs (at' + 4) }
      if total < x.fin then ([], some (at' + 4))
      else if x.type = 0xFF then ([x], none)
      else
        let r := frameFrom bs total fuel (up8 x.fin)
        (x :: r.1, r.2)
def frame (bs : List Byte) : List Sec × Option Nat := frameFrom bs (f32 bs 8) 256 0x80

/-- Record sizes of R111; CHANGE has its own rule. -/
def recSize : Nat → Option Nat
  | 0x01 => some 4 | 0x02 => some 32 | 0x03 => some 32 | 0x04 => some 16 | 0x05 => some 4 | 0x06 => some 8
  | 0x07 => some 4 | 0x08 => some 32 | 0x09 => some 16 | 0xFF => some 96 | _ => none
def knownType (t : Nat) : Bool := (1 ≤ t && t ≤ 0x0A) || t == 0xFF

/-- TYPE bytes out of ascending order or unknown. -/
def typeBad : Nat → List Sec → List Nat
  | _, [] => []
  | prev, x :: l => badIf (!knownType x.type || x.type ≤ prev) x.at' ++ typeBad (max prev x.type) l
/-- LEN fields of bodies that are not a whole number of records, or not exactly one (R111). -/
def lenBad (x : Sec) : List Nat :=
  match recSize x.type with
  | none => []
  | some n => badIf (x.len % n ≠ 0 || ((x.type = 0x08 || x.type = 0xFF) && x.len ≠ n)) (x.at' + 4)

/-- Offsets of the records of a section type. -/
def recsOf (secs : List Sec) (t : Nat) : List Nat :=
  match secs.find? (fun x => x.type = t), recSize t with
  | some x, some n => (List.range (x.len / n)).map (fun i => x.body + n * i)
  | _, _ => []

/-- Reserved bytes of one record at `o`, as (offset, length) (R115–R124). -/
def recReserved (t o : Nat) : List (Nat × Nat) :=
  match t with
  | 0x01 => [(o + 3, 1)]
  | 0x02 => [(o + 5, 3), (o + 0x0B, 1), (o + 0x1C, 4)]
  | 0x03 => [(o + 6, 2), (o + 0x18, 8)]
  | 0x04 => [(o + 0x0C, 4)]
  | 0x05 => [(o + 2, 2)]
  | 0x06 => [(o + 3, 1), (o + 6, 2)]
  | 0x08 => [(o + 7, 25)]
  | 0x09 => [(o + 2, 6)]
  | _ => []
/-- Fields of one record with reserved bits set. -/
def recBits (v : Variant) (bs : List Byte) (t o : Nat) : List Nat :=
  match t with
  | 0x02 => badIf (f8 bs (o + 3) / 16 ≠ 0) (o + 3)
  | 0x03 => badIf (f8 bs (o + 3) / 32 ≠ 0) (o + 3) ++ badIf (f8 bs (o + 5) / 4 ≠ 0) (o + 5)
  | 0x08 => badIf (f32 bs o / 4 ≠ 0) o
  | 0x09 => badIf (f64 bs (o + 8) / 2 ^ linkPorts v ≠ 0) (o + 8)
  | _ => []
/-- Nonzero bytes among reserved ranges. -/
def nonzeroIn (bs : List Byte) (rs : List (Nat × Nat)) : List Nat := (firstNonzero bs rs).toList

/-- Every reserved field, bit and pad byte (R20, R110, R141). -/
def reservedBad (v : Variant) (bs : List Byte) (secs : List Sec) : List Nat :=
  nonzeroIn bs [(0x14, 4)]
    ++ secs.flatMap (fun x => nonzeroIn bs [(x.at' + 2, 2)] ++ (if x.type = 0xFF then [] else nonzeroIn bs [(x.fin, up8 x.fin - x.fin)]))
    ++ secs.flatMap (fun x => (recsOf [x] x.type).flatMap (fun o => nonzeroIn bs (recReserved x.type o) ++ recBits v bs x.type o))
    ++ secs.flatMap (fun x => if x.type = 0x0A then
        (List.range ((x.len - 64) / 8)).flatMap (fun i => nonzeroIn bs [(x.body + 64 + 8 * i + 2, 6)]) else [])

/-- The checks of form, codes 0x01 to 0x06, in their order (R129, R130). A delivery of fewer than 128 bytes is
BAD_LENGTH before any other. -/
def formRej (v : Variant) (bs : List Byte) : Option Rej :=
  if bs.length < 128 then some { reason := 0x03, sub := 0, ofs := 8 }
  else
    let total := f32 bs 8
    let fr := frame bs
    let ends := match fr.1.getLast? with
      | none => false
      | some x => x.type = 0xFF && x.fin = total
    firstRej
      [ (0x01, badIf (slice bs 0 4 ≠ [0x59, 0x41, 0x52, 0x44]) 0),
        (0x02, badIf (f16 bs 4 ≠ 2) 4 ++ badIf (f16 bs 6 ≠ 0x80) 6),
        (0x03, badIf (2 ^ 20 < total || total ≠ bs.length) 8 ++ fr.2.toList ++ badIf (fr.2.isNone && !ends) 8),
        (0x04, badIf (f8 bs 0x11 ≠ fr.1.length) 0x11 ++ typeBad 0 fr.1 ++ fr.1.flatMap lenBad),
        (0x05, fr.1.flatMap (fun x => badIf (x.sver ≠ 1) (x.at' + 1))),
        (0x06, reservedBad v bs fr.1) ]

/-! Records (R115–R124). -/

def bayRec (bs : List Byte) (o : Nat) : BayRec := { bay := f8 bs o, stall := f8 bs (o + 1), order := f8 bs (o + 2) }
def stallRec (bs : List Byte) (o : Nat) : StallRec :=
  { stall := f8 bs o, iso := f8 bs (o + 1), ctxMax := f8 bs (o + 2), flags := f8 bs (o + 3), hostPorts := f8 bs (o + 4)
    journalMib := f16 bs (o + 8), mirrorBay := f8 bs (o + 0x0A), preempt := f32 bs (o + 0x0C), pause := f32 bs (o + 0x10)
    droverSeq := f32 bs (o + 0x14), loftPages := f32 bs (o + 0x18) }
def regionRec (bs : List Byte) (o : Nat) : RegionRec :=
  { stall := f8 bs o, index := f8 bs (o + 1), prio := f8 bs (o + 2), rights := f8 bs (o + 3), keyIndex := f8 bs (o + 4)
    attr := f8 bs (o + 5), base := f64 bs (o + 8), size := f64 bs (o + 0x10) }
def regulRec (bs : List Byte) (o : Nat) : RegulRec :=
  { stall := f8 bs o, kind := f8 bs (o + 1), mode := f8 bs (o + 2), prio := f8 bs (o + 3), budget := f32 bs (o + 4)
    latTarget := f32 bs (o + 8) }
def gateRec (bs : List Byte) (o : Nat) : GateRec := { gate := f8 bs o, stall := f8 bs (o + 1) }
def linkRec (bs : List Byte) (o : Nat) : LinkRec :=
  { port := f8 bs o, stall := f8 bs (o + 1), kind := f8 bs (o + 2), share := f16 bs (o + 4) }
def slotRec (bs : List Byte) (o : Nat) : SlotRec := { slot := f16 bs o, stall := f8 bs (o + 2), index := f8 bs (o + 3) }
def policyRec (bs : List Byte) (o : Nat) : Policy :=
  { sole := f32 bs o % 2 = 1, flashStore := f32 bs o / 2 % 2 = 1, podPkgId := f8 bs (o + 4), podSize := f8 bs (o + 5)
    timePriority := f8 bs (o + 6) }
def routeRec (bs : List Byte) (o : Nat) : RouteRec := { dest := f8 bs o, hops := f8 bs (o + 1), mask := f64 bs (o + 8) }
/-- The CHANGE section's head and records (R140, R141), where its length admits them. -/
def changeSec (bs : List Byte) (x : Sec) : ChangeSec :=
  let o := x.body
  { baseEpoch := f32 bs o, width := f8 bs (o + 4), holdAction := f8 bs (o + 5), holdGrids := f16 bs (o + 6)
    startGrid := f64 bs (o + 8), baseDigest := leNat (slice bs (o + 0x10) 48)
    recs := (List.range ((x.len - 64) / 8)).map (fun i => (f8 bs (o + 64 + 8 * i), f8 bs (o + 64 + 8 * i + 1))) }

/-- A 48-byte digest field, byte 0 first. -/
def digestAt (bs : List Byte) (o : Nat) : BitVec 384 := BitVec.ofNat 384 (leNat (slice bs o 48))
/-- The plan digest: SHA-384 over all its bytes (R125). -/
def planDigest (bs : List Byte) : BitVec 384 := Config.sha384 bs

/-- The plan its bytes spell. -/
def readPlan (bs : List Byte) : Plan :=
  let secs := (frame bs).1
  let r (t : Nat) := recsOf secs t
  { epoch := f32 bs 0x0C, commitGrid := f64 bs 0x18, digest := planDigest bs, totalLen := f32 bs 8
    bays := (r 1).map (bayRec bs), stalls := (r 2).map (stallRec bs), regions := (r 3).map (regionRec bs)
    regulators := (r 4).map (regulRec bs), gates := (r 5).map (gateRec bs), links := (r 6).map (linkRec bs)
    slots := (r 7).map (slotRec bs)
    policy := match r 8 with
      | [] => Plan.default.policy
      | o :: _ => policyRec bs o
    routes := (r 9).map (routeRec bs)
    change := (secs.find? (fun x => x.type = 0x0A)).map (changeSec bs) }

/-! What a plan gives one stall. -/

def Plan.bayOrder (p : Plan) (n : Nat) : List Nat :=
  let l := p.bays.filter (fun b => b.stall = n)
  (List.range l.length).filterMap (fun i => (l.find? (fun b => b.order = i)).map (·.bay))
def Plan.slotList (p : Plan) (n : Nat) : List Nat :=
  let l := p.slots.filter (fun b => b.stall = n)
  (List.range l.length).filterMap (fun i => (l.find? (fun b => b.index = i)).map (·.slot))
def Plan.gateList (p : Plan) (n : Nat) : List Nat := (p.gates.filter (fun g => g.stall = n)).map (·.gate)
def Plan.stall? (p : Plan) (n : Nat) : Option StallRec := p.stalls.find? (fun r => r.stall = n)
/-- Effective limits (R116): 0 stands for the default, and in Sole mode PREEMPT_LIMIT is 0. -/
def effPreempt (sole : Bool) (x : Nat) : Nat := if sole then 0 else if x = 0 then 8000000 else x
def effPause (x : Nat) : Nat := if x = 0 then 32000000 else x

/-- The holdings a plan gives a stall. -/
def Plan.holdings (p : Plan) (r : StallRec) : Holdings :=
  let n := r.stall
  { iso := r.iso, ctxMax := r.ctxMax, debugConsent := r.flags % 2 = 1, bar2En := r.flags / 2 % 2 = 1 && r.iso ≠ 3
    receipts := r.flags / 4 % 2 = 1, farLoft := r.flags / 8 % 2 = 1, hostPorts := BitVec.ofNat 4 r.hostPorts
    journalMib := r.journalMib, mirrorBay := r.mirrorBay, preemptLimit := effPreempt p.policy.sole r.preempt
    pauseLimit := effPause r.pause, droverSeq := r.droverSeq, loftPages := r.loftPages, bays := p.bayOrder n, retired := 0
    slots := p.slotList n, gates := p.gateList n, links := p.links.filter (fun l => l.stall = n)
    regs := p.regulators.filter (fun l => l.stall = n), regions := p.regions.filter (fun l => l.stall = n)
    sole := p.policy.sole }

/-! Capacity arithmetic (R358). -/

/-- BUDGET of a stall's regulator of a kind. -/
def Holdings.budget (h : Holdings) (k : Nat) : Nat := ((h.regs.find? (fun r => r.kind = k)).map (·.budget)).getD 0
/-- Compute dies the stall's bays lie on. -/
def Holdings.onDie (h : Holdings) (d : Nat) : Bool := h.bays.any (fun b => b / 32 = d)
def Holdings.dies (h : Holdings) : Nat := ((List.range 4).filter h.onDie).length
/-- Do the budgets of these stalls satisfy every row of R358. -/
def capacityOk (v : Variant) (hs : List Holdings) : Bool :=
  let sum (f : Holdings → Nat) := (hs.map f).sum
  (List.range 4).all (fun i => sum (fun h => if has h.hostPorts i then h.budget 3 else 0) ≤ 491520)
  && sum (fun h => if 1 < h.dies then h.budget 0 + h.budget 1 else 0) ≤ 15360000
  && (List.range 4).all (fun d => sum (fun h => if h.onDie d then h.budget 2 + h.budget 3 else 0) ≤ 9216000)
  && hs.all (fun h => h.budget 2 ≤ 3200 * (h.links.map (·.share)).sum)
  && hs.all (fun h => h.budget 4 ≤ (if v = .xh5126m then 768000 else 512000) * h.bays.length)

/-- The link records' share regulators as a window begins: 3,200 × SHARE bytes each way (R356). -/
def linkCredit (l : LinkRec) : Nat := if l.kind = 2 then 3200 * l.share else 0
def freshLinks (h : Holdings) : Tab LinkCount :=
  (h.links.zipIdx.filter (fun e => e.1.kind = 2)).map (fun e => (e.2, { LinkCount.init with txCredit := linkCredit e.1, rxCredit := linkCredit e.1 }))

/-- Stalls counted by a row of R358 that does not hold on the resources in service (R360): the budgets stay, and a shared
point that is gone carries nothing. -/
def shortRows (g : Package) (serving : Nat → Bool) (hs : List (Nat × Holdings)) : List Nat :=
  let sum (p : Holdings → Bool) (f : Holdings → Nat) := ((hs.filter (fun e => p e.2)).map (fun e => f e.2)).sum
  let row (p : Holdings → Bool) (f : Holdings → Nat) (cap : Nat) : List Nat :=
    if sum p f ≤ cap then [] else (hs.filter (fun e => p e.2)).map (·.1)
  let cd (d : Nat) : Bool := !has g.deadCdie d
  let bridged (d : Nat) : List Nat := if g.variant = .xh5128l then [d / 2, if d % 2 = 0 then 2 else 3] else [d / 2]
  (List.range 4).flatMap (fun i => row (fun h => has h.hostPorts i) (·.budget 3) (if serving i then 491520 else 0))
    ++ [(0, 1), (1, 3), (3, 2), (2, 0)].flatMap (fun b => row (fun h => 1 < h.dies) (fun h => h.budget 0 + h.budget 1) (if cd b.1 && cd b.2 then 15360000 else 0))
    ++ (List.range 4).flatMap (fun d => row (fun h => h.onDie d) (fun h => h.budget 2 + h.budget 3)
        (if cd d && (bridged d).any (fun i => !has g.deadIodie i) then 9216000 else 0))
    ++ (hs.filter (fun e => 3200 * ((e.2.links.filter (fun l => has g.portOk l.port)).map (·.share)).sum < e.2.budget 2)).map (·.1)
    ++ (hs.filter (fun e => (if g.variant = .xh5126m then 768000 else 512000) * (e.2.bays.filter (fun b => has g.bayOk b)).length < e.2.budget 4)).map (·.1)
/-- DEDUCED, log 51. -/
def State.shortStalls (s : State) : List Nat := shortRows s.pkg s.portServing (s.stalls.map (fun e => (e.1, e.2.hold)))
/-- A retirement or a port loss has changed what is in service: the guarantee of the stalls of every failing row lapses. -/
def State.markShort (s : State) : State := { s with rg := { s.rg with capShort := forAll s.shortStalls (fun n b => incl b n) s.rg.capShort } }
/-- A plan is committed or a change complete: with every row holding again, the marks clear (R360). -/
def State.clearShort (s : State) : State := if s.shortStalls.isEmpty then { s with rg := { s.rg with capShort := 0 } } else s

/-! Content checks (R130, 0x07 to 0x21). -/

/-- Records that break a strictly ascending order: the offsets of those not above the one before. -/
def orderBad (key : Nat → Nat) : List Nat → List Nat
  | a :: b :: l => badIf (key b ≤ key a) b ++ orderBad key (b :: l)
  | _ => []
/-- A count of records of one stall. -/
def countOf {α : Type} (p : α → Bool) (l : List α) : Nat := (l.filter p).length
/-- Positions before this one in a list of offsets whose field equals. -/
def dupBefore (f : Nat → Nat) (os : List Nat) (o : Nat) : Bool := os.any (fun x => x < o && f x = f o)

/-- What a plan is checked against: the package and the key. -/
structure PlanEnv where
  v : Variant
  pkgBay : Nat → Bool           -- bay available
  pkgPort : Nat → Bool          -- Tsuholt port available
  hostPort : Nat → Bool         -- host port fitted and its die not retired
  key : Option (List Byte)
  epochOk : Nat → BitVec 384 → Bool
  fullOk : Bool                 -- no stall is defined, so that a full plan may apply (R112)
  ignoreChange : Bool           -- at boot a CHANGE section is ignored (R136)
  grid : Nat                    -- the present grid index
  eraOk : Nat → Bool            -- the stall is defined already, or its number can be given an era (R487)

def PlanEnv.budgetsOk (e : PlanEnv) (p : Plan) : Bool := capacityOk e.v (p.stalls.map p.holdings)

/-- The checks from KEY_UNKNOWN to ROUTE_INVALID, each with the offsets that fail it (R130). -/
def contentChecks (e : PlanEnv) (bs : List Byte) : List (Nat × List Nat) :=
  let secs := (frame bs).1
  let p := readPlan bs
  let r (t : Nat) := recsOf secs t
  let hasSec (t : Nat) := secs.any (fun x => x.type = t)
  let defined (n : Nat) := (p.stall? n).isSome
  let sigAt := ((secs.find? (fun x => x.type = 0xFF)).map (·.at')).getD 0
  let keyDigest := e.key.map Config.sha384
  let kind := f8 bs 0x10
  let anyStall := !p.stalls.isEmpty
  let b1 := f8 bs
  let polAt := ((r 8).head?).getD 0
  let availBays := (List.range 128).filter e.pkgBay
  [ (0x07, badIf (keyDigest ≠ some (digestAt bs 0x50)) 0x50),
    (0x08, badIf (!(Config.ecdsaVerify (e.key.getD []) (Config.sha384 (bs.take sigAt)) (slice bs (sigAt + 8) 96))) (sigAt + 8)),
    (0x09, badIf (kind ≠ 1 && kind ≠ 2) 0x10 ++ badIf (f16 bs 0x12 ≠ partCode e.v) 0x12
      ++ badIf (if kind = 2 then digestAt bs 0x20 ≠ 0 else kind = 1 && digestAt bs 0x20 ≠ Config.idDigest) 0x20),
    (0x0A, badIf (p.epoch = 0 || !(e.epochOk p.epoch p.digest)) 0x0C),
    (0x0B, badIf (!e.fullOk && p.change.isNone) noField),
    (0x10, badIf (!hasSec 2 || !hasSec 8 || (anyStall && !(hasSec 1 && hasSec 3 && hasSec 4 && hasSec 7))
      || (p.policy.podSize > 1 && !hasSec 9)) noField),
    (0x11, orderBad b1 (r 2) ++ (r 2).flatMap (fun o =>
      let s := stallRec bs o
      badIf (127 < s.stall || countOf (fun b => b.stall = s.stall) p.bays = 0 || !e.eraOk s.stall) o
      ++ badIf (s.iso < 1 || 3 < s.iso) (o + 1) ++ badIf (s.ctxMax < 1 || 16 < s.ctxMax) (o + 2)
      ++ badIf (s.hostPorts = 0 || (List.range 8).any (fun i => s.hostPorts / 2 ^ i % 2 = 1 && !e.hostPort i)) (o + 4)
      ++ badIf (s.journalMib < 16 || 1024 < s.journalMib) (o + 8)
      ++ badIf ((s.preempt ≠ 0 && (s.preempt < 160000 || 1600000000 < s.preempt)) || (p.policy.sole && s.preempt ≠ 0)) (o + 0x0C)
      ++ badIf (s.pause ≠ 0 && (s.pause < 160000 || 1600000000 < s.pause)) (o + 0x10)
      ++ badIf (65536 < s.droverSeq) (o + 0x14))),
    (0x12, (r 2).flatMap (fun o => let s := stallRec bs o; badIf (s.iso = 3 && s.flags / 2 % 2 = 1) (o + 3))),
    (0x13, orderBad b1 (r 1) ++ (r 1).flatMap (fun o =>
      let x := bayRec bs o
      badIf (127 < x.bay) o ++ badIf (!defined x.stall) (o + 1)
      ++ badIf (countOf (fun b => b.stall = x.stall) p.bays ≤ x.order
          || (r 1).any (fun q => q < o && b1 (q + 1) = x.stall && b1 (q + 2) = x.order)) (o + 2))),
    (0x14, (r 1).flatMap (fun o => badIf (!e.pkgBay (b1 o)) o)),
    (0x15, badIf (65536 < (p.stalls.map (·.droverSeq)).sum || 4194304 < (p.stalls.map (·.loftPages)).sum) noField),
    (0x16, (r 2).flatMap (fun o =>
      let s := stallRec bs o
      let prim := (p.bayOrder s.stall).head?
      let yard := !p.bays.any (fun b => b.bay = s.mirrorBay)
      let own := p.bays.any (fun b => b.bay = s.mirrorBay && b.stall = s.stall)
      let sum := ((r 2).filter (fun q => q ≤ o && b1 (q + 0x0A) = s.mirrorBay)).map (fun q => f16 bs (q + 8))
      badIf (127 < s.mirrorBay || prim.map (· / 32) = some (s.mirrorBay / 32) || !(yard || own)
        || (yard && bayBytes e.v / mib < sum.sum)) (o + 0x0A))),
    (0x17, orderBad (fun o => b1 (o + 2) * 256 + b1 (o + 3)) (r 7) ++ (r 7).flatMap (fun o =>
        let x := slotRec bs o
        badIf (x.slot < 1 || 1023 < x.slot || dupBefore (f16 bs) (r 7) o) o ++ badIf (!defined x.stall) (o + 2)
        ++ badIf (15 < x.index || countOf (fun b => b.stall = x.stall) p.slots ≤ x.index) (o + 3))
      ++ badIf (p.stalls.any (fun s => let n := countOf (fun b => b.stall = s.stall) p.slots; n < 1 || 16 < n)) noField),
    (0x18, orderBad (fun o => b1 o * 256 + b1 (o + 1)) (r 3) ++ (r 3).flatMap (fun o =>
      let x := regionRec bs o
      let hb := match p.stall? x.stall with
        | none => 0
        | some s => (p.holdings s).hbmBytes e.v
      badIf (!defined x.stall) o ++ badIf (63 < x.index) (o + 1) ++ badIf (7 < x.prio) (o + 2)
      ++ badIf ((p.slotList x.stall).length ≤ x.keyIndex) (o + 4) ++ badIf (x.attr % 4 = 3) (o + 5)
      ++ badIf (x.base % 65536 ≠ 0) (o + 8) ++ badIf (x.size = 0 || x.size % 65536 ≠ 0 || hb < x.base + x.size) (o + 0x10))),
    (0x19, orderBad (fun o => b1 o * 256 + b1 (o + 1)) (r 4) ++ (r 4).flatMap (fun o =>
        let x := regulRec bs o
        badIf (!defined x.stall) o ++ badIf (4 < x.kind) (o + 1) ++ badIf (1 < x.mode) (o + 2) ++ badIf (15 < x.prio) (o + 3)
        ++ badIf (x.budget = 0 && x.mode = 0) (o + 4) ++ badIf (x.latTarget < 160) (o + 8))
      ++ badIf (p.stalls.any (fun s => countOf (fun b => b.stall = s.stall) p.regulators ≠ 5)) noField),
    (0x1A, badIf (!e.budgetsOk p) noField),
    (0x1B, (r 5).flatMap (fun o =>
      let x := gateRec bs o
      badIf (dupBefore b1 (r 5) o) o
      ++ badIf (!defined x.stall || (r 5).any (fun q => q < o && x.stall < b1 (q + 1))
          || 64 < countOf (fun q => q ≤ o && b1 (q + 1) = x.stall) (r 5)) (o + 1))),
    (0x1C, orderBad (fun o => b1 o * 256 + b1 (o + 1)) (r 6) ++ (r 6).flatMap (fun o =>
        let x := linkRec bs o
        let same := p.links.filter (fun l => l.port = x.port)
        badIf (linkPorts e.v ≤ x.port || (x.kind = 1 && 1 < same.length)) o ++ badIf (!defined x.stall) (o + 1)
        ++ badIf (x.kind ≠ 1 && x.kind ≠ 2) (o + 2)
        ++ badIf ((x.kind = 1 && x.share ≠ 256) || (x.kind = 2 && (x.share < 1 || 255 < x.share))
            || 256 < (((r 6).filter (fun q => q ≤ o && b1 q = x.port)).map (fun q => f16 bs (q + 4))).sum) (o + 4))
      ++ (r 2).flatMap (fun o =>
        let s := stallRec bs o
        badIf (s.flags / 8 % 2 = 1 && (s.droverSeq = 0 || countOf (fun l => l.stall = s.stall) p.links = 0)) (o + 3))),
    (0x1D, (r 6).flatMap (fun o => badIf (!e.pkgPort (b1 o)) o)),
    (0x1E, badIf (p.policy.flashStore && 0xFFFC0 < p.totalLen) polAt
      ++ badIf (if p.policy.sole then
            !(p.stalls.length = 1 && p.stalls.all (fun s => s.iso = 2 || s.iso = 3) && availBays.all (fun b => p.bays.any (fun x => x.bay = b)))
          else p.stalls.any (fun s => !availBays.isEmpty && availBays.all (fun b => p.bays.any (fun x => x.bay = b && x.stall = s.stall)))) polAt
      ++ badIf (p.policy.podSize < 1 || 64 < p.policy.podSize) (polAt + 5) ++ badIf (p.policy.podSize ≤ p.policy.podPkgId) (polAt + 4)),
    (0x1F, badIf (hasSec 9 && p.policy.podSize = 1) (((secs.find? (fun x => x.type = 9)).map (·.at')).getD 0)
      ++ orderBad b1 (r 9) ++ (r 9).flatMap (fun o =>
        let x := routeRec bs o
        badIf (p.policy.podSize ≤ x.dest || x.dest = p.policy.podPkgId) o ++ badIf (x.hops < 1 || 3 < x.hops) (o + 1)
        ++ badIf (x.mask = 0 || (List.range 48).any (fun i => x.mask / 2 ^ i % 2 = 1
            && (!e.pkgPort i || p.links.any (fun l => l.port = i && l.kind = 1)))) (o + 8))) ]

/-- Every check of R129 up to the CHANGE section's own. DEDUCED, log 33. -/
def planRej (e : PlanEnv) (bs : List Byte) : Option Rej :=
  match formRej e.v bs with
  | some x => some x
  | none => firstRej (contentChecks e bs)

end Sys2Proof.Machine
end

