-- ==== Sys2Proof/Machine/RecoveryOps.lean ====
section
/-! DEFINITION. Shared operations of recovery: retiring components (R38), stopping and deciding commands (R488–R493),
lost journal copies (R495–R499), warm resets (R544) and what a loss of main power does to running work (R513, R515). -/

namespace Sys2Proof.Machine

/-! Availability (R38, R41). -/

/-- The set of numbers below `n` that satisfy `p`. -/
def setOf (w n : Nat) (p : Nat → Bool) : BitVec w := bitsOf w ((List.range n).filter p)
/-- Is stack `k` in service. -/
def Package.stackFine (g : Package) (k : Nat) : Bool :=
  decide (k < stackCount g.variant) && !has g.deadStack k && !has g.deadCdie (k / stacksPerDie g.variant)
/-- Is bay `b` available: its die, every stack of that die, its clusters, slice and pseudo-channels are in service. -/
def Package.bayFine (g : Package) (b : Nat) : Bool :=
  let d := b / 32
  !has g.deadCdie d && ((List.range (stacksPerDie g.variant)).all (fun i => g.stackFine (stacksPerDie g.variant * d + i)))
  && ((List.range 4).all (fun i => !has g.deadCluster (4 * b + i))) && !has g.deadSlice b
  && ((bayPcs g.variant b).all (fun p => !has g.deadPc p))
def Package.iodieFine (g : Package) (i : Nat) : Bool := decide (i < iodies g.variant) && !has g.deadIodie i
def Package.portFine (g : Package) (p : Nat) : Bool := decide (p < linkPorts g.variant) && !has g.deadPort p && g.iodieFine (p / 12)
/-- The in-service sets as the retirements leave them, once the boot checks have ended. -/
def Package.refit (g : Package) : Package :=
  if !g.checked then g
  else
    { g with
      cdieOk := setOf 4 4 (fun d => !has g.deadCdie d), iodieOk := setOf 4 4 g.iodieFine, stkOk := setOf 12 12 g.stackFine
      bayOk := setOf 128 128 g.bayFine, portOk := setOf 48 48 g.portFine }
/-- A component is retired. -/
def Package.retire (g : Package) : Component → Package
  | .cluster c => { g with deadCluster := incl g.deadCluster c }
  | .slice d j => { g with deadSlice := incl g.deadSlice (32 * d + j) }
  | .pc p => { g with deadPc := incl g.deadPc p }
  | .stack k => { g with deadStack := incl g.deadStack k }
  | .cdie d =>
    { g with deadCdie := incl g.deadCdie d
             deadStack := forAll (List.range (stacksPerDie g.variant)) (fun i x => incl x (stacksPerDie g.variant * d + i)) g.deadStack }
  | .linkPort p => { g with deadPort := incl g.deadPort p }
  | .iodie i => { g with deadIodie := incl g.deadIodie i }
/-- Did an availability bit clear between two packages. -/
def Package.lostAny (a b : Package) : Bool :=
  (a.cdieOk &&& ~~~ b.cdieOk) ≠ 0 || (a.iodieOk &&& ~~~ b.iodieOk) ≠ 0 || (a.stkOk &&& ~~~ b.stkOk) ≠ 0
  || (a.bayOk &&& ~~~ b.bayOk) ≠ 0 || (a.portOk &&& ~~~ b.portOk) ≠ 0 || (a.rtpStandby && !b.rtpStandby)
/-- Bays of a package that were available and are not any more. -/
def lostBays (a b : Package) : List Nat := members (a.bayOk &&& ~~~ b.bayOk)
/-! Tsuholt ports that go (R381, R391). -/

/-- A borrow ends: sequences with a page there stop (R340). -/
def State.lapseBorrow (s : State) (n : StallNo) (b : Nat) : State :=
  let s := s.drvFail n (fun x => x.pages.any (fun g => match g with | .far c _ => decide (c = b) | .near _ => false)) 0x0D
  s.modDrover n (fun d => { d with borrows := d.borrows.erase b })
/-- What a stall loses with a port: the commands of its own claims, its peers' claims, and its borrows. -/
def State.loseLink (s : State) (n : StallNo) (p : Nat) : State :=
  match s.stall? n with
  | none => s
  | some t =>
    let s := forAll (t.relay.claims.filter (fun c => c.own && c.port = p)) (fun c u => u.relayEnd n c.qk c.pos stPartial 0x0D) s
    let s := s.modRelay n (fun r => { r with claims := r.claims.filter (fun c => c.port ≠ p) })
    let s := forAll (t.drover.borrows.filter (fun e => e.2.link = p)) (fun e u => u.lapseBorrow n e.1) s
    let s := forAll (t.drover.waits.filter (fun w => w.link = p)) (fun w u => u.mbAnswer w.req 0x0046 (refuse 1)) s
    let s := s.modDrover n (fun d => { d with waits := d.waits.filter (fun w => w.link ≠ p) })
    (s.commitAll n).settleExports n
/-- A port is retired: its frames are discarded and PORT_RETIRED sets (R381). -/
def State.shutPort (s : State) (p : Nat) : State :=
  if (s.tlp p).st = .retired then s
  else
    let s := (s.setTlp p (fun x => x.shut .retired s.now)).tlEvt evtRetired
    (forAll s.stallIds (fun n u => u.loseLink n p) s).chooseMaster
/-- The Tsuholt ports a component takes with it. -/
def portsOf (v : Variant) : Component → List Nat
  | .linkPort p => [p.val]
  | .iodie i => (List.range 12).map (fun k => 12 * i.val + k) |>.filter (fun p => decide (p < linkPorts v))
  | _ => []

/-- A component is retired (R38): availability follows, FAULT is raised when a bit clears (R187), clusters of lost bays
go to Clear (R530), lost lines settle (R420), the manifest of every stall with a lost bay is reissued (R93), and its Tsuholt ports go (R381). -/
def State.retireComponent (s : State) (c : Component) : State :=
  let was := s.pkg
  let s := { s with pkg := (s.pkg.retire c).refit }
  let lost := lostBays was s.pkg
  let s := forAll lost (fun b u => (forAll [4 * b, 4 * b + 1, 4 * b + 2, 4 * b + 3] (fun c v => v.darken c) u).settleBay b) s
  let s := forAll s.stallIds (fun n u =>
    match u.stall? n with
    | none => u
    | some t =>
      let mine := t.hold.bays.filter (fun b => lost.contains b)
      if mine.isEmpty then u
      else (u.setStall n { t with hold := { t.hold with retired := forAll mine (fun b x => incl x b) t.hold.retired } }).reissue n) s
  let s := (forAll (portsOf s.pkg.variant c) (fun p u => u.shutPort p) s).markShort
  if was.lostAny s.pkg then s.pfCause .fault else s

/-! Stopping commands (R489, R513). -/

/-- Stop the commands of a stall that `p` names, started and not over: they wait for their decision, their tasks leave
their clusters and will run again (R489, R492). -/
def State.stopCommands (s : State) (n : StallNo) (p : Nat → Entry → Bool) : State × List CmdAt :=
  match s.stall? n with
  | none => (s, [])
  | some t =>
    let hit (k : Nat) (e : Entry) : Bool := e.st = .started && !e.undecided && p k e
    let at' := t.queues.flatMap (fun kq => (kq.2.entries.filter (hit kq.1)).map (fun e => ({ stall := n, qk := kq.1, pos := e.pos } : CmdAt)))
    let mine (l : Launch) : Bool := at'.any (fun a => a.qk = l.qk && a.pos = l.pos)
    let cs := ((t.launches.filter mine).flatMap (fun l => l.running)).map (·.cluster)
    let s := s.setStall n
      { t with
        queues := t.queues.map (fun kq => (kq.1, { kq.2 with entries := kq.2.entries.map (fun e =>
          if hit kq.1 e then { e with undecided := true } else e) }))
        launches := t.launches.map (fun l =>
          if mine l then l.running.foldl (fun l r => l.putBack s.now r) { l with running := [] } else l) }
    (forAll cs (fun c u => u.freeCluster c false false) s, at')
/-- Drover drops the step it runs; its sequences regenerate it (R340, R492). -/
def State.dropStep (s : State) (n : Nat) : State :=
  s.modDrover n (fun d => { d with stepping := false, seqs := d.seqs.map (fun x => { x with step := 0 }) })

/-! Deciding them (R490–R492). -/

/-- Does a footprint touch the stall's memory. -/
def State.footprintIn (s : State) (t : Stall) (fp : List (Nat × Nat)) : Bool :=
  t.hold.bays.any (fun b => (bayPcs s.pkg.variant b).any (fun p =>
    fp.any (fun r => decide (r.1 < (p + 1) * 2 ^ 30) && decide (p * 2 ^ 30 < r.2))))
/-- The stall-side source addresses of a Copy command, one for each line; none where another kind of command has
inputs elsewhere. -/
def Entry.sourceLines (e : Entry) : Option (List Nat) :=
  let run (a n : Nat) : List Nat := (List.range (n / 64 + 2)).map (fun i => min (a + 64 * i) (a + n - 1))
  match e.opcode with
  | 0x22 => some []
  | 0x20 => some (if e.u8 0x20 = 0 then run (e.u64 8) (e.u64 0x18) else [])
  | 0x21 => some (if e.u8 0x28 = 0 then (List.range (e.u32 0x1C)).flatMap (fun r => run (e.u64 8 + r * e.u32 0x20) (e.u32 0x18)) else [])
  | 0x23 => some (run (e.u64 8) (e.u64 0x18 / 4096 * 4112))
  | _ => none
/-- Are the inputs of a replayable command provably intact (R490). -/
def State.intact (s : State) (t : Stall) (n k : Nat) (e : Entry) (fp : List (Nat × Nat)) : Bool :=
  !s.footprintIn t fp
  || (match e.sourceLines with
      | none => false
      | some vs => vs.all (fun va =>
          match (s.aim (cmdWho n k e) va rRead rRead accRead).1 with
          | .to a _ => !fp.any (fun r => decide (r.1 ≤ a) && decide (a < r.2))
          | .not _ => false))
/-- Are its engine's resources in service (R491): a cluster in an available bay, or a host path. -/
def State.engineReady (s : State) (t : Stall) (n k : Nat) (e : Entry) : Bool :=
  if qkEngine k = 0 then !t.hold.liveClusters.isEmpty
  else if (e.opcode = 0x20 && (e.u8 0x20 ≠ 0 || e.u8 0x21 ≠ 0)) || (e.opcode = 0x21 && (e.u8 0x28 ≠ 0 || e.u8 0x29 ≠ 0)) then s.hostPath n
  else true
/-- What a decision came to: run again or afresh, or ended by a fault. -/
inductive Verdict where
  | again | faulted
  deriving DecidableEq, Repr
/-- Decide one stopped command (R491). -/
def State.decideOne (s : State) (a : CmdAt) (fp : List (Nat × Nat)) : State × Option Verdict :=
  match s.stall? a.stall with
  | none => (s, none)
  | some t =>
    match (t.queue? a.qk).bind (fun q => q.entry? a.pos) with
    | none => (s, none)
    | some e =>
      if !e.undecided || e.isOver then (s, none)
      else
        let non := nonReplayable e.bytes
        let remote := 0x30 ≤ e.opcode && e.opcode ≤ 0x32
        let done := t.doneOf a.qk e
        let fault (d : Byte) : State :=
          let s := s.modEntry a.stall a.qk a.pos (fun e => { e.finish stPartial d done with undecided := false })
          let s := s.dropLaunches a.stall (fun l => l.qk = a.qk && l.pos = a.pos) false
          s.drvFail a.stall (fun x => x.asn = e.asn && x.st ≠ .kept) d
        if non && e.sideEffect then (fault (if remote then 0x0D else 0x05), some .faulted)
        else if non then
          let s := s.dropLaunches a.stall (fun l => l.qk = a.qk && l.pos = a.pos) false
          (s.modEntry a.stall a.qk a.pos (fun e =>
            { e with st := .accepted, undecided := false, startAt := 0, beginAt := 0, progress := 0, status := 0, detail := 0, stopped := false
                     moved := [] }), some .again)
        else if 3 ≤ e.replays then (fault 0x05, some .faulted)
        else if s.intact t a.stall a.qk e fp && s.engineReady t a.stall a.qk e then
          let keeps := e.opcode = 0x02 || e.opcode = 0x03 || e.opcode = 0x40
          (s.modEntry a.stall a.qk a.pos (fun e =>
            if keeps then { e with undecided := false, replays := e.replays + 1, startAt := s.now }
            else { e with st := .accepted, undecided := false, replays := e.replays + 1, progress := 0, status := 0, detail := 0, stopped := false
                          moved := [] }), some .again)
        else
          let copy := qkEngine a.qk = 1
          (fault (if copy && !s.engineReady t a.stall a.qk e then 0x04 else 0x05), some .faulted)
/-- Decide every command of a recovery, in its order. -/
def State.decideAll (s : State) (r : Recovery) : State × Recovery :=
  forAll r.undecided (fun a (u : State × Recovery) =>
    let d := u.1.decideOne a r.footprint
    (d.1.relaySweep a.stall, match d.2 with
      | none => u.2
      | some .again => { u.2 with replayed := u.2.replayed + 1 }
      | some .faulted => { u.2 with faulted := u.2.faulted + 1 })) (s, { r with undecided := [] })

/-! Events of a recovery (R497, R498). -/

/-- The DETECTED event of a recovery, which then waits for its decisions. -/
def State.detected (s : State) (r : Recovery) : State :=
  let s := s.accEvent r.kind 1 r.index r.affected 0 0 r.outcome 0 0 r.stalls
  { s with acct := { s.acct with recoveries := s.acct.recoveries ++ [r] } }
/-- Is a copy the recovery cost still being built or waiting for a job. -/
def State.rebuilding (s : State) (n : Nat) : Bool := (s.stall? n).any (fun t => t.journal.rebuild.isSome)
/-- Close a recovery whose commands are decided as far as it can be: a stall's log has its COMPLETE record once its own copy
is rebuilt or cannot be placed, and the package log has it with the last. DEDUCED, log 60. -/
def State.closeOne (s : State) (r : Recovery) : State :=
  let left := r.rebuilds.filter s.rebuilding
  let e := s.event' r.kind 2 r.index r.affected r.replayed r.faulted r.outcome 0 0
  let s := forAll (r.untold.filter (fun n => !left.contains n)) (fun n u => u.stallEvent n e) s
  if left.isEmpty then
    let s := s.packageEvent e
    { s with acct := { s.acct with lastDone := s.nowW } }
  else
    { s with acct := { s.acct with recoveries := s.acct.recoveries ++ [{ r with rebuilds := left, untold := r.untold.filter (left.contains ·) }] } }
/-- Decide and close every recovery that can be closed. DEDUCED, log 60. -/
def State.closeRecoveries (s : State) : State :=
  forAll s.acct.recoveries (fun r u => let d := u.decideAll r; d.1.closeOne d.2) { s with acct := { s.acct with recoveries := [] } }

/-! Lost journal copies (R495–R499). -/

/-- A stall loses the journal copies that lie, or are being built, in these bays: a rebuild in its turn, or a break of
continuity where no copy is left. -/
def State.loseCopies (s : State) (n : StallNo) (bays : List Nat) : State :=
  match s.stall? n with
  | none => s
  | some t =>
    let j := t.journal
    let hit := j.copies.any (bays.contains ·) || j.rebuild.any (bays.contains ·)
    if !hit then s
    else
      let left := j.copies.filter (fun b => !bays.contains b)
      let again := match j.rebuild with
        | some b => if bays.contains b then none else some b
        | none => none
      let s := if j.rebuild.isSome && again.isNone then s.endJob n .rebuild else s
      let s := s.setStall n { t with journal := { j with copies := left, rebuild := again } }
      if left.isEmpty then s.breakContinuity n else s.startRebuild n

/-! Zeroisation (R437). -/

/-- The Groom has cleared every bay for a ZEROISE: the module is zeroised, and the requests are answered. DEDUCED, log 67. -/
def State.zeroiseProgress (s : State) : State :=
  if s.prot.zeroising && s.prot.grooming.isEmpty then
    forAll s.prot.zeroiseReq (fun w u => u.answerWaiter w 0x0063 ok)
      { s with prot := { s.prot with zeroising := false, zeroised := true, zeroiseReq := [] } }
  else s

/-! Warm resets and stops of the whole part (R513, R515, R544). -/

/-- Every started command of every stall stops where it is, and Drover's steps are dropped. -/
def State.stopAll (s : State) : State × List CmdAt :=
  forAll s.stallIds (fun n (u : State × List CmdAt) =>
    let r := u.1.stopCommands n (fun _ _ => true)
    (r.1.dropStep n, u.2 ++ r.2)) (s, [])
/-- Every cluster goes to Clear. -/
def State.darkenAll (s : State) : State :=
  { s with power := { s.power with sky := [] }, clusters := [] }
/-- Records that were ENDED become visible, in order, queue by queue. -/
def State.showAll (s : State) : State :=
  forAll s.stallIds (fun n u => forAll (List.range 16) (fun c v => v.showCtx n c) u) s

/-- The recovery of a warm reset (`index` 1) or warm return (`index` 0). -/
def warmRecovery (index : Nat) (l : List CmdAt) : Recovery :=
  { kind := 8, index := index, outcome := 0, undecided := l, affected := l.length, replayed := 0, faulted := 0, rebuilds := []
    stalls := (l.map (fun a => a.stall.val)).eraseDups, untold := (l.map (fun a => a.stall.val)).eraseDups, footprint := [] }

/-- Steps 1 to 3 of a warm reset (R544): doorbells are held from now on, running commands stop, the dies are reset. -/
def State.beginWarm (s : State) (reqs : List Waiter) : State :=
  let s := { s with power := { s.power with warm := some { reqs := reqs }, warmDeferred := false } }
  let r := s.endDebug.stopAll
  let s := (forAll s.stallNos (fun n u => u.relayDrop n) r.1).darkenAll.detected (warmRecovery 1 r.2)
  { s with
    power := { s.power with therm := s.power.therm.map (fun e => (e.1, { e.2 with tmax := 0, level := 0, hot := false })) } }

end Sys2Proof.Machine
end

