-- ==== Sys2Proof/Machine/Yard.lean ====
section
/-! DEFINITION. Yard plans: how the RTP takes, checks, commits and stores one (R109–R139), what the definition of a
stall brings up (R80, R132, R147), the yard-keeper key (R126–R128), and the CHANGE section's own checks (R140–R151). -/

namespace Sys2Proof.Machine

/-! The schedule of a change (R148, R149). -/

def rangeOf (p : Nat → Bool) (n : Nat) : List Nat := (List.range n).filter p
/-- The share of a port a plan gives a stall, 256 for the whole port. -/
def Plan.shareOf (p : Plan) (s port : Nat) : Nat := ((p.links.find? (fun l => l.stall = s && l.port = port)).map (·.share)).getD 0
/-- What a stall holds under `o` and gives up, wholly or in part, under `n`; read the other way, what it receives. -/
def outsOf (o n : Plan) (s : Nat) : List Res :=
  ((o.bayOrder s).filter (fun b => !(n.bayOrder s).contains b)).map (fun b => (.bay, b))
  ++ ((o.slotList s).filter (fun b => !(n.slotList s).contains b)).map (fun b => (.slot, b))
  ++ ((o.gateList s).filter (fun b => !(n.gateList s).contains b)).map (fun b => (.gate, b))
  ++ ((o.links.filter (fun l => l.stall = s && n.shareOf s l.port < l.share)).map (fun l => (.port, l.port)))
def Plan.defines (p : Plan) (s : Nat) : Bool := (p.stall? s).isSome
/-- Releasing and deleted stalls, ascending. -/
def relList (o n : Plan) : List Nat := rangeOf (fun s => o.defines s && (!n.defines s || !(outsOf o n s).isEmpty)) 128
def widthOf (n : Plan) : Nat := match n.change with
  | none => 1
  | some c => max 1 c.width
def phaseCount (o n : Plan) : Nat := max 1 (ceilDiv (relList o n).length (widthOf n))
def phaseOf (o n : Plan) (s : Nat) : Option Nat := ((relList o n).idxOf? s).map (fun i => i / widthOf n + 1)
def phaseStalls (o n : Plan) (k : Nat) : List Nat := (relList o n).filter (fun s => phaseOf o n s = some k)
/-- The latest phase in which a resource is released, 1 where it is not. -/
def relPhase (o n : Plan) (r : Res) : Nat :=
  ((relList o n).filterMap (fun s => if (outsOf o n s).contains r then phaseOf o n s else none)).foldl max 1
/-- k_s of a stall that receives something (R149). -/
def grantPhase (o n : Plan) (s : Nat) : Option Nat :=
  let ins := outsOf n o s
  if !n.defines s || ins.isEmpty then none
  else some ((ins.map (relPhase o n)).foldl max ((phaseOf o n s).getD 1))
def Plan.budgetOf (p : Plan) (s k : Nat) : Nat := ((p.regulators.find? (fun r => r.stall = s && r.kind = k)).map (·.budget)).getD 0
/-- The phase at whose grant tick a stall's last transition comes, if it has one after its release: its grants, or a budget
increase, which without a grant waits for the last phase (R151). -/
def lastPhase (o n : Plan) (s : Nat) : Option Nat :=
  (grantPhase o n s).orElse (fun _ =>
    if o.defines s && n.defines s && (List.range 5).any (fun k => o.budgetOf s k < n.budgetOf s k) then some (phaseCount o n) else none)
def hasTransition (o n : Plan) (s : Nat) : Bool := (phaseOf o n s).isSome || (lastPhase o n s).isSome
def Plan.holdingsOf (p : Plan) (s : Nat) : Option Holdings := (p.stall? s).map p.holdings
/-- What a stall holds between its release and its grant (R151, R153, R159): what it retains, no increased budget or
share, and the regions that depend on no grant. -/
def midHoldings (v : Variant) (o n : Holdings) : Holdings :=
  let bays := o.bays.filter (fun b => n.bays.contains b)
  let slots := o.slots.filter (fun b => n.slots.contains b)
  let kept := bays.length * bayBytes v - n.journalBytes
  { n with
    bays := bays, slots := slots, gates := o.gates.filter (fun g => n.gates.contains g)
    links := n.links.filterMap (fun l => (o.links.find? (fun x => x.port = l.port)).map (fun x =>
      { l with share := min l.share x.share, kind := if min l.share x.share = 256 then 1 else 2 }))
    regs := n.regs.map (fun r => { r with budget := min r.budget (((o.regs.find? (fun x => x.kind = r.kind)).map (·.budget)).getD r.budget) })
    regions := n.regions.filter (fun r => o.regions.contains r || (decide (r.base + r.size ≤ kept) && decide (r.keyIndex < slots.length)))
    droverSeq := min n.droverSeq o.droverSeq, loftPages := min n.loftPages o.loftPages }
/-- Holdings of every stall at the start of phase `k`, with stall `swap` taken as released (R151). -/
def stateAt (v : Variant) (o n : Plan) (k : Nat) (swap : Option Nat) : List Holdings :=
  (List.range 128).filterMap (fun s =>
    let out := match phaseOf o n s with
      | none => false
      | some p => decide (p < k) || (p = k && swap = some s)
    match o.holdingsOf s, n.holdingsOf s with
    | none, none => none
    | some x, none => if out then none else some x
    | none, some y => if (grantPhase o n s).any (fun g => decide (g < k)) then some y else none
    | some x, some y =>
      if (lastPhase o n s).any (fun g => decide (g < k)) then some y
      else if (phaseOf o n s).isSome && !out then some x
      else if (lastPhase o n s).isSome then some (midHoldings v x y) else some y)
/-- Every state R151 checks: after each release, and at each grant tick. -/
def capacityStates (v : Variant) (o n : Plan) : List (List Holdings) :=
  (List.range (phaseCount o n)).map (fun i => stateAt v o n (i + 2) none)
  ++ (if (relList o n).isEmpty then [stateAt v o n 1 none] else [])
  ++ (relList o n).map (fun s => stateAt v o n ((phaseOf o n s).getD 1) (some s))

/-! The CHANGE section's checks (R140–R147). -/

/-- WHAT of a stall (R141). -/
def whatOf (o n : Plan) (s : Nat) : Nat :=
  match o.stall? s, n.stall? s with
  | none, none => 0
  | none, some _ => 1
  | some _, none => 2
  | some x, some y =>
    let ne {α : Type} [DecidableEq α] (b : Nat) (a c : α) : Nat := if a = c then 0 else b
    let own {α : Type} (f : α → Nat) (l : List α) : List α := l.filter (fun r => f r = s)
    ne 4 (o.bayOrder s) (n.bayOrder s) + ne 8 (o.slotList s) (n.slotList s) + ne 16 (o.gateList s) (n.gateList s)
      + ne 32 (own LinkRec.stall o.links) (own LinkRec.stall n.links) + ne 64 x.mirrorBay y.mirrorBay
      + (if { x with mirrorBay := 0 } = { y with mirrorBay := 0 } && own RegionRec.stall o.regions = own RegionRec.stall n.regions
            && own RegulRec.stall o.regulators = own RegulRec.stall n.regulators then 0 else 128)
/-- How many leading entries two lists share. -/
def commonPrefix : List Nat → List Nat → Nat
  | a :: l, b :: m => if a = b then commonPrefix l m + 1 else 0
  | _, _ => 0
/-- Entries of `o` that `n` keeps but not as part of the common prefix. -/
def strays (o n : List Nat) : List Nat := (o.drop (commonPrefix o n)).filter (fun b => n.contains b)

/-- What the CHANGE checks need of the part beside the plans: the bays of each stall's journal copies (R496). -/
structure ChangeEnv where
  v : Variant
  active : Plan
  copies : Nat → List Nat
  grid : Nat

/-- Records that are not exactly the affected stalls with exactly their WHAT (R141, R142). -/
def undeclared (o n : Plan) (recs : List (Nat × Nat)) (at' : Nat) : List Nat :=
  let offs := (List.range recs.length).map (fun i => at' + 64 + 8 * i)
  let bad := (recs.zip offs).flatMap (fun r =>
    badIf (whatOf o n r.1.1 = 0 || recs.any (fun q => q.1 = r.1.1 && q ≠ r.1)) r.2 ++ badIf (whatOf o n r.1.1 ≠ r.1.2) (r.2 + 1))
  let order := ((recs.zip (recs.drop 1)).zip (offs.drop 1)).flatMap (fun r => badIf (r.1.2.1 ≤ r.1.1.1) r.2)
  let missing := (List.range 128).any (fun s => whatOf o n s ≠ 0 && !recs.any (fun r => r.1 = s))
  bad ++ order ++ badIf missing noField
/-- The first failing sub-reason and its offset (R142). DEDUCED, log 33. DEDUCED, log 36. -/
def changeRej (e : ChangeEnv) (bs : List Byte) : Option Rej :=
  let secs := (frame bs).1
  let n := readPlan bs
  let o := e.active
  match secs.find? (fun x => x.type = 0x0A), n.change with
  | some x, some c =>
    let at' := x.body
    let recAt (t : Nat) (p : Nat → Bool) : Nat := ((recsOf secs t).find? p).getD noField
    let stallAt (s : Nat) : Nat := recAt 2 (fun q => f8 bs q = s)
    let both := rangeOf (fun s => o.defines s && n.defines s) 128
    let oldBays := o.bays.map (·.bay)
    let released := o.bays.filter (fun b => !n.bays.any (fun y => y.bay = b.bay && y.stall = b.stall))
    let mirrorBad (s : Nat) : Bool :=
      match n.stall? s with
      | none => false
      | some y =>
        let yard := !oldBays.contains y.mirrorBay
        let base := (yard || o.bays.any (fun b => b.bay = y.mirrorBay && b.stall = s)) && !released.any (fun b => b.bay = y.mirrorBay)
        match o.stall? s with
        | none => !base
        | some z =>
          if z.mirrorBay = y.mirrorBay then false
          else
            let off (l : List Nat) : Bool := l.head?.map (· / 32) ≠ some (y.mirrorBay / 32)
            let load := (o.stalls.filter (fun t => t.stall ≠ s && t.mirrorBay = y.mirrorBay)).map (·.journalMib)
            !(base && off (o.bayOrder s) && off (n.bayOrder s) && (!yard || decide (load.sum + y.journalMib ≤ bayBytes e.v / mib)))
    let taken := n.bays.filter (fun b => !oldBays.contains b.bay)
    let blocked (b : Nat) : Bool := both.any (fun s =>
      (e.copies s).contains b && (o.stall? s).map (·.mirrorBay) = (n.stall? s).map (·.mirrorBay))
      || both.any (fun s => (o.stall? s).map (·.mirrorBay) = some b && (n.stall? s).map (·.mirrorBay) = some b)
    let checks : List (Nat × List Nat) :=
      [ (1, badIf (x.len < 64 || x.len % 8 ≠ 0) (x.at' + 4) ++ badIf (128 < c.width) (at' + 4) ++ badIf (2 < c.holdAction) (at' + 5)),
        (2, badIf (c.baseEpoch ≠ o.epoch) at' ++ badIf (BitVec.ofNat 384 c.baseDigest ≠ o.digest) (at' + 0x10)),
        (3, undeclared o n c.recs at'),
        (4, both.flatMap (fun s =>
          match o.stall? s, n.stall? s with
          | some a, some b =>
            let q := stallAt s
            let own (p : Plan) (m : Nat) : Bool := p.bays.any (fun y => y.bay = m && y.stall = s)
            badIf (a.iso ≠ b.iso) (q + 1) ++ badIf (a.hostPorts ≠ b.hostPorts) (q + 4) ++ badIf (a.journalMib ≠ b.journalMib) (q + 8)
              ++ badIf (own o a.mirrorBay != own n b.mirrorBay) (q + 0x0A)
          | _, _ => [])),
        (5, both.flatMap (fun s =>
          badIf (commonPrefix (o.bayOrder s) (n.bayOrder s) = 0) (stallAt s)
          ++ (strays (o.bayOrder s) (n.bayOrder s)).map (fun b => recAt 1 (fun q => f8 bs q = b) + 2))),
        (6, both.flatMap (fun s => (strays (o.slotList s) (n.slotList s)).map (fun k => recAt 7 (fun q => f16 bs q = k) + 3))),
        (7, (n.stalls.filter (fun y => mirrorBad y.stall)).map (fun y => stallAt y.stall + 0x0A)
          ++ (taken.filter (fun b => blocked b.bay)).map (fun b => recAt 1 (fun q => f8 bs q = b.bay))),
        (8, badIf (!(capacityStates e.v o n).all (capacityOk e.v)) noField),
        (9, badIf n.policy.sole (recAt 8 (fun _ => true))
          ++ badIf (o.policy.sole && !(n.stalls.isEmpty && c.recs.all (fun r => r.2 = 2) && !c.recs.isEmpty)) noField),
        (10, badIf (255 < phaseCount o n) noField),
        (11, badIf (c.startGrid ≠ 0 && c.startGrid ≤ e.grid) (at' + 8)) ]
    (firstRej checks).map (fun r => { reason := 0x20, sub := r.reason, ofs := r.ofs })
  | _, _ => none

/-! What the part checks a plan against. -/

def State.grid (s : State) : Nat := s.now / 2 ^ 20
/-- A plan is checked at a submission, or at boot (R114, R136). -/
def State.planEnv (s : State) (boot : Bool) : PlanEnv :=
  { v := s.pkg.variant, pkgBay := s.bayAvail, pkgPort := s.portAvail
    hostPort := fun p => s.portFitted p && !has s.pkg.deadIodie p
    key := if s.yard.keyState = .enrolled then some s.yard.key else none
    epochOk := fun e d => decide (s.yard.epochFloor.toNat < e) || (boot && e = s.yard.epochFloor.toNat && d = s.yard.floorDigest)
    fullOk := s.yard.active.stalls.isEmpty, ignoreChange := boot, grid := s.grid
    eraOk := fun n => (s.stall? n).isSome || decide (s.eraFloor n < eraMax) }
def State.changeEnv (s : State) : ChangeEnv :=
  { v := s.pkg.variant, active := s.yard.active, grid := s.grid
    copies := fun n => match s.stall? n with | none => [] | some t => t.journal.copies }
/-- Every check a submitted plan meets, in the order of R129. -/
def State.submitRej (s : State) (bs : List Byte) : Option Rej :=
  match planRej (s.planEnv false) bs with
  | some r => some r
  | none =>
    let p := readPlan bs
    match changeRej s.changeEnv bs with
    | some r => some r
    | none => if p.change.isNone && p.commitGrid ≠ 0 && p.commitGrid ≤ s.grid then some { reason := 0x21, sub := 0, ofs := 0x18 } else none

/-! Rejection and discard (R131, R133, R134). -/

/-- A plan is rejected or discarded: the registers of R138, the answer, and the plan event. -/
def State.rejectPlan (s : State) (r : Rej) (epoch : Nat) : State :=
  let y := s.yard
  let s := { s with yard :=
    { y with st := .idle, staged := [], stagedFrom := none, plan := none, planBytes := [], waitReq := none, waitBays := [], waitSlots := []
             rejected := true, reason := BitVec.ofNat 8 r.reason, sub := BitVec.ofNat 8 r.sub, rejOfs := BitVec.ofNat 32 r.ofs
             rejEpoch := BitVec.ofNat 32 epoch, rejections := satAdd y.rejections 1 } }
  let s := match y.waitReq with
    | none => s
    | some m => s.mbAnswer m 0x0010 ⟨resRejected, BitVec.ofNat 8 r.reason, []⟩
  s.pfCause .plan
/-- The EPOCH a rejection shows (R131). -/
def rejEpoch (bs : List Byte) (r : Rej) : Nat :=
  if r.reason = 1 || r.reason = 2 || bs.length < 128 then 0 else f32 bs 0x0C
/-- A plan in FETCHING, VALIDATING, WAIT_GROOM or ARMED is discarded for a reason of 0x31 to 0x33. -/
def State.discardPlan (s : State) (reason : Nat) : State :=
  match s.yard.st with
  | .fetching | .validating => s.rejectPlan { reason := reason, sub := 0, ofs := noField } (f32 s.yard.staged 0x0C)
  | .waitGroom | .armed => s.rejectPlan { reason := reason, sub := 0, ofs := noField } ((s.yard.plan.map (·.epoch)).getD 0)
  | _ => s

/-! The plan store (R135, R136). -/

/-- The slot R136 would choose: the highest EPOCH, then the higher WRITE_SEQ. -/
def chosenSlot (st : Tab StoreSlot) : Option Nat :=
  match st with
  | [] => none
  | a :: l => some (l.foldl (fun a b => if a.2.epoch < b.2.epoch || (a.2.epoch = b.2.epoch && a.2.writeSeq < b.2.writeSeq) then b else a) a).1
/-- Begin the write of a plan: the slot is erased (R135). -/
def State.startWrite (s : State) (x : StoreSlot) : State :=
  let st := s.yard.store
  let dst : Fin 2 := match chosenSlot st with
    | some 0 => 1
    | _ => 0
  let seq := ((st.map (fun e => e.2.writeSeq)).foldl max 0) + 1
  { s with yard := { s.yard with store := st.erase dst, writing := some { slot := dst, data := { x with writeSeq := seq } } } }
/-- A plan with FLASH_STORE that was not applied from the store is written (R135). -/
def State.storePlan (s : State) (p : Plan) (bytes : List Byte) (fromStore : Bool) : State :=
  if !p.policy.flashStore || fromStore then s
  else
    let x : StoreSlot := { bytes := bytes, epoch := p.epoch, writeSeq := 0, digest := p.digest }
    if s.yard.writing.isSome then { s with yard := { s.yard with writeWait := some x } } else s.startWrite x
/-- PLAN_STORE_DONE (R135): MARKER is written last and STORING clears. -/
def planStoreDone (s : State) : State :=
  match s.yard.writing with
  | none => s
  | some w =>
    let s := { s with yard := { s.yard with store := s.yard.store.put w.slot (some w.data), writing := none } }
    match s.yard.writeWait with
    | none => s
    | some x => { s with yard := { s.yard with writeWait := none } }.startWrite x
/-- A write interrupted by a loss of power or a takeover leaves its slot invalid and sets STORE_FAIL. -/
def State.breakWrite (s : State) : State :=
  if s.yard.writing.isNone then s
  else { s with yard := { s.yard with writing := none, writeWait := none, storeFail := true } }

/-! Owner tables (R139, R166). -/

def ownerTab (n d : Nat) (f : Nat → Option Nat) : Tab Byte :=
  (List.range n).filterMap (fun i => match f i with
    | none => none
    | some x => if x = d then none else some (i, BitVec.ofNat 8 x))
/-- The stall that holds something. -/
def State.holder (s : State) (p : Holdings → Bool) : Option Nat := (List.find? (fun (e : Nat × Stall) => p e.2.hold) s.stalls).map (·.1)
def State.inQuar (s : State) (r : Res) : Bool := match s.yard.chg with
  | none => false
  | some c => c.quar.any (fun e => e.1 = r)
/-- The owner tables follow the stalls' holdings, the quarantine and the ledger. -/
def State.setOwners (s : State) : State :=
  let fe (r : Res) : Option Nat := if s.inQuar r then some 0xFE else none
  { s with yard :=
    { s.yard with
      bayOwner := ownerTab 128 0xFF (fun b => (s.holder (fun h => h.bays.contains b)).orElse (fun _ =>
        if s.prot.grooming.contains b then some 0xFE else fe (.bay, b)))
      gateOwner := ownerTab 256 0xFF (fun g => (s.holder (fun h => h.gates.contains g)).orElse (fun _ => fe (.gate, g)))
      portOwner := ownerTab 48 0xFF (fun p =>
        if (s.holder (fun h => h.links.any (fun l => l.port = p && l.kind = 2))).isSome then some 0xFC
        else (s.holder (fun h => h.links.any (fun l => l.port = p))).orElse (fun _ => fe (.port, p)))
      slotOwner := ownerTab 1024 0xFF (fun k =>
        if k = 0 then some 0xFD
        else (s.holder (fun h => h.slots.contains k)).orElse (fun _ =>
          if (s.slot k).st = .clearing then some 0xFE else fe (.slot, k))) } }

/-! Defining and changing a stall (R80, R105, R132, R147, R155). -/

/-- RETIRED_MAP for these bays. -/
def State.retiredOf (s : State) (bays : List Nat) : BitVec 128 := bitsOf 128 (bays.filter (fun b => !s.bayAvail b))
/-- A stall's regulators as they come up: credit of the window that starts here (R344). -/
def freshRegs (h : Holdings) : Tab Regulator :=
  h.regs.map (fun r => (r.kind, { Regulator.init with credit := r.budget, prio := r.prio, mode := r.mode, base := r.prio, target := r.latTarget }))
def freshDelivery (h : Holdings) (now : U64) : Delivery :=
  { regs := freshRegs h, links := freshLinks h, window := 0, since := now, linkSince := now, gen := 0 }
/-- Gates return to their reset values without firing (R60). -/
def State.resetGates (s : State) (l : List Nat) : State :=
  forAll l (fun g u => (u.endHold g).setGate g (fun _ => Gate.init)) s
/-- Stall `n` is defined with holdings `h` under a plan (R132, R147): everything at its reset values, a new era, which is an
event (R486), journal copies at the plan's places, its slots HELD, its first manifest. DEDUCED, log 61. -/
def State.defineStall (s : State) (n : Nat) (h : Holdings) (p : Plan) : State :=
  let h := { h with retired := s.retiredOf h.bays }
  let s := s.raiseEra n
  let copies := s.freshCopies h
  let broken := has s.acct.brokenLater n
  let t : Stall :=
    { hold := h
      man := { epoch := p.epoch, planDigest := p.digest, seq := 0, issuedAt := s.nowW, pending := false, windowGen := 0, draw := s.free }
      ctxs := [], queues := [], launches := [], sched := Sched.init, stats := MemStats.init, seed := 0, kills := [], invals := []
      memClear := [], reset := [], bar2Deny := 0, halted := 0, debugCount := 0, paused := false, before := none, measuring := [], manReqs := []
      journal := { era := s.eraFloor n, definedAt := s.now, gen := 0, copies := copies, rebuild := none
                   broken := broken, next := [], segs := [], quota := 0 }
      evLog := [], evSeq := 0, attest := Attest.init, drover := Drover.init, relay := Relay.init
      dlv := freshDelivery h s.nowW }
  let s := { s.signed.setStall n t with acct := { s.acct with brokenLater := excl s.acct.brokenLater n } }
  let s := forAll h.slots (fun k u => u.grantSlot k) s
  let s := (s.resetGates h.gates).reachAll [] h
  s.setQuotas.accEvent 10 0 0 0 0 0 0 n (s.eraFloor n) [n]
/-- Bays leave a stall: their clusters go to Clear (R530). -/
def State.leaveBays (s : State) (bays : List Nat) : State :=
  forAll bays (fun b u => forAll [4 * b, 4 * b + 1, 4 * b + 2, 4 * b + 3] (fun c v => (v.setCluster c (fun _ => Cluster.init)).darken c) u) s
/-- A decreased budget takes its difference off the credit that remains (R361). -/
def cutCredit (old new : Holdings) (regs : Tab Regulator) : Tab Regulator :=
  regs.map (fun e => (e.1, { e.2 with credit := e.2.credit - (old.budget e.1 - new.budget e.1) }))
/-- Drover fits what its stall now holds (R340): pages beyond the retained size, LOFT_PAGES and DROVER_SEQ. -/
def LoftPage.beyond (x : LoftPage) (k : Nat) : Bool := match x with
  | .near i => decide (k ≤ i)
  | .far _ _ => false
/-- Stop the youngest-accepted sequence until `ok` holds. -/
def State.drvShed (n : StallNo) (ok : Stall → Bool) : Nat → State → State
  | 0, s => s
  | fuel + 1, s =>
    match s.stall? n with
    | none => s
    | some t =>
      if ok t then s
      else match t.drover.seqs.getLast? with
        | none => s
        | some x => State.drvShed n ok fuel (s.drvFail n (fun y => y.asn = x.asn) 0x0B)
def State.drvFit (s : State) (n : StallNo) : State :=
  match s.stall? n with
  | none => s
  | some t =>
    match t.drover.cfg with
    | none => s
    | some c =>
      let size := t.hold.bays.length * bayBytes s.pkg.variant - t.hold.journalBytes
      let bytes := min c.loftBytes ((size - c.loftBase) / c.pageBytes * c.pageBytes)
      let s := if bytes < c.loftBytes then
          (s.drvFail n (fun x => x.pages.any (fun p => p.beyond (bytes / c.pageBytes))) 0x0B).modDrover n
            (fun d => { d with cfg := some { c with loftBytes := bytes } })
        else s
      State.drvShed n (fun t => decide (t.drover.held + t.drover.reserved ≤ t.loftCap) && decide (t.drover.seqs.length ≤ t.hold.droverSeq))
        t.drover.seqs.length s
/-- A transition of stall `n` (R153, R155, R159): its holdings become `h`, its manifest fields as `f` says, in one
reissue. Bays and gates it loses are reset, regions that come into force join the reach of their slots. -/
def State.rehold (s : State) (n : StallNo) (h : Holdings) (f : Manifest → Manifest) : State :=
  match s.stall? n with
  | none => s
  | some t =>
    let old := t.hold
    let h := { h with retired := s.retiredOf h.bays }
    let gone := old.gates.filter (fun g => !h.gates.contains g)
    let links := decide (old.links ≠ h.links)
    let s := if old.debugConsent && !h.debugConsent then s.dropDebug n else s
    let s := s.leaveBays (old.bays.filter (fun b => !h.bays.contains b))
    let s := forAll gone (fun g u => u.gateReleased n g) s
    let s := s.resetGates gone
    let s := s.modStall n (fun t =>
      { t with hold := h, man := f t.man
               dlv := { t.dlv with regs := cutCredit old h t.dlv.regs, links := if links then freshLinks h else t.dlv.links
                                   linkSince := if links then s.nowW else t.dlv.linkSince } })
    ((s.reachAll old.regions h).drvFit n).reissue n

/-! Loading a plan (R131–R134). -/

/-- PLAN_SUBMIT (R131). -/
def planSubmitForm : MbForm :=
  form 0x0010 true false 16 [(12, 4)]
/-- PLAN_SUBMIT (R131, R193): the RTP fetches the plan and begins its checks; BUSY while another plan is in progress. At
most 1 MiB and one byte is fetched, which settles BAD_LENGTH. -/
def planSubmit (m : Req) (s : State) : State :=
  let f := planSubmitForm
  s.mbServe f m (fun s =>
    if s.yard.st ≠ .idle then
      let y := s.yard
      let s := { s with yard := { y with rejected := true, reason := 0x30, sub := 0, rejOfs := BitVec.ofNat 32 noField, rejEpoch := 0
                                         rejections := satAdd y.rejections 1 } }
      (s.mbAnswer m 0x0010 ⟨resRejected, 0x30, []⟩).pfCause .plan
    else match s.hostRead (f64 m.payload 0) (min (f32 m.payload 8) (2 ^ 20 + 1)) with
      | none => s.mbAnswer m 0x0010 ⟨resFetchFailed, 0, []⟩
      | some bs => { s with yard := { s.yard with st := .validating, staged := bs, stagedFrom := none, waitReq := some m } })
/-- A full plan is ARMED (R132). -/
def State.armPlan (s : State) (p : Plan) : State :=
  { s with yard := { s.yard with st := .armed, armedGrid := BitVec.ofNat 64 (max p.commitGrid (s.grid + 1)), waitBays := [], waitSlots := [] } }
/-- An accepted full plan waits for the Groom's ledger, or is ARMED (R131, R421). -/
def State.takeFull (s : State) (p : Plan) (bs : List Byte) (slot : Option Nat) : State :=
  let slots := (p.slots.map (·.slot)).filter (fun k => (s.slot k).st ≠ .clean)
  let bays := (p.bays.map (·.bay)).filter (fun b => s.prot.grooming.contains b)
  let s := { s with yard := { s.yard with plan := some p, planBytes := bs, staged := [], stagedFrom := slot, accepted := satAdd s.yard.accepted 1 } }
  if slots.isEmpty && bays.isEmpty then s.armPlan p
  else { s with yard := { s.yard with st := .waitGroom, waitBays := bays, waitSlots := slots } }
/-- Clearing has gone on: a plan in WAIT_GROOM whose bays and slots are all clear is ARMED. -/
def State.groomProgress (s : State) : State :=
  match s.yard.st, s.yard.plan with
  | .waitGroom, some p =>
    let bays := s.yard.waitBays.filter (fun b => s.prot.grooming.contains b)
    let slots := s.yard.waitSlots.filter (fun k => (s.slot k).st ≠ .clean)
    let s := { s with yard := { s.yard with waitBays := bays, waitSlots := slots } }
    if bays.isEmpty && slots.isEmpty then s.armPlan p else s
  | _, _ => s
/-- The grid tick at which an ARMED plan commits, as a GTB value. -/
def State.commitTick (s : State) : Nat := s.yard.armedGrid.toNat * 2 ^ 20
/-- A plan's commit (R132): every owner table, every stall, and the registers of R138, in one instant. -/
def State.commit (s : State) (p : Plan) (bytes : List Byte) (slot : Option Nat) : State :=
  let s := forAll p.stalls (fun r u => u.defineStall r.stall (p.holdings r) p) s
  let y := s.yard
  let rises := y.epochFloor.toNat < p.epoch
  let keep := s.prot.decommissioned && p.epoch = 0
  let s := { s with prot := { s.prot with decommissioned := keep }, rsv := { s.rsv with live := !s.stalls.isEmpty }, yard :=
    { y with st := .idle, plan := none, planBytes := [], staged := [], stagedFrom := none, active := p, base := p, isDefault := p.epoch = 0
             fromFlash := slot.isSome, mixed := false, commitAt := s.nowW, committed := true
             epochFloor := if rises then BitVec.ofNat 32 p.epoch else y.epochFloor
             floorDigest := if rises then p.digest else y.floorDigest } }
  (s.setOwners.clearShort.pfCause .plan).storePlan p bytes slot.isSome
/-- PLAN_COMMIT (R132, R133): at the commit tick the RTP checks availability again, and commits or rejects. -/
def planCommit (s : State) : State :=
  match s.yard.st, s.yard.plan with
  | .armed, some p =>
    if !s.running then s else
    let s := s.advance s.commitTick
    let checks := (contentChecks (s.planEnv false) s.yard.planBytes).filter (fun c => c.1 = 0x14 || c.1 = 0x1D)
    match firstRej checks with
    | some r => s.rejectPlan r p.epoch
    | none => s.commit p s.yard.planBytes s.yard.stagedFrom
  | _, _ => s

/-! The yard-keeper key (R126, R127). -/

def enrolWindow : Nat := 960000000000
def keyStateCode : KeyState → Nat
  | .unenrolled => 0 | .pending => 1 | .enrolled => 2
/-- ENROL (R126). -/
def enrol (m : Req) (s : State) : State :=
  s.mbServeA (form 0x0018 true false 96 []) m (fun s =>
    if s.yard.keyState ≠ .unenrolled then (refuse (keyStateCode s.yard.keyState), s)
    else if !Config.onCurve m.payload then (refuse 0x12, s)
    else (ok, { s with yard := { s.yard with keyState := .pending, pendKey := m.payload, pendAt := s.now } }))
/-- A confirmation through the sideband (R126): in time when it arrives at or before the window's last gtick. -/
def State.confirmEnrol (s : State) : Bool × State :=
  if s.yard.keyState = .pending && decide (s.now ≤ s.yard.pendAt + enrolWindow) then
    (true, { s with yard := { s.yard with keyState := .enrolled, key := s.yard.pendKey, pendKey := [], keySeq := 1 } })
  else (false, s)
/-- ENROL_WINDOW_EXPIRY (R126). -/
def enrolWindowExpiry (s : State) : State :=
  if s.yard.keyState ≠ .pending then s
  else
    let s := s.advance (s.yard.pendAt + enrolWindow + 1)
    { s with yard := { s.yard with keyState := .unenrolled, pendKey := [] } }
/-- ROTATE (R127). -/
def rotate (m : Req) (s : State) : State :=
  s.mbServeA (form 0x0019 true false 196 []) m (fun s =>
    let p := m.payload
    let y := s.yard
    let newKey := slice p 4 96
    if y.keyState ≠ .enrolled then (refuse (keyStateCode y.keyState), s)
    else if y.st ≠ .idle then (refuse 0x10, s)
    else if f32 p 0 ≠ y.keySeq.toNat + 1 then (refuse 0x11, s)
    else if !Config.onCurve newKey then (refuse 0x12, s)
    else if !Config.ecdsaVerify y.key (Config.sha384 ([0x59, 0x4B, 0x52, 0x54] ++ slice p 0 4 ++ newKey)) (slice p 100 96) then (refuse 0x13, s)
    else (ok, { s with yard := { y with key := newKey, keySeq := y.keySeq + 1 } }))

def execPlanSubmit (m : MbReq) (s : State) : Host.Outcome State Fault Refusal := .next (planSubmit (plain m) s)
def execPlanCommit (s : State) : Host.Outcome State Fault Refusal := .next (planCommit s)
def execPlanStoreDone (s : State) : Host.Outcome State Fault Refusal := .next (planStoreDone s)
def execEnrol (m : MbReq) (s : State) : Host.Outcome State Fault Refusal := .next (enrol (plain m) s)
def execEnrolWindowExpiry (s : State) : Host.Outcome State Fault Refusal := .next (enrolWindowExpiry s)
def execRotate (m : MbReq) (s : State) : Host.Outcome State Fault Refusal := .next (rotate (plain m) s)

end Sys2Proof.Machine
end

