-- ==== Sys2Proof/Machine/Manifest.lean ====
section
/-! DEFINITION. The stall manifest (R92–R99) and the mailbox requests that answer with what the part already holds:
VERSION and RESULT_QUERY (R193, R195). -/

namespace Sys2Proof.Machine

/-- FLAGS of a stall's manifest (R96). -/
def State.manFlags (s : State) (n : Nat) (t : Stall) : Nat :=
  let shared := t.hold.links.any (fun l => l.kind = 2 && s.stalls.any (fun e => e.1 ≠ n && e.2.hold.links.any (fun x => x.port = l.port)))
  t.hold.sole.toNat + 2 * t.hold.debugConsent.toNat + 4 * shared.toNat + 8 * t.man.pending.toNat
    + 16 * (t.hold.bar2En && t.hold.iso ≠ 3).toNat + 32 * (decide (t.hold.retired ≠ 0)).toNat
/-- A bit map of numbers as bytes. -/
def mapBytes (n : Nat) (l : List Nat) : List Byte := leBytes n (bitsOf (8 * n) l).toNat
/-- A list of records cut or padded to a fixed length. -/
def fitBytes (n : Nat) (l : List Byte) : List Byte := (l ++ zeros (n - l.length)).take n
/-- The manifest but for its signature (R95, R97). -/
def State.manifestHead (s : State) (n : Nat) (t : Stall) (issued : Nat) (nonce : List Byte) : List Byte :=
  let h := t.hold
  let v := s.pkg.variant
  [0x53, 0x54, 0x41, 0x4C, 1, 0] ++ leBytes 2 0x2B8 ++ leBytes 1 n ++ leBytes 1 h.iso ++ leBytes 2 (s.manFlags n t) ++ leBytes 4 t.man.epoch
    ++ leBytes 4 t.man.seq.toNat ++ zeros 4 ++ leBytes 8 issued ++ digestBytes Config.idDigest ++ digestBytes t.man.planDigest
    ++ fitBytes 32 nonce ++ mapBytes 16 h.bays ++ leBytes 1 h.bays.length ++ leBytes 1 (pcPerBay v) ++ leBytes 2 (partCode v)
    ++ leBytes 1 h.ctxMax ++ leBytes 1 h.gates.length ++ leBytes 1 h.slots.length ++ leBytes 1 h.links.length
    ++ leBytes 8 (h.hbmBytes v) ++ leBytes 4 h.journalBytes ++ leBytes 4 h.preemptLimit ++ leBytes 4 h.pauseLimit
    ++ leBytes 4 h.droverSeq ++ leBytes 4 h.loftPages ++ zeros 4 ++ leBytes 16 h.retired.toNat
    ++ fitBytes 32 (h.slots.flatMap (fun k => leBytes 2 k)) ++ fitBytes 64 (h.gates.flatMap (fun g => leBytes 1 g))
    ++ fitBytes 80 (h.regs.flatMap (fun r => leBytes 4 r.budget ++ leBytes 4 r.latTarget ++ leBytes 1 r.mode ++ leBytes 1 r.prio ++ zeros 6))
    ++ fitBytes 192 (h.links.flatMap (fun l => leBytes 1 l.port ++ leBytes 1 l.kind ++ leBytes 2 l.share))
/-- With its signature by the attestation key (R98). -/
def withSignature (head : List Byte) (draw : Nat) : List Byte := head ++ (Config.attestSign (Config.sha384 head) draw).toList
/-- The manifest in the stall's window (R92). -/
def State.windowManifest (s : State) (n : Nat) (t : Stall) : List Byte := withSignature (s.manifestHead n t t.man.issuedAt.toNat []) t.man.draw
/-- Answer a MANIFEST_REQ with the content as it stands (R99). -/
def State.answerManifest (s : State) (n : Nat) (m : Req) : State :=
  match s.stall? n with
  | none => s.mbAnswer m 0x0020 (refuse 0xFF)
  | some t => s.signed.mbAnswer m 0x0020 (okWith (withSignature (s.manifestHead n t s.now (slice m.payload 8 32)) s.free))
/-- Requests that waited for a transition of the stall are answered. -/
def State.answerManifests (s : State) (n : Nat) : State :=
  match s.stall? n with
  | none => s
  | some t => forAll t.manReqs (fun m u => u.answerManifest n m) (s.setStall n { t with manReqs := [] })
/-- MANIFEST_REQ (R99). -/
def manifestForm : MbForm :=
  { form 0x0020 true true 40 [(1, 7)] with stallAt := some 0, clear3 := true }
/-- MANIFEST_REQ (R99): while PENDING is 1 it waits for the transition in progress. DEDUCED, log 37. -/
def manifestReq (m : Req) (s : State) : State :=
  let f := manifestForm
  s.mbServe f m (fun s =>
    let n := stallArg f m
    match s.stall? n with
    | none => s.mbAnswer m 0x0020 (refuse 0xFF)
    | some t => if t.man.pending then s.setStall n { t with manReqs := t.manReqs ++ [m] } else s.answerManifest n m)

/-- VERSION (R193). -/
def versionForm : MbForm :=
  { form 0x0001 true true 0 [] with clear3 := true, always := true, inError := true }
/-- VERSION (R193). -/
def version (m : Req) (s : State) : State :=
  let f := versionForm
  s.mbServeA f m (fun s => (okWith (leBytes 2 0x0100), s))
/-- The mailbox a RESULT_QUERY names. -/
def queryKey (m : Req) : Nat :=
  let p := f8 m.payload 0
  match fnStall m.fn with
  | some n => 4 + vfKey p n
  | none => if f8 m.payload 4 = 0xFF then p else 4 + vfKey p (f8 m.payload 4)
/-- RESULT_QUERY (R195). -/
def resultQueryForm (m : Req) : MbForm :=
  { form 0x0002 true true 8 [(1, 1), (5, 3)] with
    clear3 := true, always := true, inError := true
    bad := fun p => lowest (badIf (3 < f8 p 0) 0 ++ badIf (fnIsPf m.fn && f8 p 4 ≠ 0xFF && 127 < f8 p 4) 4) }
/-- RESULT_QUERY (R195). -/
def resultQuery (m : Req) (s : State) : State :=
  let f := resultQueryForm m
  s.mbServeA f m (fun s =>
    match ((s.host.history.get [] (queryKey m)).reverse).find? (fun h => h.tag.toNat = f16 m.payload 2) with
    | none => (refuse 1, s)
    | some h => (okWith h.bytes, s))

def execManifestReq (m : MbReq) (s : State) : Host.Outcome State Fault Refusal := .next (manifestReq (plain m) s)
def execVersion (m : MbReq) (s : State) : Host.Outcome State Fault Refusal := .next (version (plain m) s)
def execResultQuery (m : MbReq) (s : State) : Host.Outcome State Fault Refusal := .next (resultQuery (plain m) s)

end Sys2Proof.Machine
end

