-- ==== Sys2Proof/Machine/Queues.lean ====
section
/-! DEFINITION. Queue creation and destruction (R205–R208, R460), doorbells and acceptance (R215–R218, R235, R473–R475),
and the end and visibility of commands (R213, R227). -/

namespace Sys2Proof.Machine

/-! Creating and destroying. -/

/-- A queue as QUEUE_CREATE makes it. -/
def newQueue (p : List Byte) (session : U32) (base : U64) (eraPos : U32) : Queue :=
  let depth := 2 ^ f8 p 3
  { log2Depth := f8 p 3, weight := f8 p 4, vector := f8 p 5, ringHost := f8 p 6 % 2 = 1, isSealed := f8 p 6 / 2 % 2 = 1
    irqRefuse := f8 p 6 / 4 % 2 = 1, irqPressure := f8 p 6 / 8 % 2 = 1
    admLimit := if f32 p 8 = 0 then depth else f32 p 8, ring := f64 p 16, cpl := f64 p 24, hdr := f64 p 32
    session := session, hdrSeq := 0, pressure := false, faulted := false, held := false, acceptedAsn := 0, acceptedPos := 0
    refusedCount := 0, completedAsn := 0, completedPos := 0, refCode := 0, refDetail := 0, refPos := 0, refAt := 0
    baseAsn := base, eraPos := eraPos, stranded := false, ringFault := false, consumed := 0, staleDb := 0, waiting := []
    checking := none, pages := [], shadow := [], records := [], entries := [], served := 0, gated := none }

/-- The MALFORMED checks of QUEUE_CREATE (R205, R206, R458). -/
def queueCreateBad (ctxMax : Nat) (p : List Byte) : Option Nat :=
  lowest (badIf (ctxMax ≤ f8 p 0) 0 ++ badIf (3 < f8 p 1) 1 ++ badIf (7 < f8 p 2) 2 ++ badIf (f8 p 3 < 6 || 16 < f8 p 3) 3
    ++ badIf (f8 p 4 = 0) 4 ++ badIf (f8 p 5 = 0 || 31 < f8 p 5) 5
    ++ badIf (15 < f8 p 6 || (f8 p 6 / 2 % 2 = 1 && f8 p 6 % 2 = 0)) 6
    ++ badIf (2 ^ f8 p 3 < f32 p 8) 8 ++ badIf (f64 p 16 % 4096 ≠ 0) 16 ++ badIf (f64 p 24 % 4096 ≠ 0) 24
    ++ badIf (f64 p 32 % (if f8 p 6 / 2 % 2 = 1 then 4096 else 64) ≠ 0) 32)

/-- Does a stall address of a context resolve to page and region rights that include `need`, without any trace. -/
def State.reaches (s : State) (w : Who) (x : Ctx) (h : Holdings) (need va : Nat) : Bool :=
  match (s.translate w x va).1 with
  | .inl _ => false
  | .inr (o, pr) =>
    match resolve h.regions (x.keys h) o with
    | none => false
    | some r => rightsOk pr need && rightsOk r.rights need && (h.place s.pkg.variant o).isSome
/-- Every line of a 4 KiB aligned area, page by page. -/
def State.areaOk (s : State) (w : Who) (x : Ctx) (h : Holdings) (need va len : Nat) : Bool :=
  (List.range (ceilDiv len 4096)).all (fun i => s.reaches w x h need (va + 4096 * i))

/-- DETAIL of REFUSED for a well-formed QUEUE_CREATE of stall `n` (R207). -/
def State.queueCreateRefusal (s : State) (t : Stall) (n : Nat) (p : List Byte) : Option Nat :=
  let c := f8 p 0
  let e := f8 p 1
  let k := qkey c e (f8 p 2)
  let depth := 2 ^ f8 p 3
  let host := f8 p 6 % 2 = 1
  let w := ringWho n k
  match t.ctx? c with
  | none => some 1
  | some x =>
    if (t.queue? k).isSome then some 2
    else if e = 3 && t.hold.droverSeq = 0 then some 3
    else if (t.journal.place (t.hold.journalMib * mib) (segBytes depth t.hold.receipts)).isNone || t.journal.copies.isEmpty then some 4
    else if !host && !(s.areaOk w x t.hold rRead (f64 p 16) (64 * depth) && s.areaOk w x t.hold rWrite (f64 p 24) (32 * depth)
        && s.areaOk w x t.hold rWrite (f64 p 32) 64) then some 5
    else if t.hold.iso = 3 && host && f8 p 6 / 2 % 2 = 0 then some 6
    else if e = 3 && (match t.drover.cfg with | none => false | some d => !x.keys t.hold d.keyIndex) then some 8
    else none

/-- QUEUE_CREATE (R205). -/
def queueCreateForm (ctxMax : Nat) : MbForm :=
  { form 0x0030 false true 40 [(7, 1), (12, 4)] with bad := queueCreateBad ctxMax }
/-- QUEUE_CREATE (R205–R207). DEDUCED, log 75. -/
def queueCreate (m : Req) (s : State) : State :=
  let ctxMax := (fnStall m.fn).elim 0 (fun n => ((s.stall? n).map (fun t => t.hold.ctxMax)).getD 0)
  let f := queueCreateForm ctxMax
  s.mbServeA f m (fun s =>
    match fnStall m.fn with
    | none => (notPermitted, s)
    | some n =>
      match s.stall? n with
      | none => (refuse 0xFF, s)
      | some t =>
        let p := m.payload
        match s.queueCreateRefusal t n p with
        | some d => (refuse d, s)
        | none =>
          let k := qkey (f8 p 0) (f8 p 1) (f8 p 2)
          let depth := 2 ^ f8 p 3
          let need := segBytes depth t.hold.receipts
          let ofs := (t.journal.place (t.hold.journalMib * mib) need).getD 0
          let base := asnOf t.journal.era (t.journal.nextCount k)
          let q := { newQueue p (m.session.getD 0) base 0 with hdrSeq := 2 }
          let s := s.modStall n (fun t =>
            { t with queues := t.queues.put k (some q)
                     journal := { t.journal with segs := t.journal.segs.put k (some { ofs := ofs, bytes := need })
                                                 gen := t.journal.gen + 1 } })
          let s := if s.queueServed q then s.writeHeader n k else s
          (okWith (leBytes 8 base.toNat), s))

/-- Idle (R208). -/
def Queue.idle (q : Queue) : Bool := decide (q.acceptedPos = q.completedPos) && decide (q.completedPos = q.consumed)
/-- Remove a queue: its segment is freed and its number keeps NEXT_COUNT (R478, R485). -/
def Stall.dropQueue (t : Stall) (k : Nat) : Stall :=
  { t with queues := t.queues.erase k
           journal := { t.journal with segs := t.journal.segs.erase k, gen := t.journal.gen + 1 }
           drover := { t.drover with rings := t.drover.rings.erase k } }
/-- The MALFORMED checks of a payload CONTEXT, ENGINE, QUEUE. -/
def queueNameBad (p : List Byte) : Option Nat :=
  lowest (badIf (15 < f8 p 0) 0 ++ badIf (3 < f8 p 1) 1 ++ badIf (7 < f8 p 2) 2)
/-- QUEUE_DESTROY (R208). -/
def queueDestroyForm : MbForm :=
  { form 0x0031 false true 8 [(3, 5)] with bad := queueNameBad }
/-- QUEUE_DESTROY (R208); a queue that does not exist is no idle queue. -/
def queueDestroy (m : Req) (s : State) : State :=
  let f := queueDestroyForm
  s.mbServeA f m (fun s =>
    match fnStall m.fn with
    | none => (notPermitted, s)
    | some n =>
      let k := qkey (f8 m.payload 0) (f8 m.payload 1) (f8 m.payload 2)
      match s.queue? n k with
      | none => (refuse 7, s)
      | some q => if q.idle && q.checking.isNone then (ok, s.modStall n (fun t => t.dropQueue k)) else (refuse 7, s))

/-! The check of a doorbell (R216). -/

/-- What an acceptance check knows beside the command. -/
def State.cmdEnv (s : State) (n : StallNo) (t : Stall) (q : Queue) (fresh : List Entry) (p : U32) : CmdEnv :=
  { hold := t.hold
    podSize := s.yard.active.policy.podSize
    receiptOk := fun a =>
      let near (pos : U32) (asn : U64) : Bool := asn.toNat = a && decide (1 ≤ (p - pos).toNat) && decide ((p - pos).toNat ≤ 4096)
      q.entries.any (fun e => near e.pos e.asn) || fresh.any (fun e => near e.pos e.asn) || q.records.any (fun e => near e.pos e.asn)
    sessionOk := fun id => (s.session? id).any (fun x => x.stall = some n.val)
    deleted := false }

/-- A command's entry as it is journalled (R481). -/
def newEntry (p : U32) (asn : U64) (b : List Byte) (gate : Option Nat) : Entry :=
  { pos := p, asn := asn, bytes := b, st := .accepted, status := 0, detail := 0, value := 0, acceptAt := 0, startAt := 0
    beginAt := 0, endAt := 0, progress := 0, gate := gate, seed := 0, aux0 := 0, aux1 := 0, replays := 0, lateRef := none
    dataDigest := 0, moved := [], lastCtr := 0, sideEffect := false, undecided := false, stopped := false }

/-- What the check of one command came to. -/
inductive Checked where
  | pass (b : List Byte)
  | fails (code detail : Byte)
  | dead
  deriving DecidableEq, Repr

/-- The five checks of R216 on the command at `p`, in their order. -/
def State.checkOne (s : State) (n : StallNo) (k : Nat) (fresh : List Entry) (p : U32) : Checked × State :=
  match s.stall? n, s.queue? n k with
  | some t, some q =>
    if q.admLimit ≤ (p - q.consumed).toNat then (.fails 0x10 0, s)
    else match s.reserveRefusal n fresh.length with
      | some d => (.fails 0x14 d, s)
      | none =>
        if q.stranded then (.fails 0x12 0, s)
        else
          let r := s.readSlot n k q p
          match r.1 with
          | .dead => (.dead, r.2.ringDead n k)
          | .rejected => (.fails 0x12 0x40, r.2)
          | .bytes b =>
            let v := s.cmdEnv n t q fresh p
            match malformedAt v (qkEngine k) b with
            | some o => (.fails 0x12 (BitVec.ofNat 8 o), r.2)
            | none =>
              match rightsAt v b with
              | some o => (.fails 0x13 (BitVec.ofNat 8 o), r.2)
              | none =>
                if f8 b 0 = 0x40 then
                  match t.drvRefusal k b with
                  | some d => (.fails 0x11 d, r.2)
                  | none => (.pass b, r.2)
                else (.pass b, r.2)
  | _, _ => (.dead, s)

/-- Journal the command at `p` with the next count; a count beyond its range advances the era first, or breaks the
stall's continuity where no era is left (R484–R487). -/
def State.journalOne (s : State) (n : StallNo) (k : Nat) (p : U32) (b : List Byte) : Option Entry × State :=
  match s.stall? n with
  | none => (none, s)
  | some t =>
    let full := countMax < t.journal.nextCount k
    if full && s.eraFloor n = eraMax then (none, s.breakContinuity n)
    else
      let s := if full then s.advanceEra n else s
      let j := ((s.stall? n).map (·.journal)).getD t.journal
      let asn := asnOf j.era (j.nextCount k)
      let gate := if [0x09, 0x0A, 0x0B].contains (f8 b 0) then t.hold.gates[f8 b 8]? else none
      let s := s.modStall n (fun t =>
        { t with journal := { t.journal with next := t.journal.next.set 1 k (j.nextCount k + 1) }
                 drover := if f8 b 0 = 0x40 then t.drover.takeIn k p asn b else t.drover })
      (some (newEntry p asn b gate), s)

/-- The checks from position `p` on, `left` of them, with the commands already taken. -/
def State.checkFrom (n : StallNo) (k : Nat) : Nat → U32 → List Entry → State → (List Entry × Option (Byte × Byte)) × State
  | 0, _, fresh, s => ((fresh, none), s)
  | left + 1, p, fresh, s =>
    let c := s.checkOne n k fresh p
    match c.1 with
    | .dead => ((fresh, none), c.2)
    | .fails code d => ((fresh, some (code, d)), c.2)
    | .pass b =>
      let r := c.2.journalOne n k p b
      match r.1 with
      | none => ((fresh, none), r.2)
      | some e => State.checkFrom n k left (p + 1) (fresh ++ [e]) r.2

/-- Is the path to the journal up: the package is out of package Clear as far as phase 3 of a wake (R533). -/
def State.pathReady (s : State) : Bool :=
  match s.power.clearSt with
  | .awake => true
  | .waking k => decide (3 < k)
  | _ => false
/-- Are doorbells of the queue held: a check in progress, its context being killed, a reset, a session that has ended,
or a package that is still waking (R218, R460, R533, R544, R545), or a module that has
stopped (R436, R437). -/
def State.dbHeld (s : State) (n : Nat) (q : Queue) : Bool :=
  q.checking.isSome || q.held || (match s.stall? n with | none => false | some t => !t.reset.isEmpty)
  || s.power.warm.isSome || s.moduleStopped || !s.queueServed q || !s.pathReady

/-- Check the doorbell `t` of a queue that is free to check (R215). -/
def State.ring (s : State) (n : StallNo) (k : Nat) (tail : U32) (port : Nat) : State :=
  match s.queue? n k with
  | none => s
  | some q =>
    let cnt := (tail - q.acceptedPos).toNat
    if cnt = 0 || q.ringFault then s
    else if q.depth < cnt then s.modQueue n k (fun q => { q with staleDb := satAdd q.staleDb 1 })
    else
      let r := State.checkFrom n k cnt q.acceptedPos [] s
      r.2.modQueue n k (fun q => { q with checking := some { tail := tail, fresh := r.1.1, refusal := r.1.2, port := port } })

/-- Doorbells that waited are treated in turn until one starts a check (R218). -/
def State.runWaiting (n : StallNo) (k : Nat) (fuel : Nat) (s : State) : State :=
  match fuel with
  | 0 => s
  | fuel + 1 =>
    match s.queue? n k with
    | none => s
    | some q =>
      match q.waiting with
      | [] => s
      | d :: l =>
        if s.dbHeld n q then s
        else State.runWaiting n k fuel ((s.modQueue n k (fun q => { q with waiting := l })).ring n k d.1 d.2)
def State.wakeQueue (s : State) (n : StallNo) (k : Nat) : State :=
  match s.queue? n k with
  | none => s
  | some q => State.runWaiting n k q.waiting.length s
/-- Held doorbells of every queue are checked. -/
def State.wakeQueues (s : State) (p : Nat → Nat → Bool) : State :=
  forAll s.stalls (fun e u =>
    if h : e.1 < 128 then forAll (e.2.queues.filter (fun q => p e.1 q.1)) (fun q v => v.wakeQueue ⟨e.1, h⟩ q.1) u else u) s

/-- DOORBELL: a write of QDB_TAIL through the VF of port `p` (R215, R218). It is a wake source (R536). A queue that
does not exist, or a VF that is not carried, ignores it. -/
def doorbell (p : HostPort) (q : QueueId) (tail : U32) (s : State) : State :=
  let n := q.stall
  let k := queueKey q
  if !s.vfSeen n p || !s.running then s
  else match s.queue? n k with
    | none => s
    | some x =>
      let s := s.wakePackage 0 false
      if s.dbHeld n x then s.modQueue n k (fun x => { x with waiting := x.waiting ++ [(tail, p.val)] })
      else s.ring n k tail p

/-- The commands a check took that are not published after all lose their records: counts and Drover's entries return. -/
def State.discard (s : State) (n : StallNo) (k : Nat) (l : List Entry) : State :=
  s.modStall n (fun t =>
    let first := l.find? (fun e => e.asn.toNat / 2 ^ 40 = t.journal.era)
    { t with journal := match first with
               | none => t.journal
               | some e => { t.journal with next := t.journal.next.set 1 k (e.asn.toNat % 2 ^ 40) }
             drover := forAll l (fun e d => d.unadmit k e.pos) t.drover })

/-- Drover's part of a publication (R326): BUSY_PRESSURE and BUSY_COUNT. -/
def State.publishDrover (s : State) (n : StallNo) (k : Nat) (busy : Nat) : State :=
  match s.stall? n with
  | none => s
  | some t =>
    if qkEngine k ≠ 3 || (t.drover.rings.find? k).isNone then s
    else
      let s := s.modDrover n (fun d => { d with busyRefused := satAdd d.busyRefused busy })
      s.outPublish n k (fun r =>
        { r with busy := r.busy || decide (0 < busy) || decide (t.share k ≤ t.drover.outstanding k)
                 busyCount := r.busyCount + BitVec.ofNat 32 busy })

/-- The publication of a check (R217, R473, R474). -/
def State.publishCheck (s : State) (n : StallNo) (k : Nat) (c : Check) : State :=
  match s.stall? n, s.queue? n k with
  | some t, some q =>
    let dur := t.journal.durable
    let fresh := if dur then c.fresh else []
    let refusal := if dur || c.fresh.isEmpty then c.refusal else some (0x14, 0x02)
    let s := if dur then s else s.discard n k c.fresh
    let seed := t.seed
    let taken := fresh.map (fun e => { e with acceptAt := s.now, seed := seed, gate :=
      match e.gate with
      | none => none
      | some g => some ((t.hold.gates[e.u8 8]?).getD g) })
    let pos := q.acceptedPos + BitVec.ofNat 32 taken.length
    let lost := (c.tail - pos).toNat
    let busy := if (refusal.map (·.1)) = some 0x11 then lost else 0
    let s := s.modDrover n (fun d => { d with seqs := d.seqs.map (fun x =>
      if x.qk = k && taken.any (fun e => e.asn = x.asn) then { x with acceptAt := s.now } else x) })
    let s := s.publish n k (refusal.isSome && q.irqRefuse) (fun q =>
      let q := { q with entries := q.entries ++ taken, checking := none, acceptedPos := pos
                        acceptedAsn := (taken.getLast?.map (·.asn)).getD q.acceptedAsn }
      match refusal with
      | none => q
      | some r => { q with refCode := r.1, refDetail := r.2, refPos := pos, refAt := s.nowW
                           refusedCount := q.refusedCount + BitVec.ofNat 32 lost })
    if (taken.any (fun e => e.opcode = 0x40)) || 0 < busy then s.publishDrover n k busy else s
  | _, _ => s

/-- ACCEPTANCE_PUBLISH: the check in progress is published; doorbells that waited for it follow (R217, R218). DEDUCED, log 92. -/
def acceptancePublish (q : QueueId) (s : State) : State :=
  let n := q.stall
  let k := queueKey q
  match (s.queue? n k).bind (·.checking) with
  | none => s
  | some c => (s.publishCheck n k c).wakeQueue n k

/-- CONSUMED_WRITE (R215, R235, R482): a value out of range is counted in STALE_DB; one that takes effect frees the
records it passes and may clear PRESSURE in a publication of its own. -/
def consumedWrite (q : QueueId) (v : U32) (s : State) : State :=
  let n := q.stall
  let k := queueKey q
  match s.queue? n k with
  | none => s
  | some x =>
    if (x.completedPos - x.consumed).toNat < (v - x.consumed).toNat then
      s.modQueue n k (fun x => { x with staleDb := satAdd x.staleDb 1 })
    else
      let gone := (v - x.consumed).toNat
      let y := { x with consumed := v, entries := x.entries.filter (fun e => decide (gone ≤ (e.pos - x.consumed).toNat)) }
      let s := s.modQueue n k (fun _ => y)
      if y.pressure && !y.pressureAfter then s.publish n k false id else s

/-- QDB_ASN_LO_READ (R237): the low half, with the high half latched for this instance. An undefined queue's slot reads 0. -/
def qdbAsnLoRead (p : HostPort) (q : QueueId) (s : State) : State :=
  let f : Fn := .vf p q.stall
  let a := ((s.queue? q.stall (queueKey q)).map (·.acceptedAsn)).getD 0
  if !s.vfSeen q.stall p then s
  else (s.setLat f (fun l => { l with qdbHi := hi32 a })).emit (.readData f (leBytes 4 (lo32 a).toNat) false)

/-! Ends and visibility. -/

/-- Is a SEALED_LOAD of the handle executing (R465). -/
def Stall.loading (t : Stall) (h : Nat) : Bool :=
  t.queues.any (fun (e : Nat × Queue) => e.2.entries.any (fun x => (x.st = .started || x.st = .ready) && x.opcode = 0x23 && x.u32 0x24 = h))
/-- SEAL_DROP takes effect (R443, R465): the image key goes, the entry is appended and the request answered. -/
def State.dropImage (s : State) (n : Nat) (m : Req) : State :=
  let h := f8 m.payload 0
  match (s.stall? n).bind (fun t => t.attest.images.find? h) with
  | none => s.mbAnswer m 0x0074 (refuse 1)
  | some x =>
    let s := s.modStall n (fun t => { t with attest := { t.attest with images := t.attest.images.erase h } })
    (s.logAppend n 5 0xFF h x.digest).mbAnswer m 0x0074 ok
/-- SEAL_DROP requests whose handle no SEALED_LOAD executes any longer take effect (R465). -/
def State.finishDrops (s : State) (n : Nat) : State :=
  match s.stall? n with
  | none => s
  | some t =>
    let go := t.attest.drops.filter (fun m => !t.loading (f8 m.payload 0))
    if go.isEmpty then s
    else
      let s := s.setStall n { t with attest := { t.attest with drops := t.attest.drops.filter (fun m => t.loading (f8 m.payload 0)) } }
      forAll go (fun m u => u.dropImage n m) s

/-- COMMAND_END: a command whose work is over has its end written (R213, R227, R482). DEDUCED, log 92. -/
def commandEnd (q : QueueId) (pos : U32) (s : State) : State :=
  (s.modEntry q.stall (queueKey q) pos (fun e => if e.st = .ready then e.conclude s.now else e)).finishDrops q.stall

/-- WAIT_QUEUEs of the context that name queue `k` from another queue and whose ASN it has completed pass (R224). -/
def State.passWaitQueue (s : State) (n : Nat) (k : Nat) : State :=
  match s.queue? n k with
  | none => s
  | some q =>
    s.modStall n (fun t => { t with queues := t.queues.map (fun kq =>
      if qkCtx kq.1 ≠ qkCtx k || kq.1 = k then kq
      else (kq.1, { kq.2 with entries := kq.2.entries.map (fun e =>
        if e.st = .started && e.opcode = 0x12 && e.u8 8 = qkEngine k && e.u8 9 = qkQueue k && decide (e.u64 0x10 ≤ q.completedAsn.toNat) then
          e.finish stDone 0 q.completedAsn
        else e) })) })

/-- COMPLETION_VISIBLE: the first record not yet visible becomes so, if its command has ended and the part still writes
the queue's areas (R213, R230, R460). DEDUCED, log 92. -/
def completionVisible (q : QueueId) (s : State) : State :=
  let n := q.stall
  let k := queueKey q
  match s.queue? n k with
  | none => s
  | some x =>
    match x.nextVisible? with
    | none => s
    | some e => if e.st = .ended && s.queueServed x then ((s.makeVisible n k e).passWaitQueue n k).finishDrops n else s

/-- QUEUE_REBIND (R460). -/
def queueRebindForm : MbForm :=
  { form 0x0076 false true 8 [(3, 5)] with bad := queueNameBad }
/-- QUEUE_REBIND (R460): in a session, a sealed queue is bound to it; counters restart from 0, the header and every
completion page are sealed anew, and held doorbells are checked. A queue that is not there, or not sealed, or a request
outside a session, is refused. -/
def queueRebind (m : Req) (s : State) : State :=
  let f := queueRebindForm
  s.mbServeA f m (fun s =>
    match fnStall m.fn, m.session with
    | some n, some id =>
      let k := qkey (f8 m.payload 0) (f8 m.payload 1) (f8 m.payload 2)
      match s.queue? n k with
      | none => s.refuseFree
      | some q =>
        if !q.isSealed then s.refuseFree
        else
          let s := (s.setCounter id.toNat k 0 0).setCounter id.toNat k 1 0
          let s := s.modQueue n k (fun q => { q with session := id, pages := [] })
          let s := s.writeHeader n k
          let s := forAll (List.range q.cplPages) (fun i u =>
            (u.sealPage id.toNat n k 2 q.cpl q.cplPages i (q.shadow.readN (4096 * i) 4096)).getD (u.ringDead n k)) s
          (ok, s.wakeQueue n k)
    | _, _ => s.refuseFree)

def execQueueCreate (m : MbReq) (s : State) : Host.Outcome State Fault Refusal := .next (queueCreate (plain m) s)
def execQueueDestroy (m : MbReq) (s : State) : Host.Outcome State Fault Refusal := .next (queueDestroy (plain m) s)
def execDoorbell (p : HostPort) (q : QueueId) (tail : U32) (s : State) : Host.Outcome State Fault Refusal := .next (doorbell p q tail s)
def execAcceptancePublish (q : QueueId) (s : State) : Host.Outcome State Fault Refusal := .next (acceptancePublish q s)
def execConsumedWrite (q : QueueId) (v : U32) (s : State) : Host.Outcome State Fault Refusal := .next (consumedWrite q v s.barWrite)
def execQdbAsnLoRead (p : HostPort) (q : QueueId) (s : State) : Host.Outcome State Fault Refusal := .next (qdbAsnLoRead p q s)
def execCommandEnd (q : QueueId) (pos : U32) (s : State) : Host.Outcome State Fault Refusal := .next (commandEnd q pos s)
def execCompletionVisible (q : QueueId) (s : State) : Host.Outcome State Fault Refusal := .next (completionVisible q s)

end Sys2Proof.Machine
end

