-- ==== Sys2Proof/Machine/Replan.lean ====
section
/-! DEFINITION. Changing the plan under load (R147–R169): preparation, phases, releases, quarantine, grants, holds, force
and abort, and the Groom's clearing of what was released (R416, R420). -/

namespace Sys2Proof.Machine

def State.modChg (s : State) (f : Change → Change) : State :=
  { s with yard := { s.yard with chg := s.yard.chg.map f } }
/-- The first grid tick strictly after now. -/
def State.nextGrid (s : State) : Nat := (s.grid + 1) * 2 ^ 20
def Change.phases (c : Change) : Nat := phaseCount c.old c.new
def Change.stallsNow (c : Change) : List Nat := phaseStalls c.old c.new c.phase
/-- Do this phase's releases all stand. -/
def Change.allReleased (c : Change) : Bool := c.stallsNow.all (fun n => c.released.contains n)
/-- Does a change act at present (R168). -/
def Change.acts (c : Change) : Bool := c.frozenAt.isNone
/-- The change's HOLD_ACTION and HOLD_GRIDS. -/
def Change.holdAction (c : Change) : Nat := (c.new.change.map (·.holdAction)).getD 0
def Change.holdGrids (c : Change) : Nat := (c.new.change.map (·.holdGrids)).getD 0

/-! The Groom (R154, R157, R416). -/

/-- Are the phase's quarantine and the areas of granted bays clean; if so its grant tick is placed (R150). DEDUCED, log 36. -/
def State.checkClean (s : State) : State :=
  match s.yard.chg with
  | none => s
  | some c =>
    let received := (List.range 128).flatMap (fun n => ((outsOf c.new c.old n).filter (fun r => r.1 = .bay)).map (·.2))
    if c.step = .grooming && c.acts && c.grooming.isEmpty && c.slots.all (fun k => (s.slot k).st = .clean)
        && !c.areas.any (fun b => received.contains b) then
      s.modChg (fun c => { c with step := .grantWait, nextTick := s.nextGrid })
    else s
/-- Begin the clearing of a journal area that is no longer used (R160, R357). -/
def State.clearArea (s : State) (n b mibs : Nat) : State :=
  if !s.bayAvail b then s
  else (s.addJob n (mibs * mib) (.area b)).modChg (fun c => { c with areas := c.areas ++ [b] })
/-- Grooming begins: abort ends, and the old mirrors' areas are released (R154, R160, R164). -/
def State.closeAbort (s : State) : State :=
  match s.yard.chg with
  | none => s
  | some c =>
    if !c.abortable then s
    else
      let s := s.modChg (fun c => { c with abortable := false, oldMirrors := [] })
      forAll c.oldMirrors (fun e u => u.clearArea e.1 e.2 (((c.old.stall? e.1).map (·.journalMib)).getD 0)) s
/-- The Groom starts on the phase's quarantine at its last release (R154). -/
def State.startGroom (s : State) : State :=
  match s.yard.chg with
  | none => s
  | some c =>
    let out := c.stallsNow.flatMap (fun n => outsOf c.old c.new n)
    let bays := ((out.filter (fun r => r.1 = .bay)).map (·.2)).filter s.bayAvail
    let slots := (out.filter (fun r => r.1 = .slot)).map (·.2)
    let s := if c.phase = 1 then s.closeAbort else s
    let s := { s with prot := { s.prot with grooming := s.prot.grooming ++ bays } }
    (s.modChg (fun c => { c with step := .grooming, grooming := bays, slots := slots, hold := [], nextTick := 0 })).checkClean
/-- GROOM_BAY_CLEARED (R416, R420): a quarantined bay is clear, or an old mirror's area in it. -/
def groomBayCleared (b : Fin 128) (s : State) : State :=
  if s.prot.grooming.contains b.val && s.running then
    let s := ({ s.groomBay b with prot := { s.prot with grooming := s.prot.grooming.filter (fun x => x ≠ b.val) } }).settleBay b
    let s := s.modChg (fun c => { c with grooming := c.grooming.filter (fun x => x ≠ b.val) })
    (((if s.yard.chg.isNone then s.setOwners else s).checkClean).groomProgress).zeroiseProgress
  else match List.find? (fun (j : YardJob) => j.kind = .area b.val && j.start.isSome) s.rg.jobs with
    | none => s
    | some j => ((s.endJob j.stall (.area b)).modChg (fun c => { c with areas := c.areas.erase b.val })).checkClean
/-- May a slot in CLEARING be cleared now: in a change only once its phase's Groom has begun. -/
def State.mayClear (s : State) (k : Nat) : Bool :=
  (s.slot k).st = .clearing && (match s.yard.chg with
    | none => true
    | some c => c.acts && (c.slots.contains k || !c.quar.any (fun e => e.1 = (.slot, k))))
/-- SLOT_CLEAN (R420): the reach in bays stalls keep has been cleared; with every other line settled the slot is CLEAN, and
a plan or grant tick that waited for it goes on. -/
def slotClean (k : Fin 1024) (s : State) : State :=
  if !s.mayClear k then s
  else
    let s := s.clearReach k
    if (s.slot k).st ≠ .clean then s
    else ((if s.yard.chg.isNone then s.setOwners else s).checkClean).groomProgress

/-! Releases (R147, R152, R153). -/

/-- Resources a stall gives up enter quarantine, each until the grant tick that takes it out (R153, R154). -/
def State.quarantine (s : State) (n : Nat) : State :=
  match s.yard.chg with
  | none => s
  | some c =>
    let out := outsOf c.old c.new n
    let own := ((s.stall? n).map (fun t => t.hold.bays)).getD []
    let until' (r : Res) : Nat :=
      let got := (List.range 128).filterMap (fun m => if (outsOf c.new c.old m).contains r then grantPhase c.old c.new m else none)
      match got with
      | [] => c.phase
      | a :: l => l.foldl min a
    let s := s.modChg (fun c => { c with quar := c.quar ++ out.map (fun r => (r, until' r)) })
    forAll ((out.filter (fun r => r.1 = .slot)).map (·.2)) (fun k u => u.releaseSlot own k) s
/-- A stall's transitions are done. -/
def State.settled (s : State) (n : Nat) : State := s.modChg (fun c => { c with pend := c.pend.filter (fun x => x ≠ n) })
/-- The manifest of a stall that adopts a plan (R104). -/
def Manifest.adopt (m : Manifest) (p : Plan) : Manifest := { m with epoch := p.epoch, planDigest := p.digest, pending := false }
/-- Preemption requests other than the pause, which run from the resume (R168). -/
def Ctx.resume (x : Ctx) (now : Nat) : Ctx :=
  let y := { x with pauseReq := false, rotReq := x.rotReq.map (fun _ => now), sliceReq := x.sliceReq.map (fun _ => now) }
  { y with stopped := y.stopped && y.requested }
def State.resumeStall (s : State) (n : Nat) : State :=
  s.modStall n (fun t => { t with paused := false, ctxs := t.ctxs.map (fun e => (e.1, e.2.resume s.now)) })
/-- Has a stall paused (R152): no task runs, Copy and Relay Engines execute nothing, Drover is between steps. -/
def Stall.hasPaused (t : Stall) : Bool :=
  t.ctxs.all (fun e => e.2.killing || t.halted? e.1) && !t.drover.stepping
/-- A hold's end in the change report (R194). -/
def State.endHoldRec (s : State) (action : Nat) : State :=
  match s.yard.chg with
  | none => s
  | some c =>
    let grids := s.grid - c.holdAt / 2 ^ 20
    let u := s.modChg (fun c => { c with hold := [], forcing := 0 })
    let recs := c.hold.map (fun n =>
      ({ stall := n, phase := c.phase, action := action, grids := grids, startGrid := c.holdAt / 2 ^ 20 } : HoldRec))
    { u with yard := { u.yard with report := { u.yard.report with holds := u.yard.report.holds ++ recs } } }
/-- A stall of the phase has released: a hold for it alone ends, and the last release starts the Groom. -/
def State.afterRelease (s : State) (n : Nat) : State :=
  let s := (s.modChg (fun c => { c with released := c.released ++ [n] })).setOwners
  match s.yard.chg with
  | none => s
  | some c =>
    let s := if !c.hold.isEmpty && c.hold.all (fun x => c.released.contains x) then
        (s.endHoldRec (if c.forcing = 0 then 5 else c.forcing)).modChg (fun c => { c with step := .pausing })
      else s
    if (s.yard.chg.map Change.allReleased).getD false then s.startGroom else s
/-- The release of a paused stall (R153): quarantine, regions, budgets, contexts of released key indices, one reissue,
and the resume on what it keeps. -/
def State.releaseStall (n : StallNo) (s : State) : State :=
  match s.yard.chg, s.stall? n with
  | some c, some t =>
    match c.old.holdingsOf n, c.new.holdingsOf n with
    | some o, some new =>
      let ledger := t.hold.slots.map (fun k => (k, s.slot k))
      let s := s.quarantine n
      let keep := (o.slots.filter (fun k => new.slots.contains k)).length
      let ending := (t.ctxs.filter (fun e => e.2.key.any (fun i => decide (keep ≤ i)))).map (·.1)
      let s := s.modStall n (fun t => { t with before := t.before.map (fun b =>
        { b with ctxs := t.ctxs.filter (fun e => ending.contains e.1), slots := ledger }) })
      let s := forAll ending (fun x (u : State) =>
        (u.killCtx n x 0x0B).modStall n (fun t =>
          { (forAll (t.queuesOf x) (fun k t => t.dropQueue k) t) with ctxs := (t.ctxs.erase x) })) s
      let last := (lastPhase c.old c.new n).isNone
      let s := if last then (s.rehold n new (fun m => m.adopt c.new)).settled n
        else s.rehold n (midHoldings s.pkg.variant o new) (fun m => { m with pending := true })
      ((s.resumeStall n).answerManifests n).afterRelease n
    | _, _ => s
  | _, _ => s
/-- The last ASN of each queue of a deleted stall, in ascending order (R147, R194). -/
def Stall.lastAsns (t : Stall) : List (Nat × Nat × Nat × U64) := t.queues.map (fun e => (qkCtx e.1, qkEngine e.1, qkQueue e.1, e.2.acceptedAsn))
/-- Requests of a stall that is deleted while they wait have no stall to act on (R593). -/
def State.answerWaitingOf (s : State) (t : Stall) : State :=
  let no (op : Nat) (l : List Req) (s : State) : State := forAll l (fun m u => u.mbAnswer m op (refuse 0xFF)) s
  let s := (no 0x0035 t.invals ((no 0x0020 t.manReqs s))).answerAll 0x0021 (t.kills.flatMap (fun (e : Nat × List Req) => e.2)) (refuse 0xFF)
  no 0x0022 t.reset (no 0x0037 (t.memClear.map (fun x => x.req)) (no 0x0074 t.attest.drops (no 0x0075 t.measuring s)))
/-- A deleted stall's sessions end, and nothing is left to use their keys (R451, R459). -/
def State.endSessions (s : State) (n : Nat) : State :=
  { s with
    sessions := s.sessions.filter (fun (e : Nat × Session) => e.2.stall ≠ some n)
    side := { s.side with conns := s.side.conns.filter (fun (e : Nat × SpdmConn) => e.1 < 8 || (e.1 - 8) % 128 ≠ n) } }
/-- A deleted stall at its phase tick (R147): refused doorbells, kills, release of everything, and from then on an
undefined VF. -/
def State.deleteStall (n : StallNo) (s : State) : State :=
  let s := s.wakeQueues (fun m _ => m = n)
  let s := (s.killAll n 0x0B).recallLoans n
  match s.yard.chg, s.stall? n with
  | some _, some t =>
    let s := (s.answerWaitingOf t).endSessions n
    let s := { s with yard := { s.yard with report := { s.yard.report with
      deleted := s.yard.report.deleted ++ [({ stall := n, queues := t.lastAsns } : DeletedRec)] } } }
    let s := ((s.dropDebug n).quarantine n).leaveBays t.hold.bays
    let s := s.resetGates t.hold.gates
    let s := forAll (t.journal.copies.filter (fun b => !t.hold.bays.contains b)) (fun b u => u.clearArea n b t.hold.journalMib) s
    let s := { s with stalls := s.stalls.put n none, host := { s.host with unreach := excl s.host.unreach n } }
    let s := s.setQuotas
    (((s.pfCause .plan).settled n).modChg (fun c => c)).afterRelease n
  | _, _ => s

/-! Phases and grants (R150, R152, R155, R156). -/

/-- The phase's pause requests and deletions (R147, R152). -/
def State.beginPhase (s : State) (k : Nat) : State :=
  let s := s.modChg (fun c => { c with phase := k, step := .pausing, tk := s.now, nextTick := 0, released := [], excluded := 0 })
  match s.yard.chg with
  | none => s
  | some c =>
    let del := c.stallsNow.filter (fun n => !c.new.defines n)
    let s := forAll (c.stallsNow.filter (fun n => c.new.defines n)) (fun n u =>
      u.modStall n (fun t => { t with paused := true, ctxs := t.ctxs.map (fun e => (e.1, { e.2 with pauseReq := true, stopped := false })) })) s
    forAll del (onStall · State.deleteStall) s
/-- A change ends: the outcome registers, and no stall keeps what it held before. -/
def State.endChange (s : State) (outcome : Nat) : State :=
  match s.yard.chg with
  | none => s
  | some c =>
    let kills := min c.kills 0xFFFF
    { s with
      stalls := s.stalls.map (fun e => (e.1, { e.2 with before := none }))
      yard := { s.yard with
        st := .idle, mixed := false, chg := none, plan := none, planBytes := []
        chgLast := BitVec.ofNat 32 (outcome + 65536 * kills), chgPhase := c.phase, chgPhases := c.phases
        report := { s.yard.report with outcome := outcome, kills := kills } } }
/-- The change is complete (R156). -/
def State.completeChange (s : State) : State :=
  match s.yard.chg with
  | none => s
  | some c =>
    let bytes := s.yard.planBytes
    let s := s.endChange (if c.forced then 3 else 1)
    let s := { s with rsv := { s.rsv with live := !s.stalls.isEmpty }, yard := { s.yard with base := c.new, committed := true, commitAt := s.nowW, fromFlash := false, isDefault := false } }
    (s.setOwners.clearShort.pfCause .plan).storePlan c.new bytes false
/-- A stall receives its grants, and adopts the new epoch (R155); one that does not exist yet is defined (R147). Ports
that have been retired stay with the yard (R168). -/
def State.grantStall (s : State) (n : Nat) : State :=
  match s.yard.chg with
  | none => s
  | some c =>
    match c.new.holdingsOf n with
    | none => s
    | some h =>
      let h := { h with links := h.links.filter (fun l => s.portAvail l.port || (c.old.links.contains l)) }
      if !c.old.defines n then (s.defineStall n h c.new).settled n
      else
        let s := forAll ((outsOf c.new c.old n).filter (fun r => r.1 = .slot)) (fun r u => u.grantSlot r.2) s
        onStall n (fun m u => ((u.rehold m h (fun x => x.adopt c.new)).settled m).answerManifests m) s
/-- The stalls whose last transition comes at this phase's grant tick. -/
def Change.grantees (c : Change) : List Nat := rangeOf (fun n => lastPhase c.old c.new n = some c.phase) 128
/-- Make the phase's grants (R155, R156); the next phase tick is the same tick, after a warm reset that waited (R168). -/
def State.doGrants (s : State) : State :=
  match s.yard.chg with
  | none => s
  | some c =>
    let s := forAll c.grantees (fun n u => u.grantStall n) s
    let s := (s.modChg (fun c => { c with quar := c.quar.filter (fun e => decide (c.phase < e.2)) })).setOwners
    let s := if c.phases ≤ c.phase then s.completeChange
      else s.modChg (fun c => { c with step := .none, nextTick := s.now })
    if s.power.warmDeferred then s.beginWarm s.power.deferredReqs else s
/-- The part enters a hold (R162, R168). -/
def State.enterHold (s : State) (l : List Nat) (atGrant : Bool) : State :=
  (s.modChg (fun c =>
    { c with step := .hold, nextTick := 0, hold := c.hold ++ l.filter (fun n => !c.hold.contains n)
             holdAt := if c.hold.isEmpty then s.now else c.holdAt, atGrant := atGrant })).pfCause .plan
/-- The phase's grant tick: it holds where a received bay or port was retired (R168), waits where a slot or a bay from the
yard is not yet clear (R421), and otherwise grants. -/
def State.grantTick (s : State) : State :=
  match s.yard.chg with
  | none => s
  | some c =>
    let ins (n : Nat) : List Res := outsOf c.new c.old n
    let bad := c.grantees.filter (fun n => (ins n).any (fun r => match r.1 with
      | .bay => !s.bayAvail r.2
      | .port => !s.portAvail r.2
      | _ => false))
    let unclean := c.grantees.any (fun n => (ins n).any (fun r => match r.1 with
      | .slot => (s.slot r.2).st ≠ .clean
      | .bay => s.prot.grooming.contains r.2
      | _ => false))
    if !bad.isEmpty then s.enterHold bad true
    else if unclean then s.modChg (fun c => { c with nextTick := s.nextGrid })
    else s.doGrants
/-- T_1 (R114, R160, R167): the floor rises, the yard is mixed, mirrors switch, and every stall adopts the new epoch, or
shows PENDING with what it holds until its last transition. -/
def State.firstTick (s : State) : State :=
  match s.yard.chg with
  | none => s
  | some c =>
    let y := s.yard
    let s := { s with yard :=
      { y with epochFloor := BitVec.ofNat 32 c.new.epoch, floorDigest := c.new.digest, active := c.new, base := c.old, mixed := true
               chgFirst := s.nowW } }
    let s := forAll s.stallIds (fun (n : StallNo) (u : State) => u.modStall n (fun t =>
      { t with before := some { hold := t.hold, man := t.man, ctxs := [], slots := [] }
               journal := match List.find? (fun (e : Nat × Nat) => e.1 = n.val) c.oldMirrors, c.new.stall? n with
                 | some e, some r => { t.journal with copies := t.journal.copies.map (fun b => if b = e.2 then r.mirrorBay else b)
                                                      rebuild := none, gen := t.journal.gen + 1 }
                 | _, _ => t.journal })) s
    let s := forAll s.stallIds (fun (n : StallNo) (u : State) =>
      match c.old.holdingsOf n, c.new.holdingsOf n with
      | some o, some h =>
        if (phaseOf c.old c.new n).isSome then (u.modStall n (fun t => { t with man := { t.man with pending := true } })).reissue n
        else if (lastPhase c.old c.new n).isSome then u.rehold n (midHoldings u.pkg.variant o h) (fun m => { m with pending := true })
        else (u.rehold n h (fun m => m.adopt c.new)).answerManifests n
      | some _, none => (u.modStall n (fun t => { t with man := { t.man with pending := true } })).reissue n
      | _, _ => u) s
    s.setOwners
/-- CHANGE_PHASE_TICK (R150, R152): at T_1 and at each later phase tick. A first phase that releases nothing has its
grant tick there. -/
def changePhaseTick (s : State) : State :=
  match s.yard.chg with
  | none => s
  | some c =>
    if c.step ≠ .none || !c.acts || !c.prepLeft.isEmpty || s.power.warm.isSome then s
    else
      let s := s.advance c.nextTick
      if c.phase ≠ 0 then s.beginPhase (c.phase + 1)
      else
        let s := s.firstTick
        if !(relList c.old c.new).isEmpty then s.beginPhase 1
        else
          let s := (s.modChg (fun c => { c with phase := 1, step := .grooming })).closeAbort
          let s := s.checkClean
          if s.yard.chg.any (fun c => decide (c.step = ChgStep.grantWait)) then s.grantTick else s
/-- STALL_PAUSED (R153). -/
def stallPaused (n : StallNo) (s : State) : State :=
  match s.yard.chg, s.stall? n with
  | some c, some t =>
    if (c.step = .pausing || (c.step = .hold && !c.atGrant)) && c.acts && c.stallsNow.contains n.val && !c.released.contains n.val
        && t.paused && t.hasPaused then s.releaseStall n else s
  | _, _ => s
/-- CHANGE_HOLD (R162): a releasing stall has not paused by T_k + PAUSE_LIMIT, ride-through excluded. -/
def changeHold (n : StallNo) (s : State) : State :=
  match s.yard.chg, s.stall? n with
  | some c, some t =>
    if (c.step = .pausing || c.step = .hold) && c.acts && c.stallsNow.contains n.val && !c.released.contains n.val && !c.hold.contains n.val then
      (s.advance (c.tk + c.excluded + t.hold.pauseLimit)).enterHold [n] false
    else s
  | _, _ => s
/-- CHANGE_GRANT_TICK (R155). -/
def changeGrantTick (s : State) : State :=
  match s.yard.chg with
  | none => s
  | some c => if c.step = .grantWait && c.acts then (s.advance c.nextTick).grantTick else s

/-! Force and abort (R163–R165). -/

/-- A force (R163): at a grant tick the grants are made as they can be (R168); otherwise each held stall's contexts that
have not stopped are killed, its engines stop, and it releases. -/
def State.forceHold (s : State) (action : Nat) : State :=
  match s.yard.chg with
  | none => s
  | some c =>
    let s := s.modChg (fun c => { c with forced := true, forcing := action })
    if c.atGrant then ((s.endHoldRec action).modChg (fun c => { c with atGrant := false })).doGrants
    else
      forAll c.hold (fun n u => onStall n (fun m u =>
        match u.stall? m with
        | none => u
        | some t =>
          let live := (t.ctxs.filter (fun e => !e.2.killing && !t.halted? e.1)).map (·.1)
          let u := forAll live (fun x v => v.killCtx m x 0x0A) u
          let u := u.dropStep m
          (u.modChg (fun c => { c with kills := c.kills + live.length })).releaseStall m) u) s
/-- An abort (R106, R164): before T_1 nothing has changed; from T_1 every stall returns to what it held, but for stalls
already deleted, whose bays and slots the Groom clears for the yard. DEDUCED, log 35. -/
def State.abortChange (s : State) (sub : Nat) : State :=
  match s.yard.chg with
  | none => s
  | some c =>
    let s := if c.hold.isEmpty then s else s.endHoldRec (if sub = 1 then 1 else 3)
    let s :=
      if c.phase = 0 && c.tk = 0 then
        forAll s.stallIds (fun (n : StallNo) (u : State) => if c.prepLeft.contains n.val then u.endJob n .mirror else u) s
      else
        let s := { s with yard := { s.yard with active := c.old, base := c.old } }
        let gone := c.released.filter (fun n => !c.new.defines n)
        let s := forAll s.stallIds (fun (n : StallNo) (u : State) =>
          match u.stall? n with
          | none => u
          | some t =>
            match t.before with
            | none => u
            | some b =>
              let u := forAll b.slots (fun e v => v.setSlot e.1 (fun _ => e.2)) u
              let u := u.modStall n (fun t =>
                { t with ctxs := forAll b.ctxs (fun e x => x.put e.1 (some { e.2 with killing := false, stopped := false })) t.ctxs
                         journal := match List.find? (fun (e : Nat × Nat) => e.1 = n.val) c.oldMirrors, c.new.stall? n with
                           | some e, some r => { t.journal with copies := t.journal.copies.map (fun x => if x = r.mirrorBay then e.2 else x) }
                           | _, _ => t.journal })
              let u := u.rehold n b.hold (fun m => { m with epoch := b.man.epoch, planDigest := b.man.planDigest, pending := false })
              (u.resumeStall n).answerManifests n) s
        let bays := gone.flatMap (fun n => (c.old.bayOrder n).filter s.bayAvail)
        { s with prot := { s.prot with grooming := s.prot.grooming ++ bays } }
    let s := s.endChange 2
    let y := s.yard
    let s := { s with yard := { y with rejected := true, reason := 0x33, sub := BitVec.ofNat 8 sub, rejOfs := BitVec.ofNat 32 noField
                                       rejEpoch := BitVec.ofNat 32 c.new.epoch, rejections := satAdd y.rejections 1 } }
    s.setOwners.pfCause .plan
def stepCode : ChgStep → Nat
  | .none => 0 | .prepare => 1 | .pausing => 2 | .hold => 3 | .grooming => 4 | .grantWait => 5
/-- A request refused with the current phase and STEP (R163). -/
def State.refuseChange (s : State) : Answer :=
  match s.yard.chg with
  | none => ⟨resRefused, 0, [0, 0]⟩
  | some c => ⟨resRefused, BitVec.ofNat 8 (stepCode c.step), leBytes 1 c.phase ++ leBytes 1 (stepCode c.step)⟩
/-- PLAN_CANCEL (R134, R163, R164). DEDUCED, log 37. -/
def planCancel (m : Req) (s : State) : State :=
  s.mbServeA (form 0x0011 true false 0 []) m (fun s =>
    match s.yard.st with
    | .idle => (refuse 0, s)
    | .changing => if (s.yard.chg.map (·.abortable)).getD false then (ok, s.abortChange 0) else (s.refuseChange, s)
    | _ => (ok, s.discardPlan 0x33))
/-- CHANGE_FORCE (R163). DEDUCED, log 37. -/
def changeForce (m : Req) (s : State) : State :=
  s.mbServeA (form 0x0012 true false 0 []) m (fun s =>
    match s.yard.chg with
    | some c => if c.step = .hold then (ok, s.forceHold 4) else (s.refuseChange, s)
    | none => (s.refuseChange, s))
/-- HOLD_ACTION_EXPIRY (R165): HOLD_GRIDS grid ticks from the first one after the hold began. DEDUCED, log 38. -/
def holdActionExpiry (s : State) : State :=
  match s.yard.chg with
  | none => s
  | some c =>
    if c.step ≠ .hold || !c.acts || c.holdGrids = 0 || c.forcing ≠ 0 then s
    else
      let s := s.advance (((c.holdAt + c.excluded) / 2 ^ 20 + 1 + c.holdGrids) * 2 ^ 20)
      if c.holdAction = 2 then s.forceHold 2
      else if c.holdAction = 1 && c.abortable then s.abortChange 1
      else s

/-! Acceptance, preparation and the report (R131, R150, R160, R194). -/

/-- T_1 is placed once the mirrors are prepared (R150). -/
def State.placeFirst (s : State) : State :=
  s.modChg (fun c =>
    { c with step := .none, nextTick := max s.nextGrid (((c.new.change.map (·.startGrid)).getD 0) * 2 ^ 20) })
/-- A change plan is accepted: CHANGING, ABORTABLE, and the mirrors that move begin to be built (R160, R164). -/
def State.takeChange (s : State) (p : Plan) (bs : List Byte) : State :=
  let o := s.yard.active
  let moves := p.stalls.filterMap (fun r => match o.stall? r.stall with
    | none => none
    | some x => if x.mirrorBay = r.mirrorBay then none
      else (s.stall? r.stall).map (fun t => (r.stall, ((t.journal.copies.filter (fun b => some b ≠ t.hold.bays.head?)).head?).getD x.mirrorBay)))
  let c : Change :=
    { old := o, new := p, phase := 0, step := .prepare, abortable := true, tk := 0, prepLeft := moves.map (·.1), oldMirrors := moves
      released := [], pend := rangeOf (hasTransition o p) 128, quar := [], grooming := [], slots := [], areas := [], hold := [], holdAt := 0
      atGrant := false, forcing := 0, forced := false, kills := 0, nextTick := 0, frozenAt := none, excluded := 0 }
  let s := { s with yard :=
    { s.yard with st := .changing, plan := some p, planBytes := bs, staged := [], chg := some c, chgEpoch := BitVec.ofNat 32 p.epoch
                  accepted := satAdd s.yard.accepted 1, report := { epoch := p.epoch, outcome := 0, kills := 0, holds := [], deleted := [] } } }
  let s := forAll moves (fun e u => match u.stall? e.1 with
    | none => u
    | some t => u.addJob e.1 t.journal.copyBytes .mirror) s
  if moves.isEmpty then s.placeFirst else s
/-- MIRROR_PREPARE_DONE (R160): the new copies are complete. -/
def mirrorPrepareDone (s : State) : State :=
  match s.yard.chg with
  | none => s
  | some c =>
    if c.step ≠ .prepare || !c.acts then s
    else ((forAll c.prepLeft (fun n u => u.endJob n .mirror) s).modChg (fun c => { c with prepLeft := [] })).placeFirst
/-- PLAN_VALIDATED (R129, R131): the checks end. -/
def planValidated (s : State) : State :=
  match s.yard.st with
  | .validating =>
    let bs := s.yard.staged
    match s.submitRej bs with
    | some r => s.rejectPlan r (rejEpoch bs r)
    | none =>
      let p := readPlan bs
      let req := s.yard.waitReq
      let s := { s with yard := { s.yard with waitReq := none } }
      let s := if p.change.isSome then s.takeChange p bs else s.takeFull p bs none
      match req with
      | none => s
      | some m => s.mbAnswer m 0x0010 ok
  | _ => s
/-- The change report (R194). -/
def Report.bytes (r : Report) : List Byte :=
  let body := r.holds.flatMap (fun h => leBytes 1 h.stall ++ leBytes 1 h.phase ++ leBytes 1 h.action ++ [0] ++ leBytes 4 h.grids)
    ++ r.deleted.flatMap (fun d => leBytes 1 d.stall ++ zeros 3 ++ leBytes 2 d.queues.length ++ zeros 2
      ++ d.queues.flatMap (fun q => leBytes 1 q.1 ++ leBytes 1 q.2.1 ++ leBytes 1 q.2.2.1 ++ zeros 5 ++ leBytes 8 q.2.2.2.toNat))
  leBytes 4 r.epoch ++ leBytes 1 r.outcome ++ leBytes 1 (min 255 r.holds.length) ++ leBytes 1 (min 255 r.deleted.length) ++ [0]
    ++ leBytes 2 r.kills ++ leBytes 4 (16 + body.length) ++ zeros 2 ++ body
/-- CHANGE_REPORT (R194): refused while there has been no change. -/
def changeReport (m : Req) (s : State) : State :=
  s.mbServeA (form 0x0013 true false 4 []) m (fun s =>
    if s.yard.chgEpoch = 0 then s.refuseFree else (okWith (slice s.yard.report.bytes (f32 m.payload 0) 4080), s))

def execPlanValidated (s : State) : Host.Outcome State Fault Refusal := .next (planValidated s)
def execPlanCancel (m : MbReq) (s : State) : Host.Outcome State Fault Refusal := .next (planCancel (plain m) s)
def execChangeForce (m : MbReq) (s : State) : Host.Outcome State Fault Refusal := .next (changeForce (plain m) s)
def execChangeReport (m : MbReq) (s : State) : Host.Outcome State Fault Refusal := .next (changeReport (plain m) s)
def execMirrorPrepareDone (s : State) : Host.Outcome State Fault Refusal := .next (mirrorPrepareDone s)
def execChangePhaseTick (s : State) : Host.Outcome State Fault Refusal := .next (changePhaseTick s)
def execStallPaused (n : StallNo) (s : State) : Host.Outcome State Fault Refusal := .next (stallPaused n s)
def execChangeHold (n : StallNo) (s : State) : Host.Outcome State Fault Refusal := .next (changeHold n s)
def execHoldActionExpiry (s : State) : Host.Outcome State Fault Refusal := .next (holdActionExpiry s)
def execChangeGrantTick (s : State) : Host.Outcome State Fault Refusal := .next (changeGrantTick s)
def execGroomBayCleared (bay : Fin 128) (s : State) : Host.Outcome State Fault Refusal := .next (groomBayCleared bay s)
def execSlotClean (slot : Fin 1024) (s : State) : Host.Outcome State Fault Refusal := .next (slotClean slot s)

end Sys2Proof.Machine
end

