-- ==== Sys2Proof/Machine/Attestation.lean ====
section
/-! DEFINITION. Attestation reports and logs (R443–R448), MEASURE_IMAGE (R445) and the sealing requests (R461–R465). -/

namespace Sys2Proof.Machine

/-! The report (R446, R447). -/

/-- MAGIC to LENGTH. -/
def reportHead : List Byte := [0x41, 0x54, 0x52, 0x50, 1, 0] ++ leBytes 2 0x0230
/-- FLAGS of a stall's report. -/
def State.reportFlags (s : State) (t : Stall) : Nat :=
  t.hold.debugConsent.toNat + 2 * (decide (4096 < t.attest.count)).toNat + 4 * t.attest.tenant.isSome.toNat + 8 * t.man.pending.toNat
    + 16 * s.prot.approved.toNat
/-- The fields every report has after its plan digest's. -/
def reportBytes (stall iso flags epoch issued manSeq debug : Nat) (nonce : List Byte) (plan manifest tenant log : BitVec 384) (count images : Nat)
    (user : List Byte) : List Byte :=
  reportHead ++ leBytes 1 stall ++ leBytes 1 iso ++ leBytes 2 flags ++ leBytes 4 epoch ++ leBytes 8 issued ++ leBytes 4 manSeq ++ leBytes 4 debug
    ++ fitBytes 32 nonce ++ digestBytes Config.idDigest ++ digestBytes Config.rtpFirmware ++ digestBytes Config.droverFirmware
    ++ digestBytes plan ++ digestBytes manifest ++ digestBytes tenant ++ digestBytes log ++ leBytes 4 (min count (2 ^ 32 - 1)) ++ leBytes 4 images
    ++ fitBytes 48 user ++ zeros 8
/-- The content of stall `n`'s report. -/
def State.stallReport (s : State) (n : Nat) (t : Stall) (nonce user : List Byte) : List Byte :=
  reportBytes n t.hold.iso (s.reportFlags t) t.man.epoch s.now t.man.seq.toNat t.debugCount nonce t.man.planDigest
    (Config.sha384 (s.windowManifest n t)) (t.attest.tenant.getD 0) t.attest.digest t.attest.count t.attest.images.length user
/-- The content of a package report: what belongs to one stall is zero. -/
def State.packageReport (s : State) (nonce user : List Byte) : List Byte :=
  reportBytes 0xFF 0 (16 * s.prot.approved.toNat) s.yard.active.epoch s.now 0 0 nonce s.yard.active.digest 0 0 0 0 0 user
/-- ATTEST_REPORT (R448). -/
def attestReportForm (package : Bool) : MbForm :=
  { form 0x0070 true true 88 [(1, 7)] with clear3 := true, stallAt := if package then none else some 0 }
/-- ATTEST_REPORT (R448). DEDUCED, log 73. -/
def attestReport (m : Req) (s : State) : State :=
  let package := fnIsPf m.fn && f8 m.payload 0 = 0xFF
  let f := attestReportForm package
  s.mbServeA f m (fun s =>
    let nonce := slice m.payload 8 32
    let user := slice m.payload 40 48
    if package then (okWith (withSignature (s.packageReport nonce user) s.free), s.signed)
    else match s.stall? (stallArg f m) with
      | none => (refuse 0xFF, s)
      | some t => (okWith (withSignature (s.stallReport (stallArg f m) t nonce user) s.free), s.signed))
/-- ATTEST_LOG (R444). -/
def attestLogForm : MbForm :=
  { form 0x0071 true true 8 [(1, 3)] with clear3 := true, stallAt := some 0 }
/-- ATTEST_LOG (R448): up to 63 entries, then how many. DEDUCED, log 73. -/
def attestLog (m : Req) (s : State) : State :=
  let f := attestLogForm
  s.mbServeA f m (fun s =>
    match s.stall? (stallArg f m) with
    | none => (refuse 0xFF, s)
    | some t =>
      let l := (t.attest.log.drop (f32 m.payload 4)).take 63
      (okWith (l.flatMap LogEntry.bytes ++ leBytes 4 l.length), s))

/-! MEASURE_IMAGE (R445). -/

/-- MEASURE_IMAGE (R445). -/
def measureImageForm (ctxMax : Nat) : MbForm :=
  { form 0x0075 false true 24 [(1, 7)] with
    bad := fun p => lowest (badIf (ctxMax ≤ f8 p 0) 0 ++ badIf (f64 p 8 % 4096 ≠ 0) 8
      ++ badIf (f64 p 16 = 0 || f64 p 16 % 4096 ≠ 0 || 2 ^ 40 < f64 p 16) 16) }
/-- MEASURE_IMAGE: answered by MEASURE_IMAGE_DONE. -/
def measureImage (m : Req) (s : State) : State :=
  let ctxMax := (fnStall m.fn).elim 0 (fun n => ((s.stall? n).map (fun t => t.hold.ctxMax)).getD 0)
  let f := measureImageForm ctxMax
  s.mbServe f m (fun s => (s.modStall (stallArg f m) (fun t => { t with measuring := t.measuring ++ [m] })).wakePackage 7 false)
/-- The Copy Engine's reading for a context outside any queue. -/
def measureWho (n c : Nat) : Who := { stall := n, ctx := c, engine := 1, queue := 0, asn := 0 }
/-- MEASURE_IMAGE_DONE: the oldest MEASURE_IMAGE of the stall is answered. A fault of the reading, or a context that does not exist, refuses it. DEDUCED, log 73. -/
def measureImageDone (n : StallNo) (s : State) : State :=
  match s.stall? n with
  | none => s
  | some t =>
    match t.measuring with
    | [] => s
    | m :: l =>
      if !s.enginesUp then s
      else
        let s := s.setStall n { t with measuring := l }
        let c := f8 m.payload 0
        let g := s.readRun (measureWho n c) (f64 m.payload 8) (f64 m.payload 16) rRead
        if (t.ctx? c).isNone then s.mbAnswer m 0x0075 (refuse 1)
        else if !g.1.met.isEmpty || g.1.poison.any id then g.2.mbAnswer m 0x0075 (refuse 1)
        else
          let d := Config.sha384 g.1.bytes
          (g.2.logAppend n 3 c 0 d).mbAnswer m 0x0075 (okWith (digestBytes d))

/-! Sealing (R461–R465). -/

def asciiXHEK : List Byte := [0x58, 0x48, 0x45, 0x4B]
def asciiXHWK : List Byte := [0x58, 0x48, 0x57, 0x4B]
/-- A sealing request's form: a stall without the CONFIDENTIAL entry, or a session without mutual authentication, lacks the right (R429, R462). -/
def sealForm (op len : Nat) : MbForm :=
  { form op false true len [(1, 7)] with bad := fun p => lowest (badIf (f8 p 0 = 0 || 16 < f8 p 0) 0) }
def State.mayOpenSeal (s : State) (m : Req) : Bool :=
  s.isoOf m.fn = 3 && (match m.session with
    | none => false
    | some id => (s.session? id.toNat).any (fun x => x.peer.isSome))
/-- Serve a sealing request. -/
def State.serveSeal (s : State) (op len : Nat) (m : Req) (body : Nat → Stall → State → State) : State :=
  let f := sealForm op len
  if !s.mayOpenSeal m then s.mbServeA { f with clear3 := true, len := m.payload.length, reserved := [], bad := fun _ => none, always := true, inError := true } m (fun s => (notPermitted, s))
  else s.mbServe f m (fun s =>
    let n := stallArg f m
    match s.stall? n with
    | none => s.mbAnswer m op (refuse 0xFF)
    | some t => body n t s)
/-- SEAL_KEYGEN (R463). DEDUCED, log 74. -/
def sealKeygen (m : Req) (s : State) : State :=
  s.serveSeal 0x0072 40 m (fun n t s =>
    let h := f8 m.payload 0
    if (t.attest.images.find? h).isSome then s.mbAnswer m 0x0072 (refuse 1)
    else
      let r := s.drawBytes 48
      let pub := (Config.p384Public r.1).toList
      let u := r.2.setStall n { t with attest := { t.attest with pairs := t.attest.pairs.put h (some { priv := r.1, pub := pub }) } }
      let user := digestBytes (Config.sha384 (asciiXHEK ++ leBytes 1 h ++ pub))
      match u.stall? n with
      | none => u
      | some t => u.signed.mbAnswer m 0x0072 (okWith (pub ++ withSignature (u.stallReport n t (slice m.payload 8 32) user) u.free)))
/-- Does a sealed image's header stand as R461 lays it out. -/
def imageHeaderOk (h : List Byte) : Bool :=
  h.take 4 = [0x53, 0x57, 0x49, 0x4D] && f16 h 4 = 1 && f16 h 6 = 0 && decide (1 ≤ f32 h 0x18) && f32 h 0x1C = 0
    && (slice h 0x80 128).all (fun b => b = 0)
/-- The image key a broker wrapped (R464). -/
def unwrapKey (k : SealPair) (header broker wrapped : List Byte) (d : BitVec 384) : Option (List Byte) :=
  if !Config.onCurve broker then none
  else
    let kek := (Config.kdf (Config.ecdh k.priv broker).toList asciiXHWK (k.pub ++ broker)).toList
    (Config.gcmOpen kek (zeros 12) (slice header 8 16 ++ digestBytes d) wrapped).map (fun x => fitBytes 32 x)
/-- SEAL_INSTALL (R464): the pending pair goes whatever the answer. DEDUCED, log 74. -/
def sealInstall (m : Req) (s : State) : State :=
  s.serveSeal 0x0073 408 m (fun n t s =>
    let h := f8 m.payload 0
    let header := slice m.payload 8 256
    let s := s.setStall n { t with attest := { t.attest with pairs := t.attest.pairs.erase h } }
    let no (d : Nat) : State := s.mbAnswer m 0x0073 (refuse d)
    if (t.attest.images.find? h).isSome then no 1
    else match t.attest.pairs.find? h with
      | none => no 2
      | some k =>
        if !imageHeaderOk header then no 3
        else
          let d := Config.sha384 header
          match unwrapKey k header (slice m.payload 264 96) (slice m.payload 360 48) d with
          | none => no 4
          | some key =>
            let image : SealedImage := { key := key, imageId := slice header 8 16, pages := f32 header 0x18, digest := d }
            let s := s.modStall n (fun t => { t with attest := { t.attest with images := t.attest.images.put h (some image) } })
            (s.logAppend n 4 0xFF h d).mbAnswer m 0x0073 ok)
/-- SEAL_DROP (R465): it waits while a SEALED_LOAD of the handle executes. DEDUCED, log 74. -/
def sealDrop (m : Req) (s : State) : State :=
  s.serveSeal 0x0074 8 m (fun n t s =>
    let h := f8 m.payload 0
    if (t.attest.images.find? h).isNone then s.mbAnswer m 0x0074 (refuse 1)
    else if t.loading h then s.setStall n { t with attest := { t.attest with drops := t.attest.drops ++ [m] } }
    else s.dropImage n m)

def execAttestReport (m : MbReq) (s : State) : Host.Outcome State Fault Refusal := .next (attestReport (plain m) s)
def execAttestLog (m : MbReq) (s : State) : Host.Outcome State Fault Refusal := .next (attestLog (plain m) s)
def execMeasureImage (m : MbReq) (s : State) : Host.Outcome State Fault Refusal := .next (measureImage (plain m) s)
def execMeasureImageDone (n : StallNo) (s : State) : Host.Outcome State Fault Refusal := .next (measureImageDone n s)

end Sys2Proof.Machine
end

