-- ==== Sys2Proof/Machine/Formats.lean ====
section
/-! DEFINITION. Number formats (R239–R257): element encodings, packing, rounding and conversion, block scaling, and the
accumulation of Tensor Units, over exact dyadic numbers. -/

namespace Sys2Proof.Machine

/-- A value of a float format: a finite one is (−1)^neg · m · 2^e, so that zero keeps its sign. -/
inductive Num where
  | nan
  | inf (neg : Bool)
  | fin (neg : Bool) (m : Nat) (e : Int)
  deriving DecidableEq, Repr

/-- An exact dyadic number m · 2^e. -/
structure Dy where
  m : Int
  e : Int
  deriving DecidableEq, Repr
/-- Both numbers' mantissas over the lower of the two exponents. -/
def Dy.align (a b : Dy) : Int × Int × Int :=
  let e := min a.e b.e
  (a.m * 2 ^ (a.e - e).toNat, b.m * 2 ^ (b.e - e).toNat, e)
def Dy.add (a b : Dy) : Dy := let r := a.align b; { m := r.1 + r.2.1, e := r.2.2 }
def Dy.mul (a b : Dy) : Dy := { m := a.m * b.m, e := a.e + b.e }
def Dy.lt (a b : Dy) : Bool := let r := a.align b; decide (r.1 < r.2.1)
def Dy.neg (a : Dy) : Dy := { a with m := -a.m }
def Dy.zero : Dy := { m := 0, e := 0 }
def Dy.ofInt (i : Int) : Dy := { m := i, e := 0 }
def Num.dy : Num → Dy
  | .fin n m e => { m := if n then -(m : Int) else m, e := e }
  | _ => Dy.zero
/-- A dyadic number as a value; an exact zero is +0. -/
def Dy.num (a : Dy) : Num := .fin (decide (a.m < 0)) a.m.natAbs a.e

/-! Formats (R239, R241, R242). -/

/-- How a float format spells what is not finite. -/
inductive Special where
  | infNan | nanOnly | none
  deriving DecidableEq, Repr
structure FloatFmt where
  eb : Nat
  mb : Nat
  bias : Nat
  special : Special
  maxFin : Nat                  -- encoding of the greatest finite value
  canonNan : Nat
  deriving DecidableEq, Repr
/-- The float format of a code. -/
def floatFmt : Nat → Option FloatFmt
  | 0x05 => some { eb := 2, mb := 1, bias := 1, special := .none, maxFin := 0x7, canonNan := 0 }
  | 0x06 => some { eb := 2, mb := 3, bias := 1, special := .none, maxFin := 0x1F, canonNan := 0 }
  | 0x07 => some { eb := 3, mb := 2, bias := 3, special := .none, maxFin := 0x1F, canonNan := 0 }
  | 0x08 => some { eb := 4, mb := 3, bias := 7, special := .nanOnly, maxFin := 0x7E, canonNan := 0x7F }
  | 0x09 => some { eb := 5, mb := 2, bias := 15, special := .infNan, maxFin := 0x7B, canonNan := 0x7E }
  | 0x0A => some { eb := 5, mb := 10, bias := 15, special := .infNan, maxFin := 0x7BFF, canonNan := 0x7E00 }
  | 0x0B => some { eb := 8, mb := 7, bias := 127, special := .infNan, maxFin := 0x7F7F, canonNan := 0x7FC0 }
  | 0x0C => some { eb := 8, mb := 23, bias := 127, special := .infNan, maxFin := 0x7F7FFFFF, canonNan := 0x7FC00000 }
  | _ => none
/-- Bits of an integer format's elements (R243). -/
def intBits : Nat → Option Nat
  | 0x01 => some 2 | 0x02 => some 4 | 0x03 => some 8 | 0x04 => some 16 | 0x0D => some 32 | _ => none
def FloatFmt.sign (f : FloatFmt) : Nat := 2 ^ (f.eb + f.mb)

/-- The value a float encoding spells (R241, R242). -/
def FloatFmt.decode (f : FloatFmt) (x : Nat) : Num :=
  let neg := x / f.sign % 2 = 1
  let e := x / 2 ^ f.mb % 2 ^ f.eb
  let m := x % 2 ^ f.mb
  let top := 2 ^ f.eb - 1
  match f.special with
  | .infNan =>
    if e = top then (if m = 0 then .inf neg else .nan)
    else if e = 0 then .fin neg m (1 - (f.bias : Int) - f.mb) else .fin neg (2 ^ f.mb + m) ((e : Int) - f.bias - f.mb)
  | .nanOnly =>
    if e = top && m = 2 ^ f.mb - 1 then .nan
    else if e = 0 then .fin neg m (1 - (f.bias : Int) - f.mb) else .fin neg (2 ^ f.mb + m) ((e : Int) - f.bias - f.mb)
  | .none =>
    if e = 0 then .fin neg m (1 - (f.bias : Int) - f.mb) else .fin neg (2 ^ f.mb + m) ((e : Int) - f.bias - f.mb)

/-- How a rounding resolves: to nearest even, or stochastically with 16 random bits (R254, R255). -/
inductive Rounding where
  | nearest
  | stochastic (r16 : Nat)
  deriving DecidableEq, Repr
/-- m · 2^(−k) rounded to an integer. -/
def roundShift (r : Rounding) (m k : Nat) : Nat :=
  let q := m / 2 ^ k
  let rest := m % 2 ^ k
  match r with
  | .nearest => if 2 ^ k < 2 * rest || (2 * rest = 2 ^ k && q % 2 = 1) then q + 1 else q
  | .stochastic r16 => if rest ≠ 0 && r16 < rest * 2 ^ 16 / 2 ^ k then q + 1 else q
/-- The magnitude m · 2^e rounded to the format as if its range had no end: the encoding without its sign. -/
def FloatFmt.roundMag (f : FloatFmt) (r : Rounding) (m : Nat) (e : Int) : Nat :=
  if m = 0 then 0
  else
    let least : Int := 1 - (f.bias : Int) - f.mb
    let q := max (e + Nat.log2 m - f.mb) least
    let x := if q ≤ e then m * 2 ^ (e - q).toNat else roundShift r m (q - e).toNat
    if q = least then x else (q + f.mb + f.bias).toNat * 2 ^ f.mb + (x - 2 ^ f.mb)

/-- A conversion's result with the sticky flags it sets (R253, R257). -/
structure Conv where
  bits : Nat
  invalid : Bool
  sat : Bool
  deriving DecidableEq, Repr
/-- Convert a value to a float format (R257). -/
def FloatFmt.encode (f : FloatFmt) (sat : Bool) (r : Rounding) (x : Num) : Conv :=
  let s (neg : Bool) : Nat := if neg then f.sign else 0
  match x with
  | .nan =>
    if f.special = .none then { bits := 0, invalid := true, sat := false } else { bits := f.canonNan, invalid := false, sat := false }
  | .inf neg =>
    match f.special with
    | .infNan =>
      if sat then { bits := f.maxFin + s neg, invalid := true, sat := false }
      else { bits := (2 ^ f.eb - 1) * 2 ^ f.mb + s neg, invalid := false, sat := false }
    | .nanOnly => { bits := if sat then f.maxFin + s neg else f.canonNan, invalid := true, sat := false }
    | .none => { bits := f.maxFin + s neg, invalid := true, sat := false }
  | .fin neg m e =>
    let c := f.roundMag r m e
    if c ≤ f.maxFin then { bits := c + s neg, invalid := false, sat := false }
    else match f.special with
      | .infNan =>
        if sat then { bits := f.maxFin + s neg, invalid := false, sat := true }
        else { bits := (2 ^ f.eb - 1) * 2 ^ f.mb + s neg, invalid := false, sat := false }
      | .nanOnly =>
        if sat then { bits := f.maxFin + s neg, invalid := false, sat := true } else { bits := f.canonNan, invalid := false, sat := false }
      | .none => { bits := f.maxFin + s neg, invalid := false, sat := true }
/-- A dyadic number rounded to an integer, ties to even. -/
def Dy.toInt (a : Dy) : Int :=
  let k := if 0 ≤ a.e then a.m.natAbs * 2 ^ a.e.toNat else roundShift .nearest a.m.natAbs (-a.e).toNat
  if a.m < 0 then -(k : Int) else k
/-- Clamp to the range of a `w`-bit integer; whether it clamped. -/
def clampInt (w : Nat) (i : Int) : Int × Bool :=
  let lo : Int := -(2 ^ (w - 1))
  let hi : Int := 2 ^ (w - 1) - 1
  if i < lo then (lo, true) else if hi < i then (hi, true) else (i, false)
/-- The two's complement bits of an integer. -/
def intCode (w : Nat) (i : Int) : Nat := (BitVec.ofInt w i).toNat
/-- Convert a value to an integer format (R257). -/
def encodeInt (w : Nat) (x : Num) : Conv :=
  match x with
  | .nan => { bits := 0, invalid := true, sat := false }
  | .inf neg => { bits := intCode w (if neg then -(2 ^ (w - 1)) else 2 ^ (w - 1) - 1), invalid := true, sat := false }
  | .fin _ _ _ => let c := clampInt w x.dy.toInt; { bits := intCode w c.1, invalid := false, sat := c.2 }
/-- The value an encoding of a format code spells. -/
def decodeNum (code x : Nat) : Num :=
  match floatFmt code, intBits code with
  | some f, _ => f.decode x
  | none, some w => (Dy.ofInt (BitVec.ofNat w x).toInt).num
  | none, none => .nan
/-- Convert between two codes of 0x01 to 0x0D (R257). -/
def convert (dst : Nat) (sat : Bool) (r : Rounding) (x : Num) : Conv :=
  match floatFmt dst, intBits dst with
  | some f, _ => f.encode sat r x
  | none, some w => encodeInt w x
  | none, none => { bits := 0, invalid := false, sat := false }

/-! Packing (R240): element `i` of a packed tensor of `w`-bit elements lies at bit w·i of its bytes. -/

def unpack (w : Nat) (bytes : List Byte) (i : Nat) : Nat :=
  let o := w * i
  leNat (slice bytes (o / 8) 6) / 2 ^ (o % 8) % 2 ^ w
/-- The bytes of packed elements, zero bits behind the last. -/
def pack (w : Nat) (xs : List Nat) : List Byte :=
  leBytes ((w * xs.length + 7) / 8) (xs.zipIdx.foldl (fun a e => a + e.1 * 2 ^ (w * e.2)) 0)

/-! FP32 operations, each rounded once to nearest even. -/

def fp32 : FloatFmt := { eb := 8, mb := 23, bias := 127, special := .infNan, maxFin := 0x7F7FFFFF, canonNan := 0x7FC00000 }
def toF32 (x : Num) : Num := fp32.decode (fp32.encode false .nearest x).bits
/-- The sum of two values before rounding: infinities of opposite sign, and any NaN, give NaN; −0 + −0 is −0. -/
def Num.plus : Num → Num → Num
  | .nan, _ => .nan
  | _, .nan => .nan
  | .inf a, .inf b => if a = b then .inf a else .nan
  | .inf a, _ => .inf a
  | _, .inf b => .inf b
  | .fin a m e, .fin b m' e' =>
    if m = 0 && m' = 0 then .fin (a && b) 0 0 else ((Num.fin a m e).dy.add (Num.fin b m' e').dy).num
/-- The exact product: infinity times zero is NaN. -/
def Num.times : Num → Num → Num
  | .nan, _ => .nan
  | _, .nan => .nan
  | .inf a, .inf b => .inf (a != b)
  | .inf a, .fin b m _ => if m = 0 then .nan else .inf (a != b)
  | .fin a m _, .inf b => if m = 0 then .nan else .inf (a != b)
  | .fin a m e, .fin b m' e' => .fin (a != b) (m * m') (e + e')
/-- DESIGN CHOICE, log 89. -/
def f32Add (a b : Num) : Num := toF32 (a.plus b)
def f32Mul (a b : Num) : Num := toF32 (a.times b)
def Num.minus : Num → Num
  | .nan => .nan
  | .inf a => .inf (!a)
  | .fin a m e => .fin (!a) m e
def f32Sub (a b : Num) : Num := f32Add a b.minus
/-- A quotient of naturals as a dyadic number with a sticky last bit, close enough to round any FP32 result. -/
def quotDy (n d : Nat) : Nat × Int := let q := n * 2 ^ 320 / d; (2 * q + (if n * 2 ^ 320 % d = 0 then 0 else 1), -321)
/-- Division of a value by a positive finite one. -/
def f32Div (a b : Num) : Num :=
  match a, b with
  | .fin n m e, .fin _ m' e' => if m' = 0 then .nan else let q := quotDy m m'; toF32 (.fin n q.1 (q.2 + e - e'))
  | .inf n, .fin _ _ _ => .inf n
  | _, _ => .nan
/-- exp of −x for a natural fixed-point x/2^256, as a fixed-point number over 2^256: the series on x / 2^16, squared back. -/
def expNeg (x : Nat) : Nat :=
  let one := 2 ^ 256
  let y := x / 2 ^ 16
  -- exp(y) by its series, then its reciprocal, squared 16 times
  let ser := (List.range 40).foldl (fun (a : Nat × Nat) i => (a.1 + a.2, a.2 * y / one / (i + 1))) (0, one)
  (List.range 16).foldl (fun r _ => r * r / one) (one * one / ser.1)
/-- exp of a value that is not positive, correctly rounded to FP32. -/
def f32Exp : Num → Num
  | .nan => .nan
  | .inf true => .fin false 0 0
  | .inf false => .inf false
  | .fin neg m e =>
    if m = 0 then .fin false 1 0
    else if !neg then .nan
    else
      let x := if 0 ≤ e then m * 2 ^ e.toNat * 2 ^ 256 else m * 2 ^ 256 / 2 ^ (-e).toNat
      if 128 * 2 ^ 256 ≤ x then .fin false 0 0 else toF32 (.fin false (2 * expNeg x + 1) (-257))

/-! Stochastic rounding's generator (R255). -/

/-- The 64-bit value for a seed, context, stream and index. -/
def srnd (seed : U64) (ctx stream index : Nat) : U64 :=
  let key := seed ^^^ BitVec.ofNat 64 (ctx * 2 ^ 60)
  let x := key + 0x9E3779B97F4A7C15 * BitVec.ofNat 64 (1 + stream * 2 ^ 40 + index)
  let x := (x ^^^ (x >>> 30)) * 0xBF58476D1CE4E5B9
  let x := (x ^^^ (x >>> 27)) * 0x94D049BB133111EB
  x ^^^ (x >>> 31)

/-! Block scaling (R244–R247). -/

/-- The exact scale of an integer element of a block format: v(x) = x · 2^this. -/
def blockShift : Nat → Int
  | 0x03 => -6 | 0x02 => -2 | _ => 0
/-- The largest element exponent of a block format. -/
def blockEmax : Nat → Int
  | 0x08 => 8 | 0x09 => 15 | 0x07 => 4 | 0x06 => 2 | 0x05 => 2 | _ => 0
/-- The value of an element of a block with scale byte `s` (R245). -/
def blockValue (code s x : Nat) : Num :=
  if s = 0xFF then .nan
  else match decodeNum code x with
    | .fin n m e => .fin n m (e + blockShift code + s - 127)
    | y => y
/-- Quantise a block of FP32 values (R247): the scale byte and the elements. -/
def quantise (code : Nat) (r : Rounding) (ys : List Num) : Nat × List Nat :=
  if ys.any (fun y => match y with | .fin _ _ _ => false | _ => true) then (0xFF, ys.map (fun _ => 0))
  else
    let lg (y : Num) : Option Int := match y with
      | .fin _ m e => if m = 0 then none else some (e + Nat.log2 m)
      | _ => none
    let top := (ys.filterMap lg)
    let e : Int := match top with
      | [] => -127
      | a :: l => max (-127) (min 127 (l.foldl max a - blockEmax code))
    ((e + 127).toNat, ys.map (fun y => match y with
      | .fin n m x => (convert code true r (.fin n m (x - e - blockShift code))).bits
      | _ => 0))

/-! Accumulation of Tensor Units (R248–R251). -/

/-- Indices of a group: 32 for operands of 8 bits or fewer, 16 for 16-bit operands, 1 for FP32 (R249). -/
def groupSize (bits : Nat) : Nat := if bits ≤ 8 then 32 else if bits = 16 then 16 else 1
/-- The exact sum of a group's products, rounded once to FP32. -/
def groupSum (ps : List (Num × Num)) : Num := toF32 (ps.foldl (fun a p => a.plus (p.1.times p.2)) (.fin false 0 0))
/-- A float accumulator after a group (R249); FP32 × FP32 is a fused multiply-add. -/
def accFloat (fused : Bool) (acc : Num) (ps : List (Num × Num)) : Num :=
  if fused then toF32 (ps.foldl (fun a p => a.plus (p.1.times p.2)) acc) else f32Add acc (groupSum ps)
/-- An integer accumulator after a group, and whether it saturated (R250). -/
def accInt (acc : Int) (ps : List (Int × Int)) : Int × Bool := clampInt 32 (acc + (ps.map (fun p => p.1 * p.2)).sum)
/-- A float accumulator after a block (R251): `a` and `b` the block's element encodings, `sa` and `sb` its scales. -/
def accBlock (acc : Num) (ca cb sa sb : Nat) (ps : List (Nat × Nat)) : Num :=
  if sa = 0xFF || sb = 0xFF then .nan
  else f32Add acc (groupSum (ps.map (fun p => (blockValue ca sa p.1, blockValue cb sb p.2))))

end Sys2Proof.Machine
end

