-- ==== Sys2Proof/Machine/HostOps.lean ====
section
/-! DEFINITION. Shared operations on host ports (R197–R202): the loss of a port, its return, and which stalls a host can
reach. -/

namespace Sys2Proof.Machine

def State.port (s : State) (p : Nat) : HostPortSt := s.host.ports.get HostPortSt.init p
def State.setPort (s : State) (p : Nat) (f : HostPortSt → HostPortSt) : State :=
  { s with host := { s.host with ports := s.host.ports.upd HostPortSt.init p f } }
/-- Can a host access this function now. -/
def State.fnSeen (s : State) : Fn → Bool
  | .pf0 p => s.portServing p && (s.port p).linkUp
  | .vf p n => s.vfSeen n p && (s.port p).linkUp
  | .rtp => true

def evtPortLost : BitVec 4 := bit 4 0
def evtPortBack : BitVec 4 := bit 4 1
def evtIdeFault : BitVec 4 := bit 4 2
def evtUnreach : BitVec 4 := bit 4 3

/-- Stalls none of whose HOST_PORTS is in service (R197). -/
def State.unreachable (s : State) : BitVec 128 :=
  bitsOf 128 (s.stallNos.filter (fun n => allPorts.all (fun p => !s.vfOn n p)))
/-- HOST is set in the surviving VF instances of every stall that names port `p` (R187, R197). -/
def State.tellStalls (s : State) (p : HostPort) : State :=
  forAll s.stallIds (fun n u => if (u.stall? n).any (fun t => has t.hold.hostPorts p) then u.vfCause n .host else u) s
/-- Every instance of a port returns to its configuration and (port) reset values (R200). -/
def State.resetPort (s : State) (p : HostPort) : State :=
  { s with host := { s.host with
      pf := s.host.pf.set PfInst.init p PfInst.init
      vf := s.host.vf.filter (fun e => e.1 / 128 ≠ p.val) } }
/-- A port is lost: its link is down and its streams end; the surviving instances are told, and the stalls that lose
their last path are marked (R197, R200, R202). Nothing inside a stall changes. -/
def State.losePort (s : State) (p : HostPort) : State :=
  let was := s.port p
  let s := (s.resetPort p).setPort p (fun x => { x with linkUp := false, lost := true, streams := [] })
  if was.lost then s
  else
    let s := s.markShort
    let fresh := s.unreachable &&& ~~~ s.host.unreach
    let s := { s with host := { s.host with unreach := s.host.unreach ||| fresh } }
    let s := s.hostEvt (evtPortLost ||| (if was.streams.isEmpty then 0 else evtIdeFault) ||| (if fresh = 0 then 0 else evtUnreach))
    s.tellStalls p

end Sys2Proof.Machine
end

