-- ==== Sys2Proof/Machine/Links.lean ====
section
/-! DEFINITION. The Tsuholt ports' events (R367–R384): bring-up, key exchange and rekeying, frames and their
acknowledgement, low power, and pod time (R395–R399). -/

namespace Sys2Proof.Machine

/-! Bring-up (R374, R381). -/

/-- Does a stall hold the port, whole or by a share. -/
def State.portHeld (s : State) (p : Nat) : Bool := s.stalls.any (fun e => e.2.hold.links.any (fun l => l.port = p))
/-- A port that has retrained or failed too often is retired (R381). -/
def State.retireLink (s : State) (p : LinkPort) : State := s.retireComponent (.linkPort p)
/-- A port leaves ACTIVE for TRAIN, and is retired at its 16th retrain within 2^36 gticks. -/
def State.retrainLink (s : State) (p : LinkPort) : State :=
  let s := (s.setTlp p (fun x => x.settle s.now)).retrainPort p
  if (s.tlp p).worn then s.retireLink p else s
/-- A failed attempt; the step begins again, and the third in a row retires the port. DEDUCED, log 57. -/
def State.failStep (s : State) (p : LinkPort) : State :=
  let s := s.setTlp p (fun x => { x with fails := x.fails + 1, stepAt := s.now })
  if 3 ≤ (s.tlp p).fails then s.retireLink p else s
/-- TL_P_CTL_WRITE (R374, R401): EN = 0 is ignored while a stall holds the port. -/
def tlPCtlWrite (p : LinkPort) (v : U32) (s : State) : State :=
  let x := s.tlp p
  let en := has v 0 || (s.portHeld p && x.en)
  let s := s.setTlp p (fun x => { x with en := en, lowOk := has v 1 })
  let s :=
    if x.st = .retired then s
    else if !en && x.st ≠ .disabled then (s.setTlp p (fun x => x.shut .disabled s.now)).chooseMaster
    else if en && x.st = .disabled then s.setTlp p (fun x => { x with st := .detect, stepAt := s.now })
    else s
  if has v 2 then s.retrainLink p else s
/-- RETRAIN (R380). -/
def retrain (p : LinkPort) (s : State) : State := if (s.tlp p).up then s.retrainLink p else s
/-- TL_P_ASYM_WRITE (R396): values outside ±2^15 gticks are stored clamped. -/
def tlPAsymWrite (p : LinkPort) (v : U32) (s : State) : State :=
  s.setTlp p (fun x => { x with asym := max (-(2 ^ 15)) (min (2 ^ 15) v.toInt) })
/-- PORT_PEER_DETECT (R374). -/
def portPeerDetect (p peer : LinkPort) (s : State) : State :=
  if (s.tlp p).st ≠ .detect then s
  else s.setTlp p (fun x => { x with st := .train, stepAt := s.now, peerPort := peer })
/-- A side's HELLO is sent, with a fresh random value and ephemeral key (R375). The message's number tells a HELLO (0),
a FINISH (1) and a SWITCH (2) apart. -/
def State.hello (s : State) (p : LinkPort) : State :=
  let r := s.drawBytes 32
  let d := r.2.drawBytes 48
  let pub := (Config.p384Public d.1).toList
  let s := d.2.setTlp p (fun x => { x with keyx := some { rnd := r.1, priv := d.1, pub := pub, peer := none } })
  s.sendMsg p 0x31 (s.hopMsg (r.1 ++ pub ++ (Config.ownChain s.prot.bank)))
/-- PORT_TRAINED (R374, R375): lanes are locked and the key exchange begins, which needs an approved module (R433). -/
def portTrained (p : LinkPort) (s : State) : State :=
  if (s.tlp p).st ≠ .train || !s.prot.approved then s
  else (s.setTlp p (fun x => { x with st := .keyx, stepAt := s.now, keyx := none })).hello p
/-- PORT_STEP_TIMEOUT (R374): TRAIN has 20 ms for lock and KEYX 10 ms for the exchange. -/
def portStepTimeout (p : LinkPort) (s : State) : State :=
  let x := s.tlp p
  match x.st with
  | .train => (s.advance (x.stepAt + 320000000)).failStep p
  | .keyx => (s.advance (x.stepAt + 160000000)).failStep p
  | _ => s

/-! Key exchange (R375, R376). -/

/-- Is this package's identity digest the lower of the two. -/
def TlPort.isLower (x : TlPort) : Bool := decide (Config.idDigest.toNat < x.peerId.toNat)
/-- The digest of the transcript: both HELLOs, the lower identity digest's first. -/
def TlPort.transcript (x : TlPort) (bank : BitVec 2) (k : Keyx) (peerHello : List Byte) : BitVec 384 :=
  let own := k.rnd ++ k.pub ++ Config.ownChain bank
  Config.sha384 (if x.isLower then own ++ peerHello else peerHello ++ own)
/-- KEYX_HELLO (R375): the chain is verified, and this side's FINISH goes out. In a rekey the answering side sends its own
HELLO first. DEDUCED, log 55. -/
def keyxHello (p : LinkPort) (rnd pub chain : List Byte) (s : State) : State :=
  let x := s.tlp p
  if x.st ≠ .keyx && !x.up then s
  else match Config.chainLeaf chain with
    | none => if x.st = .keyx then s.failStep p else s
    | some (key, id) =>
      let s := if x.keyx.isNone then s.hello p else s
      let s := s.setTlp p (fun x => { x with peerId := id, keyx := x.keyx.map (fun k => { k with peer := some (rnd ++ pub ++ chain, pub, key.toList) }) })
      let x := s.tlp p
      match x.keyx with
      | none => s
      | some k =>
        let sig := (Config.attestSign (x.transcript s.prot.bank k (rnd ++ pub ++ chain)) s.free).toList
        s.signed.sendMsg p 0x31 { s.hopMsg sig with seq := 1 }
/-- The keys an exchange gives (R375): the first 32 bytes key the direction from the lower digest to the higher. -/
def TlPort.derive (x : TlPort) (k : Keyx) (peerPub : List Byte) (t : BitVec 384) : LinkKeys :=
  let b := (Config.kdf64 (Config.ecdh k.priv peerPub).toList [0x54, 0x53, 0x48, 0x4C] (leBytes 48 t.toNat)).toList
  if x.isLower then { tx := b.take 32, rx := b.drop 32 } else { tx := b.drop 32, rx := b.take 32 }
/-- What a port held for resending goes out again under the new keys (R380). -/
def State.resendKept (s : State) (p : LinkPort) : State :=
  let l := (s.tlp p).kept
  let s := s.setTlp p (fun x =>
    { x with kept := [], sendq := l.map (fun e => { e.2 with holds := none }) ++ x.sendq, resend := satAdd x.resend l.length
             used := forAll l (fun e u => u.upd 0 (creditKey (channelOf e.2.op) (classOf e.2.op e.2.msg)) (· - msgFlits e.2.msg)) x.used })
  s.pump p
/-- KEYX_FINISH (R375, R376): the signature verifies under the peer's attestation key. A port in KEYX is ACTIVE with epoch
0; one already up has its next keys, and tells the peer the last frame of the present ones. DEDUCED, log 55. -/
def keyxFinish (p : LinkPort) (sig : List Byte) (s : State) : State :=
  let x := s.tlp p
  match x.keyx.bind (fun k => k.peer.map (fun q => (k, q))) with
  | none => s
  | some (k, hello, pub, key) =>
    let t := x.transcript s.prot.bank k hello
    if !Config.ecdsaVerify key t sig then (if x.st = .keyx then s.failStep p else s)
    else if x.st = .keyx then
      (s.setTlp p (fun x =>
        { x with st := .active, stepAt := s.now, fails := 0, keyx := none, keys := some (x.derive k pub t), nextKeys := none, switched := false
                 epoch := 0, frames := 0, frameAt := s.now, lastGood := 0 })).resendKept p
    else if x.up then
      let s := s.setTlp p (fun x => { x with nextKeys := some (x.derive k pub t) })
      s.sendMsg p 0x31 { s.hopMsg (leBytes 4 (2 ^ 32 - 1)) with seq := 2 }
    else s
/-- REKEY_START (R376): at frame 2^31 the side with the lower identity digest starts a new exchange. -/
def rekeyStart (p : LinkPort) (s : State) : State :=
  let x := s.tlp p
  if !x.up || !x.isLower || x.keyx.isSome || x.nextKeys.isSome then s
  else
    let s := s.advance (x.frameTime (2 ^ 31))
    (s.setTlp p (fun x => x.settle s.now)).hello p
/-- KEYX_SWITCH (R376): the peer names frame 2^32 - 1 as the last under the present keys. DEDUCED, log 55. -/
def keyxSwitch (p : LinkPort) (last : U32) (s : State) : State :=
  if !(s.tlp p).up || last ≠ 0xFFFFFFFF then s
  else s.setTlp p (fun x => ({ x with switched := true }).settle s.now)
/-- REKEY_DEADLINE (R376): a rekey not complete by frame 2^32 - 2^20 makes the port retrain. -/
def rekeyDeadline (p : LinkPort) (s : State) : State :=
  let x := s.tlp p
  if !x.up || (x.nextKeys.isSome && x.switched) then s
  else ((s.advance (x.frameTime (2 ^ 32 - 2 ^ 20))).tlEvt evtRekey).retrainLink p

/-! Frames (R379, R380). -/

/-- A frame that does not pass: the receiver names the last good one, and the 8th in a row makes the port retrain. -/
def State.badFrame (s : State) (p : LinkPort) : State :=
  let s := s.setTlp p (fun x => { x with badRun := x.badRun + 1 })
  let s := s.sendMsg p 0x33 (s.hopMsg (leBytes 4 (s.tlp p).lastGood))
  if 8 ≤ (s.tlp p).badRun then s.retrainLink p else s
/-- LINK_FRAME_RECEIVED (R368, R379): frame `n` with the result of its checks, the credits its trailers return, the flits
it carries that are not idle, and the messages it carries that R372 discards. -/
def linkFrameReceived (p : LinkPort) (n : U32) (check : FrameCheck) (credits : List (Fin 4 × Fin 4 × Nat)) (flits strange : Nat) (s : State) : State :=
  if !(s.tlp p).up then s
  else match check with
    | .lost => s.badFrame p
    | .tagFail =>
      let g := s.now / 2 ^ 20
      let s := s.setTlp p (fun x => { x with tagFail := satAdd x.tagFail 1, tagGrid := g, tagRun := if x.tagGrid = g then x.tagRun + 1 else 1 })
      let s := s.badFrame p
      if 16 ≤ (s.tlp p).tagRun then s.retrainLink p else s
    | _ =>
      let s := s.setTlp p (fun x =>
        { x with fecCorr := if check = .corrected then satAdd x.fecCorr 1 else x.fecCorr, badRun := 0, lastGood := n.toNat
                 rx := x.rx + BitVec.ofNat 64 (256 * flits), proto := satAdd x.proto strange
                 used := forAll credits (fun c u => u.upd 0 (creditKey c.1 c.2.1) (· - c.2.2)) x.used })
      let s := if n.toNat % 64 = 63 then s.sendMsg p 0x32 (s.hopMsg (leBytes 4 n.toNat)) else s
      s.pump p
/-- LINK_ACK (R379): frames through `n` are no longer kept. -/
def linkAck (p : LinkPort) (n : U32) (s : State) : State :=
  s.setTlp p (fun x => { x with kept := x.kept.filter (fun e => decide (n.toNat < e.1)) })
/-- LINK_NAK (R379, R380): everything after frame `n` is sent again; a frame no longer kept makes the port retrain. -/
def linkNak (p : LinkPort) (n : U32) (s : State) : State :=
  let x := s.tlp p
  if !x.up then s
  else
    let f := x.frame s.now
    if n.toNat + 256 < f then s.retrainLink p
    else
      let s := (linkAck p n s).setTlp p (fun x => { x with resend := satAdd x.resend (f - n.toNat) })
      forAll (s.tlp p).kept (fun e u => u.emit (match e.2.mgmt with
        | none => .link p e.2.op e.2.msg
        | some b => .mgmt p e.2.msg b)) s
/-- LANE_LOCK_LOST (R380, R381): a port that is up retrains; one coming up has failed an attempt. -/
def laneLockLost (p : LinkPort) (s : State) : State :=
  match (s.tlp p).st with
  | .active | .lowpower => s.retrainLink p
  | .train | .keyx => s.failStep p
  | _ => s

/-! Low power (R378). -/

/-- The port's eight lanes are up. -/
def State.lanesUp (s : State) (p : LinkPort) : State :=
  (s.setTlp p (fun x => { x.settle s.now with st := .active, stepAt := s.now, waking := false })).pump p
/-- WAKE (R378, R536): a wake source of the package. -/
def wake (p : LinkPort) (s : State) : State :=
  if (s.tlp p).st = .lowpower then (s.lanesUp p).wakePackage 4 false else if (s.tlp p).up then s.wakePackage 4 false else s
/-- PORT_LOWPOWER_EXIT (R378): the port that sent WAKE is ACTIVE again and its held traffic goes. -/
def portLowpowerExit (p : LinkPort) (s : State) : State :=
  if (s.tlp p).st = .lowpower && (s.tlp p).waking then s.lanesUp p else s

/-! Pod time (R395–R399). -/

/-- The body of a TIME message (R395). -/
def State.timeBody (s : State) (x : TlPort) : List Byte :=
  let ofs : Int := if s.tl.up.isSome then s.tl.est.getD 0 else 0
  leBytes 8 x.tTx ++ leBytes 8 x.tRx ++ leBytes 8 (BitVec.ofInt 64 ofs).toNat ++ leBytes 1 s.tl.masterId ++ leBytes 1 s.tl.masterPrio
    ++ leBytes 1 s.tl.masterHops ++ leBytes 1 (if s.yard.isDefault then 0 else s.yard.active.policy.timePriority) ++ leBytes 1 s.podSize ++ zeros 227
/-- TIME_SEND (R395): at the next grid tick plus 2^19 that has sent none, each side sends TIME on every port that is up, with
its stamps of the period's marked frames: (port, t_tx, t_rx or 0). -/
def timeSend (stamps : List (LinkPort × U64 × U64)) (s : State) : State :=
  let here := s.now / 2 ^ 20
  let g := max (if s.now ≤ here * 2 ^ 20 + 2 ^ 19 then here else here + 1) (s.tl.sentGrid + 1)
  let s := s.advance (g * 2 ^ 20 + 2 ^ 19)
  let s := { s with tl := { s.tl with sentGrid := g } }
  forAll (List.range 48) (fun p u =>
    if !(u.tlp p).up then u
    else
      let st := List.find? (fun (e : LinkPort × U64 × U64) => e.1.val = p) stamps
      let u := u.setTlp p (fun x => { x with tTx := (st.map (·.2.1.toNat)).getD 0, tRx := (st.map (·.2.2.toNat)).getD 0 })
      u.sendMsg p 0x30 (u.hopMsg (u.timeBody (u.tlp p)))) s
/-- LOCK follows the latest estimate (R49): 16 in a row within ±64 gticks set it on an aligned package, and one outside
clears it, which raises TIME. -/
def State.takeEstimate (s : State) (e : Int) : State :=
  let near := decide (-64 ≤ e) && decide (e ≤ 64)
  let n := if near then s.gtb.lockCount + 1 else 0
  let was := s.gtb.lock
  let s := { s with gtb := { s.gtb with servoOfs := BitVec.ofInt 32 e, lockCount := n, lock := near && s.gtb.aligned && (was || decide (16 ≤ n)) }
                    tl := { s.tl with est := some e } }
  let s := if was && !s.gtb.lock then s.pfCause .time else s
  if s.gtb.aligned && (decide (e < -(2 ^ 20)) || decide (2 ^ 20 < e)) then s.tlEvt evtApart else s
def clampServo (v : Int) : Int := max (-(2 ^ 27)) (min (2 ^ 27) v)
/-- The servo's update at a period in which the upstream port yields θ (R398). DEDUCED, log 58. -/
def State.servo (s : State) (th : Int) : State :=
  let f := clampServo (s.tl.freq - th * 2 ^ 13)
  let s := { s with tl := { s.tl with freq := f, holdover := false } }
  if s.gtb.servoAuto then s.setTrim (f - th * 2 ^ 17) else s
/-- TIME (R377, R396–R398): the peer's IDs are checked, the offset and delay are computed where both frames were stamped,
the advertisement is taken, and the master is chosen. DEDUCED, log 58. -/
def time (p : LinkPort) (m : LinkMsg) (s : State) : State :=
  if !(s.tlp p).up then s
  else
    let b := m.data
    let s := s.setTlp p (fun x => { x with told := true, peerPkg := m.src, peerSize := f8 b 28 })
    let x := s.tlp p
    let bad := s.mismatched x
    let s := s.setTlp p (fun x => { x with mismatch := bad })
    let s := if bad && !x.mismatch then s.tlEvt evtMismatch else s
    let t1 : Int := x.tTx
    let t4 : Int := x.tRx
    let t2 : Int := f64 b 8
    let t3 : Int := f64 b 0
    let th : Option Int := if f64 b 8 = 0 || x.tTx = 0 || x.tRx = 0 then none else some (((t1 - t2) + (t4 - t3) + x.asym) / 2)
    let s := match th with
      | none => s
      | some v => s.setTlp p (fun x => { x with ofs := BitVec.ofInt 32 v, delay := BitVec.ofInt 32 (((t2 - t1) + (t4 - t3)) / 2) })
    let ad : Option Advert := if f8 b 24 = 0xFF || f8 b 26 = 0xFF then none
      else some { id := f8 b 24, prio := f8 b 25, hops := f8 b 26, ofs := (BitVec.ofNat 64 (f64 b 16)).toInt, grid := s.now / 2 ^ 20 }
    let s := (s.setTlp p (fun x => { x with advert := ad })).chooseMaster
    match th, ad with
    | some v, some a => if s.tl.up = some p.val then (s.takeEstimate (v + a.ofs)).servo v else s
    | _, _ => s
/-- MASTER_ADVERT_EXPIRY (R397): an advertisement not renewed for 8 periods is dropped. DEDUCED, log 58. -/
def masterAdvertExpiry (p : LinkPort) (s : State) : State :=
  match (s.tlp p).advert with
  | none => s
  | some a => ((s.advance ((a.grid + 8) * 2 ^ 20 + 2 ^ 19)).setTlp p (fun x => { x with advert := none })).chooseMaster
/-- TIME_ALIGNMENT (R47, R399): at the first estimate, or when 2^30 gticks of waiting end, the one forward step is applied
where the package is more than 64 gticks behind the master, and ALIGNED sets. -/
def timeAlignment (s : State) : State :=
  if s.gtb.aligned || s.tl.alignFrom = 0 then s
  else
    let s := if s.tl.est.isSome then s else s.advance (s.tl.alignFrom + 2 ^ 30)
    let step : Nat := match s.tl.est with
      | some e => if e < -64 then e.natAbs else 0
      | none => 0
    ({ s with gtb :=
      { s.gtb with base := s.gtb.base + BitVec.ofNat 64 step, align := BitVec.ofNat 64 step, aligned := true } }).freeRun
/-- SERVO_AUTO_WRITE (R45): a write of 0 is ignored while a port carries time frames. -/
def servoAutoWrite (v : Bool) (s : State) : State :=
  if !v && s.tl.ports.any (fun e => e.2.up) then s else { s with gtb := { s.gtb with servoAuto := v } }

/-- The effect of a row that names a Tsuholt port: one the variant is not fitted with stops the machine. DESIGN CHOICE, log 18. -/
def State.onLink (s : State) (p : LinkPort) (t : State) : Host.Outcome State Fault Refusal :=
  if p.val < linkPorts s.pkg.variant then .next t else .fault .notFitted
def execTlPCtlWrite (p : LinkPort) (v : U32) (s : State) : Host.Outcome State Fault Refusal := s.onLink p (tlPCtlWrite p v s.barWrite)
def execRetrain (p : LinkPort) (s : State) : Host.Outcome State Fault Refusal := s.onLink p (retrain p s.barWrite)
def execTlPAsymWrite (p : LinkPort) (v : U32) (s : State) : Host.Outcome State Fault Refusal := s.onLink p (tlPAsymWrite p v s.barWrite)
def execPortPeerDetect (p peer : LinkPort) (s : State) : Host.Outcome State Fault Refusal := s.onLink p (portPeerDetect p peer s)
def execPortTrained (p : LinkPort) (s : State) : Host.Outcome State Fault Refusal := s.onLink p (portTrained p s)
def execPortStepTimeout (p : LinkPort) (s : State) : Host.Outcome State Fault Refusal := s.onLink p (portStepTimeout p s)
def execKeyxHello (p : LinkPort) (rnd pub chain : List Byte) (s : State) : Host.Outcome State Fault Refusal := s.onLink p (keyxHello p rnd pub chain s)
def execKeyxFinish (p : LinkPort) (sig : List Byte) (s : State) : Host.Outcome State Fault Refusal := s.onLink p (keyxFinish p sig s)
def execRekeyStart (p : LinkPort) (s : State) : Host.Outcome State Fault Refusal := s.onLink p (rekeyStart p s)
def execKeyxSwitch (p : LinkPort) (last : U32) (s : State) : Host.Outcome State Fault Refusal := s.onLink p (keyxSwitch p last s)
def execRekeyDeadline (p : LinkPort) (s : State) : Host.Outcome State Fault Refusal := s.onLink p (rekeyDeadline p s)
def execLinkFrameReceived (p : LinkPort) (n : U32) (check : FrameCheck) (credits : List (Fin 4 × Fin 4 × Nat)) (flits strange : Nat) (s : State) :
    Host.Outcome State Fault Refusal := s.onLink p (linkFrameReceived p n check credits flits strange s)
def execLinkAck (p : LinkPort) (n : U32) (s : State) : Host.Outcome State Fault Refusal := s.onLink p (linkAck p n s)
def execLinkNak (p : LinkPort) (n : U32) (s : State) : Host.Outcome State Fault Refusal := s.onLink p (linkNak p n s)
def execLaneLockLost (p : LinkPort) (s : State) : Host.Outcome State Fault Refusal := s.onLink p (laneLockLost p s)
def execWake (p : LinkPort) (s : State) : Host.Outcome State Fault Refusal := s.onLink p (wake p s)
def execPortLowpowerExit (p : LinkPort) (s : State) : Host.Outcome State Fault Refusal := s.onLink p (portLowpowerExit p s)
def execTimeSend (stamps : List (LinkPort × U64 × U64)) (s : State) : Host.Outcome State Fault Refusal := .next (timeSend stamps s)
def execTime (p : LinkPort) (m : LinkMsg) (s : State) : Host.Outcome State Fault Refusal := s.onLink p (time p m s)
def execMasterAdvertExpiry (p : LinkPort) (s : State) : Host.Outcome State Fault Refusal := s.onLink p (masterAdvertExpiry p s)
def execTimeAlignment (s : State) : Host.Outcome State Fault Refusal := .next (timeAlignment s)
def execServoAutoWrite (v : Bool) (s : State) : Host.Outcome State Fault Refusal := .next (servoAutoWrite v s.barWrite)

end Sys2Proof.Machine
end

