-- ==== Sys2Proof/Machine/Relay.lean ====
section
/-! DEFINITION. Remote memory across the pod (R382–R391), its requests and commands, and the far-loft messages between
RTPs (R336, R337, R372). -/

namespace Sys2Proof.Machine

/-- A message of a stall arrives on a port (R377, R383, R544): one for another package is forwarded; stall traffic but VC3
waits in the receive buffer during a warm reset; otherwise the buffer it used is freed and `body` is its effect. -/
def State.arrive (s : State) (p : LinkPort) (op : Nat) (m : LinkMsg) (b : Option Mgmt) (body : State → State) : State :=
  if !s.portUsable p then s
  else if m.dst ≠ s.podId then s.forwardMsg p op m b
  else if s.power.warm.isSome && channelOf op ≠ 3 then s.setTlp p (fun x => { x with inbox := x.inbox ++ [(op, m)] })
  else body (s.emit (.credit p (channelOf op) (classOf op m) (msgFlits m)))

/-! Own chunks (R387, R390, R391). -/

/-- The stall's own claim a message is about. -/
def State.ownClaim (s : State) (m : LinkMsg) : Option Claim :=
  (s.stall? m.dstStall).bind (fun t => List.find? (fun (c : Claim) => c.own && c.ticket = m.ticket && c.keyT = m.keyT) t.relay.claims)
/-- A peer's claim a message is about. -/
def State.peerClaim (s : State) (m : LinkMsg) : Option Claim :=
  (s.stall? m.dstStall).bind (fun t => List.find? (fun (c : Claim) =>
    !c.own && c.srcPkg = m.src && c.srcStall = m.srcStall && c.ticket = m.ticket && c.keyT = m.keyT) t.relay.claims)
/-- The lowest TICKET none of the stall's own claims uses. -/
def Relay.freeTicket (r : Relay) : Nat :=
  ((List.range 65536).find? (fun k => !r.claims.any (fun c => c.own && c.ticket = k))).getD 0
/-- The claims a command has out. -/
def Relay.ofCmd (r : Relay) (k : Nat) (pos : U32) : List Claim := r.claims.filter (fun c => c.own && c.qk = k && c.pos = pos)
def chunkSpan : Nat := 2 ^ 21
/-- Claim chunks for a command while it holds fewer than four tickets, has more to do and is not asked to stop (R299, R387,
R388); the first TK_REQ is its side effect (R483). -/
def State.claimMore (n : StallNo) (k : Nat) (pos : U32) : Nat → State → State
  | 0, s => s
  | fuel + 1, s =>
    match s.stall? n, s.started? n k pos with
    | some t, some e =>
      let mine := t.relay.ofCmd k pos
      let next := e.progress + (mine.map (·.span)).sum
      let total := e.u64 0x18
      if 4 ≤ mine.length || total ≤ next || e.undecided || !s.serves t (qkCtx k) then s
      else match s.stallPort t.hold (e.u8 0x22) (e.u8 0x20) with
        | none => s
        | some p =>
          let span := min chunkSpan (total - next)
          let rd := e.opcode = 0x31
          let c : Claim :=
            { keyT := s.now, srcPkg := s.podId, srcStall := n, ticket := t.relay.freeTicket, own := true, port := p, peer := e.u8 0x20
              peerStall := e.u8 0x21, granted := false, committed := false, read := rd, addr := (if rd then e.u64 8 else e.u64 0x10) + next
              span := span, num := 0, qk := k, pos := pos, loc := (if rd then e.u64 0x10 else e.u64 8) + next, ofs := next, done := 0, data := [] }
          let s := s.modEntry n k pos (fun x => { x with sideEffect := true })
          let s := s.modRelay n (fun r => { r with claims := insertClaim c r.claims })
          State.claimMore n k pos fuel (s.sendMsg p 0x01 { s.claimMsg n c with addr := c.addr, read := rd, span := span })
    | _, _ => s
/-- A command asked to stop that has no ticket out is at a boundary (R299). -/
def State.restRemote (s : State) (n : StallNo) (k : Nat) (pos : U32) : State :=
  match s.stall? n with
  | none => s
  | some t =>
    if (t.relay.ofCmd k pos).isEmpty && (t.paused || (t.ctx? (qkCtx k)).any Ctx.requested) then
      s.modEntry n k pos (fun x => if x.st = .started then { x with stopped := true } else x)
    else s
/-- REMOTE_WRITE and REMOTE_READ (R387, R390): a command that finds no usable port ends FAULTED_NOT_RUN (R382, R384). -/
def State.remote (s : State) (q : QueueId) (op : Nat) : State :=
  s.transfer q op
    (fun e u => match (u.stall? q.stall).bind (fun t => u.stallPort t.hold (e.u8 0x22) (e.u8 0x20)) with
      | none => some (stNotRun, 0x0D)
      | some _ => none)
    (fun e u => ((State.claimMore q.stall (queueKey q) e.pos 4 u).commitAll q.stall).restRemote q.stall (queueKey q) e.pos)
def remoteWrite (q : QueueId) (s : State) : State := s.remote q 0x30
def remoteRead (q : QueueId) (s : State) : State := s.remote q 0x31
/-- Bytes placed at an offset of a run, which grows to take them. -/
def splice (l : List Byte) (o : Nat) (d : List Byte) : List Byte := (l ++ zeros (o - l.length)).take o ++ d ++ l.drop (o + d.length)
/-- A chunk is done: its slot is released and the peer told; the command ends with its last byte, and otherwise claims its
next chunk (R387, R389). -/
def State.chunkDone (s : State) (n : StallNo) (c : Claim) : State :=
  let s := (s.modRelay n (fun r => r.dropClaim c)).sendMsg c.port 0x04 (s.claimMsg n c)
  match s.stall? n, s.started? n c.qk c.pos with
  | some t, some e =>
    let done := e.progress + c.span
    let moved := if hashes t e then splice e.moved c.ofs c.data else []
    let s := s.modEntry n c.qk c.pos (fun x =>
      if done < e.u64 0x18 then { x with progress := done, moved := moved }
      else { x.finish (finalStatus (e.status, e.detail)).1 (finalStatus (e.status, e.detail)).2 (BitVec.ofNat 64 done) with
             progress := done, moved := [], dataDigest := if moved.isEmpty then x.dataDigest else Config.sha384 moved })
    ((State.claimMore n c.qk c.pos 4 s).commitAll n).restRemote n c.qk c.pos
  | _, _ => s.commitAll n

/-! Ticket messages (R388–R391). -/

/-- TK_REQ (R386, R388): denied where no export allows it, otherwise a claim in its place. PRESUMED, log 53. DEDUCED, log 56. -/
def tkReqBody (p : LinkPort) (m : LinkMsg) (s : State) : State :=
  match (s.stall? m.dstStall).bind (fun t => t.relay.exportFor m.src m.srcStall m.addr m.span (!m.read)) with
  | none => s.deny p m 1
  | some (num, _) =>
    let c : Claim :=
      { keyT := m.keyT, srcPkg := m.src, srcStall := m.srcStall, ticket := m.ticket, own := false, port := p, peer := m.src
        peerStall := m.srcStall, granted := false, committed := false, read := m.read, addr := m.addr, span := m.span, num := num
        qk := 0, pos := 0, loc := 0, ofs := 0, done := 0, data := [] }
    (s.modRelay m.dstStall (fun r => { r with claims := insertClaim c r.claims })).commitAll m.dstStall
/-- TK_GRANT (R389). -/
def tkGrantBody (m : LinkMsg) (s : State) : State :=
  match s.ownClaim m with
  | none => s
  | some c => (s.modRelay m.dstStall (fun r => r.modClaim c (fun d => { d with granted := true }))).commitAll m.dstStall
/-- TK_DENY (R391): the chunk and its command end. -/
def tkDenyBody (m : LinkMsg) (s : State) : State :=
  match s.ownClaim m with
  | none => s
  | some c => ((s.modRelay m.dstStall (fun r => r.dropClaim c)).relayEnd m.dstStall c.qk c.pos stPartial 0x0D).commitAll m.dstStall
/-- TK_DONE (R389): the destination's slot is released. -/
def tkDoneBody (m : LinkMsg) (s : State) : State :=
  match s.peerClaim m with
  | none => s
  | some c => ((s.modRelay m.dstStall (fun r => r.dropClaim c)).commitAll m.dstStall).settleExports m.dstStall
/-- The exporting context of a committed ticket, where a message lies inside what was granted (R386). -/
def State.granted (s : State) (m : LinkMsg) (span : Nat) (read : Bool) : Option Export :=
  match s.peerClaim m with
  | none => none
  | some c =>
    if !c.committed || c.read != read || m.addr < c.addr || c.addr + c.span < m.addr + span then none
    else (s.stall? m.dstStall).bind (fun t => t.relay.exports.find? c.num)
def exportWho (n : Nat) (x : Export) : Who := { stall := n, ctx := x.ctx, engine := 2, queue := 0, asn := 0 }
/-- The answer to a message, on the port it came in on. -/
def State.reply (s : State) (m : LinkMsg) : LinkMsg :=
  { s.newMsg m.dstStall m.src m.srcStall with keyT := m.keyT, ticket := m.ticket, seq := m.seq, addr := m.addr }
/-- WR (R386): written through the exporting context; a fault there goes back with the acknowledgement. -/
def wrBody (p : LinkPort) (m : LinkMsg) (s : State) : State :=
  match s.granted m m.data.length false with
  | none => s.deny p m 1
  | some x =>
    let r := s.writeRun (exportWho m.dstStall x) m.addr m.data (List.replicate m.data.length m.poison) rWrite
    r.2.sendMsg p 0x11 { r.2.reply m with fault := !r.1.2.isEmpty }
/-- RD (R386, R390): read through the exporting context. -/
def rdBody (p : LinkPort) (m : LinkMsg) (s : State) : State :=
  match s.granted m m.span true with
  | none => s.deny p m 1
  | some x =>
    let g := s.readRun (exportWho m.dstStall x) m.addr m.span rRead
    g.2.sendMsg p 0x13 { g.2.reply m with data := fit m.span g.1.bytes, poison := g.1.poison.any id, fault := !g.1.met.isEmpty }
/-- What an own claim's answer adds: a peer's fault ends the command (R386), and the last one ends the chunk. -/
def State.progressed (s : State) (n : StallNo) (c : Claim) (done : Nat) (data : List Byte) : State :=
  let c := { c with done := done, data := data }
  let s := s.modRelay n (fun r => r.modClaim c (fun _ => c))
  if c.span ≤ done then s.chunkDone n c else s
/-- WR_ACK (R389): data written at the destination through SEQ. -/
def wrAckBody (m : LinkMsg) (s : State) : State :=
  onStall m.dstStall (fun n s =>
    match s.ownClaim m with
    | none => s
    | some c =>
      if !c.committed || c.read then s
      else if m.fault then (s.relayEnd n c.qk c.pos stPartial 0x0D).commitAll n
      else s.progressed n c (max c.done (min c.span (pieceBytes * (m.seq + 1)))) c.data) s
/-- RD_DATA (R390): it lands in the requester's memory. -/
def rdDataBody (m : LinkMsg) (s : State) : State :=
  onStall m.dstStall (fun n s =>
    match s.ownClaim m with
    | none => s
    | some c =>
      match s.started? n c.qk c.pos with
      | none => s
      | some e =>
        if !c.committed || !c.read then s
        else if m.fault then (s.relayEnd n c.qk c.pos stPartial 0x0D).commitAll n
        else
          let r := s.writeRun (relayWho n c.qk e.asn) (c.loc + pieceBytes * m.seq) m.data (List.replicate m.data.length m.poison) rWrite
          let st := addMets true (addMets false (e.status, e.detail) [] m.poison) r.1.2 false
          let s := r.2.modEntry n c.qk c.pos (fun x => { x with status := st.1, detail := st.2 })
          if metsStop r.1.2 then (s.relayEnd n c.qk c.pos st.1 st.2).commitAll n
          else s.progressed n c (c.done + m.data.length) (splice c.data (pieceBytes * m.seq) m.data)) s

/-! Exports (R385). -/

/-- The eight ALLOW pairs of a request from offset `o`. -/
def allowPairs (p : List Byte) (o : Nat) : List (Nat × Nat) :=
  let pairs := (List.range 8).map (fun i => (f8 p (o + 2 * i), f8 p (o + 2 * i + 1)))
  pairs.take 1 ++ (pairs.drop 1).filter (fun e => e ≠ (0, 0))
/-- REMOTE_EXPORT (R385). -/
def remoteExportForm : MbForm :=
  { form 0x0050 false true 40 [(3, 5)] with
    bad := fun p => lowest (badIf (15 < f8 p 0) 0 ++ badIf (3 < f8 p 2) 2 ++ badIf (f64 p 8 % 65536 ≠ 0) 8 ++ badIf (f64 p 16 % 65536 ≠ 0) 16) }
/-- REMOTE_EXPORT (R385): tickets not yet granted under the slot's old export are denied, and the answer waits for the
others to end. -/
def remoteExport (m : Req) (s : State) : State :=
  let f := remoteExportForm
  s.mbServe f m (fun s =>
    let n := stallArg f m
    let p := m.payload
    match s.stall? n with
    | none => s.mbAnswer m 0x0050 (refuse 0xFF)
    | some t =>
      if (t.ctx? (f8 p 1)).isNone then s.mbAnswer m 0x0050 (refuse 1)
      else
        let x : Export := { ctx := f8 p 1, rights := f8 p 2, va := f64 p 8, bytes := f64 p 16, allow := allowPairs p 24 }
        let w : ExportWait := { req := m, num := f8 p 0, new := if f64 p 16 = 0 then none else some x }
        let s := s.modRelay n (fun r => { r with waits := r.waits ++ [w] })
        let late := t.relay.claims.filter (fun c => !c.own && c.num = f8 p 0 && !c.committed)
        let s := forAll late (fun c u => (u.modRelay n (fun r => r.dropClaim c)).sendMsg c.port 0x03
          { u.claimMsg n c with data := leBytes 1 1 }) s
        (s.commitAll n).settleExports n)

/-! Between RTPs (R336, R337, R340). -/

/-- DRV_BORROW (R337). -/
def drvBorrowForm (far : Bool) : MbForm :=
  { form 0x0046 false far 16 [(4, 4), (12, 4)] with bad := fun p => lowest (badIf (1 < f8 p 0) 0) }
/-- DRV_BORROW (R337): asks the lender's RTP, whose answer comes with MGMT. -/
def drvBorrow (m : Req) (s : State) : State :=
  let far := (fnStall m.fn).any (fun n => (s.stall? n).any (fun t => t.hold.farLoft))
  let f := drvBorrowForm far
  s.mbServe f m (fun s =>
    let n := stallArg f m
    let p := m.payload
    let peer := f8 p 1
    let st := f8 p 2
    let pages := f32 p 8
    let say (u : State) (a : Answer) : State := u.mbAnswer m 0x0046 a
    match s.stall? n with
    | none => say s (refuse 0xFF)
    | some t =>
      let d := t.drover
      let page := (d.cfg.map (·.pageBytes)).getD 0
      let ask (port : Nat) (b : Mgmt) : State :=
        let w : BorrowWait := { req := m, give := f8 p 0 = 1, peer := peer, stall := st, link := port, pages := pages }
        (s.modDrover n (fun d => { d with waits := d.waits ++ [w] })).sendMgmt port (s.newMsg n peer st) b
      match s.stallPort t.hold (f8 p 3) peer with
      | none => say s (refuse 1)
      | some port =>
        if f8 p 0 = 0 then
          if 8 ≤ d.borrows.length then say s (refuse 5)
          else if t.hold.loftPages < d.localPages + d.borrowed + pages then say s (refuse 3)
          else ask port (.borrow (ceilDiv (pages * page * 257) 256))
        else match List.find? (fun (e : Nat × Borrow) => e.2.peer = peer && e.2.stall = st && e.2.pages = pages) d.borrows with
          | none => say s (refuse 1)
          | some e =>
            if d.seqs.any (fun x => x.pages.any (fun g => match g with | .far c _ => decide (c = e.1) | .near _ => false)) then say s (refuse 4)
            else ask port (.giveBack (ceilDiv (pages * page * 257) 256)))
/-- The first DRV_BORROW of a stall that waits for this peer. -/
def Drover.waitFor (d : Drover) (m : LinkMsg) (give : Bool) : Option BorrowWait :=
  List.find? (fun (w : BorrowWait) => w.peer = m.src && w.stall = m.srcStall && w.give == give) d.waits
/-- MGMT (R337, R340, R372). -/
def mgmtBody (p : LinkPort) (m : LinkMsg) (b : Mgmt) (s : State) : State :=
  onStall m.dstStall (fun n s =>
    match s.stall? n with
    | none => match b with
      | .borrow _ => s.sendMgmt p (s.reply m) (.lent false)
      | .check _ _ _ => s.sendMgmt p (s.reply m) (.checked false)
      | _ => s
    | some t =>
      let d := t.drover
      match b with
      | .borrow bytes =>
        let fits := decide ((d.loans.map (·.bytes)).sum + bytes ≤ d.lent) && d.allow.any (fun a => a = (0xFF, 0xFF) || a = (m.src, m.srcStall))
        let s := if fits then s.modDrover n (fun d => { d with loans := d.loans ++ [{ peer := m.src, stall := m.srcStall, bytes := bytes }] }) else s
        s.sendMgmt p (s.reply m) (.lent fits)
      | .lent good => (match d.waitFor m false with
        | none => s
        | some w =>
          let s := s.modDrover n (fun d => { d with waits := d.waits.filter (fun x => decide (x ≠ w)) })
          if !good then s.mbAnswer w.req 0x0046 (refuse 2)
          else
            let k := s.drawBytes 32
            let slot := ((List.range 8).find? (fun i => (d.borrows.find? i).isNone)).getD 0
            let x : Borrow := { peer := w.peer, stall := w.stall, link := w.link, pages := w.pages, key := k.1 }
            (k.2.modDrover n (fun d => { d with borrows := d.borrows.put slot (some x) })).mbAnswer w.req 0x0046 ok)
      | .giveBack bytes =>
        (match List.find? (fun (l : Loan) => l.peer = m.src && l.stall = m.srcStall && l.bytes = bytes) d.loans with
        | none => s
        | some l => s.modDrover n (fun d => { d with loans := d.loans.erase l })).sendMgmt p (s.reply m) .taken
      | .taken => (match d.waitFor m true with
        | none => s
        | some w =>
          let gone := List.find? (fun (e : Nat × Borrow) => e.2.peer = w.peer && e.2.stall = w.stall && e.2.pages = w.pages) d.borrows
          let s := s.modDrover n (fun d =>
            { d with waits := d.waits.filter (fun x => decide (x ≠ w)), borrows := (gone.map (fun e => d.borrows.erase e.1)).getD d.borrows })
          s.mbAnswer w.req 0x0046 ok)
      | .withdrawn => forAll (d.borrows.filter (fun e => e.2.peer = m.src && e.2.stall = m.srcStall)) (fun e u => u.lapseBorrow n e.1) s
      | .check addr bytes write => s.sendMgmt p (s.reply m) (.checked (t.relay.exportFor m.src m.srcStall addr bytes write).isSome)
      | .checked _ => s) s

def execRemoteWrite (q : QueueId) (s : State) : Host.Outcome State Fault Refusal := .next (remoteWrite q s)
def execRemoteRead (q : QueueId) (s : State) : Host.Outcome State Fault Refusal := .next (remoteRead q s)
def execTkReq (p : LinkPort) (m : LinkMsg) (s : State) : Host.Outcome State Fault Refusal := s.onLink p (s.arrive p 0x01 m none (tkReqBody p m))
def execTkGrant (p : LinkPort) (m : LinkMsg) (s : State) : Host.Outcome State Fault Refusal := s.onLink p (s.arrive p 0x02 m none (tkGrantBody m))
def execTkDeny (p : LinkPort) (m : LinkMsg) (s : State) : Host.Outcome State Fault Refusal := s.onLink p (s.arrive p 0x03 m none (tkDenyBody m))
def execTkDone (p : LinkPort) (m : LinkMsg) (s : State) : Host.Outcome State Fault Refusal := s.onLink p (s.arrive p 0x04 m none (tkDoneBody m))
def execWr (p : LinkPort) (m : LinkMsg) (s : State) : Host.Outcome State Fault Refusal := s.onLink p (s.arrive p 0x10 m none (wrBody p m))
def execWrAck (p : LinkPort) (m : LinkMsg) (s : State) : Host.Outcome State Fault Refusal := s.onLink p (s.arrive p 0x11 m none (wrAckBody m))
def execRd (p : LinkPort) (m : LinkMsg) (s : State) : Host.Outcome State Fault Refusal := s.onLink p (s.arrive p 0x12 m none (rdBody p m))
def execRdData (p : LinkPort) (m : LinkMsg) (s : State) : Host.Outcome State Fault Refusal := s.onLink p (s.arrive p 0x13 m none (rdDataBody m))
def execMgmt (p : LinkPort) (m : LinkMsg) (body : Mgmt) (s : State) : Host.Outcome State Fault Refusal :=
  s.onLink p (s.arrive p 0x38 m (some body) (mgmtBody p m body))
def execRemoteExport (m : MbReq) (s : State) : Host.Outcome State Fault Refusal := .next (remoteExport (plain m) s)
def execDrvBorrow (m : MbReq) (s : State) : Host.Outcome State Fault Refusal := .next (drvBorrow (plain m) s)

end Sys2Proof.Machine
end

