-- ==== Sys2Proof/Machine/Collective.lean ====
section
/-! DEFINITION. Group collectives (R392–R394): groups, staging credit, the start of a member, and its result. -/

namespace Sys2Proof.Machine

/-! A collective's figures. -/

def Entry.collOp (e : Entry) : Nat := e.u8 8
def Entry.dtype (e : Entry) : Nat := e.u8 0x0A
def Entry.count (e : Entry) : Nat := e.u64 0x20
/-- Bytes of one part: COUNT elements. -/
def Entry.partBytes (e : Entry) : Nat := e.count * formatBits e.dtype / 8
def Entry.reducing (e : Entry) : Bool := e.collOp = 0 || e.collOp = 2
/-- Is SRC split into a part for each member. -/
def Entry.splits (e : Entry) : Bool := e.collOp = 2 || e.collOp = 4
/-- Members whose data make up the result (R393). -/
def Entry.givers (e : Entry) (g : Group) : List Nat := if e.collOp = 3 then [e.u8 0x0B] else List.range g.members.length
def Group.others (g : Group) : List Nat := (List.range g.members.length).filter (· ≠ g.index)
/-- Each other member's share of STAGE (R393). DESIGN CHOICE, log 59. -/
def Group.share (g : Group) : Nat := g.stageBytes / (g.members.length - 1)
/-- Where member `j`'s share begins. -/
def Group.shareAt (g : Group) (j : Nat) : Nat := g.stage + g.share * (if j < g.index then j else j - 1)
/-- The index of a peer. -/
def Group.memberOf (g : Group) (m : LinkMsg) : Option Nat := g.others.find? (fun j => g.members[j]? = some (m.src, m.srcStall))

def Relay.group? (r : Relay) (id : Nat) : Option Group := List.find? (fun (g : Group) => g.id = id) r.groups
def Relay.modGroup (r : Relay) (id : Nat) (f : Group → Group) : Relay :=
  { r with groups := r.groups.map (fun g => if g.id = id then f g else g) }
def Relay.coll? (r : Relay) (id : Nat) : Option Coll := List.find? (fun (c : Coll) => c.group = id) r.colls
def Relay.modColl (r : Relay) (id : Nat) (f : Coll → Coll) : Relay :=
  { r with colls := r.colls.map (fun c => if c.group = id then f c else c) }
/-- A message to member `j` of a group, on the port the stall's traffic to it takes. -/
def State.sendMember (s : State) (n : Nat) (h : Holdings) (g : Group) (j op : Nat) (f : LinkMsg → LinkMsg) : State :=
  match g.members[j]? with
  | none => s
  | some (pkg, stall) =>
    match s.stallPort h 0xFF pkg with
    | none => s
    | some p => s.sendMsg p op (f { s.newMsg n pkg stall with addr := g.id })

/-! The result (R393). -/

/-- The sum of one element over the members, in ascending index. -/
def sumElem (dt : Nat) (xs : List Nat) : Nat :=
  match floatFmt dt, intBits dt with
  | some f, _ => match xs.map f.decode with
    | [] => 0
    | x :: l => (f.encode true .nearest (l.foldl f32Add (toF32 x))).bits
  | none, some w => match xs.map (fun x => (BitVec.ofNat w x).toInt) with
    | [] => 0
    | x :: l => intCode w (clampInt w (l.foldl (fun a b => (clampInt 32 (a + b)).1) x)).1
  | none, none => 0
/-- Is the value of encoding `x` below that of `y`; infinities bound the rest. -/
def codeLt (dt x y : Nat) : Bool :=
  match decodeNum dt x, decodeNum dt y with
  | .inf a, .inf b => a && !b
  | .inf a, _ => a
  | _, .inf b => !b
  | a, b => a.dy.lt b.dy
/-- The greatest or the least of one element; any NaN gives the canonical one. Between zeros of both signs the spec names
none, and `neg` chooses. -/
def bestElem (dt : Nat) (greatest neg : Bool) (xs : List Nat) : Nat :=
  if xs.any (fun x => decodeNum dt x = .nan) then (floatFmt dt).elim 0 (·.canonNan)
  else match xs with
    | [] => 0
    | x :: l =>
      let b := l.foldl (fun a c => if (if greatest then codeLt dt a c else codeLt dt c a) then c else a) x
      let ties := xs.filter (fun c => !codeLt dt b c && !codeLt dt c b)
      match floatFmt dt with
      | some f => if ties.all (· = b) then b else (if neg then f.sign else 0)
      | none => b
/-- The reduction of the members' parts, element by element. DESIGN CHOICE, log 59. DESIGN CHOICE, log 89. -/
def reduceParts (dt red count : Nat) (choice : Nat → Bool) (parts : List (List Byte)) : List Byte :=
  let w := formatBits dt
  pack w ((List.range count).map (fun i =>
    let xs := parts.map (fun p => unpack w p i)
    if red = 0 then sumElem dt xs else bestElem dt (red = 1) (choice i) xs))

/-- Cut SRC's bytes into what each member is to have. -/
def Entry.pieceFor {α : Type} (e : Entry) (l : List α) (j : Nat) : List α := if e.splits then (l.drop (e.partBytes * j)).take e.partBytes else l

/-! Sending (R393). -/

/-- Send what the peers' credit allows: pieces of at most 4,096 bytes to each member in turn. -/
def State.collSend (n gid : Nat) : Nat → State → State
  | 0, s => s
  | fuel + 1, s =>
    match s.stall? n with
    | none => s
    | some t =>
      match t.relay.group? gid, t.relay.coll? gid with
      | some g, some c =>
        if !c.begun then s
        else
          let room (j : Nat) : Nat := g.freed.get 0 j + g.share - g.sent.get 0 j
          match List.find? (fun (e : Nat × List Byte) => decide (0 < room e.1) && (g.members[e.1]?).any (fun x => (s.stallPort t.hold 0xFF x.1).isSome)) c.toSend with
          | none => s
          | some (j, l) =>
            let k := min (min pieceBytes (room j)) l.length
            let bad := (c.bad.get [] j)
            let s := s.modRelay n (fun r =>
              (r.modGroup gid (fun g => { g with sent := g.sent.set 0 j (g.sent.get 0 j + k) })).modColl gid (fun c =>
                { c with toSend := c.toSend.set [] j (l.drop k), bad := c.bad.set [] j (bad.drop k) }))
            State.collSend n gid fuel (s.sendMember n t.hold g j 0x20 (fun m =>
              { m with data := l.take k, poison := (bad.take k).any id, seq := g.sent.get 0 j / pieceBytes }))
      | _, _ => s
/-- Pieces a run of bytes can take at most. -/
def collFuel (c : Coll) : Nat := (c.toSend.map (fun e => e.2.length + 1)).sum

/-! Ending. -/

/-- A member ends (R227): its collective is over, and what waited for the group goes on. -/
def State.collEnd (s : State) (n : Nat) (c : Coll) (st : Byte × Byte) (value : Nat) : State :=
  let s := s.finish n c.qk c.pos st.1 st.2 (BitVec.ofNat 64 value)
  (s.modRelay n (fun r => { r with colls := r.colls.filter (fun x => x.group ≠ c.group) })).settleClears n
/-- Every part is here and everything is sent: the result is written to DST, and the member ends (R224, R393). -/
def State.collFinish (s : State) (n gid : Nat) : State :=
  match s.stall? n with
  | none => s
  | some t =>
    match t.relay.group? gid, t.relay.coll? gid with
    | some g, some c =>
      match s.started? n c.qk c.pos with
      | none => s
      | some e =>
        let need := e.givers g
        if !c.begun || !c.toSend.isEmpty || need.any (fun j => (c.buf.get [] j).length < e.partBytes) then s
        else
          let parts := need.map (fun j => c.buf.get [] j)
          let bads := need.map (fun j => c.bufBad.get [] j)
          let free := s.free
          let out := if e.reducing then reduceParts e.dtype (e.u8 9) e.count (fun i => Config.freeChoice (free + i)) parts else parts.flatten
          let bad := if e.reducing then (List.range e.partBytes).map (fun i => bads.any (fun b => b.getD i false)) else bads.flatten
          let s := if e.reducing && e.u8 9 ≠ 0 then { s with free := s.free + e.count } else s
          let r := s.writeRun (relayWho n c.qk e.asn) (e.u64 0x18) out bad rWrite
          let st := addMets true (addMets false (e.status, e.detail) [] (bad.any id)) r.1.2 false
          r.2.collEnd n c (finalStatus st) (r.1.1 * 8 / formatBits e.dtype)
    | _, _ => s

/-! Receiving. -/

/-- A running member takes what its group has received, up to what it needs, and gives the credit back (R393). -/
def State.collTake (s : State) (n gid : Nat) : State :=
  match s.stall? n with
  | none => s
  | some t =>
    match t.relay.group? gid, t.relay.coll? gid with
    | some g, some c =>
      match s.started? n c.qk c.pos with
      | none => s
      | some e =>
        forAll ((e.givers g).filter (· ≠ g.index)) (fun j u =>
          let have' := c.buf.get [] j
          let l := g.inbox.get [] j
          let b := g.bad.get [] j
          let k := min l.length (e.partBytes - have'.length)
          if k = 0 then u
          else
            let given := g.given.get 0 j + k
            let u := u.modRelay n (fun r =>
              (r.modGroup gid (fun g => { g with inbox := g.inbox.set [] j (l.drop k), bad := g.bad.set [] j (b.drop k), given := g.given.set 0 j given })).modColl gid
                (fun c => { c with buf := c.buf.set [] j (have' ++ l.take k), bufBad := c.bufBad.set [] j (c.bufBad.get [] j ++ b.take k)
                                   heard := c.heard.set 0 j u.now }))
            u.sendMember n t.hold g j 0x20 (fun m => { m with span := given })) s
    | _, _ => s
/-- What a group's progress allows at once: taking, sending, ending. -/
def State.collMove (s : State) (n gid : Nat) : State :=
  let s := s.collTake n gid
  let fuel := match (s.stall? n).bind (fun t => t.relay.coll? gid) with
    | none => 0
    | some c => collFuel c
  (State.collSend n gid fuel s).collFinish n gid

/-! Starting (R394). -/

/-- Read SRC and begin to send: a member's own part is in hand at once. A fault of SRC ends the command. -/
def State.collBegin (s : State) (n gid : Nat) : State :=
  match s.stall? n with
  | none => s
  | some t =>
    match t.relay.group? gid, t.relay.coll? gid with
    | some g, some c =>
      match s.started? n c.qk c.pos with
      | none => s
      | some e =>
        let sends := e.collOp ≠ 3 || e.u8 0x0B = g.index
        let len := if !sends then 0 else if e.splits then e.partBytes * g.members.length else e.partBytes
        let r := s.readRun (relayWho n c.qk e.asn) (e.u64 0x10) len rRead
        let st := addMets false (e.status, e.detail) r.1.met (r.1.poison.any id)
        if metsStop r.1.met then r.2.collEnd n c st 0
        else
          let s := r.2.modEntry n c.qk c.pos (fun x => { x with status := st.1, detail := st.2, beginAt := s.now, sideEffect := true })
          let tos := if sends then g.others else []
          let s := s.modRelay n (fun r' => r'.modColl gid (fun c =>
            { c with begun := true
                     toSend := forAll tos (fun j a => a.set [] j (e.pieceFor r.1.bytes j)) []
                     bad := forAll tos (fun j a => a.set [] j (e.pieceFor r.1.poison j)) []
                     buf := if sends then c.buf.set [] g.index (e.pieceFor r.1.bytes g.index) else c.buf
                     bufBad := if sends then c.bufBad.set [] g.index (e.pieceFor r.1.poison g.index) else c.bufBad }))
          s.collMove n gid
    | _, _ => s
/-- A member that waits for the others begins when a COLL_READY of each has come, and uses them up. -/
def State.collReadyCheck (s : State) (n gid : Nat) : State :=
  match s.stall? n with
  | none => s
  | some t =>
    match t.relay.group? gid, t.relay.coll? gid with
    | some g, some c =>
      if (s.started? n c.qk c.pos).any (fun e => e.u64 0x28 = 0) && !c.begun && g.others.all (fun j => 0 < g.ready.get 0 j) then
        (s.modRelay n (fun r => r.modGroup gid (fun g => { g with ready := forAll g.others (fun j a => a.upd 0 j (· - 1)) g.ready }))).collBegin n gid
      else s
    | _, _ => s

/-- Is a COLLECTIVE of the group, accepted earlier in the stall, still to end (R393). -/
def Stall.collAhead (t : Stall) (k : Nat) (e : Entry) : Bool :=
  t.queues.any (fun q => q.2.entries.any (fun x =>
    x.opcode = 0x32 && x.u32 0x0C = e.u32 0x0C && !x.isOver && (q.1, x.pos) ≠ (k, e.pos)
    && (decide (x.acceptAt < e.acceptAt) || (x.acceptAt = e.acceptAt && (decide (q.1 < k) || (q.1 = k && decide (x.asn.toNat < e.asn.toNat)))))))
/-- COLLECTIVE (R393, R394). -/
def collective (q : QueueId) (s : State) : State :=
  let n := q.stall
  let k := queueKey q
  match s.startable n k 0x32 with
  | none => s
  | some (t, _, e) =>
    if t.collAhead k e then s
    else s.begin q 0x32 (fun e u =>
      let gid := e.u32 0x0C
      let group := (u.stall? n).bind (fun t => t.relay.group? gid)
      let fails := match group with
        | none => true
        | some g => (e.collOp = 3 && decide (g.members.length ≤ e.u8 0x0B))
            || g.others.any (fun j => (g.members[j]?).all (fun (x : Nat × Nat) => (u.stallPort t.hold 0xFF x.1).isNone))
      match group with
      | none => u.modEntry n k e.pos (fun x => { x.finish stNotRun 0x0D 0 with startAt := 0 })
      | some g =>
        if fails then u.modEntry n k e.pos (fun x => { x.finish stNotRun 0x0D 0 with startAt := 0 })
        else
          let at' := e.u64 0x28
          let c : Coll := { qk := k, pos := e.pos, group := gid, begun := false, toSend := [], bad := [], buf := [], bufBad := []
                            heard := forAll ((e.givers g).filter (· ≠ g.index)) (fun j a => a.set 0 j u.now) [] }
          let u := (u.modEntry n k e.pos (fun x =>
            { x with sideEffect := true, lateRef := if at' = 0 then x.lateRef else some at' })).modRelay n (fun r => { r with colls := r.colls ++ [c] })
          if at' = 0 then
            (forAll g.others (fun j (v : State) => v.sendMember n t.hold g j 0x21 id) u).collReadyCheck n gid
          else u)
/-- COLLECTIVE_LAUNCH (R394): at the first step at or after LAUNCH_AT at which the command has started. -/
def collectiveLaunch (q : QueueId) (pos : U32) (s : State) : State :=
  match s.started? q.stall (queueKey q) pos with
  | none => s
  | some e =>
    if e.opcode ≠ 0x32 || e.u64 0x28 = 0 then s
    else match (s.stall? q.stall).bind (fun t => List.find? (fun (c : Coll) => c.qk = queueKey q && c.pos = pos && !c.begun) t.relay.colls) with
      | none => s
      | some c =>
        let s := s.advance (e.u64 0x28)
        (s.modRelay q.stall (fun r => r.modColl c.group (fun c => { c with heard := c.heard.map (fun h => (h.1, s.now)) }))).collBegin q.stall c.group
/-- How long a member waits for data it needs. -/
def collLimit : Nat := 16000000
/-- COLLECTIVE_TIMEOUT (R394). DESIGN CHOICE, log 59. -/
def collectiveTimeout (q : QueueId) (pos : U32) (s : State) : State :=
  match s.stall? q.stall, s.started? q.stall (queueKey q) pos with
  | some t, some e =>
    match List.find? (fun (c : Coll) => c.qk = queueKey q && c.pos = pos) t.relay.colls with
    | none => s
    | some c =>
      let late := (c.heard.filter (fun h => (c.buf.get [] h.1).length < e.partBytes)).map (·.2)
      match late, c.begun || e.u64 0x28 = 0 with
      | a :: l, true => (s.advance (l.foldl min a + collLimit)).collEnd q.stall c (stPartial, 0x0D) 0
      | _, _ => s
  | _, _ => s

/-! Messages. -/

/-- COLL (R393): data land in the sender's share of STAGE; without data the message gives credit back. PRESUMED, log 53. -/
def collBody (m : LinkMsg) (s : State) : State :=
  match (s.stall? m.dstStall).bind (fun t => t.relay.group? m.addr) with
  | none => s
  | some g =>
    match g.memberOf m with
    | none => s
    | some j =>
      if m.data.isEmpty then
        (s.modRelay m.dstStall (fun r => r.modGroup g.id (fun g => { g with freed := g.freed.set 0 j (max (g.freed.get 0 j) m.span) }))).collMove m.dstStall g.id
      else
        let at' := g.got.get 0 j % g.share
        let who : Who := { stall := m.dstStall, ctx := g.ctx, engine := 2, queue := 0, asn := 0 }
        let put (o : Nat) (l : List Byte) (a : Bool × State) : Bool × State :=
          let r := a.2.writeRun who (g.shareAt j + o) l (List.replicate l.length m.poison) rWrite
          (a.1 && !metsStop r.1.2, r.2)
        let r := put 0 (m.data.drop (g.share - at')) (put at' (m.data.take (g.share - at')) (true, s))
        if !r.1 then r.2
        else
          (r.2.modRelay m.dstStall (fun r => r.modGroup g.id (fun g =>
            { g with got := g.got.set 0 j (g.got.get 0 j + m.data.length), inbox := g.inbox.set [] j (g.inbox.get [] j ++ m.data)
                     bad := g.bad.set [] j (g.bad.get [] j ++ List.replicate m.data.length m.poison) }))).collMove m.dstStall g.id
/-- COLL_READY (R394). -/
def collReadyBody (m : LinkMsg) (s : State) : State :=
  match (s.stall? m.dstStall).bind (fun t => t.relay.group? m.addr) with
  | none => s
  | some g =>
    match g.memberOf m with
    | none => s
    | some j => (s.modRelay m.dstStall (fun r => r.modGroup g.id (fun g => { g with ready := g.ready.set 0 j (g.ready.get 0 j + 1) }))).collReadyCheck m.dstStall g.id

/-- What a stall's message does, by its opcode (R386–R393). -/
def linkBody (p : LinkPort) (op : Nat) (m : LinkMsg) (s : State) : State :=
  match op with
  | 0x10 => wrBody p m s
  | 0x11 => wrAckBody m s
  | 0x12 => rdBody p m s
  | 0x13 => rdDataBody m s
  | 0x20 => collBody m s
  | _ => s
/-- Stall traffic that waited in a receive buffer through a warm reset is taken up in order (R544). -/
def State.takeInbox (s : State) (p : LinkPort) : State :=
  forAll (s.tlp p).inbox (fun x u => u.arrive p x.1 x.2 none (linkBody p x.1 x.2)) (s.setTlp p (fun t => { t with inbox := [] }))

/-! Groups (R392). -/

/-- GROUP_SET (R392). -/
def groupSetForm (m : Req) : MbForm :=
  let bad (p : List Byte) : Option Nat :=
    let n := f8 p 4
    lowest (badIf (f32 p 0 = 0) 0 ++ badIf (n < 2 || 64 < n) 4 ++ badIf (n ≤ f8 p 5) 5 ++ badIf (f64 p 8 % 65536 ≠ 0) 8
      ++ badIf (f64 p 16 % 65536 ≠ 0 || f64 p 16 < n * 65536) 16)
  { form 0x0051 false true (if m.payload.length < 24 then 24 else 24 + 2 * f8 m.payload 4) [(7, 1)] with bad := bad }
/-- GROUP_SET: at most 16 groups; a group with a collective running keeps its list. -/
def groupSet (m : Req) (s : State) : State :=
  let f := groupSetForm m
  s.mbServeA f m (fun s =>
    let n := stallArg f m
    let p := m.payload
    match s.stall? n with
    | none => (refuse 0xFF, s)
    | some t =>
      let id := f32 p 0
      let rest := t.relay.groups.filter (fun g => g.id ≠ id)
      if (t.ctx? (f8 p 6)).isNone || 16 ≤ rest.length || (t.relay.coll? id).isSome then s.refuseFree
      else
        let g : Group :=
          { id := id, index := f8 p 5, ctx := f8 p 6, stage := f64 p 8, stageBytes := f64 p 16
            members := (List.range (f8 p 4)).map (fun i => (f8 p (24 + 2 * i), f8 p (25 + 2 * i)))
            inbox := [], bad := [], got := [], given := [], sent := [], freed := [], ready := [] }
        (ok, s.modRelay n (fun r => { r with groups := rest ++ [g] })))
/-- GROUP_CLEAR (R392). -/
def groupClearForm : MbForm := form 0x0052 false true 4 []
/-- GROUP_CLEAR: answered once the group has no collective running. -/
def groupClear (m : Req) (s : State) : State :=
  let f := groupClearForm
  s.mbServe f m (fun s =>
    let n := stallArg f m
    match (s.stall? n).bind (fun t => t.relay.group? (f32 m.payload 0)) with
    | none => let r := s.refuseFree; r.2.mbAnswer m 0x0052 r.1
    | some g => (s.modRelay n (fun r => { r with clears := r.clears ++ [(m, g.id)] })).settleClears n)

def execCollective (q : QueueId) (s : State) : Host.Outcome State Fault Refusal := .next (collective q s)
def execCollectiveLaunch (q : QueueId) (pos : U32) (s : State) : Host.Outcome State Fault Refusal := .next (collectiveLaunch q pos s)
def execCollectiveTimeout (q : QueueId) (pos : U32) (s : State) : Host.Outcome State Fault Refusal := .next (collectiveTimeout q pos s)
def execColl (p : LinkPort) (m : LinkMsg) (s : State) : Host.Outcome State Fault Refusal := s.onLink p (s.arrive p 0x20 m none (collBody m))
def execCollReady (p : LinkPort) (m : LinkMsg) (s : State) : Host.Outcome State Fault Refusal := s.onLink p (s.arrive p 0x21 m none (collReadyBody m))
def execGroupSet (m : MbReq) (s : State) : Host.Outcome State Fault Refusal := .next (groupSet (plain m) s)
def execGroupClear (m : MbReq) (s : State) : Host.Outcome State Fault Refusal := .next (groupClear (plain m) s)

end Sys2Proof.Machine
end

