-- ==== Sys2Proof/Machine/Commands.lean ====
section
/-! DEFINITION. The commands of the queues other than kernels, remote memory, collectives and Drover: waits, gates,
semaphores, fences, receipts and copies (R220–R224, R466, R470). -/

namespace Sys2Proof.Machine

/-- NOP (R220). -/
def nopCmd (q : QueueId) (s : State) : State :=
  s.begin q 0x01 (fun e s => s.finish q.stall (queueKey q) e.pos stDone 0 0)

/-! Time and gates. -/

/-- WAIT_AT (R224): an AT already passed passes at once. -/
def waitAt (q : QueueId) (s : State) : State :=
  s.begin q 0x08 (fun e s => if e.u64 8 ≤ s.now then s.passWait q.stall (queueKey q) e.pos s.nowW (e.u64 8) else s)
/-- WAIT_AT_PASS: the first step whose GTB value is at or after AT. -/
def waitAtPass (q : QueueId) (pos : U32) (s : State) : State :=
  match s.started? q.stall (queueKey q) pos with
  | none => s
  | some e =>
    if e.opcode ≠ 0x08 then s
    else
      let s := s.advance (e.u64 8)
      if e.u64 8 ≤ s.now then s.passWait q.stall (queueKey q) pos s.nowW (e.u64 8) else s
/-- WAIT_GATE (R224): a gate already FIRED passes at once and stays FIRED. -/
def waitGate (q : QueueId) (s : State) : State :=
  s.begin q 0x09 (fun e s =>
    match e.gate with
    | none => s
    | some g =>
      let x := s.gate g
      if x.st = .fired then s.passWait q.stall (queueKey q) e.pos x.firedAt x.cmp.toNat else s)

/-- GATE_STATE (R79). -/
def Gate.stateWord (x : Gate) : U64 :=
  let st : Nat := match x.st with
    | .idle => 0 | .armed => 1 | .waking => 2 | .fired => 3
  BitVec.ofNat 64 (st + 4 * x.lateArm.toNat + 8 * x.pastArm.toNat + 2 ^ 16 * x.fireCount.toNat)
/-- GATE_ARM (R224): CMP, PREROLL and WAKE_N, then ARM, as the time page would; they take effect at the next step boundary
and VALUE is GATE_STATE after that. -/
def gateArm (q : QueueId) (s : State) : State :=
  s.begin q 0x0A (fun e s =>
    match e.gate with
    | none => s
    | some g =>
      let s := s.modEntry q.stall (queueKey q) e.pos (fun x => { x with sideEffect := true })
      let s := s.setGate g (fun x => { x with stagedLo := some (BitVec.ofNat 32 (e.u64 0x10)), wakeN := BitVec.ofNat 10 (e.u16 0x0A) })
      let s := ((s.landGate g (.cmp (BitVec.ofNat 64 (e.u64 0x10)))).landGate g (.preroll (BitVec.ofNat 32 (e.u32 0x0C)))).landGate g .arm
      let s := if h : g < 256 then gateWriteTakesEffect ⟨g, h⟩ s else s
      s.finish q.stall (queueKey q) e.pos stDone 0 (s.gate g).stateWord)
/-- GATE_DISARM (R224). -/
def gateDisarm (q : QueueId) (s : State) : State :=
  s.begin q 0x0B (fun e s =>
    match e.gate with
    | none => s
    | some g =>
      let s := s.modEntry q.stall (queueKey q) e.pos (fun x => { x with sideEffect := true })
      (s.landGate g .disarm).finish q.stall (queueKey q) e.pos stDone 0 0)

/-- A command that writes `bs` at a stall address and reports `v`. -/
def State.writeFor (s : State) (n k : Nat) (e : Entry) (va : Nat) (bs : List Byte) (v : U64) : State :=
  let r := s.writeRun (cmdWho n k e) va bs (List.replicate bs.length false) rWrite
  let st := r.1.2.foldl (addMet true) (0, 0)
  r.2.finish n k e.pos (finalStatus st).1 (finalStatus st).2 (if st.1 = 0 then v else 0)
/-- TIMESTAMP (R224). -/
def timestamp (q : QueueId) (s : State) : State :=
  s.begin q 0x0C (fun e s => s.writeFor q.stall (queueKey q) e (e.u64 8) (leBytes 8 s.nowW.toNat) s.nowW)

/-! Semaphores and queues. -/

/-- SEM_SIGNAL (R222, R224): SET, wrapping ADD or unsigned MAX, atomic; VALUE is the value before. -/
def semSignal (q : QueueId) (s : State) : State :=
  s.begin q 0x10 (fun e s =>
    let n := q.stall
    let k := queueKey q
    let s := s.modEntry n k e.pos (fun x => { x with sideEffect := nonReplayable e.bytes })
    let op : AtomicOp := match e.u8 0x18 with
      | 1 => .add | 2 => .umax | _ => .swap
    let r := s.atomic (cmdWho n k e) (e.u64 8) 8 op (e.u64 0x10)
    let st := finalStatus (addMet true (0, 0) r.2.1)
    r.2.2.finish n k e.pos st.1 st.2 (BitVec.ofNat 64 (r.1.getD 0)))

/-- COND of SEM_WAIT (R222). -/
def semHolds (cond v want : Nat) : Bool :=
  match cond with
  | 0 => decide (want ≤ v) | 1 => v = want | _ => v ≠ want
/-- One read of a SEM_WAIT that has met poison as `p` says: it passes where COND holds, keeps the value read, waits on where the
read gave poison, which is no value and holds no COND (R414), and ends where the read was denied. A wait that has met poison
ends POISON_CONSUMED. DEDUCED, log 98. -/
def State.semRead (s : State) (n k : Nat) (e : Entry) (p : Option Byte) : State :=
  let r := s.readPiece (cmdWho n k e) (e.u64 8) 8 rRead rRead accRead
  let v := leNat r.1
  let wait (p : Option Byte) (v : U64) : State := r.2.2.modEntry n k e.pos (fun x => { x with value := v, poll := p })
  let pass : Byte × Byte := match p with | none => (stDone, 0) | some d => (stPoison, d)
  match r.2.1 with
  | .ok => if semHolds (e.u8 0x18) v (e.u64 0x10) then r.2.2.finish n k e.pos pass.1 pass.2 (BitVec.ofNat 64 v) else wait p (BitVec.ofNat 64 v)
  | .poisoned => wait (some (p.getD 0)) e.value
  | .conflict => wait (some 0x03) e.value
  | .retired => r.2.2.finish n k e.pos stPartial 0x05 0
  | .stops d => r.2.2.finish n k e.pos stPartial d 0
/-- SEM_WAIT (R224): its first read is at its start. -/
def semWait (q : QueueId) (s : State) : State := s.begin q 0x11 (fun e s => s.semRead q.stall (queueKey q) e none)
/-- SEM_WAIT_PASS: a further read of a waiting SEM_WAIT. -/
def semWaitPass (q : QueueId) (pos : U32) (s : State) : State :=
  match s.started? q.stall (queueKey q) pos with
  | none => s
  | some e => if e.opcode = 0x11 && (e.u64 0x20 = 0 || s.now < e.startAt + e.u64 0x20) then s.semRead q.stall (queueKey q) e e.poll else s
/-- SEM_WAIT_TIMEOUT (R228): TIMEOUT gticks after its start, with the last value read, or POISON_CONSUMED where a read gave
poison; the spec states no VALUE for that. DEDUCED, log 98. -/
def semWaitTimeout (q : QueueId) (pos : U32) (s : State) : State :=
  match s.started? q.stall (queueKey q) pos with
  | none => s
  | some e =>
    if e.opcode = 0x11 && e.u64 0x20 ≠ 0 then
      let s := s.advance (e.startAt + e.u64 0x20)
      match e.poll with
      | none => s.finish q.stall (queueKey q) pos stPartial 0x07 e.value
      | some d =>
        let r := s.draw 64
        r.2.finish q.stall (queueKey q) pos stPoison d r.1
    else s

/-- The COMPLETED_ASN of the queue a WAIT_QUEUE names, and whether it passes: its own queue never does. DEDUCED, log 91. -/
def State.waitQueueValue (s : State) (n k : Nat) (e : Entry) : U64 × Bool :=
  let j := qkey (qkCtx k) (e.u8 8) (e.u8 9)
  match s.queue? n j with
  | none => (0, false)
  | some q => (q.completedAsn, j ≠ k && decide (e.u64 0x10 ≤ q.completedAsn.toNat))
/-- WAIT_QUEUE (R224). DEDUCED, log 91. -/
def waitQueue (q : QueueId) (s : State) : State :=
  s.begin q 0x12 (fun e s =>
    let r := s.waitQueueValue q.stall (queueKey q) e
    if r.2 then s.finish q.stall (queueKey q) e.pos stDone 0 r.1 else s)
/-- WAIT_QUEUE_TIMEOUT (R228). -/
def waitQueueTimeout (q : QueueId) (pos : U32) (s : State) : State :=
  match s.started? q.stall (queueKey q) pos with
  | none => s
  | some e =>
    if e.opcode = 0x12 && e.u64 0x18 ≠ 0 then
      let s := s.advance (e.startAt + e.u64 0x18)
      s.finish q.stall (queueKey q) pos stPartial 0x07 (s.waitQueueValue q.stall (queueKey q) e).1
    else s
/-- FENCE (R224, R226): every earlier command of the queue has ended as it starts, remote writes at their peers included,
and the model's memory is visible at every scope, so it ends at once. -/
def fence (q : QueueId) (s : State) : State :=
  s.begin q 0x13 (fun e s => s.finish q.stall (queueKey q) e.pos stDone 0 0)

/-! Receipts (R468–R470). -/

/-- The 128 bytes of a command record (R468). -/
def CmdRec.bytes (r : CmdRec) : List Byte :=
  leBytes 8 r.asn.toNat ++ [r.opcode, r.status, r.detail, 0] ++ leBytes 4 r.tag.toNat ++ leBytes 8 r.value.toNat
    ++ leBytes 8 r.endAt.toNat ++ digestBytes r.cmdDigest ++ digestBytes r.dataDigest
/-- The records a RECEIPT covers: from FIRST_ASN to the position before its own, by position. -/
def Queue.receiptRecs (q : Queue) (e : Entry) : List CmdRec :=
  let all := q.records ++ ((q.entries.filter (fun x => x.st = .ended)).map Entry.cmdRec)
  match all.find? (fun r => r.asn.toNat = e.u64 0x10) with
  | none => []
  | some f =>
    let cnt := (e.pos - f.pos).toNat
    (List.range cnt).filterMap (fun i => all.find? (fun r => r.pos = f.pos + BitVec.ofNat 32 i))
/-- The head of a receipt without its signature (R470). -/
def receiptHead (t : Stall) (n k : Nat) (e : Entry) (recs : List CmdRec) (now : Nat) : List Byte :=
  [0x52, 0x43, 0x50, 0x54, 1] ++ leBytes 1 n ++ leBytes 1 (qkCtx k) ++ leBytes 1 (qkQueue k + 8 * qkEngine k) ++ leBytes 8 (e.u64 0x10)
    ++ leBytes 8 (((recs.getLast?).map (·.asn.toNat)).getD 0) ++ leBytes 4 recs.length ++ leBytes 4 t.man.epoch ++ leBytes 8 now
    ++ zeros 8 ++ slice e.bytes 0x18 32 ++ digestBytes Config.idDigest ++ digestBytes t.man.planDigest ++ digestBytes t.attest.digest
    ++ digestBytes (Config.sha384 (recs.flatMap CmdRec.bytes))
/-- RECEIPT (R470): the signed head and the records, or FAULTED_PARTIAL with VALUE 0 where the area is not writable. -/
def receipt (q : QueueId) (s : State) : State :=
  s.begin q 0x14 (fun e s =>
    let n := q.stall
    let k := queueKey q
    match s.stall? n, s.queue? n k with
    | some t, some x =>
      let recs := x.receiptRecs e
      let head := receiptHead t n k e recs s.nowW.toNat
      let sig := (Config.attestSign (Config.sha384 head) s.free).toList
      let s := { s with free := s.free + 1 }
      let s := s.modEntry n k e.pos (fun x => { x with sideEffect := true })
      s.writeFor n k e (e.u64 8) (head ++ sig ++ zeros 16 ++ recs.flatMap CmdRec.bytes) (BitVec.ofNat 64 recs.length)
    | _, _ => s)

/-! Copies. -/

def startMoved (e : Entry) : Moved := { done := e.progress, status := (e.status, e.detail), halted := false, data := [] }
/-- Pieces a chunk can take. -/
def chunkFuel : Nat := chunkBytes + 1
/-- Move the next chunk of a transfer between two plain sides. -/
def State.moveChunk (s : State) (n : StallNo) (k : Nat) (e : Entry) (total : Nat) (src : Source) (dst : Dest) : State :=
  let r := moveRun src dst (chunkEnd e.progress total) chunkFuel e.progress (startMoved e) s
  r.2.settleMove n k e total r.1

/-- One side of a copy by its KIND, 0 or 1. -/
def sideSource (n : Nat) (w : Who) (kind : Nat) (other : Nat) (a room : Nat → Nat) : Source :=
  if kind = 1 then hostSource n a room else stallSource w (other = 1) a room
def sideDest (n : Nat) (w : Who) (kind : Nat) (other : Nat) (a room : Nat → Nat) : Dest :=
  if kind = 1 then hostDest n a room else stallDest w (other = 1) a room

/-- May a bounce data page's counter be accepted (R456): it rises within the transfer and passes the high-water mark; a
replay takes the counters of its first execution again. -/
def bounceFresh (e : Entry) (last hw c : Nat) : Bool :=
  decide (last < c) && (decide (hw < c) || (decide (0 < e.replays) && decide (e.aux0.toNat ≤ c) && decide (c ≤ e.aux1.toNat)))

/-- Move pages of a copy between stall memory and a bounce area, from page `i` on, at most `fuel` pages (R455–R457). -/
def bouncePages (n : StallNo) (k : Nat) (pos : U32) (toHost : Bool) (w : Who) (id src dst total fin : Nat) : Nat → Moved → State → Moved × State
  | 0, m, s => (m, s)
  | fuel + 1, m, s =>
    if fin ≤ m.done || m.halted then (m, s)
    else
      let pg := m.done / 4096
      if toHost then
        let g := s.readRun w (src + m.done) 4096 rRead
        let st := g.1.met.foldl (addMet false) (if g.1.poison.any (fun x => x) then addMet false m.status .poisoned else m.status)
        if g.1.met.any Met.isStop then ({ m with status := st, halted := true }, g.2)
        else match g.2.sealPage id n k 0 dst (total / 4096) pg g.1.bytes with
          | none => ({ m with status := addMet true st (.stops 0x04), halted := true }, g.2)
          | some u => bouncePages n k pos toHost w id src dst total fin fuel
              { m with done := m.done + 4096, status := st, data := m.data ++ fit 4096 g.1.bytes } u
      else
        match s.sessions.find? id, (s.queue? n k).bind (fun q => q.entry? pos) with
        | some x, some e =>
          match s.openPage x n k 0 src (total / 4096) pg (bounceFresh e e.lastCtr (x.counter k 0)) with
          | .bad => ({ m with status := addMet false m.status (.stops 0x04), halted := true }, s)
          | .page c plain =>
            let s := s.setCounter id k 0 (max c (x.counter k 0))
            let s := s.modEntry n k pos (fun y =>
              { y with lastCtr := c, aux0 := if y.aux0 = 0 then BitVec.ofNat 64 c else y.aux0
                       aux1 := if y.aux1.toNat < c then BitVec.ofNat 64 c else y.aux1 })
            let r := s.writeRun w (dst + m.done) plain (List.replicate plain.length false) rWrite
            let st := r.1.2.foldl (addMet true) m.status
            if r.1.2.any Met.isStop then ({ m with done := m.done + r.1.1, status := st, halted := true }, r.2)
            else bouncePages n k pos toHost w id src dst total fin fuel
              { m with done := m.done + 4096, status := st, data := m.data ++ plain } r.2
        | _, _ => ({ m with status := addMet false m.status (.stops 0x04), halted := true }, s)

/-- The next chunk of a COPY. -/
def State.copyChunk (s : State) (n : StallNo) (k : Nat) (e : Entry) : State :=
  let w := cmdWho n k e
  let total := e.u64 0x18
  let sk := e.u8 0x20
  let dk := e.u8 0x21
  if sk = 2 || dk = 2 then
    let r := bouncePages n k e.pos (dk = 2) w (e.u32 0x24) (e.u64 8) (e.u64 0x10) total (chunkEnd e.progress total) chunkFuel (startMoved e) s
    r.2.settleMove n k e total r.1
  else
    s.moveChunk n k e total (sideSource n w sk dk (fun t => e.u64 8 + t) (fun t => total - t))
      (sideDest n w dk sk (fun t => e.u64 0x10 + t) (fun t => total - t))
/-- COPY (R223, R224, R459): a session that has ended as the command starts ends it FAULTED_NOT_RUN with DETAIL 0x04. -/
def copy (q : QueueId) (s : State) : State :=
  s.transfer q 0x20
    (fun e s => if (e.u8 0x20 = 2 || e.u8 0x21 = 2) && (s.session? (e.u32 0x24)).isNone then some (stNotRun, 0x04) else none)
    (fun e s => s.copyChunk q.stall (queueKey q) e)
/-- COPY_STRIDED (R223, R224): ROWS rows of ROW_BYTES at the two pitches. -/
def copyStrided (q : QueueId) (s : State) : State :=
  s.transfer q 0x21 (fun _ _ => none) (fun e s =>
    let w := cmdWho q.stall (queueKey q) e
    let rb := e.u32 0x18
    let at' (base pitch t : Nat) : Nat := base + t / rb * pitch + t % rb
    let room (t : Nat) : Nat := rb - t % rb
    s.moveChunk q.stall (queueKey q) e (rb * e.u32 0x1C)
      (sideSource q.stall w (e.u8 0x28) (e.u8 0x29) (at' (e.u64 8) (e.u32 0x20)) room)
      (sideDest q.stall w (e.u8 0x29) (e.u8 0x28) (at' (e.u64 0x10) (e.u32 0x24)) room))
/-- FILL (R223, R224): the low PAT_BYTES bytes of PATTERN, repeated. -/
def fill (q : QueueId) (s : State) : State :=
  s.transfer q 0x22 (fun _ _ => none) (fun e s =>
    let w := cmdWho q.stall (queueKey q) e
    let total := e.u64 0x10
    s.moveChunk q.stall (queueKey q) e total (fillSource (slice e.bytes 0x18 (e.u8 0x20)))
      (stallDest w false (fun t => e.u64 8 + t) (fun t => total - t)))

/-- The sealed pages of a SEALED_LOAD from where it stands, at most `fuel` of them (R466). DEDUCED, log 75. -/
def sealedPages (w : Who) (im : SealedImage) (src dst first fin : Nat) : Nat → Moved → State → Moved × State
  | 0, m, s => (m, s)
  | fuel + 1, m, s =>
    if fin ≤ m.done || m.halted then (m, s)
    else
      let i := m.done / 4096
      let p := first + i
      let g := s.readRun w (src + 4112 * i) 4112 rRead
      let st := g.1.met.foldl (addMet false) m.status
      if g.1.met.any Met.isStop then ({ m with status := st, halted := true }, g.2)
      else
        let opened := if g.1.poison.any (fun x => x) then none
          else Config.gcmOpen im.key (leBytes 8 p ++ zeros 4) (im.imageId ++ leBytes 8 p) g.1.bytes
        match opened with
        | none =>
          let r := g.2.writeRun w (dst + 4096 * i) (zeros 4096) (List.replicate 4096 true) rWrite
          ({ m with status := addMet false st (.stops 0x0E), halted := true }, r.2)
        | some plain =>
          let r := g.2.writeRun w (dst + 4096 * i) (fit 4096 plain) (List.replicate 4096 false) rWrite
          let st := r.1.2.foldl (addMet true) st
          if r.1.2.any Met.isStop then ({ m with done := m.done + r.1.1, status := st, halted := true }, r.2)
          else sealedPages w im src dst first fin fuel { m with done := m.done + 4096, status := st } r.2
/-- SEALED_LOAD (R466). -/
def sealedLoad (q : QueueId) (s : State) : State :=
  let n := q.stall
  let image (e : Entry) (s : State) : Option SealedImage := (s.stall? n).bind (fun t => t.attest.images.find? (e.u32 0x24))
  s.transfer q 0x23
    (fun e s =>
      match image e s with
      | none => some (stNotRun, 0x0E)
      | some im => if im.pages < (e.u64 0x28 + e.u64 0x18) / 4096 then some (stNotRun, 0x0E) else none)
    (fun e s =>
      match image e s with
      | none => s.finish n (queueKey q) e.pos stPartial 0x0E (BitVec.ofNat 64 e.progress)
      | some im =>
        let total := e.u64 0x18
        let r := sealedPages (cmdWho n (queueKey q) e) im (e.u64 8) (e.u64 0x10) (e.u64 0x28 / 4096) (chunkEnd e.progress total) chunkFuel (startMoved e) s
        (r.2.settleMove n (queueKey q) e total r.1).modEntry n (queueKey q) e.pos (fun x => { x with dataDigest := im.digest }))

def execNop (q : QueueId) (s : State) : Host.Outcome State Fault Refusal := .next (nopCmd q s)
def execWaitAt (q : QueueId) (s : State) : Host.Outcome State Fault Refusal := .next (waitAt q s)
def execWaitAtPass (q : QueueId) (pos : U32) (s : State) : Host.Outcome State Fault Refusal := .next (waitAtPass q pos s)
def execWaitGate (q : QueueId) (s : State) : Host.Outcome State Fault Refusal := .next (waitGate q s)
def execGateArm (q : QueueId) (s : State) : Host.Outcome State Fault Refusal := .next (gateArm q s)
def execGateDisarm (q : QueueId) (s : State) : Host.Outcome State Fault Refusal := .next (gateDisarm q s)
def execTimestamp (q : QueueId) (s : State) : Host.Outcome State Fault Refusal := .next (timestamp q s)
def execSemSignal (q : QueueId) (s : State) : Host.Outcome State Fault Refusal := .next (semSignal q s)
def execSemWait (q : QueueId) (s : State) : Host.Outcome State Fault Refusal := .next (semWait q s)
def execSemWaitPass (q : QueueId) (pos : U32) (s : State) : Host.Outcome State Fault Refusal := .next (semWaitPass q pos s)
def execSemWaitTimeout (q : QueueId) (pos : U32) (s : State) : Host.Outcome State Fault Refusal := .next (semWaitTimeout q pos s)
def execWaitQueue (q : QueueId) (s : State) : Host.Outcome State Fault Refusal := .next (waitQueue q s)
def execWaitQueueTimeout (q : QueueId) (pos : U32) (s : State) : Host.Outcome State Fault Refusal := .next (waitQueueTimeout q pos s)
def execFence (q : QueueId) (s : State) : Host.Outcome State Fault Refusal := .next (fence q s)
def execReceipt (q : QueueId) (s : State) : Host.Outcome State Fault Refusal := .next (receipt q s)
def execCopy (q : QueueId) (s : State) : Host.Outcome State Fault Refusal := .next (copy q s)
def execCopyStrided (q : QueueId) (s : State) : Host.Outcome State Fault Refusal := .next (copyStrided q s)
def execFill (q : QueueId) (s : State) : Host.Outcome State Fault Refusal := .next (fill q s)
def execSealedLoad (q : QueueId) (s : State) : Host.Outcome State Fault Refusal := .next (sealedLoad q s)

end Sys2Proof.Machine
end

