-- ==== Sys2Proof/Machine/Host.lean ====
section
/-! DEFINITION. The host ports' events and accesses (R170–R202): loss and return of a port, function-level resets, SR-IOV,
cause enables, the BAR2 window and selective IDE. -/

namespace Sys2Proof.Machine

/-- HOST_PORT_LOSS (R197, R200). A link that was not up only takes its instances' reset values. DEDUCED, log 23. -/
def hostPortLoss (p : HostPort) (why : PortLoss) (s : State) : State :=
  let s := if why = .perst then s.setPort p (fun x => { x with perst := true }) else s
  if (s.port p).linkUp then s.losePort p else s.resetPort p
/-- HOST_PORT_LINK_UP (R200): the link trains, unless the port's I/O die is retired. A port that was lost is back. DEDUCED, log 23. -/
def hostPortLinkUp (p : HostPort) (s : State) : State :=
  if !s.running || has s.pkg.deadIodie p then s
  else
    let was := s.port p
    let s := s.setPort p (fun x => { x with perst := false, linkUp := true, lost := false })
    if !was.lost then s
    else
      let s := { s with host := { s.host with unreach := s.host.unreach &&& s.unreachable } }
      (s.hostEvt evtPortBack).tellStalls p
/-- FLR (R200). DEDUCED, log 22. -/
def flr (f : Fn) (s : State) : State :=
  match f with
  | .pf0 p => s.setPf p (fun _ => PfInst.init)
  | .vf p n => s.setVf p n (fun _ => VfInst.init)
  | .rtp => s
/-- SRIOV_CONFIG_WRITE (R174): what the host sees changes, and nothing in any stall. DESIGN CHOICE, log 21. DEDUCED, log 22. -/
def sriovConfigWrite (p : HostPort) (enable : Bool) (num : U16) (s : State) : State :=
  s.setPf p (fun i => { i with vfEnable := enable, numVfs := num })

/-- Cause bits whose enable goes from 0 to 1 while they are 1 (R186). -/
def armedCauses {w : Nat} (cause was now : BitVec w) : List Nat := members (cause &&& now &&& ~~~ was)
/-- CAUSE_ENABLE_WRITE (R186, R188). Bits above the register's own are reserved and read 0. -/
def causeEnableWrite (f : Fn) (v : U32) (s : State) : State :=
  match f with
  | .pf0 p =>
    let i := s.pf p
    let en : BitVec 9 := v.setWidth 9
    forAll (armedCauses i.cause i.causeEn en) (fun b u => u.msiPf p b) (s.setPf p (fun i => { i with causeEn := en }))
  | .vf p n =>
    if (s.stall? n).isNone then s
    else
      let i := s.vf p n
      let en : BitVec 5 := v.setWidth 5
      forAll (armedCauses i.cause i.causeEn en) (fun _ u => u.msiVf p n 0) (s.setVf p n (fun i => { i with causeEn := en }))
  | .rtp => s

/-! BAR2 (R178). -/

/-- What a line of a BAR2 access comes to. -/
inductive Bar2Line where
  | to (addr slot : Nat)
  | refused (poison : Bool)
  | retired
  deriving DecidableEq, Repr
/-- A BAR2 access counts in the stall's counters (R280). -/
def State.bar2Count (s : State) (n : Nat) (f : MemStats → MemStats) : State := s.modStall n (fun t => { t with stats := f t.stats })
def State.bar2Deny (s : State) (n : Nat) : State := s.modStall n (fun t => { t with bar2Deny := satAdd t.bar2Deny 1 })
/-- Resolve one line of a BAR2 access at stall offset `o`: every region of the stall is a candidate (R272). DEDUCED, log 25. -/
def State.bar2Aim (s : State) (n : Nat) (o need : Nat) : Bar2Line × State :=
  match s.stall? n with
  | none => (.refused false, s)
  | some t =>
    if !t.hold.bar2En || t.hold.iso = 3 || t.hold.hbmBytes s.pkg.variant ≤ o / 64 * 64 then (.refused false, s.bar2Deny n)
    else
      let deny (u : State) : State := (u.bar2Deny n).bar2Count n (fun c => { c with accessFaults := satAdd c.accessFaults 1 })
      match resolve t.hold.regions (fun _ => true) o with
      | none => (.refused false, deny s)
      | some r =>
        let s := if r.multi then s.countMulti n none else s
        if !rightsOk r.rights (rDma + need) then (.refused false, deny s)
        else if r.conflict then
          (.refused true, ((s.bar2Deny n).bar2Count n (fun c => { c with conflicts := satAdd c.conflicts 1 })).meeErr 4 0 o)
        else match t.hold.place s.pkg.variant o with
          | none => (.refused false, deny s)
          | some (b, y) =>
            let a := bayAddr s.pkg.variant b y
            let k := t.hold.slotOf r.keyIndex
            if has t.hold.retired b then (.retired, s.meeErr 5 k a) else (.to a k, s)
/-- Read a run line by line, at most `fuel` lines: the bytes and whether any is poisoned. -/
def State.bar2ReadF (n : Nat) : Nat → Nat → Nat → State → List Byte × Bool × State
  | 0, _, _, s => ([], false, s)
  | fuel + 1, o, len, s =>
    if len = 0 then ([], false, s)
    else
      let k := pieceLen o len
      let g := s.bar2Aim n o rRead
      let d : List Byte × Bool × State := match g.1 with
        | .refused p => (zeros k, p, g.2)
        | .retired => (zeros k, true, g.2)
        | .to a slot => g.2.lineRead a k slot
      let rest := State.bar2ReadF n fuel (o + k) (len - k) d.2.2
      (d.1 ++ rest.1, d.2.1 || rest.2.1, rest.2.2)
/-- Write a run line by line. -/
def State.bar2WriteF (n : Nat) : Nat → Nat → List Byte → State → State
  | 0, _, _, s => s
  | fuel + 1, o, bs, s =>
    if bs.isEmpty then s
    else
      let k := pieceLen o bs.length
      let g := s.bar2Aim n o rWrite
      let s := match g.1 with
        | .to a slot => g.2.lineWrite a slot (bs.take k) false
        | _ => g.2
      State.bar2WriteF n fuel (o + k) (bs.drop k) s
/-- BAR2_READ (R178, R414): the completion, sent poisoned where any byte is. DEDUCED, log 25. -/
def bar2Read (p : HostPort) (n : StallNo) (ofs bytes : Nat) (s : State) : State :=
  if !s.vfSeen n p then s
  else
    let r := State.bar2ReadF n (bytes / 64 + 2) ((s.vf p n).bar2Base.toNat + ofs) bytes s
    r.2.2.emit (.readData (.vf p n) r.1 r.2.1)
/-- BAR2_WRITE (R178). -/
def bar2Write (p : HostPort) (n : StallNo) (ofs : Nat) (data : List Byte) (s : State) : State :=
  if !s.vfSeen n p then s
  else State.bar2WriteF n (data.length / 64 + 2) ((s.vf p n).bar2Base.toNat + ofs) data s

/-! Selective IDE (R201, R202). -/

def State.setStream (s : State) (p : HostPort) (k : Nat) (f : IdeStream → IdeStream) : State :=
  s.setPort p (fun x => { x with streams := x.streams.upd IdeStream.init k f })
/-- IDE_TLP_CHECK_FAIL (R202): the TLP is dropped and the stream is insecure. PRESUMED, log 24. -/
def ideTlpCheckFail (p : HostPort) (k : Fin 8) (s : State) : State :=
  s.setStream p k (fun x => if x.st = .active then { x with st := .insecure } else x)
/-- IDE_KM_REQUEST (R201): over a live session of the port's PF0. Keys for an inactive or insecure stream are programmed
with its associations and then set going; keys for an active one are a refresh. At most 4 address blocks are taken. PRESUMED, log 24. -/
def ideKmRequest (p : HostPort) (k : Fin 8) (op : IdeKm) (session : U32) (s : State) : State :=
  if !(s.session? session.toNat).any (fun x => x.fn = some (.pf0 p)) || (s.port p).lost then s
  else match op with
    | .query => s
    | .program lo hi blocks =>
      s.setStream p k (fun x => { x with st := if x.st = .active then .active else .keyed, ridLo := lo, ridHi := hi, blocks := blocks.take 4 })
    | .go => s.setStream p k (fun x => if x.st = .inactive then x else { x with st := .active, keyGen := x.keyGen + 1 })
    | .stop => s.setStream p k (fun x => if x.st = .active then { x with st := .insecure } else x)

/-- The effect of a row that names a host port: a port the variant is not fitted with stops the machine. DESIGN CHOICE, log 18. -/
def State.onPort (s : State) (p : HostPort) (t : State) : Host.Outcome State Fault Refusal :=
  if s.portFitted p then .next t else .fault .notFitted
def execHostPortLoss (p : HostPort) (why : PortLoss) (s : State) : Host.Outcome State Fault Refusal := s.onPort p (hostPortLoss p why s)
def execHostPortLinkUp (p : HostPort) (s : State) : Host.Outcome State Fault Refusal := s.onPort p (hostPortLinkUp p s)
def execFlr (f : Fn) (s : State) : Host.Outcome State Fault Refusal := .next (flr f s)
def execSriovConfigWrite (p : HostPort) (enable : Bool) (num : U16) (s : State) : Host.Outcome State Fault Refusal :=
  s.onPort p (sriovConfigWrite p enable num s)
def execCauseEnableWrite (f : Fn) (v : U32) (s : State) : Host.Outcome State Fault Refusal := .next (causeEnableWrite f v s.barWrite)
def execBar2Read (p : HostPort) (s : StallNo) (ofs bytes : Nat) (u : State) : Host.Outcome State Fault Refusal := .next (bar2Read p s ofs bytes u)
def execBar2Write (p : HostPort) (s : StallNo) (ofs : Nat) (data : List Byte) (u : State) : Host.Outcome State Fault Refusal :=
  .next (bar2Write p s ofs data u.barWrite)
def execIdeTlpCheckFail (p : HostPort) (stream : Fin 8) (s : State) : Host.Outcome State Fault Refusal := s.onPort p (ideTlpCheckFail p stream s)
def execIdeKmRequest (p : HostPort) (stream : Fin 8) (op : IdeKm) (session : U32) (s : State) : Host.Outcome State Fault Refusal :=
  s.onPort p (ideKmRequest p stream op session s)

end Sys2Proof.Machine
end

