-- ==== Sys2Proof/Machine/Recovery.lean ====
section
/-! DEFINITION. Single-part faults and their recovery (R38, R415, R488–R499), and the accounting's requests (R505). -/

namespace Sys2Proof.Machine

/-! What a fault strikes (R488). -/

/-- KIND and INDEX of a component (R497). -/
def compEvent : Component → Nat × Nat
  | .cluster c => (1, c)
  | .slice d j => (2, 32 * d.val + j.val)
  | .pc p => (3, p)
  | .stack k => (4, k)
  | .cdie d => (5, d)
  | .linkPort p => (6, p)
  | .iodie i => (7, i)
/-- Is the variant fitted with the component. -/
def compFitted (v : Variant) : Component → Bool
  | .pc p => decide (p.val < 64 * stackCount v)
  | .stack k => decide (k.val < stackCount v)
  | .linkPort p => decide (p.val < linkPorts v)
  | .iodie i => decide (i.val < iodies v)
  | _ => true
/-- Is it retired already. -/
def Package.isRetired (g : Package) : Component → Bool
  | .cluster c => has g.deadCluster c
  | .slice d j => has g.deadSlice (32 * d.val + j.val)
  | .pc p => has g.deadPc p
  | .stack k => has g.deadStack k
  | .cdie d => has g.deadCdie d
  | .linkPort p => has g.deadPort p
  | .iodie i => has g.deadIodie i
/-- A span in which faults are counted: 2^36 gticks. -/
def faultSpan : Nat := 2 ^ 36
/-- The key under which faults of clusters and slices are counted. -/
def faultKey : Component → Option Nat
  | .cluster c => some c
  | .slice d j => some (512 + 32 * d.val + j.val)
  | _ => none
/-- Count a fault of a cluster or slice; the third within the span retires it. -/
def State.countFault (s : State) (c : Component) : Bool × State :=
  match faultKey c with
  | none => (false, s)
  | some k =>
    let l := ((s.acct.componentFaults.get [] k).filter (fun t => decide (s.now < t + faultSpan))) ++ [s.now]
    (decide (3 ≤ l.length), { s with acct := { s.acct with componentFaults := s.acct.componentFaults.set [] k l } })
/-- Does the fault retire the component: clusters and slices at their third, stacks and dies at once, a pseudo-channel or
port as the fault says (R488). -/
def retires (c : Component) (third say : Bool) : Bool :=
  match c with
  | .cluster _ | .slice _ _ => third
  | .pc _ | .linkPort _ => say
  | .stack _ | .cdie _ | .iodie _ => true
/-- Clusters that fault. -/
def faultClusters (c : Component) (lost : List Nat) : List Nat :=
  lost.flatMap (fun b => [4 * b, 4 * b + 1, 4 * b + 2, 4 * b + 3]) ++ (match c with
    | .cluster k => [k.val]
    | _ => [])

/-! Stranded queues (R494). -/

/-- Does a run of a queue's area touch a retired range. -/
def State.runRetired (s : State) (n k va len : Nat) : Bool :=
  (List.range (len / 65536 + 2)).any (fun i =>
    match (s.aim (ringWho n k) (min (va + 65536 * i) (va + len - 1)) rRead rRead accRing).1 with
    | .not .retired => true
    | _ => false)
/-- A queue whose ring, completion ring or header lies in a retired range is stranded and shows FAULTED. -/
def State.strand (s : State) (n : StallNo) : State :=
  match s.stall? n with
  | none => s
  | some t =>
    forAll t.queues (fun kq u =>
      let q := kq.2
      if q.stranded || q.ringHost then u
      else if u.runRetired n kq.1 q.ring (64 * q.depth) || u.runRetired n kq.1 q.cpl (32 * q.depth) || u.runRetired n kq.1 q.hdr 64 then
        u.publish n kq.1 false (fun q => { q with stranded := true, faulted := true })
      else u) s

/-! What a fault does beside (R29, R168, R197). -/

/-- Clearing stops in bays that are no longer available, and what waited for it goes on (R168). -/
def State.dropGroom (s : State) : State :=
  let gone := s.prot.grooming.filter (fun b => !s.bayAvail b)
  let areas := s.rg.jobs.filter (fun j => match j.kind with
    | .area b => !s.bayAvail b
    | _ => false)
  if gone.isEmpty && areas.isEmpty then s
  else
    let s := { s with prot := { s.prot with grooming := s.prot.grooming.filter s.bayAvail } }
    let s := forAll areas (fun j u => u.endJob j.stall j.kind) s
    let s := s.modChg (fun c => { c with grooming := c.grooming.filter s.bayAvail, areas := c.areas.filter s.bayAvail })
    ((if s.yard.chg.isNone then s.setOwners else s).checkClean.groomProgress).zeroiseProgress
/-- The standby takes over when I/O die 0 goes, and is gone with either die; a plan not yet committed and a store write are
lost with the old active RTP (R29, R133, R135). -/
def State.loseRtp (s : State) (i : Nat) : State :=
  if i = 0 && s.pkg.rtpStandby then
    let s := s.setCon (fun c => { c with chars := [], bad := false, long := false })
    ({ s with pkg := { s.pkg with rtpStandby := false, rtpDie := true }, prot := { s.prot with standbyOk := false } }.discardPlan 0x31).breakWrite
  else if i ≤ 1 then { s with pkg := { s.pkg with rtpStandby := false }, prot := { s.prot with standbyOk := false } }
  else s
/-- Is an RTP standby lost to this fault: availability is lost with it (R187). -/
def hitsRtp : Component → Option Nat
  | .iodie i => some i.val
  | _ => none

/-- A fault of one component (R488, R489, R495): the commands it touches stop, the component is reset or retired, its
event is recorded, and journal copies it held are rebuilt. `lines` are the lines it left poisoned, `hit` the commands
with an access in flight through it. DEDUCED, log 60. DESIGN CHOICE, log 88. -/
def State.componentFault (s : State) (c : Component) (say : Bool) (lines : List Nat) (hit : List (Nat × Nat × U32)) : State :=
  if s.pkg.isRetired c then s
  else
    let counted := s.countFault c
    let s := counted.2
    let gone := retires c counted.1 say
    let s := { s with poison := forAll lines (fun l ps => setPoison l true ps) s.poison }
    let lost := if gone then lostBays s.pkg ((s.pkg.retire c).refit) else []
    let cs := faultClusters c lost
    let stop := forAll s.stallIds (fun (n : StallNo) (u : State × List CmdAt) =>
      match u.1.stall? n with
      | none => u
      | some t =>
        let onIt (k : Nat) (e : Entry) : Bool :=
          hit.contains (n.val, k, e.pos) || (t.launch? k e.pos).any (fun l => l.running.any (fun x => cs.contains x.cluster))
        let r := u.1.stopCommands n onIt
        let drops := t.hold.bays.any (lost.contains ·) || r.2.any (fun a => qkEngine a.qk = 3)
        (if drops then r.1.dropStep n else r.1, u.2 ++ r.2)) (s, [])
    let s := if gone then stop.1.retireComponent c else stop.1
    let s := match c, gone with
      | .linkPort p, false => s.retrainPort p
      | _, _ => s
    let takesCopies := gone && (match c with
      | .pc _ | .stack _ | .cdie _ => true
      | _ => false)
    let losers := if !takesCopies then [] else s.stallIds.filter (fun n => (s.stall? n).any (fun t =>
      t.journal.copies.any (lost.contains ·) || t.journal.rebuild.any (lost.contains ·)))
    let concern := (List.range 128).filter (fun n => losers.any (fun m => m.val = n) || stop.2.any (fun a => a.stall.val = n))
    let fp := lines.map (fun l => (64 * l, 64 * l + 64)) ++ lost.flatMap (fun b => (bayPcs s.pkg.variant b).map (fun p => (p * 2 ^ 30, (p + 1) * 2 ^ 30)))
    let s := s.detected
      { kind := (compEvent c).1, index := (compEvent c).2, outcome := if gone then 1 else 0, undecided := stop.2, affected := stop.2.length
        replayed := 0, faulted := 0, rebuilds := losers.map (·.val), stalls := concern, untold := concern, footprint := fp }
    let s := forAll losers (fun n u => u.loseCopies n lost) s
    let s := if lost.isEmpty then s else forAll s.stallIds (fun n u => u.strand n) s
    let s := if lost.isEmpty then s else s.dropGroom
    match hitsRtp c with
    | none => s
    | some i => (if h : i < 4 then s.losePort ⟨i, h⟩ else s).loseRtp i
/-- COMPONENT_FAULT. DESIGN CHOICE, log 18. -/
def State.onComponent (s : State) (c : Component) (t : State) : Host.Outcome State Fault Refusal :=
  if compFitted s.pkg.variant c then .next t else .fault .notFitted

/-- UE_ECC_EVENT (R413, R415): the line is poison; the 16th event of a pseudo-channel within 2^36 gticks retires it. -/
def ueEcc (p : Fin 768) (a : Nat) (s : State) : State :=
  let s := ({ s with mee := { s.mee with eccUe := satAdd s.mee.eccUe 1 } }).meeErr 2 ((s.lineSlot.find? (lineOf a)).getD 0) a
  let s := { s with poison := setPoison (lineOf a) true s.poison }
  let l := ((s.prot.ueTimes.get [] p).filter (fun t => decide (s.now < t + faultSpan))) ++ [s.now]
  let s := { s with prot := { s.prot with ueTimes := s.prot.ueTimes.set [] p l } }
  if 16 ≤ l.length then s.componentFault (.pc p) true [] [] else s

/-- JOURNAL_REBUILD_DONE (R495): the replacement is a copy in service, and recoveries that waited for it may close. -/
def journalRebuildDone (n : StallNo) (s : State) : State :=
  match s.stall? n with
  | none => s
  | some t =>
    match t.journal.rebuild with
    | none => s
    | some b =>
      if !s.rg.jobs.any (fun j => j.stall = n.val && j.kind = .rebuild && j.start.isSome) then s
      else
        let s := s.setStall n { t with journal := { t.journal with copies := t.journal.copies ++ [b], rebuild := none } }
        (s.endJob n .rebuild).closeRecoveries

/-! Requests (R505). -/

/-- The 32 bytes of an event record (R497). -/
def AccEvent.bytes (e : AccEvent) : List Byte :=
  leBytes 4 e.seq.toNat ++ leBytes 1 e.kind ++ leBytes 1 e.phase ++ leBytes 2 e.index ++ leBytes 8 e.at'.toNat ++ leBytes 2 e.affected
    ++ leBytes 2 e.replayed ++ leBytes 2 e.faulted ++ leBytes 1 e.stall ++ leBytes 1 e.outcome ++ leBytes 4 e.era ++ zeros 4
/-- The form of an accounting request, whose PF0 sender names a stall number at 0. DEDUCED, log 63. -/
def accForm (op len : Nat) (reserved : List (Nat × Nat)) (own : Nat → Bool) (m : Req) : MbForm :=
  { form op true true len reserved with bad := fun p => if fnIsPf m.fn && 128 ≤ f8 p 0 && !own (f8 p 0) then some 0 else none }
def accStall (m : Req) : Nat := match fnStall m.fn with
  | some n => n
  | none => f8 m.payload 0
/-- ACC_EVENTS. DEDUCED, log 63. -/
def accEvents (m : Req) (s : State) : State :=
  s.mbServeA (accForm 0x0080 8 [(1, 3)] (fun x => x = 0xFF) m) m (fun s =>
    let n := accStall m
    let log := if fnIsPf m.fn && n = 0xFF then some s.acct.log else (s.stall? n).map (·.evLog)
    match log with
    | none => (refuse 0xFF, s)
    | some l =>
      let out := (l.filter (fun e => decide (f32 m.payload 4 ≤ e.seq.toNat))).take 127
      (okWith (leBytes 4 out.length ++ out.flatMap AccEvent.bytes), s))

/-- STATE of a record's note (R481). -/
def entryState : EntrySt → Nat
  | .accepted => 1
  | .started | .ready => 2
  | .ended => 3
  | .visible => 4
/-- An entry of ACC_RECORDS: a completion record and its note. -/
def accEntry (rec : List Byte) (pos : U32) (qk state : Nat) (status detail : Byte) (value : U64) : List Byte :=
  rec ++ leBytes 4 pos.toNat ++ leBytes 1 (qkCtx qk) ++ leBytes 1 (qkEngine qk) ++ leBytes 1 (qkQueue qk) ++ leBytes 1 state
    ++ [status, detail] ++ zeros 6 ++ leBytes 8 value.toNat
/-- A record of the journal: its completion record carries the end status once ENDED, and STATUS 0 before. -/
def Entry.accBytes (e : Entry) (qk : Nat) : List Byte :=
  let rec' := if e.isEnded then e.record
    else leBytes 8 e.asn.toNat ++ [0, 0, BitVec.ofNat 8 e.opcode, 0] ++ leBytes 4 e.tag ++ zeros 16
  if e.isEnded then accEntry rec' e.pos qk (entryState e.st) e.status e.detail e.value
  else accEntry rec' e.pos qk (entryState e.st) 0 0 0
/-- An orphan's entry (R500). -/
def Orphan.accBytes (o : Orphan) : List Byte :=
  accEntry (leBytes 8 o.asn.toNat ++ [stOrphaned, 0, o.opcode, 0] ++ leBytes 4 o.tag.toNat ++ zeros 16) o.pos o.qk o.state o.status o.detail o.value
/-- The orphan list a request sees: for the VF only while the active plan's digest is the one the image recorded (R501). -/
def State.orphansFor (s : State) (m : Req) : Option OrphanList :=
  let n := accStall m
  (s.acct.orphans.find? n).filter (fun o => fnIsPf m.fn || (s.stall? n).any (fun t => t.man.planDigest = o.planDigest))
def accHead (count next era : Nat) : List Byte := leBytes 4 count ++ leBytes 4 next ++ leBytes 4 era ++ zeros 4
/-- ACC_RECORDS. DEDUCED, log 63. -/
def accRecords (m : Req) (s : State) : State :=
  let f := accForm 0x0081 16 [(5, 3), (12, 4)] (fun _ => false) m
  let bad (p : List Byte) : Option Nat := minOfs (f.bad p) (lowest (badIf (1 < f8 p 4) 4))
  s.mbServeA { f with bad := bad } m (fun s =>
    let p := m.payload
    let n := accStall m
    let start := f32 p 8
    if f8 p 4 = 1 then
      match s.orphansFor m with
      | none => (refuse 2, s)
      | some o =>
        let out := (o.entries.drop start).take 72
        (okWith (accHead out.length (start + out.length) (s.eraFloor n) ++ out.flatMap Orphan.accBytes), s)
    else match s.stall? n with
      | none => (refuse 0xFF, s)
      | some t =>
        let qk := qkey (f8 p 1) (f8 p 2) (f8 p 3)
        match if f8 p 1 < 16 && f8 p 2 < 4 && f8 p 3 < 8 then t.queue? qk else none with
        | none => (refuse 1, s)
        | some q =>
          let near (e : Entry) : Bool := decide ((e.pos - q.consumed).toNat < (q.acceptedPos - q.consumed).toNat)
            && (decide ((BitVec.ofNat 32 start - q.consumed).toNat ≤ (e.pos - q.consumed).toNat) || decide (2 ^ 31 ≤ (BitVec.ofNat 32 start - q.consumed).toNat))
          let out := (q.entries.filter near).take 72
          let next := match out.getLast? with
            | none => start
            | some e => (e.pos + 1).toNat
          (okWith (accHead out.length next t.journal.era ++ out.flatMap (fun e => e.accBytes qk)), s))
/-- ORPHAN_CLEAR: the list is gone, and its entries no longer count against acceptance (R510, R511). -/
def orphanClear (m : Req) (s : State) : State :=
  s.mbServeA (accForm 0x0082 8 [(1, 7)] (fun _ => false) m) m (fun s =>
    match s.orphansFor m with
    | none => (refuse 2, s)
    | some _ => (ok, ({ s with acct := { s.acct with orphans := s.acct.orphans.erase (accStall m) } }).setQuotas))

def execComponentFault (c : Component) (retire : Bool) (lines : List Nat) (hit : List (Nat × Nat × U32)) (s : State) :
    Host.Outcome State Fault Refusal := s.onComponent c (s.componentFault c retire lines hit)
def execUeEccEvent (p : Fin 768) (a : Nat) (s : State) : Host.Outcome State Fault Refusal := s.onComponent (.pc p) (ueEcc p (p * 2 ^ 30 + a % 2 ^ 30) s)
def execJournalRebuildDone (n : StallNo) (s : State) : Host.Outcome State Fault Refusal := .next (journalRebuildDone n s)
def execRecoveryComplete (s : State) : Host.Outcome State Fault Refusal := .next s.closeRecoveries
def execAccEvents (m : MbReq) (s : State) : Host.Outcome State Fault Refusal := .next (accEvents (plain m) s)
def execAccRecords (m : MbReq) (s : State) : Host.Outcome State Fault Refusal := .next (accRecords (plain m) s)
def execOrphanClear (m : MbReq) (s : State) : Host.Outcome State Fault Refusal := .next (orphanClear (plain m) s)

end Sys2Proof.Machine
end

