-- ==== Sys2Proof/Machine/RideOps.lean ====
section
/-! DEFINITION. Shared operations of the reserve (R506–R524): thresholds, the controller's states and events, stopping the
whole part (R513), and the warm return (R515). -/

namespace Sys2Proof.Machine

/-! Thresholds (R506, R507). Voltages in mV, C in mF, energies in mJ. -/

/-- The greatest number whose square is at most `n`, found among the numbers below `2 ^ bits` above `lo`. -/
def rootFrom (n : Nat) : Nat → Nat → Nat
  | 0, lo => lo
  | b + 1, lo => rootFrom n b (if (lo + 2 ^ b) * (lo + 2 ^ b) ≤ n then lo + 2 ^ b else lo)
/-- A square root rounded to the nearest integer. -/
def rootRound (n : Nat) : Nat := let r := rootFrom n 20 0; if r * r + r < n then r + 1 else r
/-- V_FLUSH squared, and V_FLUSH and V_ACCEPT, from a measured C. -/
def vFlushSq (c : Nat) : Nat := 40960000 + 80000000000 / c
def vFlushOf (c : Nat) : Nat := rootRound (vFlushSq c)
def vAcceptOf (c : Nat) : Nat := rootRound (vFlushSq c + 100000000000 / c)
/-- Usable energy U. -/
def usableOf (c : Nat) : Nat := c * 11074 / 100 - 40000
/-- The greatest draw of a ride-through in mW. -/
def rideDraw (v : Variant) : Nat := match v with
  | .xh5126m => 12500
  | _ => 8500
/-- Guaranteed ride-through at full charge in ms. DESIGN CHOICE, log 76. -/
def rideMsOf (v : Variant) (c : Nat) : Nat := usableOf c * 1000 / rideDraw v
def vFull : Nat := 16200
def vFlushAbort : Nat := 6400
def vDead : Nat := 6000

/-! Events and states (R508, R525). -/

def rsvMainLost : BitVec 7 := bit 7 0
def rsvWarmReturn : BitVec 7 := bit 7 1
def rsvColdReturn : BitVec 7 := bit 7 2
def rsvTestDone : BitVec 7 := bit 7 3
def rsvDegraded : BitVec 7 := bit 7 4
def rsvFault : BitVec 7 := bit 7 5
def rsvAccept : BitVec 7 := bit 7 6
/-- Set bits of RSV_EVT; each bit that sets raises RESERVE. -/
def State.rsvEvt (s : State) (b : BitVec 7) : State :=
  let fresh := b &&& ~~~ s.rsv.evt
  let s := { s with rsv := { s.rsv with evt := s.rsv.evt ||| b } }
  if fresh = 0 then s else s.pfCause .reserve
/-- The state a good main input leaves the controller in: by the last test once the bank and the slot allow (R508). -/
def Reserve.tested (r : Reserve) : RsvSt :=
  if r.testFailed || r.usable < 50000 || 200 < r.esr then .fault else if r.usable < 400000 then .degraded else .armed
def Reserve.settled (r : Reserve) : RsvSt := if r.vbank < r.vAccept || !r.slotErased then .charging else r.tested
/-- The controller changes state; where that changes whether acceptance is allowed, every stall is told. -/
def State.rsvTo (s : State) (st : RsvSt) : State :=
  let was := s.rsv.refuses
  let s := { s with rsv := { s.rsv with st := st } }.platform
  if s.rsv.refuses = was then s
  else forAll s.stallIds (fun n u => u.vfCause n .reserve) (s.rsvEvt rsvAccept)
/-- Is the controller in a state of good main power. -/
def Reserve.onMain (r : Reserve) : Bool := r.st = .charging || r.st = .armed || r.st = .degraded || r.st = .fault

/-! The flush (R516). -/

/-- The slot an image of sequence `n` goes to: A (0) for even, B (1) for odd. -/
def imageSlot (n : Nat) : Nat := n % 2
/-- The flush starts: FLUSH_INTENT rises, and the slot is being written. -/
def State.beginFlush (s : State) (cause : Nat) : State :=
  let n := s.rsv.consumed + 1
  { s with rsv := { s.rsv with st := .flush, intent := n, flushCause := cause, flushAt := s.now, slotErased := false, testBusy := false
                               images := s.rsv.images.erase (imageSlot n) } }.platform

/-! Stopping the part (R513, R514). -/

/-- A Tsuholt port is switched off: its link is gone, and what it keeps for resending stays for its return (R380). -/
def TlPort.away (x : TlPort) (now : Nat) : TlPort :=
  { x.settle now with st := .detect, stepAt := now, keyx := none, keys := none, nextKeys := none, switched := false, badRun := 0, tagRun := 0
                      waking := false, tTx := 0, tRx := 0, advert := none }
def State.portsAway (s : State) : State :=
  (forAll (List.range 48) (fun p u =>
    match (u.tlp p).st with
    | .disabled | .detect | .retired => u
    | _ =>
      let was := (u.tlp p).up
      let u := u.setTlp p (fun x => x.away u.now)
      if was then u.tlEvt evtDown else u) s).chooseMaster
/-- Steps 1 to 3 of R513: every running command stops, clusters go to Clear, host and Tsuholt ports are switched off, and
the package is in package Clear. A warm reset in progress is abandoned, and a change freezes (R168). DEDUCED, log 82. -/
def State.stopPart (s : State) : State :=
  let waiting := (s.power.warm.map (·.reqs)).getD [] ++ s.power.deferredReqs
  let links := bitsOf 4 ((allPorts.filter (fun (p : HostPort) => (s.port p).linkUp)).map (·.val))
  let s := s.stopAll.1.darkenAll
  let s := forAll allPorts (fun p u => if (u.port p).linkUp then u.losePort p else u) s
  let s := s.portsAway
  let from' := if s.power.clearSt = .inClear then s.power.clearFrom else s.now
  let s := s.modChg (fun c => { c with frozenAt := if c.frozenAt.isSome then c.frozenAt else some s.now })
  let s := { s with
    rsv := { s.rsv with links := links ||| s.rsv.links }
    gtb := { s.gtb with coarse := true, coarseEnd := none }
    power := { s.power with clearSt := .inClear, clearFrom := from', wakeNeedsCluster := false, warm := none, warmDeferred := false, deferredReqs := [] } }.platform
  forAll waiting (fun w u => let r := u.refuseFree; r.2.answerWaiter w 0x0090 r.1) s

/-! The warm return (R515). -/

/-- Commands stopped and not yet part of a recovery. -/
def State.strayStops (s : State) : List CmdAt :=
  let known := s.acct.recoveries.flatMap (·.undecided)
  s.stallIds.flatMap (fun (n : StallNo) => match s.stall? n with
    | none => []
    | some t => (t.queues.flatMap (fun kq => (kq.2.entries.filter (·.undecided)).map (fun e => ({ stall := n, qk := kq.1, pos := e.pos } : CmdAt)))).filter
        (fun a => !known.contains a))
/-- The host ports that had a link retrain; each raises PORT_LOST and PORT_BACK. -/
def State.portsBack (s : State) : State :=
  let back := allPorts.filter (fun (p : HostPort) => has s.rsv.links p && !has s.pkg.deadIodie p && !(s.port p).perst)
  let s := forAll back (fun p u => u.setPort p (fun x => { x with linkUp := true, lost := false })) s
  let s := { s with host := { s.host with unreach := s.host.unreach &&& s.unreachable }, rsv := { s.rsv with links := 0 } }
  let s := if back.isEmpty then s else s.hostEvt (evtPortLost ||| evtPortBack)
  forAll back (fun p u => u.tellStalls p) s
/-- A change goes on with the ride-through left out of its limits; an action that fell due meanwhile is at the next grid tick
(R168). -/
def State.thawChange (s : State) : State :=
  if s.moduleStopped then s
  else s.modChg (fun c => match c.frozenAt with
    | none => c
    | some at' =>
      { c with frozenAt := none, excluded := c.excluded + (s.now - at'), nextTick := if c.nextTick ≠ 0 && c.nextTick ≤ s.now then s.nextGrid else c.nextTick })
/-- Interrupts of tick channels that waited for PCIe (R77). -/
def State.lateIrqs (s : State) : State :=
  forAll s.tb.irqLater (fun v u => u.pfVector v) { s with tb := { s.tb with irqLater := [] } }
/-- The warm return. -/
def State.warmReturn (s : State) : State :=
  let stay := s.now - s.power.clearFrom
  let s := { s with
    power := { s.power with powerGood := true, thermStop := false, thermTrip := false, clearSt := .awake, clearTime := s.power.clearTime + stay }
    gtb := { s.gtb with coarseEnd := some (s.now + 16000) }
    rsv := { s.rsv with lastKind := 1, lastSecs := min 0xFFFF ((s.now - s.rsv.lossAt.toNat) / 16000000000) } }.platform
  let s := s.detected (warmRecovery 0 s.strayStops)
  let s := s.portsBack
  let s := (s.rsvTo s.rsv.settled).rsvEvt rsvWarmReturn
  let s := (s.showAll.closeRecoveries).thawChange
  let s := s.lateIrqs.rewakeGates
  s.wakeQueues (fun _ _ => true)
/-- Is every sensor below 100 °C (R541). -/
def State.allCool (s : State) : Bool := s.power.therm.all (fun e => decide (e.2.tmax.toNat < 100))
/-- Main power is back while the part rides through: the warm return, unless a thermal stop still waits for the part to cool
(R541). -/
def State.tryReturn (s : State) : State :=
  if s.rsv.st = .ride && s.rsv.mainOk && (!s.power.thermTrip || s.allCool) then s.warmReturn else s

end Sys2Proof.Machine
end

