-- ==== Sys2Proof/Machine/Regulation.lean ====
section
/-! DEFINITION. Bandwidth regulation and delivery (R344–R366), and what the GTB's grid ticks and regulation windows do
(R51, R539, R540). -/

namespace Sys2Proof.Machine

/-! One stall's regulators. -/

def State.modDlv (s : State) (n : Nat) (f : Delivery → Delivery) : State := s.modStall n (fun t => { t with dlv := f t.dlv })
def Delivery.reg (d : Delivery) (k : Nat) : Regulator := (d.regs.find? k).getD Regulator.init
def Delivery.modReg (d : Delivery) (k : Nat) (f : Regulator → Regulator) : Delivery := { d with regs := d.regs.put k (some (f (d.reg k))) }
def State.modReg (s : State) (n k : Nat) (f : Regulator → Regulator) : State := s.modDlv n (fun d => d.modReg k f)
def dutySrc (v : U32) : Nat := (fld v 0 8).toNat
def dutyOn (v : U32) : Bool := has v 8
def dutyInv (v : U32) : Bool := has v 9
def dutyDemotes (v : U32) : Bool := has v 10
/-- Is a duty gate closed by the present level of its source (R349). -/
def State.dutyShut (s : State) (v : U32) : Bool := dutyOn v && dutySrc v ≠ 0 && s.matrixLevel (dutySrc v) = dutyInv v
/-- Does the stall issue nothing: it is paused by a change, or the part rides through on the reserve. -/
def State.stallQuiet (s : State) (t : Stall) : Bool := t.paused || !s.running

/-- How a request fares when it is tested (R345, R347–R349, R354, R356). -/
inductive Fare where
  | within | beyond | urgent (within : Bool)
  | wait (beyond : Bool)
  deriving DecidableEq, Repr

/-- Is there room in a share for `size` bytes: R345's test against its refill. -/
def shareFits (l : LinkRec) (c : LinkCount) (tx : Bool) (size : Nat) : Bool :=
  l.kind ≠ 2 || (if tx then decide (size ≤ c.txCredit) || !c.txCharged else decide (size ≤ c.rxCredit) || !c.rxCharged)
def Stall.fare (t : Stall) (k : Nat) (quiet : Bool) (r : PortReq) : Fare :=
  let g := t.dlv.reg k
  let budget := t.hold.budget k
  let fits := !g.gateShut && budget ≠ 0 && (decide (r.size ≤ g.credit) || !g.charged)
  let share := match r.link with
    | none => true
    | some (i, tx) => match t.hold.links[i]? with
      | none => true
      | some l => shareFits l (t.dlv.links.get LinkCount.init i) tx r.size
  if r.urgent then .urgent fits
  else if quiet then .wait false
  else if !share then .wait false
  else if fits then .within
  else if g.gateShut then (if dutyDemotes g.duty then .beyond else .wait true)
  else if g.mode = 0 then .wait true
  else .beyond

/-- The payload of an issued request on its link record, charged to its share (R356, R364). -/
def LinkCount.carry (c : LinkCount) (tx : Bool) (size : Nat) : LinkCount :=
  if tx then { c with tx := c.tx + BitVec.ofNat 64 size, txCredit := c.txCredit - size, txCharged := true }
  else { c with rx := c.rx + BitVec.ofNat 64 size, rxCredit := c.rxCredit - size, rxCharged := true }
/-- A request leaves the port: charged whole at this step, counted, and in flight (R345, R364). DEDUCED, log 51. -/
def Delivery.issue (d : Delivery) (now k : Nat) (r : PortReq) (f : Fare) : Delivery :=
  let n := BitVec.ofNat 64 r.size
  let charge (g : Regulator) : Regulator := { g with credit := g.credit - r.size, charged := true }
  let d := d.modReg k (fun g =>
    let g := { g with flying := g.flying ++ [(r, now)] }
    match f with
    | .within => { charge g with live := { g.live with bytesIn := g.live.bytesIn + n } }
    | .beyond => { g with overNow := true, live := { g.live with bytesOver := g.live.bytesOver + n } }
    | .urgent w =>
      let g := { g with live := { g.live with bytesUrgent := g.live.bytesUrgent + n } }
      if w then charge g else { g with overNow := true }
    | .wait _ => g)
  match r.link with
  | none => d
  | some (i, tx) => { d with links := d.links.upd LinkCount.init i (fun c => c.carry tx r.size) }
/-- A request is tested at its port: it goes, or waits behind those already waiting (R347). DESIGN CHOICE, log 50. -/
def State.testReq (s : State) (n k : Nat) (r : PortReq) : State :=
  match s.stall? n with
  | none => s
  | some t =>
    let f := t.fare k (s.stallQuiet t) r
    let behind := !r.urgent && !(t.dlv.reg k).held.isEmpty
    let park (g : Regulator) (beyond : Bool) : Regulator := { g with held := g.held ++ [r], overNow := g.overNow || beyond }
    if behind then s.modReg n k (fun g => park g false)
    else match f with
      | .wait o => s.modReg n k (fun g => park g o)
      | _ => s.modDlv n (fun d => d.issue s.now k r f)

/-- REQUEST_ISSUE (R345, R346, R354): 1 to 256 bytes; a request that drains a buffer asserting urgency is an urgent
drain. DESIGN CHOICE, log 50. -/
def requestIssue (n : StallNo) (k : Fin 5) (size : Fin 257) (drains : Option (Bool × LinkPort)) (link : Option (Nat × Bool)) (s : State) : State :=
  if size.val = 0 || (s.stall? n).isNone then s
  else
    let urgent := match drains with
      | none => false
      | some (true, p) => has s.rg.hostUrgent p
      | some (false, p) => has s.rg.linkUrgent p
    let r : PortReq := { id := s.rg.nextReq, size := size, urgent := urgent, link := link }
    ({ s with rg := { s.rg with nextReq := s.rg.nextReq + 1 } }).testReq n k r
/-- REQUEST_COMPLETE (R350, R364). DESIGN CHOICE, log 50. -/
def requestComplete (n : StallNo) (k : Fin 5) (id : Nat) (s : State) : State :=
  match s.stall? n with
  | none => s
  | some t =>
    match List.find? (fun (e : PortReq × Nat) => e.1.id = id) (t.dlv.reg k).flying with
    | none => s
    | some e =>
      let lat := s.now - e.2
      s.modReg n k (fun g =>
        { g with flying := g.flying.filter (fun x => x.1.id ≠ id), winN := g.winN + 1, winLat := g.winLat + lat
                 live := { g.live with requests := g.live.requests + 1, latSum := g.live.latSum + BitVec.ofNat 64 lat
                                       latMax := BitVec.ofNat 32 (min (2 ^ 32 - 1) (max g.live.latMax.toNat lat)) } })

/-! Duty gates (R349). -/

/-- RG_DUTY_WRITE (R349): SRC takes a level code, and any other stores none. -/
def rgDutyWrite (n : StallNo) (k : Fin 5) (v : U32) (s : State) : State :=
  let v := (fld v 0 11).setWidth 32
  let v := if isLevel (dutySrc v) then v else v &&& 0x700
  s.modReg n k (fun g => { g with duty := v, gateShut := s.dutyShut v, gatedNow := g.gatedNow || s.dutyShut v })
/-- DUTY_GATE_CHANGE (R72, R349): one step after its level changes the gate follows. DEDUCED, log 51. -/
def dutyGateChange (n : StallNo) (k : Fin 5) (s : State) : State :=
  match s.stall? n with
  | none => s
  | some t =>
    let shut := s.dutyShut (t.dlv.reg k).duty
    if shut = (t.dlv.reg k).gateShut then s
    else s.stepOn.modReg n k (fun g => { g with gateShut := shut, gatedNow := g.gatedNow || shut })

/-! Urgency (R354, R355). -/

/-- URGENCY_ASSERT: counted in RG_URG_EVT, each half saturating. -/
def urgencyAssert (host : Bool) (p : LinkPort) (s : State) : State :=
  if host then
    if has s.rg.hostUrgent p then s
    else { s with rg := { s.rg with hostUrgent := incl s.rg.hostUrgent p, evtHost := satAdd s.rg.evtHost 1 } }
  else if has s.rg.linkUrgent p then s
  else { s with rg := { s.rg with linkUrgent := incl s.rg.linkUrgent p, evtLink := satAdd s.rg.evtLink 1 } }
def urgencyWithdraw (host : Bool) (p : LinkPort) (s : State) : State :=
  if host then { s with rg := { s.rg with hostUrgent := excl s.rg.hostUrgent p } }
  else { s with rg := { s.rg with linkUrgent := excl s.rg.linkUrgent p } }
/-- A command that names a buffer stops where the port is not fitted. DESIGN CHOICE, log 18. -/
def State.onBuffer (s : State) (host : Bool) (p : LinkPort) (t : State) : Host.Outcome State Fault Refusal :=
  if (if host then decide (p.val < iodies s.pkg.variant) else decide (p.val < linkPorts s.pkg.variant)) then .next t else .fault .notFitted
/-- RG_URG_WRITE (R355). -/
def rgUrgWrite (host : Bool) (v : U32) (s : State) : State :=
  let hi := (fld v 0 4).toNat
  let lo := (fld v 4 4).toNat
  if lo < 1 || hi ≤ lo then s
  else if host then { s with rg := { s.rg with urgHost := v &&& 0xFF } } else { s with rg := { s.rg with urgLink := v &&& 0xFF } }

/-! Windows (R344, R350–R352, R362). -/

/-- The step of R351 for E against LAT_TARGET. -/
def latStep (e target : Nat) : Nat :=
  if 8 * target ≤ 8 * e then 8
  else if 7 * target ≤ 8 * e then 6
  else if 6 * target ≤ 8 * e then 4
  else if 5 * target ≤ 8 * e then 2
  else if 4 * target ≤ 8 * e then 1
  else 0
/-- E after a closed window of `n` completions with latencies `sum` (R350). -/
def smoothed (e n sum : Nat) : Nat := ((e : Int) + (((if n = 0 then 0 else sum / n) : Nat) - (e : Int)) / 8).toNat
/-- A regulator at a window start: the closed window is counted and shown, E and the priority follow, and the credit is
the BUDGET (R344, R350, R351, R361, R364). -/
def Regulator.window (g : Regulator) (h : Holdings) (k : Nat) : Regulator :=
  let live := { g.live with winOver := g.live.winOver + (if g.overNow then 1 else 0), winGated := g.live.winGated + (if g.gatedNow then 1 else 0) }
  let rec' := h.regs.find? (fun r => r.kind = k)
  let target := (rec'.map (·.latTarget)).getD 0
  let base := (rec'.map (·.prio)).getD 0
  let e := smoothed g.ewma g.winN g.winLat
  { g with live := live, shown := live, ewma := e, step := latStep e target, prio := min 15 (base + latStep e target), creditLeft := g.credit
           credit := h.budget k, charged := false, overNow := false, gatedNow := g.gateShut, winN := 0, winLat := 0
           mode := (rec'.map (·.mode)).getD 0, base := base, target := target }
def LinkCount.window (c : LinkCount) (l : LinkRec) : LinkCount :=
  { c with txShown := c.tx, rxShown := c.rx, txCredit := linkCredit l, rxCredit := linkCredit l, txCharged := false, rxCharged := false }
/-- A stall's delivery at a window start: one update of its page (R362, R363). -/
def Delivery.turn (d : Delivery) (h : Holdings) (index : Nat) : Delivery :=
  { d with regs := (List.range 5).map (fun k => (k, (d.reg k).window h k))
           links := (h.links.zipIdx.map (fun e => (e.2, (d.links.get LinkCount.init e.2).window e.1))).filter (fun e => e.2 ≠ LinkCount.init)
           window := BitVec.ofNat 64 index, gen := d.gen + 2 }
/-- Held requests are tested again, as if newly issued, until one must wait (R347). -/
def State.retest (s : State) (n k : Nat) : State :=
  match s.stall? n with
  | none => s
  | some t =>
    forAll (t.dlv.reg k).held (fun r u => u.testReq n k r) (s.modReg n k (fun g => { g with held := [] }))

/-! Temperatures (R539, R540). -/

def State.therm (s : State) (d : Nat) : Therm := s.power.therm.get Therm.init d
def State.setTherm (s : State) (d : Nat) (f : Therm → Therm) : State :=
  { s with power := { s.power with therm := s.power.therm.upd Therm.init d f } }
/-- Dies with sensors: compute dies 0 to 3 and I/O dies at 4 and up, those in service. -/
def State.hasSensors (s : State) (d : Nat) : Bool :=
  if d < 4 then !has s.pkg.deadCdie d else decide (d < 4 + iodies s.pkg.variant) && !has s.pkg.deadIodie (d - 4)
/-- A compute die's throttle level changes, with its events. -/
def State.setLevel (s : State) (d : Nat) (l : BitVec 3) : State :=
  let was := (s.therm d).level
  if was = l then s
  else
    let s := s.setTherm d (fun x => { x with level := l })
    let s := if was = 0 then s.pwrEvt evtThrottleOn else s
    if (List.range 4).all (fun i => (s.therm i).level = 0) then s.pwrEvt evtThrottleOff else s
/-- A sample of a die's hottest sensor; a threshold of R571 it crosses queues an event. DESIGN CHOICE, log 52. -/
def State.sampleDie (s : State) (d t : Nat) : State :=
  if !s.hasSensors d then s
  else
    let v : Byte := BitVec.ofNat 8 (min t 255)
    let hot := 105 ≤ t
    let was := (s.therm d).tmax.toNat
    let cross (l : Nat) (u : State) : State :=
      if was < l && l ≤ v.toNat then u.platEvent (.cross (d + 1) l true)
      else if l ≤ was && v.toNat < l then u.platEvent (.cross (d + 1) l false)
      else u
    let s := cross 105 (cross 100 s)
    let s := s.setTherm d (fun x =>
      { x with tmax := v, hot := hot, peak := if x.peak.toNat < v.toNat then v else x.peak, sinceTick := if x.sinceTick.toNat < v.toNat then v else x.sinceTick })
    let s := if hot then s.pwrEvt evtHot else s
    if hot && decide (d < 4) then s.setLevel d 7 else s
/-- A compute die at a grid tick: its time above level 0 counts, and its level follows R539. -/
def State.thermTick (s : State) (d : Nat) : State :=
  if !s.hasSensors d then s
  else
    let x := s.therm d
    let cool := if x.sinceTick.toNat < 95 then x.coolTicks + 1 else 0
    let s := s.setTherm d (fun x => { x with coolTicks := min cool 16, sinceTick := 0, time := if x.level = 0 then x.time else satAdd x.time 1 })
    if 105 ≤ x.sinceTick.toNat then s.setLevel d 7
    else if 100 ≤ x.tmax.toNat then s.setLevel d (BitVec.ofNat 3 (min 7 (x.level.toNat + 1)))
    else if 16 ≤ cool then s.setLevel d (BitVec.ofNat 3 (x.level.toNat - 1))
    else s

/-! What recurs with the GTB (R51). -/

/-- REGULATION_WINDOW_START (R51, R71, R344, R539): the next multiple of 2^16 not yet handled. `temps` gives each die's
hottest sensor, compute dies first. DESIGN CHOICE, log 52. -/
def regulationWindowStart (temps : List Nat) (s : State) : State :=
  let w := s.tb.winDone + 1
  let s := s.advance (w * 2 ^ 16)
  if s.now < w * 2 ^ 16 then s
  else
    let s := ({ s with tb := { s.tb with winDone := w } }).event 0x81
    let s := (forAll temps.zipIdx (fun e u => u.sampleDie e.2 e.1) s).tryReturn
    forAll s.stallNos (fun n u =>
      let u := u.modStall n (fun t => { t with dlv := t.dlv.turn t.hold w })
      forAll (List.range 5) (fun k v => v.retest n k) u) s
/-- GRID_TICK (R48, R51, R71, R539): the next multiple of 2^20 not yet handled. `good` says that the measurement period
that ends at the tick was a good one. -/
def gridTick (good : Bool) (s : State) : State :=
  let w := s.tb.gridDone + 1
  let s := s.advance (w * 2 ^ 20)
  if s.now < w * 2 ^ 20 then s
  else
    let s := ({ s with tb := { s.tb with gridDone := w }, gtb := s.gtb.periodEnds (w * 2 ^ 20) good }).event 0x80
    forAll (List.range 4) (fun d u => u.thermTick d) s

/-! The delivery page (R362–R364). -/

/-- The page's fields: offset from its start, size in bytes and value. -/
def State.dlvFields (s : State) (n : Nat) (t : Stall) : List (Nat × Nat × Nat) :=
  let d := t.dlv
  let gated := ((List.range 5).map (fun k => if dutyOn (d.reg k).duty then 2 ^ k else 0)).sum
  let short := if has s.rg.capShort n then 32 else 0
  [(0, 8, d.window.toNat), (8, 8, d.since.toNat), (0x10, 8, d.linkSince.toNat), (0x18, 4, gated + short), (0x1C, 4, d.gen.toNat)]
    ++ (List.range 5).flatMap (fun k =>
      let g := d.reg k
      let b := 0x100 + 0x80 * k
      let c := g.shown
      [(b, 8, c.bytesIn.toNat), (b + 8, 8, c.bytesOver.toNat), (b + 0x10, 8, c.bytesUrgent.toNat), (b + 0x18, 8, c.requests.toNat)
       , (b + 0x20, 8, c.latSum.toNat), (b + 0x28, 8, c.winOver.toNat), (b + 0x30, 8, c.winGated.toNat), (b + 0x38, 4, c.latMax.toNat)
       , (b + 0x3C, 4, g.ewma), (b + 0x40, 1, if d.gen = 0 then 0 else g.prio), (b + 0x41, 1, g.step), (b + 0x44, 4, g.creditLeft)])
    ++ (List.range t.hold.links.length).flatMap (fun i =>
      [(0x800 + 0x10 * i, 8, (d.links.get LinkCount.init i).txShown.toNat), (0x808 + 0x10 * i, 8, (d.links.get LinkCount.init i).rxShown.toNat)])
/-- The 64-bit counter at an offset of the page. -/
def State.dlvCounter (s : State) (n o : Nat) : Option Nat :=
  (s.stall? n).bind (fun t => (List.find? (fun (e : Nat × Nat × Nat) => e.1 = o && e.2.1 = 8) (s.dlvFields n t)).map (·.2.2))
/-- DLV_COUNTER_READ (R50, R362): the low half is returned and the high half latched for the reading function. A VF reads
its own stall's page, PF0 the view of the stall it names. -/
def dlvCounterRead (f : Fn) (n : StallNo) (o : Nat) (s : State) : State :=
  let st := match fnStall f with
    | some m => m.val
    | none => n.val
  if !s.fnSeen f then s
  else
    let v := (s.dlvCounter st o).getD 0
    (s.setLat f (fun l => { l with dlvHi := l.dlvHi.set 0 (4096 * st + o) (BitVec.ofNat 32 (v / 2 ^ 32)) })).answer f 4 v

/-! The yard memory regulator (R357). -/

/-- YARD_JOB_START: what waits starts while fewer than eight jobs run. DEDUCED, log 39. -/
def yardJobStart (s : State) : State := { s with rg := { s.rg with jobs := startJobs s.now 8 s.rg.jobs } }

def execGridTick (refGood : Bool) (s : State) : Host.Outcome State Fault Refusal := .next (gridTick refGood s)
def execRegulationWindowStart (temps : List Nat) (s : State) : Host.Outcome State Fault Refusal := .next (regulationWindowStart temps s)
def execRequestIssue (n : StallNo) (k : Fin 5) (size : Fin 257) (drains : Option (Bool × LinkPort)) (link : Option (Nat × Bool)) (s : State) :
    Host.Outcome State Fault Refusal := .next (requestIssue n k size drains link s)
def execRequestComplete (n : StallNo) (k : Fin 5) (id : Nat) (s : State) : Host.Outcome State Fault Refusal := .next (requestComplete n k id s)
def execUrgencyAssert (host : Bool) (p : LinkPort) (s : State) : Host.Outcome State Fault Refusal := s.onBuffer host p (urgencyAssert host p s)
def execUrgencyWithdraw (host : Bool) (p : LinkPort) (s : State) : Host.Outcome State Fault Refusal := s.onBuffer host p (urgencyWithdraw host p s)
def execRgUrgWrite (host : Bool) (v : U32) (s : State) : Host.Outcome State Fault Refusal := .next (rgUrgWrite host v s.barWrite)
def execRgDutyWrite (n : StallNo) (k : Fin 5) (v : U32) (s : State) : Host.Outcome State Fault Refusal := .next (rgDutyWrite n k v s.barWrite)
def execDutyGateChange (n : StallNo) (k : Fin 5) (s : State) : Host.Outcome State Fault Refusal := .next (dutyGateChange n k s)
def execDlvCounterRead (f : Fn) (n : StallNo) (o : Nat) (s : State) : Host.Outcome State Fault Refusal := .next (dlvCounterRead f n o s)
def execYardJobStart (s : State) : Host.Outcome State Fault Refusal := .next (yardJobStart s)

end Sys2Proof.Machine
end

