-- ==== Sys2Proof/Machine/Reserve.lean ====
section
/-! DEFINITION. The reserve (R506–R526): loss and return of main power, the flush and its image, and the health test. -/

namespace Sys2Proof.Machine

/-! Loss and return (R508, R513–R517). -/

/-- MAIN_POWER_LOST, with the bank and input voltages: the part stops on the reserve, and the controller rides through,
flushes, or holds by what the bank has. DEDUCED, log 78. -/
def mainPowerLost (vbank vmain : U32) (s : State) : State :=
  let s := { s with rsv := { s.rsv with vbank := vbank.toNat, vmain := vmain.toNat } }
  if !s.rsv.mainOk && !s.power.powerGood then s
  else
    let s := { s with rsv := { s.rsv with mainOk := false, lossAt := s.nowW, testBusy := false } }
    let s := s.rsvEvt rsvMainLost
    if !s.rsv.onMain then { s with power := { s.power with powerGood := false } }
    else
      let s := if s.running then s.stopPart else s
      let s := { s with power := { s.power with powerGood := false } }
      let s := (s.discardPlan 0x32).breakWrite
      if s.rsv.vFlush < vbank.toNat then s.rsvTo .ride
      else if vFlushAbort < vbank.toNat then (s.rsvTo .ride).beginFlush 1
      else { s.rsvTo .held with gtb := { s.gtb with running := false } }
/-- MAIN_POWER_RETURN: main power has been good for 20 ms. DEDUCED, log 78. -/
def mainPowerReturn (vbank vmain : U32) (s : State) : State :=
  if s.rsv.mainOk then s
  else ({ s with rsv := { s.rsv with mainOk := true, vbank := vbank.toNat, vmain := vmain.toNat } }).tryReturn

/-! The flush (R516–R520). -/

/-- FLUSH_START: the bank reaches V_FLUSH. -/
def flushStart (s : State) : State :=
  if s.rsv.st = .ride && !s.rsv.mainOk then
    ({ s with rsv := { s.rsv with vbank := s.rsv.vFlush } }).beginFlush 1
  else s
/-- The entry of a command's record in the image. -/
def Entry.orphan (e : Entry) (qk : Nat) : Orphan :=
  { qk := qk, pos := e.pos, asn := e.asn, opcode := BitVec.ofNat 8 e.opcode, tag := BitVec.ofNat 32 e.tag, state := entryState e.st
    status := if e.isEnded then e.status else 0, detail := if e.isEnded then e.detail else 0, value := if e.isEnded then e.value else 0
    carried := false }
/-- The records of a stall that are not VISIBLE, by queue and position. -/
def Stall.orphans (t : Stall) : List Orphan :=
  t.queues.flatMap (fun kq => (kq.2.entries.filter (fun e => e.st ≠ .visible)).map (fun e => e.orphan kq.1))
/-- The carried entries of a stall number. -/
def State.carried (s : State) (n : Nat) : List Orphan :=
  match s.acct.orphans.find? n with
  | none => []
  | some o => o.entries.map (fun x => { x with carried := true })
/-- The image's stall records (R516, R519). DEDUCED, log 79. -/
def State.imageStalls (s : State) : List ImageStall :=
  (List.range 128).filterMap (fun n =>
    match s.stall? n, s.acct.orphans.find? n with
    | some t, _ =>
      some { stall := n, defined := true, oneCopy := !t.journal.durable, era := t.journal.era, planDigest := t.man.planDigest
             entries := (if t.journal.copies.isEmpty then [] else t.orphans) ++ s.carried n }
    | none, some o => some { stall := n, defined := false, oneCopy := false, era := s.eraFloor n, planDigest := o.planDigest, entries := s.carried n }
    | none, none => none)
/-- FLUSH_DONE: the image is whole and its MARKER written; a requested cold reset is then answered (R516, R522, R546). A
stopped module makes no image that verifies. DEDUCED, log 79. -/
def flushDone (s : State) : State :=
  if s.rsv.st ≠ .flush then s
  else
    let r := s.rsv
    let image : Image :=
      { seq := r.intent, cause := r.flushCause, lossAt := r.lossAt, flushAt := BitVec.ofNat 64 r.flushAt, bank := s.prot.bank
        stalls := s.imageStalls }
    let images := if s.moduleStopped then r.images else r.images.put (imageSlot r.intent) (some image)
    let s := { s with rsv := { r with st := .held, images := images } }.platform
    if r.flushCause = 1 then { s with gtb := { s.gtb with running := false } }
    else
      let reqs := s.power.coldReply
      forAll reqs (fun w u => u.answerWaiter w 0x0090 ok) { s with power := { s.power with coldReply := [] } }
/-- FLUSH_ABORT: the bank reaches V_FLUSH_ABORT, and no MARKER is written (R517). -/
def flushAbort (s : State) : State :=
  if s.rsv.st = .flush && !s.rsv.mainOk then
    { s with rsv := { s.rsv with st := .held, vbank := vFlushAbort }, gtb := { s.gtb with running := false } }.platform
  else s
/-- BANK_DEAD: at V_DEAD everything is off. -/
def bankDead (s : State) : State :=
  if s.rsv.mainOk || s.power.powerGood then s
  else { s with rsv := { s.rsv with st := .held, vbank := vDead }, gtb := { s.gtb with running := false } }.platform

/-! Charging, tests and the write of RSV_CTL (R508, R509, R512, R521, R523, R524). -/

/-- BANK_ACCEPT_REACHED. -/
def bankAcceptReached (s : State) : State :=
  if s.rsv.st ≠ .charging then s
  else
    let s := { s with rsv := { s.rsv with vbank := max s.rsv.vbank s.rsv.vAccept } }
    s.rsvTo s.rsv.settled
/-- IMAGE_SLOT_ERASE_DONE: the slot of the next flush is empty. -/
def imageSlotEraseDone (s : State) : State :=
  if s.rsv.slotErased || !s.rsv.onMain then s
  else
    let s := { s with rsv := { s.rsv with slotErased := true, images := s.rsv.images.erase (imageSlot (s.rsv.consumed + 1)) } }
    if s.rsv.st = .charging then s.rsvTo s.rsv.settled else s
/-- HEALTH_TEST_START: only in ARMED, DEGRADED or FAULT, with the bank at V_FULL; it wakes the package (R535). -/
def healthTestStart (s : State) : State :=
  if (s.rsv.st = .armed || s.rsv.st = .degraded || s.rsv.st = .fault) && !s.rsv.testBusy then
    ({ s with rsv := { s.rsv with testBusy := true, testWanted := false, vbank := vFull } }).wakePackage 7 false
  else s
/-- TEST_START. -/
def testStart (s : State) : State := { s with rsv := { s.rsv with testWanted := true } }
/-- HEALTH_TEST_DONE, with C in mF and ESR in milliohms, or without a result: the values and the state take effect together. DESIGN CHOICE, log 76. DEDUCED, log 77. -/
def healthTestDone (cap esr : U16) (complete : Bool) (s : State) : State :=
  if !s.rsv.testBusy then s
  else
    let c := cap.toNat
    let r := { s.rsv with testBusy := false, testAt := s.nowW, testFailed := !complete }
    let r := if complete then
        { r with cap := c, esr := esr.toNat, usable := usableOf c, vFlush := vFlushOf c, vAccept := vAcceptOf c
                 rideMs := rideMsOf s.pkg.variant c, vbank := vFull }
      else r
    let s := ({ s with rsv := r }).rsvTo r.settled
    let found : BitVec 7 := match r.tested with
      | .degraded => rsvDegraded
      | .fault => rsvFault
      | _ => 0
    s.rsvEvt (rsvTestDone ||| found)
/-- A write of RSV_CTL: UNGUARDED until LOCK is set, TEST_START, and LOCK. DEDUCED, log 77. -/
def rsvCtlWrite (v : U32) (s : State) : State :=
  let r := s.rsv
  { s with rsv := { r with unguarded := if r.lock then r.unguarded else has v 0, testWanted := r.testWanted || has v 1, lock := r.lock || has v 31 } }

def execMainPowerLost (vbank vmain : U32) (s : State) : Host.Outcome State Fault Refusal := .next (mainPowerLost vbank vmain s)
def execMainPowerReturn (vbank vmain : U32) (s : State) : Host.Outcome State Fault Refusal := .next (mainPowerReturn vbank vmain s)
def execFlushStart (s : State) : Host.Outcome State Fault Refusal := .next (flushStart s)
def execFlushDone (s : State) : Host.Outcome State Fault Refusal := .next (flushDone s)
def execFlushAbort (s : State) : Host.Outcome State Fault Refusal := .next (flushAbort s)
def execBankDead (s : State) : Host.Outcome State Fault Refusal := .next (bankDead s)
def execBankAcceptReached (s : State) : Host.Outcome State Fault Refusal := .next (bankAcceptReached s)
def execImageSlotEraseDone (s : State) : Host.Outcome State Fault Refusal := .next (imageSlotEraseDone s)
def execHealthTestStart (s : State) : Host.Outcome State Fault Refusal := .next (healthTestStart s)
def execTestStart (s : State) : Host.Outcome State Fault Refusal := .next (testStart s.barWrite)
def execHealthTestDone (cap esr : U16) (complete : Bool) (s : State) : Host.Outcome State Fault Refusal := .next (healthTestDone cap esr complete s)
def execUnguardedWrite (v : U32) (s : State) : Host.Outcome State Fault Refusal := .next (rsvCtlWrite v s.barWrite)

end Sys2Proof.Machine
end

