-- ==== Sys2Proof/Machine/Power.lean ====
section
/-! DEFINITION. Sky states, package Clear and its wake, and thermal trips (R527–R536, R541). -/

namespace Sys2Proof.Machine

/-! Clusters (R530, R531). -/

/-- CLUSTER_IDLE_SCATTER: a Broken cluster has been idle for its IDLE_SCATTER. Held clusters stay. -/
def clusterIdleScatter (c : Nat) (s : State) : State :=
  let k := s.sky c
  if k.sky ≠ .broken || k.waking.isSome || k.scatter = 0 || k.haltHold || s.gateHeld c then s
  else
    let s := s.advance (k.since + k.scatter)
    s.setSky c (fun k => { k with sky := .scattered, since := s.now })
/-- CLUSTER_IDLE_CLEAR: a Scattered cluster has been so for its IDLE_CLEAR, with CLUSTER_CLEAR_EN; one that holds a task not
yet saved stays. -/
def clusterIdleClear (c : Nat) (s : State) : State :=
  let k := s.sky c
  if k.sky ≠ .scattered || k.waking.isSome || k.clearAfter = 0 || k.haltHold || s.gateHeld c || !s.clusterClearEn
     || (s.clusters.get Cluster.init c).stall.isSome then s
  else (s.advance (k.since + k.clearAfter)).darken c
/-- CLUSTER_WAKE_DONE: the cluster arrives. One that arrives in Broken begins an idle period. -/
def clusterWakeDone (c : Nat) (s : State) : State :=
  match (s.sky c).waking with
  | none => s
  | some (st, t) =>
    let s := (s.advance t).setSky c (fun k => { k with sky := st, waking := none })
    if st = .broken then s.beginIdle c else s

/-! Package Clear (R529, R533, R534). -/

/-- Does a queue keep its engine at work: a command in progress other than a wait, or one that may start under R226. -/
def Queue.busy (q : Queue) : Bool :=
  q.entries.any (fun e => (e.st = .started && !waitsBefore e.opcode) || e.st = .ready)
  || (match q.next? with
      | none => false
      | some e => !e.undecided && q.orderFree e)
/-- Does the stall have work for HBM: engines at work, requests of R535 not answered, claims. -/
def Stall.busy (t : Stall) : Bool :=
  t.queues.any (fun (e : Nat × Queue) => e.2.busy) || !t.launches.isEmpty || t.drover.stepping || !t.memClear.isEmpty || !t.kills.isEmpty
  || !t.invals.isEmpty || !t.measuring.isEmpty || !t.reset.isEmpty || !t.relay.claims.isEmpty || !t.relay.colls.isEmpty
  || t.drover.models.any (fun (e : Nat × DrvModel) => e.2.loading.isSome)
/-- Does a Tsuholt port allow package Clear (R529). DEDUCED, log 97. -/
def TlPort.calm (x : TlPort) : Bool :=
  x.st = .lowpower || x.st = .retired || x.st = .disabled || (x.st = .active && x.sendq.isEmpty)
/-- The conditions of R529 at this step but for PKG_IDLE; `l1` names the host ports whose links are in L1. -/
def State.mayClear? (s : State) (l1 : BitVec 4) : Bool :=
  let yardCalm := s.yard.st = .idle || (s.yard.st = .changing && s.yard.chg.all (fun c => decide (c.step = ChgStep.none)))
  s.running && (List.range 512).all (fun c => (s.sky c).sky = .clear && (s.sky c).waking.isNone) && s.pkgClearEn
  && s.stalls.all (fun (e : Nat × Stall) => !e.2.busy)
  && s.tb.gates.all (fun (e : Nat × Gate) => e.2.st ≠ .waking)
  && s.prot.grooming.isEmpty && s.yard.waitBays.isEmpty && yardCalm && s.power.warm.isNone && s.acct.recoveries.isEmpty
  && allPorts.all (fun (p : HostPort) => !(s.port p).linkUp || has l1 p)
  && (List.range (linkPorts s.pkg.variant)).all (fun p => (s.tlp p).calm) && s.power.phase = bootDone
/-- PKG_CLEAR_ENTRY: the conditions have held for PKG_IDLE. DESIGN CHOICE, log 83. -/
def pkgClearEntry (l1 : BitVec 4) (s : State) : State :=
  if s.power.clearSt = .awake && fld s.power.idle 16 8 ≠ 0 && s.mayClear? l1 then { s with power := { s.power with clearSt := .entering } }
  else s
/-- The wake of a package that has begun to enter: no bit of PWR_WAKE_SRC sets (R534). -/
def State.abandonEntry (s : State) : State :=
  { s with power := { s.power with clearSt := .waking 1, wakeNeedsCluster := false } }
/-- PKG_CLEAR_ENTERED: the entry completes where its conditions still hold, and else is abandoned (R534). The GTB steps a
reference cycle at a time (R46), and every ACTIVE port that may keeps only its lane 0 (R378). DESIGN CHOICE, log 83. -/
def pkgClearEntered (l1 : BitVec 4) (s : State) : State :=
  if s.power.clearSt ≠ .entering then s
  else if !s.mayClear? l1 then s.abandonEntry
  else
    let s := forAll (List.range 48) (fun p u =>
      if (u.tlp p).st = .active && (u.tlp p).lowOk then u.setTlp p (fun x => { x.settle u.now with st := .lowpower }) else u) s
    { s with
      power := { s.power with clearSt := .inClear, clearFrom := s.now }
      gtb := { s.gtb with coarse := true, coarseEnd := none } }.platform
/-- The MUART and I3C wake only their own paths, and in package Clear they set their bit (R536). -/
def State.noteWake (s : State) (src : Nat) : State :=
  if s.power.clearSt = .inClear then { s with power := { s.power with wakeSrc := incl s.power.wakeSrc src } } else s
/-- PKG_WAKE: a wake source finds the package in package Clear, or entering it. -/
def pkgWake (src : Nat) (needsCluster : Bool) (s : State) : State :=
  if src = 5 || src = 6 then s.noteWake src else s.wakePackage src needsCluster
/-- The wake has ended. -/
def State.woken (s : State) : State := { s with power := { s.power with clearSt := .awake } }.pwrEvt evtWake
/-- PKG_WAKE_PHASE_DONE: the next phase begins. Doorbells are checked from the end of phase 3; the wake ends with phase 4, or
with phase 5 where a cluster is needed. -/
def pkgWakePhaseDone (s : State) : State :=
  match s.power.clearSt with
  | .waking k =>
    if k < 4 then
      let s := { s with power := { s.power with clearSt := .waking (k + 1) } }
      if k = 3 then s.wakeQueues (fun _ _ => true) else s
    else if k = 4 && s.power.wakeNeedsCluster then { s with power := { s.power with clearSt := .waking 5 } }
    else s.woken
  | _ => s
/-- PWR_CTL_WRITE: the enables hold at once; clearing PKG_CLEAR_EN abandons an entry. -/
def pwrCtlWrite (v : U32) (s : State) : State :=
  let s := { s with power := { s.power with ctl := v &&& 3 } }
  if s.power.clearSt = .entering && !s.pkgClearEn then s.abandonEntry else s

/-! Thermal trip (R541). -/

/-- THERMAL_TRIP: some die's last sample reads 115 °C or more. -/
def thermalTrip (s : State) : State :=
  if s.power.thermStop || !s.power.therm.any (fun (e : Nat × Therm) => decide (115 ≤ e.2.tmax.toNat)) then s
  else
    let was := s.running
    let s := { s with power := { s.power with thermTrip := true, thermStop := true } }
    (if was then s.stopPart else s.platform).pwrEvt evtTrip

def execClusterIdleScatter (c : Fin 512) (s : State) : Host.Outcome State Fault Refusal := .next (clusterIdleScatter c s)
def execClusterIdleClear (c : Fin 512) (s : State) : Host.Outcome State Fault Refusal := .next (clusterIdleClear c s)
def execClusterWakeDone (c : Fin 512) (s : State) : Host.Outcome State Fault Refusal := .next (clusterWakeDone c s)
def execPkgClearEntry (l1 : BitVec 4) (s : State) : Host.Outcome State Fault Refusal := .next (pkgClearEntry l1 s)
def execPkgClearEntered (l1 : BitVec 4) (s : State) : Host.Outcome State Fault Refusal := .next (pkgClearEntered l1 s)
def execPkgWake (src : Fin 8) (needsCluster : Bool) (s : State) : Host.Outcome State Fault Refusal := .next (pkgWake src needsCluster s)
def execPkgWakePhaseDone (s : State) : Host.Outcome State Fault Refusal := .next (pkgWakePhaseDone s)
def execPwrCtlWrite (v : U32) (s : State) : Host.Outcome State Fault Refusal := .next (pwrCtlWrite v s.barWrite)
def execThermalTrip (s : State) : Host.Outcome State Fault Refusal := .next (thermalTrip s)

end Sys2Proof.Machine
end

