-- ==== Sys2Proof/Machine/Protect.lean ====
section
/-! DEFINITION. Debug sessions and the TAP (R424–R427), the module's self-tests and error state (R433–R436), zeroisation
and decommission (R437, R438), and the slot ledger's query (R594). -/

namespace Sys2Proof.Machine

/-! Challenges and tokens (R424, R425). -/

/-- How long a challenge and a confirmation stay valid: 60 s. -/
def sixtySeconds : Nat := 960000000000
/-- The nonce that is valid now. -/
def State.nonce? (s : State) : Option (List Byte) :=
  (s.prot.challenge.filter (fun c => decide (s.now ≤ c.2 + sixtySeconds))).map (·.1)
/-- SEC_CHALLENGE. -/
def secChallenge (m : Req) (s : State) : State :=
  s.mbServeA (form 0x0060 true false 0 []) m (fun s =>
    let r := s.drawBytes 32
    (okWith r.1, { r.2 with prot := { r.2.prot with challenge := some (r.1, s.now) } }))
/-- A key's digest (R126). -/
def keyDigest (key : List Byte) : List Byte := digestBytes (Config.sha384 key)
/-- The first check an unlock token fails (R425). -/
def State.tokenBad (s : State) (p : List Byte) : Option Nat :=
  let scope := f8 p 5
  let mask := slice p 0x10 16
  let stalls := (List.range 128).filter (fun n => has (BitVec.ofNat 128 (leNat mask)) n)
  let key := if scope = 3 then Config.serviceKey else s.yard.key
  let keyBad := slice p 0x70 48 ≠ keyDigest key || (scope ≠ 3 && s.yard.keyState ≠ .enrolled)
  if slice p 0 4 ≠ [0x44, 0x42, 0x47, 0x54] || f8 p 4 ≠ 1 || scope = 0 || 3 < scope || !zeroAt p 6 2 || (scope ≠ 1 && !zeroAt p 0x10 16) then some 1
  else if slice p 0x20 48 ≠ digestBytes Config.idDigest || s.nonce? ≠ some (slice p 0x50 32) then some 2
  else if keyBad then some 3
  else if !Config.ecdsaVerify key (Config.sha384 (slice p 0 0xA0)) (slice p 0xA0 96) then some 4
  else if f64 p 8 < s.now then some 5
  else if scope = 3 && !s.prot.decommissioned then some 6
  else if scope = 1 && stalls.any (fun n => (s.stall? n).all (fun t => !t.hold.debugConsent)) then some 7
  else none
/-- A token opens its session, which replaces an open one (R426); each stall it names counts it (R427). -/
def State.openDebug (s : State) (p : List Byte) (viaTap : Bool) : State :=
  let s := s.endDebug
  let mask := BitVec.ofNat 128 (leNat (slice p 0x10 16))
  let s := { s with prot := { s.prot with
    scope := f8 p 5, viaTap := viaTap, notAfter := BitVec.ofNat 64 (f64 p 8), stallMask := mask, challenge := none } }
  forAll (members mask) (fun n u => u.modStall n (fun t => { t with debugCount := t.debugCount + 1 })) s
/-- DEBUG_UNLOCK through the mailbox. DEDUCED, log 64. -/
def debugUnlock (m : Req) (s : State) : State :=
  s.mbServeA (form 0x0061 true false 256 []) m (fun s =>
    match s.tokenBad m.payload with
    | some d => (refuse d, s)
    | none => (ok, s.openDebug m.payload false))
/-- DBG_UNLOCK through the TAP: the same token, with no answer. -/
def tapUnlock (token : List Byte) (s : State) : State :=
  if s.moduleStopped || !s.prot.approved || token.length ≠ 256 || (s.tokenBad token).isSome then s else s.openDebug token true
/-- DEBUG_LOCK. DEDUCED, log 64. -/
def debugLock (m : Req) (s : State) : State := s.mbServeA (form 0x0062 true false 0 []) m (fun s => (ok, s.endDebug))
/-- DEBUG_SESSION_EXPIRY: the GTB reaches NOT_AFTER. -/
def debugSessionExpiry (s : State) : State :=
  if s.prot.scope = 0 then s
  else
    let s := s.advance s.prot.notAfter.toNat
    if s.now < s.prot.notAfter.toNat then s else s.endDebug
/-- May the open session debug this stall (R426, R427): a STALL session that names it while it consents, or a FACTORY
session. -/
def State.debugs (s : State) (n : Nat) : Bool :=
  (s.stall? n).any (fun t => (s.prot.scope = 1 && has s.prot.stallMask n && t.hold.debugConsent) || s.prot.scope = 3)
/-- DEBUG_HALT (R75, R426, R530): the named clusters of the stall are held at Broken; sleeping ones wake to it. DEDUCED, log 66. -/
def debugHalt (n : StallNo) (cs : List (Fin 512)) (s : State) : State :=
  match s.stall? n with
  | none => s
  | some t =>
    if !s.debugs n then s
    else
      let mine := (cs.map (·.val)).filter (fun c => t.hold.liveClusters.contains c)
      let s := s.setStall n { t with halted := forAll mine (fun c b => incl b c) t.halted }
      forAll mine (fun c u =>
        let u := u.setSky c (fun k => { k with haltHold := true, sky := if k.sky = .overcast then .broken else k.sky })
        u.wakeCluster c) s
/-- DEBUG_RESUME: the stall's halts end. DEDUCED, log 66. -/
def debugResume (n : StallNo) (s : State) : State := s.endHalts n

/-! The TAP (R424, R426). -/

/-- Does the part implement this instruction now: BYPASS and IDCODE always, boundary scan in a YARD session (EXTEST only
under the default plan), scan in a FACTORY session of a decommissioned part. -/
def State.tapHas (s : State) (i : TapInstr) : Bool :=
  match i with
  | .bypass | .idcode => true
  | .samplePreload | .highz | .clamp => s.prot.scope = 2 || s.prot.scope = 3
  | .extest => (s.prot.scope = 2 || s.prot.scope = 3) && s.yard.isDefault
  | .scan => s.prot.scope = 3 && s.prot.decommissioned
/-- A TAP instruction: one the part does not implement selects BYPASS. PRESUMED, log 65. -/
def State.tapTo (s : State) (i : TapInstr) : State := { s with prot := { s.prot with tap := if s.tapHas i then i else .bypass } }
/-- What the selected register shifts out first: IDCODE's 32 bits, or the bypass bit. -/
def tapBypass (s : State) : State := (s.tapTo .bypass).emit (.tap [0])
/-- PRESUMED, log 65. -/
def tapIdcode (s : State) : State := (s.tapTo .idcode).emit (.tap (leBytes 4 Config.tapIdcode.toNat))

/-! Self-tests (R434). -/

/-- A run of the CASTs begins, for those who wait for it; one that comes during a run waits for its end. -/
def State.startSelftest (s : State) (l : List Waiter) : State :=
  { s with prot := { s.prot with selftestBusy := true, selftestWait := s.prot.selftestWait ++ l } }
/-- SELFTEST. DEDUCED, log 64. -/
def selftest (m : Req) (s : State) : State :=
  s.mbServe { form 0x0065 true false 0 [] with always := true } m (fun s => s.startSelftest [.mailbox m])
/-- PERIODIC_SELFTEST: every 2^46 gticks. -/
def periodicSelftest (s : State) : State := if s.prot.error then s else s.startSelftest []

/-! The error state (R435, R436). -/

/-- Every link stops passing data: its port goes back to TRAIN. -/
def State.quietLinks (s : State) : State := forAll (List.range 48) (fun p u => u.retrainPort p) s
/-- The module enters its error state with a cause. -/
def State.enterError (s : State) (cause alg inst : Byte) : State :=
  if s.prot.error then s
  else
    let r := s.endDebug.stopAll
    let s := r.1.quietLinks
    { s with prot := { s.prot with error := true, approved := false, fipsCause := BitVec.ofNat 32 (cause.toNat + 256 * alg.toNat + 65536 * inst.toNat) } }.platform
/-- CRYPTO_INSTANCE_FAILURE (R435): the instance's die is retired; a failed RTP copy takes its I/O die. With no RTP copy
left in service the module enters its error state. -/
def cryptoFail (u : CryptoUnit) (cause alg inst : Byte) (s : State) : State :=
  let c : Component := match u with
    | .mee d => .cdie d
    | .lee i | .hle i => .iodie i
    | .rtp k => .iodie ⟨k.val, by omega⟩
  let s := s.componentFault c true [] []
  if has s.pkg.deadIodie 0 && has s.pkg.deadIodie 1 then s.enterError cause alg inst else s
/-- The die of an instance is there. -/
def cryptoFitted (v : Variant) : CryptoUnit → Bool
  | .lee i | .hle i => decide (i.val < iodies v)
  | _ => true

/-! Zeroisation and decommission (R437, R438). -/

/-- A session and a stall without their keys. -/
def Session.wiped (x : Session) : Session := { x with ended := true, secret := [] }
def Stall.wiped (t : Stall) : Stall :=
  { t with attest := { t.attest with images := [], pairs := [] }
           drover := { t.drover with borrows := t.drover.borrows.map (fun (b : Nat × Borrow) => (b.1, { b.2 with key := [] })) } }
/-- ZEROISE takes effect: engines stop, every CSP but the root banks is gone, the Groom clears every bay, and the image
slots are invalid. -/
def State.zeroise (s : State) : State :=
  if s.prot.zeroised || s.prot.zeroising then s
  else
    let r := s.endDebug.stopAll
    let s := r.1.quietLinks
    let bays := (List.range 128).filter s.bayAvail
    let s := { s with
      sessions := s.sessions.map (fun (e : Nat × Session) => (e.1, e.2.wiped))
      stalls := s.stalls.map (fun (e : Nat × Stall) => (e.1, e.2.wiped))
      rsv := { s.rsv with images := [] }
      prot := { s.prot with approved := false, zeroising := true, challenge := none, grooming := bays } }.platform
    (s.modChg (fun c => { c with frozenAt := if c.frozenAt.isSome then c.frozenAt else some s.now })).zeroiseProgress
/-- ZEROISE through the mailbox, in any state of the module. DEDUCED, log 64. DEDUCED, log 67. -/
def zeroiseReq (m : Req) (s : State) : State :=
  s.mbServe { form 0x0063 true false 0 [] with always := true, inError := true } m (fun s =>
    if s.prot.zeroised then s.mbAnswer m 0x0063 ok
    else { s with prot := { s.prot with zeroiseReq := s.prot.zeroiseReq ++ [Waiter.mailbox m] } }.zeroise)
/-- DECOMMISSION's checks (R438), in their order. -/
def State.decomBad (s : State) (p : List Byte) : Option Nat :=
  let nonce := slice p 0 32
  let sig := slice p 32 96
  let msg := [0x59, 0x4B, 0x44, 0x43] ++ digestBytes Config.idDigest ++ nonce
  let sigOk := if s.yard.keyState = .enrolled then Config.ecdsaVerify s.yard.key (Config.sha384 msg) sig else zeroAt sig 0 96
  if !s.stalls.isEmpty || !s.yard.isDefault then some 1
  else if s.nonce? ≠ some nonce then some 2
  else if !sigOk then some 3
  else if s.prot.spent then some 4
  else none
/-- DECOMMISSION: taken, it waits for its confirmation. DEDUCED, log 67. -/
def decommission (m : Req) (s : State) : State :=
  s.mbServe (form 0x0064 true false 128 []) m (fun s =>
    match s.decomBad m.payload with
    | some d => s.mbAnswer m 0x0064 (refuse d)
    | none =>
      if s.prot.decom.isSome then let r := s.refuseFree; r.2.mbAnswer m 0x0064 r.1
      else { s with prot := { s.prot with decom := some (m, s.now), challenge := none } })
/-- What no reset undoes: the bank is spent, the key and the floor are gone, and the plan store is erased. -/
def State.spend (s : State) : State :=
  { s with
    prot := { s.prot with bank := if s.prot.bank = 3 then 3 else s.prot.bank + 1, spent := s.prot.spent || s.prot.bank = 3, decommissioned := true }
    yard := { s.yard with keyState := .unenrolled, key := [], pendKey := [], keySeq := 0, epochFloor := 0, floorDigest := 0, store := []
                          writing := none, writeWait := none } }
/-- A confirmation through the sideband: in time up to the window's last gtick, and refused once a plan has committed. -/
def State.confirmDecom (s : State) : Bool × State :=
  match s.prot.decom with
  | none => (false, s)
  | some (m, at') =>
    let s' := { s with prot := { s.prot with decom := none } }
    if at' + sixtySeconds < s.now then (false, s)
    else if !s.stalls.isEmpty || !s.yard.isDefault then (false, s'.mbAnswer m 0x0064 (refuse 1))
    else (true, (s'.zeroise.spend).mbAnswer m 0x0064 ok)
/-- DECOMMISSION_CONFIRM_EXPIRY. -/
def decomExpiry (s : State) : State :=
  match s.prot.decom with
  | none => s
  | some (m, at') =>
    let s := s.advance (at' + sixtySeconds + 1)
    if s.now ≤ at' + sixtySeconds then s
    else { s with prot := { s.prot with decom := none } }.mbAnswer m 0x0064 (refuse 5)

/-! LEDGER_QUERY (R594). -/

/-- Bytes that a list of intervals covers. -/
def reachBytes (l : List Interval) : Nat :=
  ((List.range 128).map (fun b =>
    let mine := (l.filter (fun i => i.bay = b)).foldr insertLo []
    (mine.foldl (fun (a : Nat × Nat) i => (a.1 + (i.hi - max i.lo a.2), max a.2 i.hi)) (0, 0)).1)).sum
where
  insertLo (i : Interval) : List Interval → List Interval
    | [] => [i]
    | j :: t => if i.lo ≤ j.lo then i :: j :: t else j :: insertLo i t
def slotCode : SlotSt → Nat
  | .clean => 0 | .held => 1 | .clearing => 2 | .internal => 3
/-- LEDGER_QUERY. DEDUCED, log 95. -/
def ledgerQuery (m : Req) (s : State) : State :=
  let bad (p : List Byte) : Option Nat := if 1024 ≤ f16 p 0 then some 0 else none
  s.mbServeA { form 0x0066 true false 8 [(2, 6)] with bad := bad } m (fun s =>
    let k := f16 m.payload 0
    let x := s.slot k
    let live := x.st = .held || x.st = .clearing
    let reach := if live then x.reach else []
    let left := if x.st = .held then x.reach else if live then x.left else []
    (okWith (leBytes 1 (slotCode x.st) ++ [s.yard.slotOwner.get 0xFF k] ++ leBytes 2 reach.length ++ zeros 4 ++ leBytes 8 (reachBytes left)), s))

def execSecChallenge (m : MbReq) (s : State) : Host.Outcome State Fault Refusal := .next (secChallenge (plain m) s)
def execDebugUnlock (m : MbReq) (tap : Bool) (s : State) : Host.Outcome State Fault Refusal :=
  .next (if tap then tapUnlock m.payload s else debugUnlock (plain m) s)
def execDebugLock (m : MbReq) (s : State) : Host.Outcome State Fault Refusal := .next (debugLock (plain m) s)
def execDebugSessionExpiry (s : State) : Host.Outcome State Fault Refusal := .next (debugSessionExpiry s)
def execDebugHalt (n : StallNo) (clusters : List (Fin 512)) (s : State) : Host.Outcome State Fault Refusal := .next (debugHalt n clusters s)
def execDebugResume (n : StallNo) (s : State) : Host.Outcome State Fault Refusal := .next (debugResume n s)
def execTapBypass (s : State) : Host.Outcome State Fault Refusal := .next (tapBypass s)
def execTapIdcode (s : State) : Host.Outcome State Fault Refusal := .next (tapIdcode s)
def execTapSamplePreload (s : State) : Host.Outcome State Fault Refusal := .next (s.tapTo .samplePreload)
def execTapHighz (s : State) : Host.Outcome State Fault Refusal := .next (s.tapTo .highz)
def execTapClamp (s : State) : Host.Outcome State Fault Refusal := .next (s.tapTo .clamp)
def execTapExtest (s : State) : Host.Outcome State Fault Refusal := .next (s.tapTo .extest)
def execTapScan (s : State) : Host.Outcome State Fault Refusal := .next (s.tapTo .scan)
def execSelftest (m : MbReq) (s : State) : Host.Outcome State Fault Refusal := .next (selftest (plain m) s)
def execPeriodicSelftest (s : State) : Host.Outcome State Fault Refusal := .next (periodicSelftest s)
def execCryptoInstanceFailure (u : CryptoUnit) (cause alg inst : Byte) (s : State) : Host.Outcome State Fault Refusal :=
  if cryptoFitted s.pkg.variant u then .next (cryptoFail u cause alg inst s) else .fault .notFitted
def execZeroise (m : MbReq) (s : State) : Host.Outcome State Fault Refusal := .next (zeroiseReq (plain m) s)
def execDecommission (m : MbReq) (s : State) : Host.Outcome State Fault Refusal := .next (decommission (plain m) s)
def execDecommissionConfirmExpiry (s : State) : Host.Outcome State Fault Refusal := .next (decomExpiry s)
def execLedgerQuery (m : MbReq) (s : State) : Host.Outcome State Fault Refusal := .next (ledgerQuery (plain m) s)

end Sys2Proof.Machine
end

