-- ==== Sys2Proof/Machine/Reset.lean ====
section
/-! DEFINITION. Resets and boot (R542–R548): the stall reset, the warm reset, requested cold resets, the release of a cold
reset and the boot sequence with the reserve's case (R521) and the choice of a plan (R136, R137). -/

namespace Sys2Proof.Machine

/-! The stall reset (R545). -/

/-- A regulator's part of the delivery page returns to 0; its credit, its requests and its duty gate stay (R364). -/
def Regulator.zeroed (g : Regulator) : Regulator :=
  { g with live := RegCounts.init, shown := RegCounts.init, winN := 0, winLat := 0, overNow := false, gatedNow := g.gateShut, ewma := 0, prio := g.base
           step := 0, creditLeft := 0 }
def LinkCount.zeroed (c : LinkCount) : LinkCount := { c with tx := 0, rx := 0, txShown := 0, rxShown := 0 }
def Delivery.zeroed (d : Delivery) (now : U64) : Delivery :=
  { regs := d.regs.map (fun e => (e.1, e.2.zeroed)), links := (d.links.map (fun e => (e.1, e.2.zeroed))).filter (fun e => e.2 ≠ LinkCount.init)
    window := 0, since := now, linkSince := now, gen := 0 }
/-- The values of the stall-reset column of R543. DEDUCED, log 82. -/
def Stall.cleaned (t : Stall) (now : U64) : Stall :=
  { t with drover := Drover.init, seed := 0, sched := Sched.init, stats := MemStats.init, bar2Deny := 0, dlv := t.dlv.zeroed now
           ctxs := t.ctxs.map (fun e => (e.1, { e.2 with tlb := [] })) }
/-- STALL_RESET: doorbells are held from now on, every context is killed, Drover is cleared, the gates go to IDLE, and the
values of R543 are set. A second request joins a reset in progress. It wakes the package (R535). -/
def stallReset (m : Req) (s : State) : State :=
  s.mbServe { form 0x0022 true false 8 [(1, 7)] with stallAt := some 0 } m (fun s =>
    onStall (f8 m.payload 0) (fun n s =>
      match s.stall? n with
      | none => s
      | some t =>
        let s := s.wakePackage 7 false
        let s := s.modStall n (fun t => { t with reset := t.reset ++ [m] })
        if !t.reset.isEmpty then s
        else
          let s := (s.killAll n 0x0A).recallLoans n
          let s := s.resetGates t.hold.gates
          s.modStall n (fun t => t.cleaned s.nowW)) s)
/-- STALL_RESET_DONE: held doorbells are checked and the requests answered. -/
def stallResetDone (n : StallNo) (s : State) : State :=
  match s.stall? n with
  | none => s
  | some t =>
    let s := s.setStall n { t with reset := [] }
    forAll t.reset (fun m u => u.mbAnswer m 0x0022 ok) (s.wakeQueues (fun j _ => j = n.val))

/-! The warm reset (R168, R544, R546). -/

/-- A warm reset that may not begin: one is in progress, or the part is thermally stopped. -/
def State.warmBad (s : State) : Option Nat := if s.power.warm.isSome then some 1 else if s.power.thermStop then some 2 else none
/-- Must a warm reset wait for the grant tick of the change's phase (R168). -/
def State.warmWaits (s : State) : Bool :=
  s.yard.st = .changing && s.yard.chg.any (fun c => c.step = .pausing || c.step = .hold || c.step = .grooming || c.step = .grantWait)
/-- A warm reset for `w` begins, or is deferred to the grant tick, with a holding phase resolved by force. -/
def State.requestWarm (s : State) (w : Waiter) : State :=
  if s.warmWaits then
    let s := { s with power := { s.power with warmDeferred := true, deferredReqs := s.power.deferredReqs ++ [w] } }
    if s.yard.chg.any (fun c => c.step = .hold) then s.forceHold 4 else s
  else s.beginWarm [w]
/-- WARM_RESET_DONE: steps 4 and 5. ENDED records become visible, the stopped commands are decided, waking gates wake their
clusters again, held doorbells are checked, the receive buffers drain, and the requests are answered. -/
def warmResetDone (s : State) : State :=
  match s.power.warm with
  | none => s
  | some w =>
    let s := s.showAll.closeRecoveries
    let s := { s with power := { s.power with warm := none, warmCnt := satAdd s.power.warmCnt 1 } }.pwrEvt evtWarmDone
    let s := s.rewakeGates.wakeQueues (fun _ _ => true)
    let s := forAll (List.range 48) (fun p u => if h : p < 48 then u.takeInbox ⟨p, h⟩ else u) s
    forAll w.reqs (fun x u => u.answerWaiter x 0x0090 ok) s

/-! Requested cold resets (R522, R546). -/

/-- A cold reset is requested, with its CAUSE: the part stops serving, flushes where LIVE is 1, and answers once the flush
has committed. DEDUCED, log 80. -/
def State.requestCold (s : State) (w : Waiter) (cause : Nat) : State :=
  let s := { s with power := { s.power with coldReq := some (s.power.coldReq.getD cause) } }
  if s.rsv.st = .flush then { s with power := { s.power with coldReply := s.power.coldReply ++ [w] } }
  else if s.rsv.live && !s.moduleStopped && s.rsv.st ≠ .held then
    { s with power := { s.power with coldReply := s.power.coldReply ++ [w] } }.beginFlush 2
  else s.answerWaiter w 0x0090 ok
/-- PKG_RESET (R546). -/
def pkgResetForm (cold : Bool) : MbForm :=
  { form 0x0090 true false 8 [(1, 7)] with
    bad := fun p => if f8 p 0 = 1 || f8 p 0 = 2 then none else some 0
    always := cold, inError := cold }
/-- PKG_RESET: KIND 1 is a warm reset and KIND 2 a cold one, which is served in every state of the module. -/
def pkgReset (m : Req) (s : State) : State :=
  let cold := f8 m.payload 0 = 2
  let f := pkgResetForm cold
  s.mbServe f m (fun s =>
    if cold then s.requestCold (.mailbox m) 3
    else match s.warmBad with
      | some d => s.mbAnswer m 0x0090 (refuse d)
      | none => s.requestWarm (.mailbox m))
/-- The two rows of PKG_RESET. -/
def pkgResetWarm (m : Req) (s : State) : State := pkgReset m s
def pkgResetCold (m : Req) (s : State) : State := pkgReset m s

/-! The release of a cold reset (R43, R543, R547). -/

/-- The stall numbers an image of the present journals would cover (R516, R521). -/
def State.atRisk (s : State) : BitVec 128 := bitsOf 128 (s.stallNos ++ s.acct.orphans.map (·.1)) ||| s.rsv.covered
/-- What no cold reset changes: fuses, the key store, the flash, and what lies outside the part. DESIGN CHOICE, log 7. -/
def State.kept (s t : State) : State :=
  let due := match s.power.coldReq with
    | some c => c
    | none => if s.rsv.consumed < s.rsv.intent || s.rsv.live then 2 else 1
  let y := s.yard
  { t with
    pending := s.pending
    free := s.free
    xlatCaching := s.xlatCaching
    pkg := { t.pkg with variant := s.pkg.variant, stepping := s.pkg.stepping }
    prot := { t.prot with bank := s.prot.bank, spent := s.prot.spent, decommissioned := s.prot.decommissioned }
    yard := { t.yard with keyState := if y.keyState = .enrolled then .enrolled else .unenrolled, key := if y.keyState = .enrolled then y.key else []
                          keySeq := y.keySeq, epochFloor := y.epochFloor, floorDigest := y.floorDigest, store := y.store
                          storeFail := y.writing.isSome }
    acct := { t.acct with eraFloor := s.acct.eraFloor, brokenLater := s.acct.brokenLater }
    rsv := { t.rsv with intent := s.rsv.intent, consumed := s.rsv.consumed, live := s.rsv.live, images := s.rsv.images, slotErased := s.rsv.slotErased
                        covered := if s.rsv.consumed < s.rsv.intent || s.rsv.live then s.atRisk else 0
                        rideMs := rideMsOf s.pkg.variant t.rsv.cap }
    host := { t.host with out := s.host.out, hostMem := s.host.hostMem, hostBad := s.host.hostBad
                          ports := (s.host.ports.map (fun e => (e.1, { HostPortSt.init with perst := e.2.perst }))).filter (fun e => e.2 ≠ HostPortSt.init) }
    power := { t.power with causeDue := due } }
/-- COLD_RESET_RELEASE: everything volatile restarts, and the GTB starts at 0. DEDUCED, log 80. -/
def coldResetRelease (s : State) : State := s.kept State.reset

/-! Boot (R547, R548). -/

/-- The reserve's boot case (R521): an image's entries become the orphan lists of their stall numbers (R500), and stalls
whose journals no image holds have their continuity broken (R14). DEDUCED, log 79. -/
def State.bootImage (s : State) (i : Image) : State :=
  let whole (x : ImageStall) : Bool := !(x.defined && x.oneCopy && x.entries.isEmpty)
  let good := i.stalls.filter whole
  let bad := i.stalls.filter (fun (x : ImageStall) => !whole x)
  let list (x : ImageStall) : Nat × OrphanList := (x.stall, { planDigest := x.planDigest, entries := x.entries })
  let lists := (good.filter (fun (x : ImageStall) => !x.entries.isEmpty)).map list
  let s := { s with acct := { s.acct with orphans := lists, brokenLater := s.acct.brokenLater ||| bitsOf 128 (bad.map (fun (x : ImageStall) => x.stall)) } }
  s.accEvent 9 0 0 0 0 0 0 0 0 []
/-- DEDUCED, log 62. -/
def State.bootLost (s : State) : State :=
  let s := { s with acct := { s.acct with orphans := [], brokenLater := s.acct.brokenLater ||| s.rsv.covered } }
  forAll (members s.rsv.covered) (fun _ u => u.accEvent 9 0 0 0 0 0 2 0 0 []) s
def State.bootReserve (s : State) : State :=
  let r := s.rsv
  let pend := r.consumed < r.intent
  if !pend && !r.live then s
  else
    let i := (r.images.find? (imageSlot r.intent)).filter (fun i => pend && i.seq = r.intent && i.bank = s.prot.bank)
    let d := s.draw 16
    let s := match i with
      | some i => d.2.bootImage i
      | none => d.2.bootLost
    { s with rsv := { s.rsv with consumed := r.intent, live := false, slotErased := false, covered := 0
                                 lastKind := if i.isSome then 2 else 3, lastSecs := d.1.toNat } }.rsvEvt rsvColdReturn
/-- The plan store is read (R136): each valid slot is checked by the boot rule, a failure is reported, and the best that
passes is ARMED as a full plan. -/
def State.bootPlan (s : State) : State :=
  let failed (e : Nat × StoreSlot) : Option Rej := planRej (s.planEnv true) e.2.bytes
  let good := s.yard.store.filter (fun e => (failed e).isNone)
  let s := forAll s.yard.store (fun e u => match failed e with
    | none => u
    | some r => u.rejectPlan r (rejEpoch e.2.bytes r)) s
  match (chosenSlot good).bind (fun k => (List.find? (fun (e : Nat × StoreSlot) => e.1 = k) good)) with
  | none => s
  | some e =>
    let p := { readPlan e.2.bytes with change := none }
    ({ s with yard := { s.yard with plan := some p, planBytes := e.2.bytes, stagedFrom := some e.1 } }).armPlan p
/-- The end of a boot phase. DEDUCED, log 81. -/
def State.bootPhase (s : State) (k : Nat) : State :=
  if k = 1 then { s with power := { s.power with cause := s.power.causeDue }, rsv := { s.rsv with mainOk := true } }
  else if k = 2 then
    let ok := !s.prot.error && !s.prot.zeroised && !s.prot.zeroising
    { s with prot := { s.prot with approved := ok, standbyOk := !has s.pkg.deadIodie 0 && !has s.pkg.deadIodie 1 } }.platform
  else if k = 3 then
    let s := forAll (List.range (linkPorts s.pkg.variant)) (fun p u =>
      if s.pkg.portFine p && (u.tlp p).en && (u.tlp p).st = .disabled then u.setTlp p (fun x => { x with st := .detect, stepAt := u.now }) else u) s
    { s with tl := { s.tl with alignFrom := s.now } }
  else if k = 4 then { s with prot := { s.prot with grooming := (List.range 128).filter s.pkg.bayFine } }
  else if k = 5 then { s with prot := { s.prot with grooming := [] } }.zeroiseProgress
  else if k = 6 then
    let g := { s.pkg with checked := true, rtpDie := has s.pkg.deadIodie 0 }.refit
    ({ s with pkg := { g with rtpStandby := !has g.deadIodie 0 && !has g.deadIodie 1 } }).setOwners.bootReserve.bootPlan
  else
    let s := planCommit s
    let s := if s.yard.isDefault || s.yard.active.epoch ≠ 0 then s
      else
        let t := s.advance s.nextGrid
        t.commit Plan.default [] none
    { s with power := { s.power with phase := bootDone, bootAt := s.nowW } }.platform
/-- BOOT_PHASE_DONE: components that failed their tests are retired (R38), an RTP copy that failed takes its I/O die (R435),
and the next phase begins. With both copies gone the module is in its error state. DESIGN CHOICE, log 88. -/
def bootPhaseDone (failed : List Component) (badRtp : BitVec 2) (cause alg inst : Byte) (s : State) : State :=
  let k := s.power.phase
  if k = 0 || 7 < k || s.prot.error then s
  else
    let s := forAll failed (fun c u => { u with pkg := u.pkg.retire c }) s
    let s := forAll (members badRtp) (fun i u => if h : i < 4 then { u with pkg := u.pkg.retire (.iodie ⟨i, h⟩) } else u) s
    if badRtp = 3 || (badRtp ≠ 0 && has s.pkg.deadIodie 0 && has s.pkg.deadIodie 1) then
      { s with power := { s.power with phase := bootError } }.enterError cause alg inst
    else
      let s := s.bootPhase k
      if k = 7 then s else { s with power := { s.power with phase := k + 1 } }

def execStallReset (m : MbReq) (s : State) : Host.Outcome State Fault Refusal := .next (stallReset (plain m) s)
def execStallResetDone (n : StallNo) (s : State) : Host.Outcome State Fault Refusal := .next (stallResetDone n s)
def execPkgResetWarm (m : MbReq) (s : State) : Host.Outcome State Fault Refusal := .next (pkgResetWarm (plain m) s)
def execPkgResetCold (m : MbReq) (s : State) : Host.Outcome State Fault Refusal := .next (pkgResetCold (plain m) s)
def execWarmResetDone (s : State) : Host.Outcome State Fault Refusal := .next (warmResetDone s)
def execColdResetRelease (s : State) : Host.Outcome State Fault Refusal := .next (coldResetRelease s)
def execBootPhaseDone (failed : List Component) (badRtp : BitVec 2) (cause alg inst : Byte) (s : State) : Host.Outcome State Fault Refusal :=
  .next (bootPhaseDone failed badRtp cause alg inst s)

end Sys2Proof.Machine
end

