-- ==== Sys2Proof/Machine/Console.lean ====
section
/-! DEFINITION. The MUART (R550–R560) and the console's commands (R561–R564). -/

namespace Sys2Proof.Machine

/-- Are the always-on domain and the RTP powered: not once only the hold-up controller is (R508). -/
def State.sideUp (s : State) : Bool := s.rsv.st ≠ .held

/-! Characters (R553–R556). -/

/-- MUART_CHAR_RECEIVED: a frame the receiver has decided. A framing or parity error discards the character and counts. The
console reads it, or the receive buffer of 64 holds it while a command runs. DEDUCED, log 85. -/
def muartCharReceived (c : BitVec 9) (framing parity : Bool) (s : State) : State :=
  let u := s.side.mu
  if !s.sideUp || !u.en || u.lineFault || !u.rxAwake then s
  else
    let s := (s.setMu (fun u =>
      { u with lastActive := s.now, brk := false, framing := if framing then satAdd u.framing 1 else u.framing
               parity := if parity then satAdd u.parity 1 else u.parity })).platform
    let x := if framing || parity then none else some c
    if !u.conEn then s
    else if s.side.con.reads then (s.conFeed x).conRead
    else if x.isSome && 64 ≤ (s.side.con.buf.filter (·.isSome)).length then s.setMu (fun u => { u with overrun := satAdd u.overrun 1 })
    else s.setCon (fun k => { k with buf := k.buf ++ [x] })
/-- MUART_CHAR_SENT: the head of the transmit queue has gone out, or in half duplex met a collision and waits for its retry;
after eight in a row the whole queue is discarded (R556). In half duplex a line fault stops the transmitter (R560). -/
def muartCharSent (collided : Bool) (s : State) : State :=
  let u := s.side.mu
  match u.tx with
  | [] => s
  | x :: l =>
    if !s.sideUp || !u.en || u.backoff || (u.half && u.lineFault) then s
    else if u.half && collided then
      let s := s.setMu (fun u => { u with collision := satAdd u.collision 1, hits := u.hits + 1, backoff := true })
      if u.hits + 1 < 8 then s
      else (s.setMu (fun u => { u with tx := [], hits := 0, backoff := false })).muEvt muTxAbort
    else (s.setMu (fun u => { u with tx := l, hits := 0, lastActive := s.now })).emit (.console x)
/-- MUART_RETRY: the line has been idle for two character times, and the abandoned character is sent again. -/
def muartRetry (s : State) : State := s.setMu (fun u => { u with backoff := false })
/-- MU_CONFIG_APPLY: no frame is in progress, and written formats and divisors take effect (R552). -/
def muConfigApply (s : State) : State :=
  s.setMu (fun u => { u with ctl := u.pendCtl.getD u.ctl, div := u.pendDiv.getD u.div, pendCtl := none, pendDiv := none })

/-! Sleep, breaks and line faults (R557–R560). -/

/-- MUART_SLEEP: no character for MU_SLEEP.IDLE. -/
def muartSleep (s : State) : State :=
  let u := s.side.mu
  if !s.sideUp || u.sleep = 0 || !u.rxAwake || u.lineFault || !u.tx.isEmpty then s
  else
    let s := s.advance (u.lastActive + u.sleep.toNat * 2 ^ 28)
    s.setMu (fun u => { u with rxAwake := false })
/-- MUART_WAKE: a falling edge; the character that carries it is lost. The line is no wake source during a line fault. -/
def muartWake (s : State) : State :=
  let u := s.side.mu
  if !s.sideUp || !u.en || u.rxAwake || u.lineFault then s
  else ((s.noteWake 5).setMu (fun u => { u with rxAwake := true, brk := false, wakeLost := satAdd u.wakeLost 1, lastActive := s.now })).platform
/-- What a buffer holds of whole lines. -/
def wholeLines (l : List (Option (BitVec 9))) : List (Option (BitVec 9)) :=
  (l.reverse.dropWhile (fun x => x ≠ some 0x0D && x ≠ some 0x0A)).reverse
/-- BREAK: the line has been low for two character times, and the console drops its partial line. DEDUCED, log 85. -/
def muBreak (s : State) : State :=
  let u := s.side.mu
  if !s.sideUp || !u.en || u.lineFault || !u.rxAwake then s
  else
    let s := s.setMu (fun u => { u with brk := true, breaks := satAdd u.breaks 1 })
    let s := s.setCon (fun c => { c with chars := [], bad := false, long := false, lastCr := false, buf := wholeLines c.buf })
    (s.muEvt muBreakSeen).platform
/-- LINE_FAULT: the line has been low for L. -/
def muLineFault (s : State) : State :=
  if !s.sideUp || s.side.mu.lineFault || !s.side.mu.en then s
  else ((s.setMu (fun u => { u with lineFault := true, faultAt := s.nowW })).muEvt muFaultSet).platform
/-- LINE_FAULT_CLEAR: the line has been idle-high for 1 ms. DEDUCED, log 85. -/
def muLineFaultClear (s : State) : State :=
  if !s.sideUp || !s.side.mu.lineFault then s
  else ((s.setMu (fun u => { u with lineFault := false, brk := false, rxAwake := true, lastActive := s.now })).muEvt muFaultClear).platform

/-! Console commands (R562, R563). -/

/-- Run the command a line gave, where it is one of these and has not begun; in the error state only some run. -/
def State.conRun (s : State) (always : Bool) (body : ConCmd → Option (State → State)) : State :=
  match s.side.con.cmd with
  | none => s
  | some c =>
    if !s.sideUp || s.side.con.running then s
    else match body c with
      | none => s
      | some f => if s.prot.error && !always then s.conErr .state else f s
/-- The command goes on until its answer. -/
def State.conBusy (s : State) : State := s.setCon (fun c => { c with running := true })

def partName : Variant → List Byte
  | .xh5124 => ascii "part 5124 "
  | .xh5126m => ascii "part 5126m "
  | .xh5128l => ascii "part 5128l "
def stepName : Stepping → List Byte
  | .a0 => ascii "a0"
  | .a1 => ascii "a1"
  | .b0 => ascii "b0"
def rsvName : RsvSt → List Byte
  | .charging => ascii "charging" | .armed => ascii "armed" | .degraded => ascii "degraded" | .fault => ascii "fault"
  | .ride => ascii "ride" | .flush => ascii "flush" | .held => ascii "held"
def bootName (k : Nat) : List Byte := if k = bootDone then ascii "done" else if k = bootError then ascii "error" else dec k
/-- CONSOLE_STATUS. -/
def consoleStatus (s : State) : State :=
  s.conRun true (fun c => if c ≠ .status then none else some (fun s =>
    let fips := if s.prot.error then ascii "error" else if s.prot.zeroised || s.prot.zeroising then ascii "zeroised"
      else if s.prot.approved then ascii "approved" else ascii "not-approved"
    (s.sayLines
      [partName s.pkg.variant ++ stepName s.pkg.stepping, ascii "epoch " ++ dec s.yard.active.epoch, ascii "fips " ++ fips
       , ascii "reserve " ++ rsvName s.rsv.st, ascii "boot " ++ bootName s.power.phase
       , if s.side.mu.lineFault then ascii "line fault" else ascii "line ok"]).conOk))
/-- CONSOLE_TIME. -/
def consoleTime (s : State) : State :=
  s.conRun true (fun c => if c ≠ .time then none else some (fun s => (s.sayLines [hexGtb s.nowW]).conOk))
/-- The pending key's digest, in 12 lines of 8 hex digits. -/
def digestLines (d : List Byte) : List (List Byte) := (List.range 12).map (fun i => (slice d (4 * i) 4).flatMap hexByte)
/-- What is pending to confirm, and what a code is held against (R126, R438). -/
def State.enrolDigest? (s : State) : Option (List Byte) :=
  if s.yard.keyState = .pending && decide (s.now ≤ s.yard.pendAt + enrolWindow) then some (keyDigest s.yard.pendKey) else none
def State.decomNonce? (s : State) : Option (List Byte) :=
  (s.prot.decom.filter (fun d => decide (s.now ≤ d.2 + sixtySeconds))).map (fun d => d.1.payload.take 32)
/-- CONFIRM_ENROL. -/
def confirmEnrol (s : State) : State :=
  s.conRun false (fun c => match c with
    | .confirmEnrol code => some (fun s =>
      match s.enrolDigest? with
      | none => s.conErr .nothing
      | some d =>
        let s := s.sayLines (digestLines d)
        if d.take 4 ≠ code then s.conErr .mismatch else s.confirmEnrol.2.conOk)
    | _ => none)
/-- CONFIRM_DECOM. -/
def confirmDecom (s : State) : State :=
  s.conRun false (fun c => match c with
    | .confirmDecom code => some (fun s =>
      match s.decomNonce? with
      | none => s.conErr .nothing
      | some d =>
        if d.take 4 ≠ code then s.conErr .mismatch
        else
          let r := s.confirmDecom
          if r.1 then r.2.conOk else r.2.conErr .nothing)
    | _ => none)
/-- CONSOLE_SELFTEST: answered when the run ends. -/
def consoleSelftest (s : State) : State :=
  s.conRun false (fun c => if c ≠ .selftest then none else some (fun s => s.conBusy.startSelftest [.console]))
/-- CONSOLE_ZEROISE: the command asks for its yes, and with that zeroises. -/
def consoleZeroise (s : State) : State :=
  s.conRun true (fun c => match c with
    | .zeroise => some (fun s =>
      ((s.sayLines [ascii "type yes within 10 s"]).setCon (fun k => { k with running := true, yesFrom := some s.now })).conRead)
    | .yes => some (fun s =>
      if s.prot.zeroised then s.conOk
      else { s.conBusy with prot := { s.prot with zeroiseReq := s.prot.zeroiseReq ++ [Waiter.console] } }.zeroise)
    | _ => none)
/-- CONSOLE_ZEROISE_ABANDONED: 10 s have passed. -/
def consoleZeroiseAbandoned (s : State) : State :=
  match s.side.con.yesFrom with
  | none => s
  | some t =>
    let s := s.advance (t + yesWindow + 1)
    if s.now ≤ t + yesWindow then s else s.conErr .abandoned
/-- RESET_WARM. -/
def resetWarm (s : State) : State :=
  s.conRun false (fun c => if c ≠ .resetWarm then none else some (fun s =>
    if !s.prot.approved || s.warmBad.isSome then s.conErr .state else s.conBusy.requestWarm .console))
/-- RESET_COLD. -/
def resetCold (s : State) : State :=
  s.conRun true (fun c => if c ≠ .resetCold then none else some (fun s => s.conBusy.requestCold .console 4))
/-- CONSOLE_LINE. -/
def consoleLine (s : State) : State :=
  s.conRun true (fun c => if c ≠ .line then none else some (fun s =>
    let u := s.side.mu
    (s.say (Config.conLine (u.collision ++ u.overrun ++ u.parity ++ u.framing) (u.breaks ++ u.wakeLost))).conOk))

/-! The end of a self-test run (R434). -/

/-- SELFTEST_RUN_DONE: SELFTEST_BUSY clears, MEE_ST_LAST takes the end of a run that passed, and those who waited are
answered. DEDUCED, log 68. -/
def selftestRunDone (pass : Bool) (s : State) : State :=
  if !s.prot.selftestBusy then s
  else
    let ws := s.prot.selftestWait
    let s := { s with prot := { s.prot with selftestBusy := false, selftestWait := [], stLast := if pass then s.nowW else s.prot.stLast } }
    forAll ws (fun w u => match w with
      | .console => (u.sayLines [if pass then ascii "cast pass" else ascii "cast fail"]).conOk
      | .pldm => u.answerWaiter w 0x0065 ok
      | .mailbox _ => if pass then u.answerWaiter w 0x0065 ok else let r := u.refuseFree; r.2.answerWaiter w 0x0065 r.1) s

def execMuartCharReceived (c : BitVec 9) (framing parity : Bool) (s : State) : Host.Outcome State Fault Refusal :=
  .next (muartCharReceived c framing parity s)
def execMuartCharSent (collided : Bool) (s : State) : Host.Outcome State Fault Refusal := .next (muartCharSent collided s)
def execMuartRetry (s : State) : Host.Outcome State Fault Refusal := .next (muartRetry s)
def execMuConfigApply (s : State) : Host.Outcome State Fault Refusal := .next (muConfigApply s)
def execMuartSleep (s : State) : Host.Outcome State Fault Refusal := .next (muartSleep s)
def execMuartWake (s : State) : Host.Outcome State Fault Refusal := .next (muartWake s)
def execBreak (s : State) : Host.Outcome State Fault Refusal := .next (muBreak s)
def execLineFault (s : State) : Host.Outcome State Fault Refusal := .next (muLineFault s)
def execLineFaultClear (s : State) : Host.Outcome State Fault Refusal := .next (muLineFaultClear s)
def execConsoleStatus (s : State) : Host.Outcome State Fault Refusal := .next (consoleStatus s)
def execConsoleTime (s : State) : Host.Outcome State Fault Refusal := .next (consoleTime s)
def execConfirmEnrol (s : State) : Host.Outcome State Fault Refusal := .next (confirmEnrol s)
def execConfirmDecom (s : State) : Host.Outcome State Fault Refusal := .next (confirmDecom s)
def execConsoleSelftest (s : State) : Host.Outcome State Fault Refusal := .next (consoleSelftest s)
def execConsoleZeroise (s : State) : Host.Outcome State Fault Refusal := .next (consoleZeroise s)
def execConsoleZeroiseAbandoned (s : State) : Host.Outcome State Fault Refusal := .next (consoleZeroiseAbandoned s)
def execResetWarm (s : State) : Host.Outcome State Fault Refusal := .next (resetWarm s)
def execResetCold (s : State) : Host.Outcome State Fault Refusal := .next (resetCold s)
def execConsoleLine (s : State) : Host.Outcome State Fault Refusal := .next (consoleLine s)
def execSelftestRunDone (pass : Bool) (s : State) : Host.Outcome State Fault Refusal := .next (selftestRunDone pass s)

end Sys2Proof.Machine
end

