-- ==== Sys2Proof/Machine/Drover.lean ====
section
/-! DEFINITION. Drover's requests and commands: configuration, output rings, models, requests, the step loop, sampling and
stopping (R312–R343). The far loft's borrowing is with the links. -/

namespace Sys2Proof.Machine

/-! Untranslated areas (R312): stall offsets under the key set {KEY_INDEX}. -/

def oneKey (i : Nat) : Nat → Bool := fun j => j = i
/-- Does every line of an area resolve to read and write. -/
def Holdings.rwArea (h : Holdings) (key base len : Nat) : Bool :=
  (List.range (ceilDiv len 65536)).all (fun i =>
    match resolve h.regions (oneKey key) (base + 65536 * i) with
    | none => false
    | some r => rightsOk r.rights (rRead + rWrite))
/-- Read `n` bytes inside one line at a stall offset; whether they are good. -/
def State.offRead (s : State) (t : Stall) (key o n : Nat) : List Byte × Bool × State :=
  match resolve t.hold.regions (oneKey key) o, t.hold.place s.pkg.variant o with
  | some r, some (b, y) =>
    if !rightsOk r.rights rRead || r.conflict || has t.hold.retired b then (zeros n, false, s)
    else
      let d := s.lineRead (bayAddr s.pkg.variant b y) n (t.hold.slotOf r.keyIndex)
      (d.1, !d.2.1, d.2.2)
  | _, _ => (zeros n, false, s)
/-- Read a run at a stall offset, line by line. -/
def State.offReadRun (t : Stall) (key : Nat) : Nat → Nat → Nat → State → List Byte × Bool × State
  | 0, _, _, s => ([], true, s)
  | fuel + 1, o, n, s =>
    if n = 0 then ([], true, s)
    else
      let k := pieceLen o n
      let r := s.offRead t key o k
      let g := State.offReadRun t key fuel (o + k) (n - k) r.2.2
      (r.1 ++ g.1, r.2.1 && g.2.1, g.2.2)
/-- Write a run at a stall offset; lines that deny it are dropped. -/
def State.offWrite (t : Stall) (key : Nat) : Nat → Nat → List Byte → State → State
  | 0, _, _, s => s
  | fuel + 1, o, bs, s =>
    if bs.isEmpty then s
    else
      let k := pieceLen o bs.length
      let s := match resolve t.hold.regions (oneKey key) o, t.hold.place s.pkg.variant o with
        | some r, some (b, y) =>
          if !rightsOk r.rights rWrite || r.conflict || has t.hold.retired b then s
          else s.lineWrite (bayAddr s.pkg.variant b y) (t.hold.slotOf r.keyIndex) (bs.take k) false
        | _, _ => s
      State.offWrite t key fuel (o + k) (bs.drop k) s

/-! Configuration (R312, R313). -/

/-- The configuration a payload asks for, defaults substituted. DEDUCED, log 43. -/
def drvConfigOf (p : List Byte) : DrvConfig :=
  let b := if f32 p 28 = 0 then 8192 else f32 p 28
  { keyIndex := f8 p 0, pageBytes := f32 p 4, loftBase := f64 p 8, loftBytes := f64 p 16, seqLimit := f32 p 24, budget := b
    chunk := if f32 p 32 = 0 then min 2048 b else f32 p 32, workBase := f64 p 40, workBytes := f64 p 48 }
def drvConfigBad (droverSeq : Nat) (p : List Byte) : Option Nat :=
  let c := drvConfigOf p
  lowest (badIf (c.pageBytes % 65536 ≠ 0 || c.pageBytes < 65536 || 2 ^ 28 < c.pageBytes) 4 ++ badIf (c.loftBase % 65536 ≠ 0) 8
    ++ badIf (c.loftBytes = 0 || c.loftBytes % c.pageBytes ≠ 0) 16 ++ badIf (droverSeq < c.seqLimit) 24
    ++ badIf (c.budget < 256 || 65536 < c.budget || c.budget % 256 ≠ 0) 28
    ++ badIf (c.chunk < 256 || c.budget < c.chunk || c.chunk % 256 ≠ 0) 32
    ++ badIf (c.workBase % 65536 ≠ 0) 40 ++ badIf (c.workBytes = 0 || c.workBytes % 65536 ≠ 0) 48)
/-- Do two configurations have the same layout. -/
def DrvConfig.sameLayout (a b : DrvConfig) : Bool :=
  a.keyIndex = b.keyIndex && a.pageBytes = b.pageBytes && a.loftBase = b.loftBase && a.loftBytes = b.loftBytes && a.workBase = b.workBase
    && a.workBytes = b.workBytes
/-- W_min of a vocabulary under a configuration (R318). -/
def Holdings.wMinOf (h : Holdings) (c : DrvConfig) (v : Nat) : Nat :=
  wMin v c.budget (if c.seqLimit = 0 then h.droverSeq else c.seqLimit) h.loftPages c.pageBytes
def Vocab.count (v : Vocab) : Nat := v.offsets.length - 1
def Stall.drvConfigRefusal (t : Stall) (v : Variant) (c : DrvConfig) : Option Nat :=
  let d := t.drover
  let hb := t.hold.hbmBytes v
  let cross := decide (c.loftBase < c.workBase + c.workBytes) && decide (c.workBase < c.loftBase + c.loftBytes)
  if t.hold.slots.length ≤ c.keyIndex then some 1
  else if cross || hb < c.loftBase + c.loftBytes || hb < c.workBase + c.workBytes || !t.hold.rwArea c.keyIndex c.loftBase c.loftBytes
      || !t.hold.rwArea c.keyIndex c.workBase c.workBytes then some 2
  else if d.cfg.any (fun o => !o.sameLayout c) && (!d.models.isEmpty || !d.seqs.isEmpty || d.lent ≠ 0 || !d.borrows.isEmpty) then some 3
  else if d.models.any (fun e => e.2.loading.isNone && decide (c.workBytes < t.hold.wMinOf c e.2.vocab.count)) then some 4
  else none
/-- DRV_CONFIG (R312, R313). -/
def drvConfigForm (dseq : Nat) : MbForm :=
  { form 0x0040 false true 56 [(1, 3), (36, 4)] with bad := drvConfigBad dseq }
/-- DRV_CONFIG (R312, R313). -/
def drvConfig (m : Req) (s : State) : State :=
  let dseq := (fnStall m.fn).elim 0 (fun n => ((s.stall? n).map (fun t => t.hold.droverSeq)).getD 0)
  let f := drvConfigForm dseq
  s.mbServeA f m (fun s =>
    match s.stall? (stallArg f m) with
    | none => (refuse 0xFF, s)
    | some t =>
      let c := drvConfigOf m.payload
      match t.drvConfigRefusal s.pkg.variant c with
      | some d => (refuse d, s)
      | none => (ok, s.modDrover (stallArg f m) (fun d => { d with cfg := some c })))

/-! Output rings (R315). -/

/-- DRV_OUTRING (R315). -/
def drvOutringForm (isSealed : List Byte → Bool) : MbForm :=
  { form 0x0041 false true 24 [(3, 5)] with
    bad := fun p => lowest (badIf (15 < f8 p 0) 0 ++ badIf (7 < f8 p 1) 1 ++ badIf (f8 p 2 < 6 || 20 < f8 p 2) 2
      ++ badIf (f64 p 8 % 4096 ≠ 0) 8 ++ badIf (f64 p 16 % (if isSealed p then 4096 else 64) ≠ 0) 16) }
/-- DRV_OUTRING (R315, R326, R458). -/
def drvOutring (m : Req) (s : State) : State :=
  let key (p : List Byte) : Nat := qkey (f8 p 0) 3 (f8 p 1)
  let isSealed (p : List Byte) : Bool := (fnStall m.fn).elim false (fun n => (s.queue? n (key p)).any (fun q => q.isSealed))
  let f := drvOutringForm isSealed
  s.mbServeA f m (fun s =>
    match fnStall m.fn with
    | none => (notPermitted, s)
    | some n =>
      let p := m.payload
      let k := key p
      match s.stall? n, s.queue? n k with
      | some t, some q =>
        let w := ringWho n k
        if t.drover.seqs.any (fun x => x.qk = k && x.st ≠ .kept) then (refuse 2, s)
        else if !q.ringHost && !(match t.ctx? (qkCtx k) with
            | none => false
            | some x => s.areaOk w x t.hold rWrite (f64 p 8) (64 * 2 ^ f8 p 2) && s.reaches w x t.hold rWrite (f64 p 16)) then (refuse 5, s)
        else
          let r : OutRing := { log2Depth := f8 p 2, ring := f64 p 8, hdr := f64 p 16, outSeq := 0, busy := false, produced := 0
                               busyCount := 0, consumed := 0, late := [], shadow := [] }
          let s := s.modDrover n (fun d => { d with rings := d.rings.put k (some r) })
          let h := r.header 0 (t.share k) ++ zeros 32
          (ok, if s.queueServed q then s.writeArea n k q 5 r.hdr 1 0 h h else s)
      | _, _ => (refuse 1, s))

/-! Models (R316, R317, R320, R321). -/

def drvWho (n c : Nat) : Who := { stall := n, ctx := c, engine := 3, queue := 0, asn := 0 }
/-- Bytes of a table as Drover copies it, unless they cannot be read. -/
def State.drvRead (s : State) (n c va len : Nat) : Option (List Byte) × State :=
  let g := s.readRun (drvWho n c) va len rRead
  if g.1.met.isEmpty && !g.1.poison.any (fun x => x) then (some g.1.bytes, g.2) else (none, g.2)
/-- The head of a vocabulary table (R320): its whole length, where the head passes. -/
def vocabLen (h : List Byte) : Option Nat :=
  let v := f32 h 8
  if h.take 4 = [0x44, 0x56, 0x4F, 0x43] && f16 h 4 = 1 && f16 h 6 < 2 && 256 ≤ v && v ≤ 1048576 && zeroAt h 0x18 8 then
    some (0x420 + 4 * (v + 1) + f32 h 0x14) else none
def Vocab.bytes (v : Vocab) (i : Nat) : List Byte := slice v.blob (v.offsets.getD i 0) (v.offsets.getD (i + 1) 0 - v.offsets.getD i 0)
/-- The vocabulary a table spells, where it passes its checks (R320). -/
def readVocab (b : List Byte) : Option Vocab :=
  let n := f32 b 8
  let blobAt := 0x420 + 4 * (n + 1)
  let v : Vocab :=
    { splitSpace := f16 b 6 % 2 = 1, bos := f32 b 0x0C, eos := f32 b 0x10, byteMap := (List.range 256).map (fun i => f32 b (0x20 + 4 * i))
      offsets := (List.range (n + 1)).map (fun i => f32 b (0x420 + 4 * i)), blob := b.drop blobAt }
  let sizes := v.offsets.zip (v.offsets.drop 1)
  if sizes.all (fun e => decide (e.1 ≤ e.2) && decide (e.2 ≤ e.1 + 64)) && v.offsets.getLast? = some (f32 b 0x14) && v.bos < n && v.eos < n
      && (List.range 256).all (fun i => v.byteMap.getD i 0 < n && v.bytes (v.byteMap.getD i 0) = [BitVec.ofNat 8 i]) then some v else none
/-- A merge table (R321). -/
def mergesLen (h : List Byte) : Option Nat :=
  if h.take 4 = [0x44, 0x4D, 0x52, 0x47] && f16 h 4 = 1 && zeroAt h 6 2 && f32 h 8 ≤ 1048575 && zeroAt h 0x0C 4 then some (0x10 + 12 * f32 h 8) else none
def noRepeats : List (Nat × Nat) → Bool
  | [] => true
  | a :: l => !l.contains a && noRepeats l
def readMerges (v : Vocab) (b : List Byte) : Option (List Merge) :=
  let ms := (List.range (f32 b 8)).map (fun i =>
    ({ left := f32 b (0x10 + 12 * i), right := f32 b (0x14 + 12 * i), result := f32 b (0x18 + 12 * i) } : Merge))
  if ms.all (fun x => x.left < v.count && x.right < v.count && x.result < v.count && v.bytes x.result = v.bytes x.left ++ v.bytes x.right)
      && noRepeats (ms.map (fun x => (x.left, x.right))) then some ms else none
/-- The checks of a model descriptor's own fields (R316). -/
def descOk (d : List Byte) (c : DrvConfig) : Bool :=
  d.take 4 = [0x44, 0x4D, 0x44, 0x4C] && f16 d 4 = 1 && zeroAt d 6 2 && f32 d 8 ≠ 0 && f32 d 8 % 256 = 0 && 256 * f32 d 8 ≤ c.pageBytes
    && 1 ≤ f32 d 0x38 && f32 d 0x38 ≤ 2 ^ 24 && zeroAt d 0x3C 68

/-- DRV_LOAD (R317). -/
def drvLoadForm : MbForm :=
  { form 0x0042 false true 16 [(2, 6)] with bad := fun p => lowest (badIf (3 < f8 p 0) 0 ++ badIf (15 < f8 p 1) 1) }
/-- DRV_LOAD (R316, R317): the slot is taken; DRV_LOAD_DONE copies, checks and answers. -/
def drvLoad (m : Req) (s : State) : State :=
  let f := drvLoadForm
  s.mbServe f m (fun s =>
    let n := stallArg f m
    let p := m.payload
    match s.stall? n with
    | none => s.mbAnswer m f.op (refuse 0xFF)
    | some t =>
      match t.drover.cfg with
      | none => s.mbAnswer m f.op (refuse (if (t.drover.models.find? (f8 p 0)).isSome then 1 else 2))
      | some c =>
        if (t.drover.models.find? (f8 p 0)).isSome then s.mbAnswer m f.op (refuse 1)
        else if !(t.ctx? (f8 p 1)).any (fun x => x.keys t.hold c.keyIndex) then s.mbAnswer m f.op (refuse 6)
        else s.modDrover n (fun d => { d with models := d.models.put (f8 p 0) (some
          { ctx := f8 p 1, desc := f64 p 8, loading := some m, tokenBytes := 0
            vocab := { splitSpace := false, bos := 0, eos := 0, byteMap := [], offsets := [], blob := [] }
            merges := [], stepProgram := 0, stepArgs := 0, stepLrd := 0, maxContext := 0 }) }))
/-- The model a descriptor spells with the bytes its digest covers, or the DETAIL of its refusal. -/
def State.readModel (s : State) (n : Nat) (t : Stall) (c : DrvConfig) (x : DrvModel) : ((DrvModel × List Byte) ⊕ Nat) × State :=
  match s.drvRead n x.ctx x.desc 128 with
  | (none, s) => (.inr 6, s)
  | (some d, s) =>
    if !descOk d c then (.inr 3, s)
    else match s.drvRead n x.ctx (f64 d 0x10) 32 with
      | (none, s) => (.inr 6, s)
      | (some h, s) =>
        match vocabLen h with
        | none => (.inr 5, s)
        | some len =>
          match s.drvRead n x.ctx (f64 d 0x10) len with
          | (none, s) => (.inr 6, s)
          | (some vb, s) =>
            match readVocab vb with
            | none => (.inr 5, s)
            | some v =>
              if f32 d 0x0C ≠ v.count then (.inr 3, s)
              else
                let rest (mb : List Byte) (ms : List Merge) (s : State) : ((DrvModel × List Byte) ⊕ Nat) × State :=
                  if c.workBytes < t.hold.wMinOf c v.count then (.inr 4, s)
                  else (.inl ({ x with loading := none, tokenBytes := f32 d 8, vocab := v, merges := ms, stepProgram := f64 d 0x20
                                       stepArgs := f64 d 0x28, stepLrd := f64 d 0x30, maxContext := f32 d 0x38 }, d ++ vb ++ mb), s)
                if f64 d 0x18 = 0 then rest [] [] s
                else match s.drvRead n x.ctx (f64 d 0x18) 16 with
                  | (none, s) => (.inr 6, s)
                  | (some h, s) =>
                    match mergesLen h with
                    | none => (.inr 5, s)
                    | some len =>
                      match s.drvRead n x.ctx (f64 d 0x18) len with
                      | (none, s) => (.inr 6, s)
                      | (some mb, s) =>
                        match readMerges v mb with
                        | none => (.inr 5, s)
                        | some ms => rest mb ms s
/-- DRV_LOAD_DONE (R317, R443). -/
def drvLoadDone (n : StallNo) (slot : Fin 4) (s : State) : State :=
  match s.stall? n with
  | none => s
  | some t =>
    match t.drover.cfg, t.drover.models.find? slot with
    | some c, some x =>
      match x.loading with
      | none => s
      | some m =>
        match s.readModel n t c x with
        | (.inr d, s) => (s.modDrover n (fun d => { d with models := d.models.erase slot })).mbAnswer m 0x0042 (refuse d)
        | (.inl y, s) =>
          ((s.modDrover n (fun d => { d with models := d.models.put slot (some y.1) })).logAppend n 2 x.ctx slot (Config.sha384 y.2)).mbAnswer m 0x0042 ok
    | _, _ => s
/-- DRV_UNLOAD (R312). -/
def drvUnloadForm : MbForm :=
  { form 0x0043 false true 8 [(1, 7)] with bad := fun p => lowest (badIf (3 < f8 p 0) 0) }
/-- DRV_UNLOAD (R317). -/
def drvUnload (m : Req) (s : State) : State :=
  let f := drvUnloadForm
  s.mbServeA f m (fun s =>
    let k := f8 m.payload 0
    match s.stall? (stallArg f m) with
    | none => (refuse 0xFF, s)
    | some t =>
      if !(t.drover.models.find? k).any (fun x => x.loading.isNone) then (refuse 1, s)
      else if t.drover.seqs.any (fun x => x.model = k) then (refuse 2, s)
      else (ok, s.modDrover (stallArg f m) (fun d => { d with models := d.models.erase k })))
/-- DRV_STAT (R343). -/
def drvStatForm : MbForm :=
  { form 0x0044 true true 8 [(1, 7)] with stallAt := some 0, clear3 := true }
/-- DRV_STAT (R343). -/
def drvStat (m : Req) (s : State) : State :=
  let f := drvStatForm
  s.mbServeA f m (fun s =>
    match s.stall? (stallArg f m) with
    | none => (refuse 0xFF, s)
    | some t =>
      let d := t.drover
      let far := (d.seqs.map (fun x => countFar x.pages)).sum
      let models := ((d.models.filter (fun e => e.2.loading.isNone)).map (fun e => 2 ^ e.1)).sum
      (okWith ([t.seqLimit, d.seqs.length, (d.seqs.filter (fun x => x.st = .kept)).length, t.loftCap, d.held, d.reserved, far, d.lentPages,
          d.busyRefused.toNat, models].flatMap (leBytes 4) ++ leBytes 8 d.steps ++ leBytes 8 d.tokensIn ++ leBytes 8 d.tokensOut), s))
where
  countFar (l : List LoftPage) : Nat := (l.filter (fun p => match p with | .far _ _ => true | .near _ => false)).length
/-- DRV_LEND (R336). -/
def drvLendForm (page : Nat) : MbForm :=
  { form 0x0045 false true 24 [] with bad := fun p => lowest (badIf (page ≠ 0 && f64 p 0 % page ≠ 0) 0) }
/-- DRV_LEND (R336). -/
def drvLend (m : Req) (s : State) : State :=
  let page := (fnStall m.fn).elim 0 (fun n => (((s.stall? n).bind (fun t => t.drover.cfg)).map (·.pageBytes)).getD 0)
  let f := drvLendForm page
  s.mbServeA f m (fun s =>
    let n := stallArg f m
    match s.stall? n with
    | none => (refuse 0xFF, s)
    | some t =>
      let d := t.drover
      let b := f64 m.payload 0
      let out := (d.loans.map (·.bytes)).sum
      let new := { d with lent := b }
      let heldTop := d.seqs.any (fun x => x.pages.any (fun p => match p with | .near k => decide (new.localPages ≤ k) | .far _ _ => false))
      let total := match d.cfg with
        | none => 0
        | some c => c.loftBytes
      if b < out then (refuse 2, s)
      else if total < b || heldTop || min t.hold.loftPages (new.localPages + d.borrowed) < d.held + d.reserved then (refuse 1, s)
      else
        let pairs := (List.range 8).map (fun i => (f8 m.payload (8 + 2 * i), f8 m.payload (9 + 2 * i)))
        let allow := pairs.take 1 ++ (pairs.drop 1).filter (fun e => e ≠ (0, 0))
        (ok, s.modDrover n (fun d => { d with lent := b, allow := allow })))

/-! Tokenising (R328). -/

/-- Cut before every 0x20 whose preceding byte is not 0x20. -/
def cutSpaces : Option Byte → List Byte → List Byte → List (List Byte)
  | _, cur, [] => [cur]
  | prev, cur, b :: l =>
    if b = 0x20 && prev.isSome && prev ≠ some 0x20 then cur :: cutSpaces (some b) [b] l
    else cutSpaces (some b) (cur ++ [b]) l
/-- The adjacent pair of lowest rank, between equal ranks the lowest place: (rank, place). -/
def bestPair (ms : List Merge) : Nat → List Nat → Option (Nat × Nat)
  | i, a :: b :: l =>
    let own := (ms.findIdx? (fun m => m.left = a && m.right = b)).map (fun r => (r, i))
    match own, bestPair ms (i + 1) (b :: l) with
    | none, r => r
    | some o, none => some o
    | some o, some r => if o.1 ≤ r.1 then some o else some r
  | _, _ => none
def mergeAll (ms : List Merge) : Nat → List Nat → List Nat
  | 0, l => l
  | fuel + 1, l =>
    match bestPair ms 0 l with
    | none => l
    | some (r, i) => mergeAll ms fuel (l.take i ++ [((ms[r]?).map (·.result)).getD 0] ++ l.drop (i + 2))
/-- The tokens of a text. -/
def tokenise (m : DrvModel) (bs : List Byte) : List Nat :=
  let pieces := if m.vocab.splitSpace then cutSpaces none [] bs else [bs]
  pieces.flatMap (fun p => let l := p.map (fun b => m.vocab.byteMap.getD b.toNat 0); mergeAll m.merges l.length l)

/-! Joining (R327, R330, R341). -/

/-- A stop block as Drover reads it (R327). -/
def readStop (b : List Byte) : StopBlock :=
  { tokens := (List.range (min 4 (f8 b 1))).map (fun i => f32 b (4 + 4 * i))
    strings := ((List.range (min 4 (f8 b 0))).map (fun i => slice b (20 + 40 * i + 8) (min 32 (f8 b (20 + 40 * i))))).filter (fun x => !x.isEmpty) }
/-- Sequences in acceptance order: by acceptance gtick, then context, queue and position. -/
def seqBefore (a b : Sequence) : Bool :=
  a.acceptAt < b.acceptAt || (a.acceptAt = b.acceptAt && (a.qk < b.qk || (a.qk = b.qk && a.asn.toNat < b.asn.toNat)))
def insertBy {α : Type} (lt : α → α → Bool) (a : α) : List α → List α
  | [] => [a]
  | b :: l => if lt a b then a :: b :: l else b :: insertBy lt a l
def sortBy {α : Type} (lt : α → α → Bool) (l : List α) : List α := l.foldr (insertBy lt) []

/-- A running sequence stops and its command ends with a status; it is kept only where KEEP is set and the end is one of
R331's or a cancel (R341). -/
def State.stopSeq (s : State) (n : StallNo) (x : Sequence) (reason : Nat) (status detail : Byte) : State :=
  let e := (s.queue? n x.qk).bind (fun q => q.entry? x.pos)
  let keep := e.any (fun e => e.u8 0x0A / 2 % 2 = 1) && reason ≤ 5
  let s := s.endSequence n x reason keep
  let s := s.modEntry n x.qk x.pos (fun e => { e with aux1 := BitVec.ofNat 64 (x.visible + 1) })
  s.modEntry n x.qk x.pos (fun e =>
    { e.finish status detail (BitVec.ofNat 64 x.generated) with startAt := if status = stNotRun then 0 else e.startAt })

/-- What reading a request's input came to. -/
inductive Input where
  | tokens (l : List Nat)
  | bad (status detail : Byte)
  deriving DecidableEq, Repr
/-- Read and tokenise a request's input with its stop block; ADD_BOS puts BOS in front. -/
def State.readInput (s : State) (n : StallNo) (k : Nat) (e : Entry) (m : DrvModel) : Input × StopBlock × State :=
  let w := cmdWho' n k e
  let ids := e.u8 9 = 1
  let g := s.readRun w (e.u64 0x10) (if ids then 4 * e.u32 0x0C else e.u32 0x0C) rRead
  let h := if e.u64 0x30 = 0 then (⟨[], [], []⟩, g.2) else g.2.readRun w (e.u64 0x30) 192 rRead
  let met := g.1.met ++ h.1.met
  let st := metStatus met [] (g.1.poison.any (fun x => x))
  let raw := if ids then (List.range (e.u32 0x0C)).map (fun i => f32 g.1.bytes (4 * i)) else tokenise m g.1.bytes
  let toks := (if e.u8 0x0A % 2 = 1 then [m.vocab.bos] else []) ++ raw
  let stop := if e.u64 0x30 = 0 then { tokens := [], strings := [] } else readStop h.1.bytes
  if st.1 ≠ stDone then (.bad st.1 st.2, stop, h.2)
  else if ids && raw.any (fun i => decide (m.vocab.count ≤ i)) then (.bad stNotRun 0x09, stop, h.2)
  else (.tokens toks, stop, h.2)
where
  cmdWho' (n : StallNo) (k : Nat) (e : Entry) : Who := { stall := n, ctx := qkCtx k, engine := qkEngine k, queue := qkQueue k, asn := e.asn }

/-- An admitted sequence whose command has started joins (R330, R341): its parent's tokens and pages become its own, its
prompt is read, and what its reservation exceeds its need by returns (R324). -/
def State.joinSeq (s : State) (n : StallNo) (x : Sequence) : State :=
  match s.stall? n, (s.queue? n x.qk).bind (fun q => q.entry? x.pos) with
  | some t, some e =>
    if e.st ≠ .started || e.undecided then s
    else match t.drover.models.find? x.model with
      | none => s
      | some m =>
        let par := x.parent.bind (fun a => t.drover.seqs.find? (fun y => y.asn = a && y.st = .kept))
        let r := s.readInput n x.qk e m
        let old := (par.map (·.tokens)).getD []
        let x := { x with pages := (par.map (·.pages)).getD [], tokens := old, read := (par.map (·.read)).getD 0
                          prompt := (par.map (·.read)).getD 0, stop := r.2.1, st := .prefill, parent := none }
        let s := r.2.2.modDrover n (fun d => { d with seqs := d.seqs.filter (fun y => some y.asn ≠ par.map (·.asn)) })
        match r.1 with
        | .bad st d => (s.modDrover n (fun d => d.modSeq x.asn (fun _ => x))).stopSeq n x 6 st d
        | .tokens ts =>
          let all := old ++ ts
          s.modDrover n (fun d => d.modSeq x.asn (fun _ =>
            { x with tokens := all, prompt := x.read, reserved := pagesFor (all.length + e.u32 0x18) - x.pages.length }))
  | _, _ => s

/-! The boundary (R330, R340). -/

/-- Read CONSUMED of an output ring: from the host's copy in a sealed header page where one opens (R326, R456). -/
def State.readConsumed (s : State) (n : StallNo) (k : Nat) : State :=
  match (s.stall? n).bind (fun t => (t.drover.rings.find? k).bind (fun r => (t.queue? k).map (fun q => (r, q)))) with
  | none => s
  | some (r, q) =>
    let got : Option Nat × State :=
      if !q.ringHost then
        match s.ringReadStall n k (r.hdr + 0x20) 4 with
        | (.bytes b, s) => (some (leNat b), s)
        | (_, s) => (none, s)
      else if !q.isSealed then ((s.hostRead (r.hdr + 0x20) 4).map leNat, s)
      else match s.session? q.session.toNat with
        | none => (none, s)
        | some x =>
          match s.openPage x n k 5 r.hdr 1 0 (fun c => decide (x.counter k 0 < c)) with
          | .bad => (none, s)
          | .page c plain => (some (f32 plain 0x20), s.setCounter q.session.toNat k 0 c)
    match got.1 with
    | none => got.2
    | some v =>
      let c := BitVec.ofNat 32 v
      if (r.produced - c).toNat ≤ r.depth then got.2.modDrover n (fun d => d.modRing k (fun r => { r with consumed := c })) else got.2

/-- DRV_CANCELs that wait for the boundary take effect (R340): each stops its live target with REASON 4, DONE, and answers
1; else 0. -/
def State.drvCancels (s : State) (n : StallNo) : State :=
  match s.stall? n with
  | none => s
  | some t =>
    let cs := t.queues.flatMap (fun kq => (kq.2.entries.filter (fun e => e.st = .started && e.opcode = 0x41)).map (fun e => (kq.1, e)))
    forAll cs (fun c u =>
      let k := qkey (qkCtx c.1) 3 (c.2.u8 8)
      match (u.stall? n).bind (fun t => t.drover.seqs.find? (fun x => x.st ≠ .kept && x.qk = k && x.asn.toNat = c.2.u64 0x10)) with
      | none => u.finish n c.1 c.2.pos stDone 0 0
      | some x => (u.stopSeq n x 4 stDone 0).finish n c.1 c.2.pos stDone 0 1) s

/-! The step (R330, R339). -/

/-- May Drover run in this stall: configured, power and no pause, its tenant resident (R314, R340). -/
def State.drvServes (s : State) (t : Stall) : Bool :=
  s.running && s.enginesUp && s.power.warm.isNone && !s.moduleStopped && !t.paused && t.reset.isEmpty
  && t.drover.cfg.any (fun c => t.hold.iso ≠ 1 || (t.sched.resident = some c.keyIndex && t.sched.rotating.isNone))
/-- Sequences selected of a ring so far, and whether one more finds 4 free records. -/
def ringReady (d : Drover) (sel : List Sequence) (x : Sequence) : Bool :=
  match d.rings.find? x.qk with
  | none => false
  | some r => decide (4 * ((sel.filter (fun y => y.qk = x.qk)).length + 1) ≤ r.room)
/-- What a step schedules: (tokens by sequence) from the decoders and the prefill sequences. -/
def Drover.schedule (d : Drover) (c : DrvConfig) : List Sequence :=
  let run := sortBy seqBefore d.seqs
  let pre := run.filter (fun x => x.st = .prefill)
  let cap := if pre.isEmpty then c.budget else c.budget - 256
  let byAge (a b : Sequence) : Bool := a.lastStep < b.lastStep || (a.lastStep = b.lastStep && seqBefore a b)
  let decs := sortBy byAge (run.filter (fun x => x.st = .decode))
  let picked := decs.foldl (fun (sel : List Sequence) x =>
    if sel.length < cap && ringReady d sel x then sel ++ [{ x with step := 1 }] else sel) []
  let go (a : List Sequence × Nat) (x : Sequence) : List Sequence × Nat :=
    let r := x.tokens.length - x.read
    let lim := min c.chunk a.2
    let g := if r ≤ lim then (if ringReady d (a.1.filter (fun y => y.st = .decode || y.read + y.step = y.tokens.length)) x then r else 0)
      else (x.read + lim) / 256 * 256 - x.read
    if g = 0 then a else (a.1 ++ [{ x with step := g }], a.2 - g)
  (pre.foldl go (picked, c.budget - picked.length)).1
/-- A scheduled sequence takes the pages its new positions need (R335). -/
def takePages : Nat → Sequence → Drover → Sequence × Drover
  | 0, x, d => (x, d)
  | fuel + 1, x, d =>
    if pagesFor (x.read + x.step) ≤ x.pages.length then (x, d)
    else match d.freePage with
      | none => (x, d)
      | some p =>
        let x := { x with pages := x.pages ++ [p], reserved := x.reserved - 1 }
        takePages fuel x (d.modSeq x.asn (fun _ => x))

/-- Where the step table lies in the work area: the header first, then entries, page lists, logits rows and staging. -/
def DrvConfig.entryBase (c : DrvConfig) : Nat := c.workBase + 64
def DrvConfig.listBase (c : DrvConfig) : Nat := c.workBase + 64 + 36 * c.budget
def DrvConfig.logitsBase (c : DrvConfig) (loft : Nat) : Nat := c.listBase + 8 * loft
def DrvConfig.stageBase (c : DrvConfig) (loft v l : Nat) : Nat := c.logitsBase loft + 4 * v * min c.budget l
/-- The widest row of the models of some sequences. -/
def Drover.widest (d : Drover) (xs : List Sequence) : Nat :=
  (xs.map (fun x => ((d.models.find? x.model).map (fun m => m.vocab.count)).getD 0)).foldl max 0
/-- Is a row wanted of this scheduled sequence. -/
def Sequence.wants (x : Sequence) : Bool := x.st = .decode || x.read + x.step = x.tokens.length
/-- Rows of the scheduled sequences that want one: their numbers. -/
def rowsOf (xs : List Sequence) : List (U64 × Nat) := ((xs.filter Sequence.wants).map (·.asn)).zipIdx

/-- The step table's bytes: header, entries and page lists (R330). -/
def stepTable (c : DrvConfig) (loft v l : Nat) (xs : List Sequence) : List (Nat × List Byte) :=
  let rows := rowsOf xs
  let stage := c.stageBase loft v l
  let slots := (c.workBytes - (stage - c.workBase)) / c.pageBytes
  let far := (xs.map (fun x => drvStat.countFar x.pages)).sum
  let passes := 1 + ceilDiv far (slots / 2)
  let lists := xs.foldl (fun (a : List (Nat × List Byte) × Nat) x =>
    let bs := x.pages.zipIdx.flatMap (fun e => leBytes 8 (match e.1 with
      | .near k => c.loftBase + k * c.pageBytes
      | .far _ k => stage + (k % max 1 slots) * c.pageBytes))
    (a.1 ++ [(a.2, bs)], a.2 + bs.length)) ([], c.listBase)
  let head := leBytes 4 xs.length ++ leBytes 2 0 ++ leBytes 2 passes ++ leBytes 8 c.entryBase ++ leBytes 8 (c.logitsBase loft) ++ zeros 40
  let ents := (xs.zip lists.1).flatMap (fun e =>
    let row := ((rows.find? (fun r => r.1 = e.1.asn)).map (·.2))
    leBytes 4 (e.1.asn.toNat % 2 ^ 32) ++ leBytes 4 e.1.read ++ leBytes 4 e.1.step ++ leBytes 4 (if row.isSome then 3 else 0)
      ++ leBytes 4 (row.getD 0) ++ zeros 4 ++ leBytes 8 e.2.1)
  (c.workBase, head) :: (c.entryBase, ents) :: lists.1

/-- DROVER_STEP (R330): at a step boundary the rings' CONSUMED are read, admitted sequences join, and, where something is
scheduled, the step table is written and the step begins. DESIGN CHOICE, log 42. DEDUCED, log 43. -/
def droverStep (n : StallNo) (s : State) : State :=
  match s.stall? n with
  | none => s
  | some t =>
    if t.drover.stepping || !s.drvServes t then s
    else
      let s := forAll (t.drover.rings.map (·.1)) (fun k u => (u.readConsumed n k).outRecords n k []) s
      let s := s.drvCancels n
      let s := match s.stall? n with
        | none => s
        | some t => forAll (sortBy seqBefore (t.drover.seqs.filter (fun (x : Sequence) => x.st = SeqSt.admitted))) (fun (x : Sequence) (u : State) => u.joinSeq n x) s
      match (s.stall? n).bind (fun t => t.drover.cfg.map (fun c => (t, c))) with
      | none => s
      | some (t, c) =>
        let sel := t.drover.schedule c
        if sel.isEmpty then s
        else
          let d := forAll sel (fun (x : Sequence) (d : Drover) => (takePages (x.step + 1) x (d.modSeq x.asn (fun _ => x))).2) t.drover
          let xs := sortBy seqBefore (d.seqs.filter (fun x => 0 < x.step))
          let s := s.setStall n { t with drover := { d with stepping := true, steps := d.steps + 1 } }
          forAll (stepTable c t.hold.loftPages (d.widest xs) t.seqLimit xs) (fun w u =>
            State.offWrite t c.keyIndex (w.2.length / 64 + 2) w.1 w.2 u) s

/-! Sampling (R331). -/

/-- Candidates: IDs with a finite logit, by logit descending, then ID. -/
def candidates (zs : List Num) : List (Nat × Num) :=
  let fin := (zs.zipIdx.filter (fun e => match e.1 with | .fin _ _ _ => true | _ => false)).map (fun e => (e.2, e.1))
  sortBy (fun a b => b.2.dy.lt a.2.dy || (!a.2.dy.lt b.2.dy && decide (a.1 < b.1))) fin
/-- Running sums, left to right. -/
def running : Num → List Num → List Num
  | _, [] => []
  | a, x :: l => let b := f32Add a x; b :: running b l
def numLe (a b : Num) : Bool :=
  match a, b with
  | .fin _ _ _, .fin _ _ _ => !b.dy.lt a.dy
  | .fin _ _ _, .inf n => !n
  | .inf n, .fin _ _ _ => n
  | .inf a, .inf b => a || !b
  | _, _ => false
/-- The token a row of logits gives, if any is finite. DESIGN CHOICE, log 42. -/
def sample (zs : List Num) (temp topK topP : Nat) (x : U64) : Option Nat :=
  match candidates zs with
  | [] => none
  | c :: l =>
    if temp = 0 then some c.1
    else
      let cand := if topK = 0 then c :: l else (c :: l).take topK
      let t : Num := .fin false temp (-8)
      let ws := cand.map (fun i => f32Exp (f32Div (f32Sub i.2 c.2) t))
      let sums := running (.fin false 0 0) ws
      let total := sums.getLast?.getD (.fin false 0 0)
      let bound := f32Div (f32Mul total (.fin false topP 0)) (.fin false 65536 0)
      let keep := if topP = 0 then cand.length else ((sums.findIdx? (fun q => numLe bound q)).map (· + 1)).getD cand.length
      let cand := cand.take keep
      let sums := sums.take keep
      let total := sums.getLast?.getD (.fin false 0 0)
      let u : Num := .fin false (x.toNat / 2 ^ 40) (-24)
      let cut := f32Mul u total
      match (cand.zip sums).find? (fun e => !numLe e.2 cut) with
      | some e => some e.1.1
      | none => (cand.getLast?).map (·.1)

/-! Text and stops (R329, R331). -/

/-- The length of the longest run at the end that is a proper prefix of a valid UTF-8 encoding: 0 to 3. -/
def utf8Tail (bs : List Byte) : Nat :=
  let cont (b : Nat) : Bool := 0x80 ≤ b && b < 0xC0
  let okSecond (a b : Nat) : Bool :=
    if a = 0xE0 then 0xA0 ≤ b && b < 0xC0 else if a = 0xED then 0x80 ≤ b && b < 0xA0
    else if a = 0xF0 then 0x90 ≤ b && b < 0xC0 else if a = 0xF4 then 0x80 ≤ b && b < 0x90 else cont b
  let at' (i : Nat) : Nat := f8 bs (bs.length - i)
  let lead (a : Nat) : Nat := if 0xC2 ≤ a && a < 0xE0 then 2 else if 0xE0 ≤ a && a < 0xF0 then 3 else if 0xF0 ≤ a && a < 0xF5 then 4 else 0
  if 3 ≤ bs.length && lead (at' 3) = 4 && okSecond (at' 3) (at' 2) && cont (at' 1) then 3
  else if 2 ≤ bs.length && 3 ≤ lead (at' 2) && okSecond (at' 2) (at' 1) then 2
  else if 1 ≤ bs.length && 2 ≤ lead (at' 1) then 1
  else 0
/-- The length of the longest suffix of `l` that is a proper prefix of a stop string. -/
def stopTail (strings : List (List Byte)) (l : List Byte) : Nat :=
  ((List.range 32).filter (fun i => i ≤ l.length && strings.any (fun x => decide (i < x.length) && x.take i = l.drop (l.length - i)))).foldl max 0
/-- The earliest-ending match of a stop string in a text, of those the longest: where it begins and ends. -/
def findStop (strings : List (List Byte)) (text : List Byte) : Option (Nat × Nat) :=
  ((List.range (text.length + 1)).findSome? (fun fin =>
    let hits := strings.filter (fun x => decide (x.length ≤ fin) && slice text (fin - x.length) x.length = x)
    match hits with
    | [] => none
    | a :: l => let n := l.foldl (fun m x => max m x.length) a.length; some (fin - n, fin)))

/-- TEXT records of a run of text from byte offset `pos` (R333). -/
def textRecs (x : Sequence) : Nat → Nat → List Byte → List (List Byte)
  | 0, _, _ => []
  | fuel + 1, pos, l => if l.isEmpty then [] else outRecord x 2 (min 40 l.length) pos (l.take 40) :: textRecs x fuel (pos + min 40 l.length) (l.drop 40)
/-- The records of one token and the text it lets out (R333). -/
def stepRecs (x : Sequence) (flags token : Nat) (out : List Byte) (pos : Nat) : List (List Byte) :=
  let text := flags / 4 % 2 = 1
  let bs := if text then out else []
  if flags / 8 % 2 = 1 then
    let fits := decide (bs.length ≤ 36)
    let inline := if fits then bs else []
    outRecord x 1 inline.length (x.generated - 1) (leBytes 4 token ++ inline) :: (if fits then [] else textRecs x 4 pos bs)
  else textRecs x 4 pos bs

/-- One sampled token (R329, R331–R333): it joins the sequence, lets text out, and may stop it. The answer is the sequence
after it, its records and the END reason. -/
def takeToken (x : Sequence) (e : Entry) (m : DrvModel) (token stepNo : Nat) : Sequence × List (List Byte) × Option Nat :=
  let x := { x with tokens := x.tokens ++ [token], generated := x.generated + 1, text := x.text ++ m.vocab.bytes token, st := .decode, lastStep := stepNo }
  let isStop := token = m.vocab.eos || x.stop.tokens.contains token
  let hit := findStop x.stop.strings x.text
  let reason := if isStop then some 1 else if hit.isSome then some 2
    else if e.u32 0x18 ≤ x.generated then some 3 else if m.maxContext ≤ x.tokens.length then some 5 else none
  let upTo := match reason, hit with
    | some 2, some (a, b) => if e.u8 0x0A / 16 % 2 = 1 then b else a
    | some _, _ => x.text.length
    | none, _ =>
      let t1 := x.text.length - utf8Tail x.text
      let rest := x.text.drop x.emitted
      min t1 (x.text.length - stopTail x.stop.strings rest)
  let out := slice x.text x.emitted (upTo - x.emitted)
  let recs := stepRecs x (e.u8 0x0A) token out x.emitted
  ({ x with emitted := max x.emitted upTo, visible := x.visible + recs.length }, recs, reason)

/-- The end of a step for one scheduled sequence. -/
def State.stepSeq (s : State) (n : StallNo) (t : Stall) (c : DrvConfig) (v : Nat) (rows : List (U64 × Nat)) (farBad : List U64) (x : Sequence) : State :=
  match (s.queue? n x.qk).bind (fun q => q.entry? x.pos), t.drover.models.find? x.model with
  | some e, some m =>
    if farBad.contains x.asn then s.stopSeq n { x with step := 0 } 6 stPoison 0
    else
      let fed := if x.st = .prefill then x.step else 0
      let y := { x with read := x.read + x.step, prompt := if x.st = .prefill then x.read + x.step else x.prompt, step := 0 }
      let s := s.modDrover n (fun d => { d.modSeq x.asn (fun _ => y) with tokensIn := d.tokensIn + fed })
      if !x.wants then s
      else
        let row := ((rows.find? (fun r => r.1 = x.asn)).map (·.2)).getD 0
        let g := State.offReadRun t c.keyIndex (4 * m.vocab.count / 64 + 2) (c.logitsBase t.hold.loftPages + 4 * v * row) (4 * m.vocab.count) s
        if !g.2.1 then g.2.2.stopSeq n y 6 stPoison 0
        else
          let zs := (List.range m.vocab.count).map (fun i => fp32.decode (f32 g.1 (4 * i)))
          let seed := if e.u64 0x28 = 0 then e.seed else BitVec.ofNat 64 (e.u64 0x28)
          match sample zs (e.u16 0x1C) (e.u16 0x1E) (e.u16 0x20) (srnd seed (qkCtx x.qk) 0xFFFFFF y.tokens.length) with
          | none => g.2.2.stopSeq n y 6 stPartial 0x09
          | some tok =>
            let r := takeToken y e m tok t.drover.steps
            let seen := e.aux1.toNat
            let s := g.2.2.modDrover n (fun d => { d.modSeq x.asn (fun _ => r.1) with tokensOut := d.tokensOut + 1 })
            let fresh := r.2.1.drop (seen - y.visible)
            let s := s.outRecords n x.qk fresh
            let s := s.modEntry n x.qk x.pos (fun e => { e with aux1 := BitVec.ofNat 64 (max seen r.1.visible) })
            match r.2.2 with
            | none => s
            | some reason => s.stopSeq n r.1 reason stDone 0
  | _, _ => s

/-- DROVER_STEP_END (R331–R334): the step program's stores are done; every scheduled sequence, in acceptance order, takes
its token, and at the boundary cancels take effect. `farBad` names the sequences whose far pages failed their tags (R338). DESIGN CHOICE, log 42. -/
def droverStepEnd (n : StallNo) (writes : List (Nat × List Byte)) (farBad : List U64) (s : State) : State :=
  match (s.stall? n).bind (fun t => t.drover.cfg.map (fun c => (t, c))) with
  | none => s
  | some (t, c) =>
    if !t.drover.stepping then s
    else
      let s := forAll writes (fun w u => State.offWrite t c.keyIndex (w.2.length / 64 + 2) w.1 w.2 u) s
      let xs := sortBy seqBefore (t.drover.seqs.filter (fun x => 0 < x.step))
      let rows := rowsOf xs
      let v := t.drover.widest xs
      let s := forAll xs (fun x u => u.stepSeq n t c v rows farBad x) s
      (s.modDrover n (fun d => { d with stepping := false })).drvCancels n

/-! Commands (R319, R340, R341). -/

/-- The next command of a Drover queue starts: the shared rule of R226 and R231. -/
def State.drvBegin (s : State) (q : QueueId) (op : Nat) (body : Entry → State → State) : State :=
  let n := q.stall
  let k := queueKey q
  match s.stall? n, (s.queue? n k).bind (fun x => (x.next?).map (fun e => (x, e))) with
  | some t, some (x, e) =>
    let live := s.drvServes t && (t.kills.find? (qkCtx k)).isNone && (t.ctx? (qkCtx k)).any (fun c => !c.killing)
    if e.opcode ≠ op || !live || e.undecided || !x.orderFree e then s
    else if x.faulted && !e.clear then s.finish n k e.pos stNotRun 0x08 0
    else
      let s := if x.faulted then s.publish n k false (fun q => { q with faulted := false }) else s
      let ref := match x.gated with
        | some (p, r) => if p = e.pos then some r else none
        | none => none
      let e1 := { e with st := .started, startAt := s.now, beginAt := s.now, lateRef := ref }
      body e1 (s.modEntry n k e.pos (fun _ => e1))
  | _, _ => s
/-- DRV_SUBMIT starts: its sequence joins at the next step boundary (R330). -/
def drvSubmit (q : QueueId) (s : State) : State := s.drvBegin q 0x40 (fun _ s => s)
/-- DRV_CANCEL (R340): between steps it takes effect at once, during one at the boundary that ends it. DEDUCED, log 43. -/
def drvCancel (q : QueueId) (s : State) : State :=
  s.drvBegin q 0x41 (fun _ s => if (s.stall? q.stall).any (fun t => t.drover.stepping) then s else s.drvCancels q.stall)
/-- DRV_RELEASE (R340): a kept sequence not claimed is freed; VALUE is the pages freed. -/
def drvRelease (q : QueueId) (s : State) : State :=
  s.drvBegin q 0x42 (fun e s =>
    let n := q.stall
    let k := qkey q.ctx 3 (e.u8 8)
    match (s.stall? n).bind (fun t => t.drover.seqs.find? (fun x => x.st = .kept && !x.claimed && x.qk = k && x.asn.toNat = e.u64 0x10)) with
    | none => s.finish n (queueKey q) e.pos stDone 0 0
    | some x =>
      (s.modDrover n (fun d => { d with seqs := d.seqs.filter (fun y => y.asn ≠ x.asn) })).finish n (queueKey q) e.pos stDone 0
        (BitVec.ofNat 64 x.pages.length))

def execDrvConfig (m : MbReq) (s : State) : Host.Outcome State Fault Refusal := .next (drvConfig (plain m) s)
def execDrvOutring (m : MbReq) (s : State) : Host.Outcome State Fault Refusal := .next (drvOutring (plain m) s)
def execDrvLoad (m : MbReq) (s : State) : Host.Outcome State Fault Refusal := .next (drvLoad (plain m) s)
def execDrvLoadDone (n : StallNo) (slot : Fin 4) (s : State) : Host.Outcome State Fault Refusal := .next (drvLoadDone n slot s)
def execDrvUnload (m : MbReq) (s : State) : Host.Outcome State Fault Refusal := .next (drvUnload (plain m) s)
def execDrvStat (m : MbReq) (s : State) : Host.Outcome State Fault Refusal := .next (drvStat (plain m) s)
def execDrvLend (m : MbReq) (s : State) : Host.Outcome State Fault Refusal := .next (drvLend (plain m) s)
def execDrvSubmit (q : QueueId) (s : State) : Host.Outcome State Fault Refusal := .next (drvSubmit q s)
def execDrvCancel (q : QueueId) (s : State) : Host.Outcome State Fault Refusal := .next (drvCancel q s)
def execDrvRelease (q : QueueId) (s : State) : Host.Outcome State Fault Refusal := .next (drvRelease q s)
def execDroverStep (n : StallNo) (s : State) : Host.Outcome State Fault Refusal := .next (droverStep n s)
def execDroverStepEnd (n : StallNo) (writes : List (Nat × List Byte)) (farBad : List U64) (s : State) : Host.Outcome State Fault Refusal :=
  .next (droverStepEnd n writes farBad s)

end Sys2Proof.Machine
end

