-- ==== Sys2Proof/Machine/MemReq.lean ====
section
/-! DEFINITION. Requests on contexts and stall memory: CTX_CREATE, CTX_DESTROY (R264–R266), XLAT_INVAL (R270), MEM_STATS
(R280), SRND_SEED (R256), and the end of a kill (R309). -/

namespace Sys2Proof.Machine

/-- DETAIL of REFUSED for a well-formed CTX_CREATE (R264). -/
def Stall.ctxRefusal (t : Stall) (p : List Byte) : Option Nat :=
  let h := t.hold
  let key := f8 p 1
  let keys : Nat → Bool := fun i => if key = 0xFF then decide (i < h.slots.length) else i = key
  let lacks (o need : Nat) : Bool := match resolve h.regions keys o with
    | none => true
    | some r => !rightsOk r.rights need
  if (t.ctx? (f8 p 0)).isSome then some 1
  else if (key = 0xFF && h.iso = 1) || (key ≠ 0xFF && (h.slots.length ≤ key || (2 ≤ h.iso && t.ctxs.any (fun e => e.2.key.isNone)))) then some 2
  else if lacks (f64 p 8) rRead then some 3
  else if lacks (f64 p 16) rWrite then some 4
  else none
/-- CTX_CREATE (R264). -/
def ctxCreateForm (ctxMax : Nat) : MbForm :=
  { form 0x0032 false true 24 [(2, 6)] with
    bad := fun p => lowest (badIf (ctxMax ≤ f8 p 0) 0 ++ badIf (f64 p 8 % 4096 ≠ 0) 8 ++ badIf (f64 p 16 % 64 ≠ 0) 16) }
/-- CTX_CREATE (R264). -/
def ctxCreate (m : Req) (s : State) : State :=
  let ctxMax := (fnStall m.fn).elim 0 (fun n => ((s.stall? n).map (fun t => t.hold.ctxMax)).getD 0)
  let f := ctxCreateForm ctxMax
  s.mbServeA f m (fun s =>
    let p := m.payload
    match s.stall? (stallArg f m) with
    | none => (refuse 0xFF, s)
    | some t =>
      match t.ctxRefusal p with
      | some d => (refuse d, s)
      | none =>
        let x : Ctx :=
          { key := if f8 p 1 = 0xFF then none else some (f8 p 1), root := f64 p 8, faultRec := f64 p 16, seq := 0, faults := 0
            multiHit := 0, conflicts := 0, killing := false, pauseReq := false, rotReq := none, sliceReq := none, stopped := false, tlb := [] }
        (ok, s.setStall (stallArg f m) { t with ctxs := t.ctxs.put (f8 p 0) (some x) }))
/-- CTX_DESTROY (R266). -/
def ctxDestroyForm : MbForm :=
  { form 0x0033 false true 8 [(1, 7)] with bad := fun p => lowest (badIf (15 < f8 p 0) 0) }
/-- CTX_DESTROY (R266). -/
def ctxDestroy (m : Req) (s : State) : State :=
  let f := ctxDestroyForm
  s.mbServeA f m (fun s =>
    let c := f8 m.payload 0
    match s.stall? (stallArg f m) with
    | none => (refuse 0xFF, s)
    | some t =>
      if (t.ctx? c).isNone then (refuse 1, s)
      else if !(t.queuesOf c).isEmpty then (refuse 2, s)
      else if (t.kills.find? c).isSome then (refuse 3, s)
      else (ok, s.setStall (stallArg f m) { t with ctxs := t.ctxs.erase c }))

/-- XLAT_INVAL (R270). -/
def xlatInvalForm : MbForm :=
  { form 0x0035 false true 24 [(1, 7)] with
    bad := fun p => lowest (badIf (15 < f8 p 0 && f8 p 0 ≠ 0xFF) 0 ++ badIf (f64 p 8 % 65536 ≠ 0) 8 ++ badIf (f64 p 16 % 65536 ≠ 0) 16) }
/-- XLAT_INVAL (R270): answered by XLAT_INVAL_DONE. -/
def xlatInval (m : Req) (s : State) : State :=
  let f := xlatInvalForm
  s.mbServe f m (fun s => s.modStall (stallArg f m) (fun t => { t with invals := t.invals ++ [m] }))
/-- XLAT_INVAL_DONE: the oldest XLAT_INVAL is answered; the entries cached for its contexts are discarded. -/
def xlatInvalDone (n : StallNo) (s : State) : State :=
  match s.stall? n with
  | none => s
  | some t =>
    match t.invals with
    | [] => s
    | m :: l =>
      let c := f8 m.payload 0
      (s.setStall n { t with
        invals := l
        ctxs := t.ctxs.map (fun e => if c = 0xFF || e.1 = c then (e.1, { e.2 with tlb := [] }) else e) }).mbAnswer m 0x0035 ok
/-- MEM_STATS (R280). -/
def memStatsForm : MbForm :=
  { form 0x0036 true true 8 [(1, 7)] with stallAt := some 0, clear3 := true }
/-- MEM_STATS (R280). -/
def memStats (m : Req) (s : State) : State :=
  let f := memStatsForm
  s.mbServeA f m (fun s =>
    match s.stall? (stallArg f m) with
    | none => (refuse 0xFF, s)
    | some t =>
      let x := t.stats
      (okWith (leBytes 4 x.multiHit.toNat ++ leBytes 4 x.conflicts.toNat ++ leBytes 4 x.accessFaults.toNat ++ leBytes 4 x.xlatFaults.toNat), s))
/-- SRND_SEED (R256). -/
def srndSeedForm : MbForm :=
  form 0x0034 false true 8 []
/-- SRND_SEED (R256): the answer carries the previous seed. -/
def srndSeed (m : Req) (s : State) : State :=
  let f := srndSeedForm
  s.mbServeA f m (fun s =>
    match s.stall? (stallArg f m) with
    | none => (refuse 0xFF, s)
    | some t => (okWith (leBytes 8 t.seed.toNat), s.setStall (stallArg f m) { t with seed := BitVec.ofNat 64 (f64 m.payload 0) }))

/-- CTX_KILL_DONE (R309 steps 5 and 6): the clearing is complete, the answers are OK, and held doorbells are checked. -/
def ctxKillDone (c : CtxId) (s : State) : State :=
  match (s.stall? c.stall).bind (fun t => t.kills.find? c.ctx) with
  | none => s
  | some rs =>
    let s := s.modStall c.stall (fun t => { t with kills := t.kills.erase c.ctx })
    let s := s.modCtx c.stall c.ctx (fun x => { x with killing := false, stopped := x.stopped && x.requested })
    let s := s.holdQueues c.stall c.ctx false
    let s := s.wakeQueues (fun n k => n = c.stall.val && qkCtx k = c.ctx.val)
    s.answerAll 0x0021 rs ok

def execCtxCreate (m : MbReq) (s : State) : Host.Outcome State Fault Refusal := .next (ctxCreate (plain m) s)
def execCtxDestroy (m : MbReq) (s : State) : Host.Outcome State Fault Refusal := .next (ctxDestroy (plain m) s)
def execXlatInval (m : MbReq) (s : State) : Host.Outcome State Fault Refusal := .next (xlatInval (plain m) s)
def execXlatInvalDone (n : StallNo) (s : State) : Host.Outcome State Fault Refusal := .next (xlatInvalDone n s)
def execMemStats (m : MbReq) (s : State) : Host.Outcome State Fault Refusal := .next (memStats (plain m) s)
def execSrndSeed (m : MbReq) (s : State) : Host.Outcome State Fault Refusal := .next (srndSeed (plain m) s)
def execCtxKillDone (c : CtxId) (s : State) : Host.Outcome State Fault Refusal := .next (ctxKillDone c s)

end Sys2Proof.Machine
end

