-- ==== Sys2Proof/Machine/Flags.lean ====
section
/-! DEFINITION. The status registers: what each shows of the block's state, by the field tables of its block. A value is a
number below 2^32. -/

namespace Sys2Proof.Machine

/-- The sum of fields, each a value and the bit it starts at. -/
def fields (l : List (Nat × Nat)) : Nat := (l.map (fun e => e.1 * 2 ^ e.2)).sum
/-- A flag at a bit. -/
def flag (p : Bool) (at' : Nat) : Nat × Nat := (p.toNat, at')
/-- Word `i` of a wide value, 32 bits a word. -/
def wordOf (i v : Nat) : Nat := v / 2 ^ (32 * i) % 2 ^ 32
/-- Word `i` of the set of numbers below `n` that satisfy `p`. -/
def mapWord (n i : Nat) (p : Nat → Bool) : Nat := wordOf i (setOf n n p).toNat
/-- The low or the high half of a 64-bit value. -/
def halfOf (hi : Bool) (v : U64) : Nat := if hi then (hi32 v).toNat else (lo32 v).toNat

/-- FL_PKG_ID, FL_PKG_MEM and FL_PKG_AVAIL (R41). -/
def Package.idReg (g : Package) : Nat :=
  let step : Nat := match g.stepping with | .a0 => 0 | .a1 => 1 | .b0 => 2
  fields [(partCode g.variant, 0), (step, 16), (4, 20), (iodies g.variant, 24)]
def Package.memReg (g : Package) : Nat :=
  fields [(stacksPerDie g.variant, 0), (pcPerBay g.variant, 4), (stackCount g.variant, 8), (48, 16)]
def Package.availReg (g : Package) : Nat :=
  fields [(g.cdieOk.toNat, 0), (g.iodieOk.toNat, 4), (g.stkOk.toNat, 8), flag g.rtpStandby 20, flag g.rtpDie 21]

/-- GTB_STATUS (R78). -/
def Gtb.statusReg (g : Gtb) : Nat :=
  fields [flag g.lock 0, flag g.aligned 1, flag g.refSrc 2, flag g.refSw 3, flag g.coarse 4, flag g.trimLimit 5]
/-- GTB_TC_STATUS, GTB_CAP_STATUS, GTB_RT_STATUS. -/
def TickCh.statusReg (c : TickCh) : Nat := fields [flag c.fired 0, flag c.armed 1, (c.fireCount.toNat, 16)]
def Capture.statusReg (c : Capture) : Nat :=
  fields [flag c.pairNew 0, flag c.overrun 1, flag c.stuckHi 2, flag c.stuckLo 3, flag c.level 4, flag c.coarse 5, (c.pairCount.toNat, 16)]
def Timer.statusReg (t : Timer) : Nat := fields [flag t.wrapped 0, flag t.matched 1]
/-- GATE_STATE (R79). -/
def Gate.stateReg (x : Gate) : Nat :=
  let code : Nat := match x.st with | .idle => 0 | .armed => 1 | .waking => 2 | .fired => 3
  fields [(code, 0), flag x.lateArm 2, flag x.pastArm 3, (x.fireCount.toNat, 16)]

/-- YP_STATUS (R131, R138). -/
def Yard.statusReg (y : Yard) : Nat :=
  let code : Nat := match y.st with | .idle => 0 | .fetching => 1 | .validating => 2 | .waitGroom => 3 | .armed => 4 | .changing => 5
  fields [(code, 0), flag y.mixed 3, flag y.active.policy.sole 4, flag y.isDefault 5, flag y.fromFlash 6, flag y.writing.isSome 7
    , flag y.storeFail 8, flag y.rejected 9, flag y.committed 10, (keyStateCode y.keyState, 12)]
/-- YP_CHG_STATE (R169); between changes it keeps the last one's PHASE and PHASES. DEDUCED, log 96. -/
def Yard.changeReg (y : Yard) : Nat :=
  match y.chg with
  | none => fields [(y.chgPhase, 8), (y.chgPhases, 16)]
  | some c =>
    let code : Nat := match c.step with | .none => 0 | .prepare => 1 | .pausing => 2 | .hold => 3 | .grooming => 4 | .grantWait => 5
    fields [(code, 0), flag c.abortable 3, (c.phase, 8), (c.phases, 16)]

/-- HL_PORT_STATUS (R203). -/
def State.portStatus (s : State) : Nat :=
  fields [((setOf 4 4 s.portFitted).toNat, 0), ((setOf 4 4 s.portServing).toNat, 4), ((setOf 4 4 (fun p => (s.port p).linkUp)).toNat, 8)]
/-- MB_STATUS (R189). -/
def Mailbox.statusReg (b : Mailbox) : Nat := fields [flag b.busy 0, flag b.done 1, flag b.overrun 2, (b.lastTag.toNat, 16)]
/-- QDB_STATUS (R237). -/
def Queue.statusReg (q : Queue) : Nat := fields [(q.stateBits, 0), (q.refCode.toNat, 8), (q.staleDb.toNat, 16)]

/-- TL_POD, TL_TIME and TL_TK_STAT (R401). -/
def State.podReg (s : State) : Nat := fields [(s.podId, 0), (s.podSize, 8), (s.tl.masterId, 16), (s.tl.masterHops, 24)]
def Tsuholt.timeReg (t : Tsuholt) : Nat :=
  fields [(t.up.getD 0, 0), flag t.up.isSome 6, flag t.isMaster 7, (t.masterPrio, 8), flag t.holdover 16]
def State.ticketReg (s : State) : Nat :=
  let all := s.stalls.flatMap (fun (e : Nat × Stall) => e.2.relay.claims)
  fields [(min 0xFFFF (all.filter (fun c => !c.committed)).length, 0), (min 0xFFFF (all.filter (fun c => c.committed)).length, 16)]
/-- TL_P_STATE. -/
def portCode : PortSt → Nat
  | .disabled => 0 | .detect => 1 | .train => 2 | .keyx => 3 | .active => 4 | .lowpower => 5 | .retired => 6
def TlPort.stateReg (x : TlPort) : Nat :=
  fields [(portCode x.st, 0), (min x.fails 15, 8), (x.peerPkg, 16), (x.peerPort, 24), flag x.mismatch 31]

/-- MEE_FIPS_STATUS, MEE_DBG_STATE and MEE_GROOM (R439). -/
def Prot.statusReg (p : Prot) : Nat :=
  fields [flag p.approved 0, flag p.error 1, flag p.zeroised 2, flag p.selftestBusy 3, flag p.standbyOk 4, flag p.decommissioned 5
    , (p.bank.toNat, 8), flag p.spent 10]
def Prot.debugReg (p : Prot) : Nat := fields [(p.scope, 0), flag p.viaTap 2]
def Prot.groomReg (p : Prot) : Nat :=
  let clearing := (p.slots.filter (fun (e : Nat × SlotLedger) => e.2.st = .clearing)).length
  fields [flag (!p.grooming.isEmpty || 0 < clearing) 0, (p.grooming.length, 8), (clearing, 16)]

/-- ACC_STATUS (R503). -/
def State.oneCopy (s : State) (n : Nat) : Bool := (s.stall? n).any (fun t => !t.journal.durable)
def State.isBroken (s : State) (n : Nat) : Bool := (s.stall? n).any (fun t => t.journal.broken)
def State.hasOrphans (s : State) (n : Nat) : Bool := (s.acct.orphans.find? n).isSome
def State.accStatus (s : State) : Nat :=
  let any (p : Nat → Bool) : Bool := (List.range 128).any p
  fields [flag (!s.acct.recoveries.isEmpty) 0, flag (any s.oneCopy) 1, flag (any s.isBroken) 2, flag (any s.hasOrphans) 3]
/-- RSV_STATUS and RSV_LAST (R525). DEDUCED, log 77. -/
def Reserve.unguardedActive (r : Reserve) : Bool := r.unguarded && (r.st = .charging || r.st = .fault)
def Reserve.statusReg (r : Reserve) : Nat := fields [(rsvCode r.st, 0), flag r.mainOk 3, flag r.testBusy 4, flag r.unguardedActive 5]
def Reserve.lastReg (r : Reserve) : Nat := fields [(r.lastKind, 0), (min r.lastSecs 0xFFFF, 16)]

/-- PWR_PKG_STATE, PWR_BOOT, PWR_CLEAR_TIME and PWR_THERM_STAT (R529, R549). -/
def State.pkgStateReg (s : State) : Nat :=
  let waking : Bool := match s.power.clearSt with | .waking _ => true | _ => false
  fields [(s.pkgState, 0), flag s.power.thermStop 2, flag waking 3, flag (s.power.clearSt = .inClear) 4]
def Power.bootReg (p : Power) : Nat := fields [(p.phase, 0), (p.cause, 4)]
def State.clearTimeReg (s : State) : Nat :=
  let present := if s.power.clearSt = .inClear then s.now - s.power.clearFrom else 0
  min (2 ^ 32 - 1) ((s.power.clearTime + present) / 2 ^ 20)
def Therm.statReg (t : Therm) : Nat := fields [(t.tmax.toNat, 0), (t.level.toNat, 8), flag t.hot 11]
def skyCode : Sky → Nat
  | .clear => 0 | .scattered => 1 | .broken => 2 | .overcast => 3
/-- MU_STATUS and MU_I3C (R572). -/
def Muart.statusReg (u : Muart) : Nat := fields [flag u.rxAwake 0, flag u.brk 1, flag u.lineFault 2, flag (!u.tx.isEmpty) 3]
def State.i3cReg (s : State) : Nat :=
  let b := s.side
  let session := s.sessions.any (fun (e : Nat × Session) => e.2.fn.isNone && e.2.finished && !e.2.ended)
  fields [(b.addr.toNat, 0), flag b.assigned 7, (b.eid.toNat, 8), flag b.ibiEn 16, flag session 17]

end Sys2Proof.Machine
end

