-- ==== Sys2Proof/Machine/Reads.lean ====
section
/-! DEFINITION. What each dword of a function's BAR0 reads: the register tables of every block (R19, R41, R78, R79, R138,
R139, R169, R189, R203, R204, R237, R364, R366, R401, R439, R503, R525, R549, R572), the Feature List (R100–R103,
R179–R183, R238, R260, R342, R365, R402, R472, R504, R526) and the manifest window (R92). -/

namespace Sys2Proof.Machine

/-! The Feature List (R179). -/

/-- An entry: its ID and its body. -/
structure Feature where
  id : Nat
  body : List Nat
  deriving DecidableEq, Repr
/-- The dwords of a list of entries laid one behind the other from offset `at'`; every version is 0x10. -/
def featureDwords : Nat → List Feature → List Nat
  | _, [] => []
  | at', e :: l =>
    let len := e.body.length + 2
    let next := if l.isEmpty then 0 else at' + 4 * len
    [fields [(e.id, 0), (0x10, 16), (len, 24)], next] ++ e.body ++ featureDwords (at' + 4 * len) l
/-- FORMATS (R260), the same on every function. -/
def formatsEntry : Feature := { id := 0x0009, body := [fields [(0x1FFE, 0), (0x03EE, 16)], fields [(32, 0), (1, 8), (1, 9)], 2000] }
def timeFeature (pf : Bool) : Feature := { id := 0x0002, body := (Config.timeEntry pf).map (fun v => v.toNat) }
def deliveryEntry (view : Nat) : Feature :=
  { id := 0x0005, body := [fields [(0x4100, 0), (0x4800, 16)], fields [(5, 0), (0x80, 8), (0x10, 16)], view] }
/-- RESERVE (R526). -/
def State.reserveEntry (s : State) (quota : Nat) : Feature :=
  { id := 0x000C, body := [fields [flag (!s.rsv.refuses) 0, flag (s.rsv.st = .degraded) 1, flag s.rsv.unguarded 2], s.rsv.rideMs, quota] }
/-- ACCOUNTING (R504). -/
def accountingEntry (era : Nat) (one rec brk orph : Bool) (seq free : Nat) : Feature :=
  { id := 0x0008, body := [fields [(era, 0), flag one 24, flag rec 25, flag brk 26, flag orph 27], seq, free, 128] }
/-- PF0's list (R180, R182, R183). DESIGN CHOICE, log 27. -/
def State.pfFeatures (s : State) (p : Nat) : List Feature :=
  let any (f : Nat → Bool) : Bool := (List.range 128).any f
  [{ id := 0x0100, body := [0, 0x10000, 0x100000, 0x200000, 0x300000, 0x400000, 0x500000, 0x600000, 0x680000, 0x700000, 0x780000, 0x800000] }
  , timeFeature true, deliveryEntry 0x310000
  , accountingEntry 0 (any s.oneCopy) (!s.acct.recoveries.isEmpty) (any s.isBroken) (any s.hasOrphans) s.acct.seq.toNat 0
  , formatsEntry, s.reserveEntry flushCap
  , { id := 0x0101, body := [fields [(p, 0), (s.portStatus % 256, 4)], fields [(64, 0), (32, 8), (8, 16), (16, 24)]] }]
/-- STALL_CORE (R103), alone and empty for an undefined stall (R82). -/
def State.stallCore (s : State) (n : Nat) : Feature :=
  { id := 0x0001, body := match s.stall? n with
    | none => [0, 0, 0, 0, 0]
    | some t =>
      [fields [(n, 0), (t.hold.iso, 8), (s.manFlags n t, 16)], t.man.epoch, t.man.windowGen.toNat, fields [(0x0800, 0), (0x2B8, 16)]
      , fields [(t.hold.bays.length, 0), (t.hold.ctxMax, 8), (t.hold.slots.length, 16), (t.hold.gates.length, 24)]] }
/-- A stall's list (R101). DESIGN CHOICE, log 27. -/
def State.vfFeatures (s : State) (n : Nat) : List Feature :=
  match s.stall? n with
  | none => [s.stallCore n]
  | some t =>
    let h := t.hold
    let drover : List Feature := if h.droverSeq = 0 then [] else
      [{ id := 0x0004, body := [fields [(4, 0), (8, 8), (64, 16), (4, 24)], 0x01000000, h.droverSeq, h.loftPages] }]
    let conf : List Feature := if h.iso ≠ 3 then [] else
      [{ id := 0x0006, body := [fields [(16, 0), (4, 8), flag t.attest.tenant.isSome 16], fields [(4096, 0), (32, 16)]] }]
    let up := (List.range h.links.length).filter (fun i => (h.links[i]?).any (fun l => (s.tl.ports.get TlPort.init l.port).st = .active))
    let share : List Feature := if h.links.isEmpty then [] else
      [{ id := 0x0007, body := [h.links.length, wordOf 0 (bitsOf 64 up).toNat, wordOf 1 (bitsOf 64 up).toNat, 0] }]
    let receipts : List Feature := if h.receipts then [{ id := 0x000A, body := [fields [(4096, 0), (8, 16)]] }] else []
    let loft : List Feature := if h.farLoft then [{ id := 0x000B, body := [fields [(8, 0), (8, 8)]] }] else []
    [s.stallCore n, timeFeature false
    , { id := 0x0003, body := [fields [(if h.droverSeq = 0 then 7 else 15, 0), (8, 4), (6, 8), (16, 16)], fields [(0x2000, 0), (0x10, 16)]
                              , fields [(t.queues.length, 0), (512, 16)]] }]
      ++ drover ++ [deliveryEntry 0] ++ conf ++ share
      ++ [accountingEntry t.journal.era (!t.journal.durable) (s.acct.recoveries.any (fun r => r.stalls.contains n)) t.journal.broken (s.hasOrphans n)
            t.evSeq.toNat (t.journal.largestFree (h.journalMib * mib) / 1024), formatsEntry]
      ++ receipts ++ loft ++ [s.reserveEntry t.journal.quota]
/-- Dword `o` of a list that begins at 0x100. DESIGN CHOICE, log 27. -/
def featureRead (l : List Feature) (o : Nat) : Nat := ((featureDwords 0x100 l)[(o - 0x100) / 4]?).getD 0

/-! PF0's blocks. -/

def digestWord (i : Nat) (d : BitVec 384) : Nat := f32 (digestBytes d) (4 * i)
/-- FL (R41), with the Feature List. -/
def State.flRead (s : State) (p o : Nat) : Nat :=
  if o = 0 then s.pkg.idReg
  else if o = 4 then s.pkg.memReg
  else if o = 8 then s.pkg.availReg
  else if 0x10 ≤ o && o < 0x20 then wordOf ((o - 0x10) / 4) s.pkg.bayOk.toNat
  else if 0x20 ≤ o && o < 0x28 then wordOf ((o - 0x20) / 4) s.pkg.portOk.toNat
  else if 0x40 ≤ o && o < 0x70 then digestWord ((o - 0x40) / 4) Config.idDigest
  else if 0x100 ≤ o && o < 0x1000 then featureRead (s.pfFeatures p) o
  else 0
/-- A dword of an MSI-X table and of the PBA. -/
def Msix.read (m : Msix) (o : Nat) : Nat :=
  let e := m.table.get MsixEntry.init (o / 16)
  match o % 16 / 4 with
  | 0 => (lo32 e.addr).toNat
  | 1 => (hi32 e.addr).toNat
  | 2 => e.data.toNat
  | _ => e.masked.toNat
/-- A dword of a mailbox (R189). -/
def Mailbox.read (b : Mailbox) (o : Nat) : Nat :=
  if o = 4 then b.statusReg
  else if 0x1000 ≤ o && o < 0x2000 then f32 b.request (o - 0x1000)
  else if 0x2000 ≤ o && o < 0x3000 then f32 b.response (o - 0x2000)
  else 0
/-- HL (R203). -/
def State.hlRead (s : State) (p : HostPort) (o : Nat) : Nat :=
  let i := s.pf p
  if o = 0x10000 then p.val
  else if o = 0x10004 then s.portStatus
  else if o = 0x10008 then i.cause.toNat
  else if o = 0x1000C then i.causeEn.toNat
  else if o = 0x10010 then i.hostEvt.toNat
  else if o = 0x10014 then (setOf 4 4 (fun p => (s.port p).lost)).toNat
  else if 0x10020 ≤ o && o < 0x10030 then wordOf ((o - 0x10020) / 4) s.host.unreach.toNat
  else if o = 0x10030 then (setOf 8 8 (fun k => ((s.port p).streams.get IdeStream.init k).st = .active)).toNat
  else if 0x18000 ≤ o && o < 0x18400 then i.msix.read (o - 0x18000)
  else if o = 0x1C000 || o = 0x1C004 then halfOf (o = 0x1C004) i.msix.pba
  else 0
/-- The GTB block (R78); reads that latch have commands of their own. -/
def State.gtbRead (s : State) (lat : Latches) (o : Nat) : Nat :=
  let g := s.gtb
  if o = 0 || o = 4 then halfOf (o = 4) s.nowW
  else if o = 8 then lat.gtbHi.toNat
  else if o = 0x10 then g.servoAuto.toNat
  else if o = 0x14 then g.statusReg
  else if o = 0x18 then g.trim.toNat
  else if o = 0x1C then g.servoOfs.toNat
  else if o = 0x20 then s.now / 2 ^ 20 % 2 ^ 32
  else if o = 0x28 || o = 0x2C then halfOf (o = 0x2C) g.align
  else if 0x40 ≤ o && o < 0x60 then mapWord 256 ((o - 0x40) / 4) (fun k => (s.gate k).st = .armed || (s.gate k).st = .waking)
  else if 0x60 ≤ o && o < 0x80 then mapWord 256 ((o - 0x60) / 4) (fun k => (s.gate k).st = .fired)
  else if 0x1000 ≤ o && o < 0x1800 then
    let c := s.tick ((o - 0x1000) / 0x40)
    match o % 0x40 with
    | 0x00 => halfOf false c.cmp
    | 0x04 => halfOf true c.cmp
    | 0x08 => halfOf false c.period
    | 0x0C => halfOf true c.period
    | 0x10 => fields [flag c.en 0, flag c.live 1, flag c.skip 2, flag c.irqEn 3, flag c.wakeEn 4]
    | 0x14 => c.statusReg
    | 0x18 => halfOf false c.firedAt
    | 0x1C => halfOf true c.firedAt
    | 0x20 => c.missed.toNat
    | _ => 0
  else if 0x2000 ≤ o && o < 0x2200 then
    let n := (o - 0x2000) / 0x40
    let c := s.cap n
    match o % 0x40 with
    | 0x00 => halfOf false c.rise
    | 0x04 => (lat.riseHi.get 0 n).toNat
    | 0x08 => halfOf false c.fall
    | 0x0C => (lat.fallHi.get 0 n).toNat
    | 0x10 => halfOf false c.pairRise
    | 0x14 => (lat.pairHi.get 0 n).toNat
    | 0x18 => (lat.pairPw.get 0 n).toNat
    | 0x1C => fields [flag c.en 0, flag c.invert 1, flag c.wakeEn 2, flag c.irqEn 3, (c.filter.toNat, 8)]
    | 0x20 => c.statusReg
    | 0x24 => c.stuckLimit.toNat
    | _ => 0
  else if 0x3000 ≤ o && o < 0x3400 then
    let t := s.timer ((o - 0x3000) / 0x40)
    match o % 0x40 with
    | 0x00 => t.count.toNat
    | 0x04 => t.top.toNat
    | 0x08 => t.mtch.toNat
    | 0x0C => fields [flag t.en 0, flag t.oneshot 1, flag t.events 2, (t.prescale.toNat, 5), flag t.irqWrap 11, flag t.irqMatch 12, flag t.gateInv 13]
    | 0x10 => fields [(t.gateSrc.toNat, 0), (t.resetSrc.toNat, 8), (t.clockSrc.toNat, 16)]
    | 0x14 => t.statusReg
    | _ => 0
  else if 0x4000 ≤ o && o < 0x4040 then
    let x := s.syncOut ((o - 0x4000) / 0x10)
    match o % 0x10 with
    | 0x00 => fields [flag x.en 0, flag x.invert 1, flag x.levelMode 2, (x.src.toNat, 8)]
    | 0x04 => x.width.toNat
    | _ => 0
  else 0
/-- A dword of an owner table. -/
def ownerWord (t : Tab Byte) (d k : Nat) : Nat := leNat ((List.range 4).map (fun i => t.get (BitVec.ofNat 8 d) (k + i)))
/-- YP (R138, R139, R169). -/
def State.ypRead (s : State) (o : Nat) : Nat :=
  let y := s.yard
  let chgMap (i : Nat) (l : List Nat) : Nat := mapWord 128 i l.contains
  let key := if y.keyState = .pending then y.pendKey else y.key
  if o = 0x00 then y.statusReg
  else if o = 0x04 then y.active.epoch
  else if o = 0x08 then (if y.mixed then y.base.epoch else y.active.epoch)
  else if o = 0x0C then y.epochFloor.toNat
  else if o = 0x10 then fields [(y.reason.toNat, 0), (y.sub.toNat, 8)]
  else if o = 0x14 then y.rejOfs.toNat
  else if o = 0x18 then y.rejEpoch.toNat
  else if o = 0x1C then y.keySeq.toNat
  else if o = 0x20 || o = 0x24 then halfOf (o = 0x24) y.commitAt
  else if o = 0x28 || o = 0x2C then (if y.st = .armed then halfOf (o = 0x2C) y.armedGrid else 0)
  else if 0x30 ≤ o && o < 0x40 then mapWord 128 ((o - 0x30) / 4) (fun n => (s.stall? n).isSome)
  else if o = 0x40 || o = 0x44 then ((y.store.find? ((o - 0x40) / 4)).map (·.epoch)).getD 0
  else if o = 0x48 then fields [(y.accepted.toNat, 0), (y.rejections.toNat, 16)]
  else if 0x80 ≤ o && o < 0xB0 then digestWord ((o - 0x80) / 4) y.active.digest
  else if 0xC0 ≤ o && o < 0xF0 then (if y.keyState = .unenrolled then 0 else digestWord ((o - 0xC0) / 4) (Config.sha384 key))
  else if 0x100 ≤ o && o < 0x130 then digestWord ((o - 0x100) / 4) y.floorDigest
  else if o = 0x180 then y.changeReg
  else if o = 0x184 then y.chgEpoch.toNat
  else if o = 0x188 || o = 0x18C then halfOf (o = 0x18C) (BitVec.ofNat 64 ((y.chg.map (·.nextTick)).getD 0))
  else if 0x190 ≤ o && o < 0x1A0 then chgMap ((o - 0x190) / 4) ((y.chg.map (·.hold)).getD [])
  else if 0x1A0 ≤ o && o < 0x1B0 then chgMap ((o - 0x1A0) / 4) ((y.chg.map (·.pend)).getD [])
  else if o = 0x1B0 || o = 0x1B4 then halfOf (o = 0x1B4) y.chgFirst
  else if o = 0x1B8 then y.chgLast.toNat
  else if 0x200 ≤ o && o < 0x280 then ownerWord y.bayOwner 0xFF (o - 0x200)
  else if 0x300 ≤ o && o < 0x400 then ownerWord y.gateOwner 0xFF (o - 0x300)
  else if 0x400 ≤ o && o < 0x430 then ownerWord y.portOwner 0xFF (o - 0x400)
  else if 0x800 ≤ o && o < 0xC00 then ownerWord y.slotOwner 0xFF (o - 0x800)
  else 0
/-- The delivery page of a stall by bytes (R364), and a dword of it; an undefined stall's reads 0. -/
def State.dlvByte (s : State) (n : Nat) (t : Stall) (o : Nat) : Byte :=
  match List.find? (fun (e : Nat × Nat × Nat) => decide (e.1 ≤ o) && decide (o < e.1 + e.2.1)) (s.dlvFields n t) with
  | none => 0
  | some (b, _, v) => BitVec.ofNat 8 (v / 2 ^ (8 * (o - b)))
def State.dlvRead (s : State) (lat : Latches) (n o : Nat) : Nat :=
  if 4 ≤ o && (s.dlvCounter n (o - 4)).isSome then (lat.dlvHi.get 0 (4096 * n + (o - 4))).toNat
  else match s.stall? n with
  | none => 0
  | some t => leNat ((List.range 4).map (fun i => s.dlvByte n t (o + i)))
/-- RG (R366). -/
def State.rgRead (s : State) (lat : Latches) (o : Nat) : Nat :=
  if o = 0 then s.rg.urgLink.toNat
  else if o = 4 then s.rg.urgHost.toNat
  else if 0x10 ≤ o && o < 0x20 then wordOf ((o - 0x10) / 4) s.rg.capShort.toNat
  else if 0x1000 ≤ o && o < 0x2000 && o % 0x20 / 4 < 5 then
    ((s.stall? ((o - 0x1000) / 0x20)).map (fun t => (t.dlv.reg (o % 0x20 / 4)).duty.toNat)).getD 0
  else if 0x10000 ≤ o && o < 0x90000 && o % 0x1000 < 0xC00 then s.dlvRead lat ((o - 0x10000) / 0x1000) (o % 0x1000)
  else 0
/-- TL (R401). -/
def State.tlRead (s : State) (o : Nat) : Nat :=
  let up := setOf 64 48 (fun p => (s.tlp p).st = .active)
  if o = 0 then s.podReg
  else if o = 4 then s.tl.timeReg
  else if o = 8 then s.tl.evt.toNat
  else if o = 0x10 || o = 0x14 then halfOf (o = 0x14) up
  else if o = 0x20 then s.ticketReg
  else if 0x1000 ≤ o && o < 0x1000 + 0x80 * linkPorts s.pkg.variant then
    let x := s.tlp ((o - 0x1000) / 0x80)
    match o % 0x80 with
    | 0x00 => x.stateReg
    | 0x04 => fields [flag x.en 0, flag x.lowOk 1]
    | 0x08 => (BitVec.ofInt 32 x.asym).toNat
    | 0x0C => x.epoch % 2 ^ 32
    | 0x10 => x.frame s.now % 2 ^ 32
    | 0x24 => x.ofs.toNat
    | 0x28 => x.delay.toNat
    | 0x30 => halfOf false x.tx
    | 0x34 => halfOf true x.tx
    | 0x38 => halfOf false x.rx
    | 0x3C => halfOf true x.rx
    | _ => 0
  else 0
/-- MEE (R439). -/
def State.meeRead (s : State) (o : Nat) : Nat :=
  let p := s.prot
  let m := s.mee
  if o = 0x00 then p.statusReg
  else if o = 0x04 then p.fipsCause.toNat
  else if o = 0x08 || o = 0x0C then halfOf (o = 0x0C) p.stLast
  else if o = 0x10 then p.debugReg
  else if o = 0x18 || o = 0x1C then halfOf (o = 0x1C) p.notAfter
  else if 0x20 ≤ o && o < 0x30 then wordOf ((o - 0x20) / 4) p.stallMask.toNat
  else if o = 0x50 then m.errKind.toNat
  else if o = 0x54 then m.errDpa.toNat % 2 ^ 32
  else if o = 0x58 then m.errDpa.toNat / 2 ^ 32
  else if o = 0x60 || o = 0x64 then halfOf (o = 0x64) m.errAt
  else if o = 0x80 then p.groomReg
  else if 0x100 ≤ o && o < 0x200 then
    fields ((List.range 16).map (fun j =>
      let code : Nat := match (s.slot (16 * ((o - 0x100) / 4) + j)).st with | .clean => 0 | .held => 1 | .clearing => 2 | .internal => 3
      (code, 2 * j)))
  else 0
/-- ACC (R503). -/
def State.accRead (s : State) (o : Nat) : Nat :=
  if o = 0 then s.accStatus
  else if o = 4 then s.acct.seq.toNat
  else if o = 8 || o = 0xC then halfOf (o = 0xC) s.acct.lastDone
  else if 0x10 ≤ o && o < 0x20 then mapWord 128 ((o - 0x10) / 4) s.oneCopy
  else if 0x20 ≤ o && o < 0x30 then mapWord 128 ((o - 0x20) / 4) s.isBroken
  else if 0x30 ≤ o && o < 0x40 then mapWord 128 ((o - 0x30) / 4) s.hasOrphans
  else if 0x200 ≤ o && o < 0x400 then s.eraFloor ((o - 0x200) / 4)
  else 0
/-- RSV (R525). -/
def State.rsvRead (s : State) (o : Nat) : Nat :=
  let r := s.rsv
  match o with
  | 0x00 => r.statusReg
  | 0x04 => r.evt.toNat
  | 0x08 => fields [flag r.unguarded 0, flag r.lock 31]
  | 0x10 => r.vbank
  | 0x14 => r.vmain
  | 0x18 => r.vFlush
  | 0x1C => r.vAccept
  | 0x20 => fields [(r.cap, 0), (r.esr, 16)]
  | 0x24 => r.usable
  | 0x28 => r.rideMs
  | 0x30 => halfOf false r.testAt
  | 0x34 => halfOf true r.testAt
  | 0x38 => halfOf false r.lossAt
  | 0x3C => halfOf true r.lossAt
  | 0x40 => flushCap
  | 0x44 => ((List.range 128).map s.flushEntries).sum
  | 0x48 => r.intent
  | 0x4C => r.consumed
  | 0x50 => r.lastReg
  | _ => 0
/-- PWR (R549). -/
def State.pwrRead (s : State) (o : Nat) : Nat :=
  let p := s.power
  if o = 0x00 then s.pkgStateReg
  else if o = 0x04 then p.ctl.toNat
  else if o = 0x08 then p.idle.toNat
  else if o = 0x0C then p.evt.toNat
  else if o = 0x14 then p.bootReg
  else if o = 0x18 || o = 0x1C then halfOf (o = 0x1C) p.bootAt
  else if o = 0x20 then p.warmCnt.toNat
  else if o = 0x24 then s.clearTimeReg
  else if 0x40 ≤ o && o < 0x80 && o % 0x10 = 0 then (p.therm.get Therm.init ((o - 0x40) / 0x10)).statReg
  else if 0x80 ≤ o && o < 0x90 then
    let t := p.therm.get Therm.init (4 + (o - 0x80) / 4)
    fields [(t.tmax.toNat, 0), (t.peak.toNat, 8)]
  else if 0x100 ≤ o && o < 0x180 then fields ((List.range 16).map (fun j => (skyCode (s.sky (16 * ((o - 0x100) / 4) + j)).sky, 2 * j)))
  else 0
/-- MU (R572). -/
def State.muRead (s : State) (o : Nat) : Nat :=
  let u := s.side.mu
  match o with
  | 0x00 => fields [(u.ctl.toNat, 0), flag u.lock 31]
  | 0x04 => u.div.toNat
  | 0x08 => u.statusReg
  | 0x0C => u.evt.toNat
  | 0x10 => u.stuck.toNat
  | 0x14 => u.sleep.toNat
  | 0x20 => halfOf false u.faultAt
  | 0x24 => halfOf true u.faultAt
  | 0x30 => s.i3cReg
  | 0x34 => f32 (digestBytes Config.idDigest) 0
  | 0x38 => Config.i3cMaker.toNat * 2 + 1
  | _ => 0
/-- What a dword of PF0's BAR0 reads through a port's instance or, with none, to the RTP. DESIGN CHOICE, log 26. -/
def State.pfRead (s : State) (p : Option HostPort) (o : Nat) : Nat :=
  let lat := s.lat (p.elim .rtp Fn.pf0)
  if o % 4 ≠ 0 then 0
  else if o < 0x10000 then s.flRead (p.elim 0 (·.val)) o
  else if o < 0x100000 then p.elim 0 (fun p => s.hlRead p o)
  else if o < 0x200000 then s.gtbRead lat (o - 0x100000)
  else if o < 0x300000 then s.ypRead (o - 0x200000)
  else if o < 0x400000 then s.rgRead lat (o - 0x300000)
  else if o < 0x500000 then s.tlRead (o - 0x400000)
  else if o < 0x600000 then s.meeRead (o - 0x500000)
  else if o < 0x680000 then s.accRead (o - 0x600000)
  else if o < 0x700000 then s.rsvRead (o - 0x680000)
  else if o < 0x780000 then s.pwrRead (o - 0x700000)
  else if o < 0x800000 then s.muRead (o - 0x780000)
  else p.elim 0 (fun p => (s.pf p).mb.read (o - 0x800000))

/-! A VF's BAR0 (R177). -/

/-- The time page (R79). -/
def State.timePageRead (s : State) (lat : Latches) (n o : Nat) : Nat :=
  if o = 0 || o = 4 then halfOf (o = 4) s.nowW
  else if o = 8 then lat.gtbHi.toNat
  else if o = 0xC then fields [flag s.gtb.lock 0, flag s.gtb.coarse 1]
  else if o = 0x10 then ((s.stall? n).map (fun t => t.hold.gates.length)).getD 0
  else if 0x100 ≤ o && o < 0x900 then
    match (s.stall? n).bind (fun t => t.hold.gates[(o - 0x100) / 0x20]?) with
    | none => 0
    | some g =>
      let x := s.gate g
      match o % 0x20 with
      | 0x00 => halfOf false x.cmp
      | 0x04 => halfOf true x.cmp
      | 0x08 => x.preroll.toNat
      | 0x10 => x.wakeN.toNat
      | 0x14 => x.stateReg
      | 0x18 => halfOf false x.firedAt
      | 0x1C => halfOf true x.firedAt
      | _ => 0
  else 0
/-- A doorbell slot (R237). -/
def State.slotRead (s : State) (n o : Nat) : Nat :=
  match s.queue? n (o / 0x10) with
  | none => 0
  | some q =>
    match o % 0x10 with
    | 0x0 => q.acceptedPos.toNat
    | 0x4 => q.consumed.toNat
    | 0x8 => halfOf false q.acceptedAsn
    | _ => q.statusReg
/-- The host-attach registers (R204). A VF's stream is the active one whose RID range holds its function number. PRESUMED, log 24. -/
def State.attachRead (s : State) (p : HostPort) (n o : Nat) : Nat :=
  let i := s.vf p n
  match o with
  | 0x00 => i.cause.toNat
  | 0x04 => i.causeEn.toNat
  | 0x08 =>
    let ports := ((s.stall? n).map (fun t => t.hold.hostPorts)).getD 0
    fields [(p.val, 0), (ports.toNat, 4), ((ports &&& setOf 4 4 s.portServing).toNat, 8)]
  | 0x10 => i.bar2Base.toNat % 2 ^ 32
  | 0x14 => i.bar2Base.toNat / 2 ^ 32
  | 0x20 =>
    let mine := fun (e : Nat × IdeStream) => e.2.st = .active && decide (e.2.ridLo.toNat % 256 ≤ n + 1) && decide (n + 1 ≤ e.2.ridHi.toNat % 256)
    match List.find? mine (s.port p).streams with
    | none => 0
    | some e => fields [(1, 0), (e.1, 4)]
  | 0x28 => i.lat.qdbHi.toNat
  | _ => 0
/-- What a dword of a VF's BAR0 reads. DESIGN CHOICE, log 26. -/
def State.vfRead (s : State) (p : HostPort) (n : StallNo) (o : Nat) : Nat :=
  let lat := s.lat (.vf p n)
  if o % 4 ≠ 0 || o < 0x100 then 0
  else if o < 0x800 then featureRead (s.vfFeatures n) o
  else if o < 0x1000 then ((s.stall? n).map (fun t => f32 (s.windowManifest n t) (o - 0x800))).getD 0
  else if o < 0x2000 then s.timePageRead lat n (o - 0x1000)
  else if o < 0x4000 then s.slotRead n (o - 0x2000)
  else if o < 0x8000 then (if o < 0x4C00 then s.dlvRead lat n (o - 0x4000) else 0)
  else if o < 0xC000 then (s.vf p n).mb.read (o - 0x8000)
  else if o < 0xC200 then (s.vf p n).msix.read (o - 0xC000)
  else if o = 0xD000 || o = 0xD004 then halfOf (o = 0xD004) (s.vf p n).msix.pba
  else if 0xE000 ≤ o && o < 0xE100 then s.attachRead p n (o - 0xE000)
  else 0

end Sys2Proof.Machine
end

