-- ==== Sys2Proof/Machine/Spdm.lean ====
section
/-! DEFINITION. The SPDM responder on each DOE mailbox and over MCTP (R440, R449), secure sessions and the tenant binding
(R450, R451), and mailbox requests carried in a session (R452). -/

namespace Sys2Proof.Machine

/-! Transports and responses. `via` names the function whose DOE mailbox carries a message; none is MCTP. -/

/-- The number of a transport's connection. -/
def connKey : Option Fn → Nat
  | none | some .rtp => 0
  | some (.pf0 p) => 1 + p.val
  | some (.vf p n) => 8 + vfKey p n
/-- Does a message on the transport reach the responder: the function is presented and, for a VF, its stall is defined (R82), or the
I3C target has its address. DEDUCED, log 19. -/
def State.spdmReached (s : State) (via : Option Fn) : Bool :=
  s.running && (match via with
    | none => s.side.assigned
    | some .rtp => false
    | some (.pf0 p) => s.portServing p
    | some (.vf p n) => s.vfSeen n p && (s.stall? n).isSome)
def State.conn (s : State) (via : Option Fn) : SpdmConn := s.side.conns.get SpdmConn.init (connKey via)
def State.setConn (s : State) (via : Option Fn) (f : SpdmConn → SpdmConn) : State :=
  { s with side := { s.side with conns := s.side.conns.upd SpdmConn.init (connKey via) f } }

/-- SPDM response codes, and the error codes of ERROR. -/
def spVersion : Nat := 0x04
/-- PRESUMED, log 69. -/
def spCapabilities : Nat := 0x61
def spAlgorithms : Nat := 0x63
def spDigests : Nat := 0x01
def spCertificate : Nat := 0x02
def spChallengeAuth : Nat := 0x03
def spChunkResponse : Nat := 0x06
def spMeasurements : Nat := 0x60
def spKeyExchangeRsp : Nat := 0x64
def spFinishRsp : Nat := 0x65
def spHeartbeatAck : Nat := 0x68
def spKeyUpdateAck : Nat := 0x69
def spEndSessionAck : Nat := 0x6C
def spError : Nat := 0x7F
def eInvalidRequest : Byte := 0x01
def eBusy : Byte := 0x03
def eUnexpectedRequest : Byte := 0x04
def eLargeResponse : Byte := 0x0F

/-- A response: whole, or kept for CHUNK_GET where the transport cannot carry it. -/
def State.spdmSay (s : State) (via : Option Fn) (code : Nat) (body : List Byte) : State :=
  if Config.spdmWhole via.isNone body.length then s.emit (.spdm via code body)
  else (s.setConn via (fun c => { c with large := body })).emit (.spdm via spError [eLargeResponse])
def State.spdmError (s : State) (via : Option Fn) (e : Byte) : State := s.emit (.spdm via spError [e])
/-- ERROR with a code the spec does not give. -/
def State.spdmErrorFree (s : State) (via : Option Fn) : State := let r := s.draw 8; r.2.spdmError via r.1
/-- Does the module offer its services (R433). -/
def State.moduleServes (s : State) : Bool := s.prot.approved && !s.moduleStopped
/-- A request that reaches the responder after `ready` of its connection holds; an unready one is unexpected. DEDUCED, log 72. -/
def State.spdmServe (s : State) (via : Option Fn) (ready : SpdmConn → Bool) (body : State → State) : State :=
  if !s.spdmReached via then s
  else if !ready (s.conn via) then s.spdmError via eUnexpectedRequest
  else body s

/-! Negotiation, certificates and measurements (R440, R449). -/

/-- GET_VERSION begins the connection anew: SPDM 1.3. -/
def getVersion (via : Option Fn) (s : State) : State :=
  s.spdmServe via (fun _ => true) (fun s =>
    (s.setConn via (fun _ => { SpdmConn.init with versioned := true })).spdmSay via spVersion [0, 1, 0x00, 0x13])
def getCapabilities (via : Option Fn) (s : State) : State :=
  s.spdmServe via (fun c => c.versioned) (fun s => (s.setConn via (fun c => { c with capable := true })).spdmSay via spCapabilities Config.spdmCapabilities)
/-- NEGOTIATE_ALGORITHMS answers with the fixed set. -/
def negotiateAlgorithms (via : Option Fn) (s : State) : State :=
  s.spdmServe via (fun c => c.capable) (fun s => (s.setConn via (fun c => { c with agreed := true })).spdmSay via spAlgorithms Config.spdmAlgorithms)
/-- The chain of the active bank, slot 0 (R440). -/
def State.chain (s : State) : List Byte := Config.ownChain s.prot.bank
def getDigests (via : Option Fn) (s : State) : State :=
  s.spdmServe via (fun c => c.agreed) (fun s => s.spdmSay via spDigests (digestBytes (Config.sha384 s.chain)))
/-- GET_CERTIFICATE: a part of slot 0's chain, and how much is left. Slots 1 to 7 are empty. -/
def getCertificate (via : Option Fn) (slot : Byte) (ofs len : U16) (s : State) : State :=
  s.spdmServe via (fun c => c.agreed) (fun s =>
    if slot ≠ 0 || s.chain.length ≤ ofs.toNat then s.spdmError via eInvalidRequest
    else
      let part := slice s.chain ofs.toNat len.toNat
      s.spdmSay via spCertificate ([0, 0] ++ leBytes 2 part.length ++ leBytes 2 (s.chain.length - ofs.toNat - part.length) ++ part))
/-- CHALLENGE: slot 0's digest and the signature over the exchange. -/
def challenge (via : Option Fn) (slot : Byte) (s : State) : State :=
  s.spdmServe via (fun c => c.agreed) (fun s =>
    if !s.moduleServes then s.spdmErrorFree via
    else if slot ≠ 0 then s.spdmError via eInvalidRequest
    else s.signed.spdmSay via spChallengeAuth (digestBytes (Config.sha384 s.chain) ++ (Config.spdmSign s.free).toList))
/-- The stall a transport's scope is; none is the package. -/
def scopeOf : Option Fn → Option StallNo
  | some (.vf _ n) => some n
  | _ => none
/-- The measurement of an index in the transport's scope (R449). -/
def State.measurement (s : State) (via : Option Fn) (i : Nat) (nonce : List Byte) : Option (List Byte) :=
  let stall := (scopeOf via).bind (fun n => (s.stall? n).map (fun t => (n.val, t)))
  match i, stall with
  | 1, _ => some (digestBytes Config.rtpFirmware)
  | 2, _ => some (digestBytes Config.droverFirmware)
  | 3, none => some (digestBytes s.yard.active.digest)
  | 3, some (_, t) => some (digestBytes t.man.planDigest)
  | 4, some (n, t) => some (digestBytes (Config.sha384 (s.windowManifest n t)))
  | 5, some (_, t) => some (digestBytes t.attest.digest)
  | 6, some (_, t) => some (digestBytes (t.attest.tenant.getD 0))
  | 0x10, some (n, t) => some (withSignature (s.stallReport n t nonce (zeros 48)) s.free)
  | _, _ => none
/-- The indices of a scope. -/
def measurementIndices (via : Option Fn) : List Nat := if (scopeOf via).isSome then [1, 2, 3, 4, 5, 6, 0x10] else [1, 2, 3]
/-- GET_MEASUREMENTS: how many there are (index 0), all of them (0xFF) or one; signed where the requester gives a nonce. -/
def getMeasurements (via : Option Fn) (index : Byte) (nonce : Option (List Byte)) (s : State) : State :=
  s.spdmServe via (fun c => c.agreed) (fun s =>
    if !s.moduleServes then s.spdmErrorFree via
    else
      let ask := if index = 0 then [] else if index = 0xFF then measurementIndices via else [index.toNat]
      let got := ask.filterMap (fun i => (s.measurement via i (nonce.getD [])).map (fun b => (i, b)))
      if got.length ≠ ask.length then s.spdmError via eInvalidRequest
      else
        let u := s.signed.signed
        let count := if index = 0 then (measurementIndices via).length else got.length
        let sig := match nonce with
          | none => []
          | some _ => (Config.spdmSign s.signed.free).toList
        u.spdmSay via spMeasurements (leBytes 1 count ++ got.flatMap (fun e => leBytes 1 e.1 ++ leBytes 2 e.2.length ++ e.2) ++ sig))
/-- CHUNK_GET: the next bytes of a response too large for its transport. -/
def chunkGet (via : Option Fn) (s : State) : State :=
  s.spdmServe via (fun c => !c.large.isEmpty) (fun s =>
    let n := max 1 (Config.spdmChunk via.isNone)
    let l := (s.conn via).large
    (s.setConn via (fun c => { c with large := l.drop n })).emit (.spdm via spChunkResponse (l.take n)))

/-! Sessions (R450, R451). -/

def State.modSession (s : State) (id : Nat) (f : Session → Session) : State :=
  match s.sessions.find? id with
  | none => s
  | some x => { s with sessions := s.sessions.put id (some (f x)) }
/-- Does a command not yet ended use the session's keys (R459). -/
def State.keysUsed (s : State) (id : Nat) : Bool :=
  s.stalls.any (fun (e : Nat × Stall) => e.2.queues.any (fun (q : Nat × Queue) => q.2.entries.any (fun x =>
    x.st ≠ .ended && x.st ≠ .visible && x.opcode = 0x20 && (x.u8 0x20 = 2 || x.u8 0x21 = 2) && x.u32 0x24 = id)))
/-- Sessions of one transport that have not ended: those of a stall over all its ports. -/
def State.liveSessions (s : State) (via : Option Fn) : Nat :=
  (s.sessions.filter (fun (e : Nat × Session) => !e.2.ended && (match scopeOf via, e.2.fn with
    | some n, some (.vf _ m) => n = m
    | none, f => f = via
    | _, _ => false))).length
/-- KEY_EXCHANGE with a requester's ephemeral key, whose response settles session `id`: refused Busy beyond 4 of a stall
(R451), and over MCTP beyond the one. DESIGN CHOICE, log 70. -/
def keyExchange (via : Option Fn) (id : U32) (peer : List Byte) (s : State) : State :=
  s.spdmServe via (fun c => c.agreed) (fun s =>
    let taken := (s.sessions.find? id.toNat).any (fun x => !x.ended || s.keysUsed id.toNat)
    if !s.moduleServes then s.spdmErrorFree via
    else if ((scopeOf via).isSome && 4 ≤ s.liveSessions via) || (via.isNone && 1 ≤ s.liveSessions via) then s.spdmError via eBusy
    else if taken || !Config.onCurve peer then s.spdmError via eInvalidRequest
    else
      let x : Session :=
        { fn := via, finished := false, peer := none, secret := (Config.spdmSecret peer s.free).toList, lastBeat := s.now, ended := false, counters := [] }
      let u := { s with sessions := s.sessions.put id.toNat (some x) }.signed
      u.signed.spdmSay via spKeyExchangeRsp (leBytes 4 id.toNat ++ (Config.spdmSign u.free).toList))
/-- A session that has not ended and whose transport carries messages. -/
def State.sessionHeard (s : State) (id : Nat) : Option Session := (s.sessions.find? id).filter (fun x => !x.ended && s.spdmReached x.fn)
/-- FINISH: with the requester's leaf key under mutual authentication, and whether its checks hold. A stall's first
session with mutual authentication binds it, and a later one must use the same key (R450). DEDUCED, log 71. -/
def finish (id : U32) (leaf : Option (List Byte)) (good : Bool) (s : State) : State :=
  match s.sessionHeard id.toNat with
  | none => s
  | some x =>
    let gone := { s with sessions := s.sessions.put id.toNat none }
    let peer := leaf.map Config.sha384
    if x.finished then s.spdmError x.fn eUnexpectedRequest
    else if !good then gone.spdmErrorFree x.fn
    else
      let done := s.modSession id.toNat (fun x => { x with finished := true, peer := peer, lastBeat := s.now })
      match scopeOf x.fn with
      | none => done.spdmSay x.fn spFinishRsp []
      | some n =>
        let bound := (s.stall? n).bind (fun t => t.attest.tenant)
        if bound.isSome && bound ≠ peer then gone.spdmError x.fn eInvalidRequest
        else
          (done.modStall n (fun t => { t with attest := { t.attest with tenant := if bound.isSome then bound else peer } })).spdmSay x.fn spFinishRsp []
/-- A request inside a finished session. -/
def State.inSession (s : State) (id : Nat) (body : Session → State → State) : State :=
  match s.sessionHeard id with
  | none => s
  | some x => if x.finished then body x s else s.spdmError x.fn eUnexpectedRequest
def heartbeat (id : U32) (s : State) : State :=
  s.inSession id.toNat (fun x s => (s.modSession id.toNat (fun x => { x with lastBeat := s.now })).spdmSay x.fn spHeartbeatAck [])
/-- The heartbeat period of 10 s in gticks. -/
def heartbeatPeriod : Nat := 160000000000
/-- HEARTBEAT_MISSED: the period ends with no heartbeat, and the session with it. DEDUCED, log 71. -/
def heartbeatMissed (id : U32) (s : State) : State :=
  match s.session? id.toNat with
  | none => s
  | some x =>
    let s := s.advance (x.lastBeat + heartbeatPeriod)
    if s.now < x.lastBeat + heartbeatPeriod then s else s.modSession id.toNat (fun x => { x with ended := true })
/-- KEY_UPDATE changes the session's message keys and leaves its bounce keys (R453). -/
def keyUpdate (id : U32) (s : State) : State := s.inSession id.toNat (fun x s => s.spdmSay x.fn spKeyUpdateAck [])
/-- END_SESSION (R451). DEDUCED, log 71. -/
def endSession (id : U32) (s : State) : State :=
  s.inSession id.toNat (fun x s => (s.modSession id.toNat (fun x => { x with ended := true })).spdmSay x.fn spEndSessionAck [])

/-! Mailbox requests in a session (R452). -/

/-- The request of a mailbox opcode (R193). -/
def mailboxOf : Nat → Option (Req → State → State)
  | 0x0001 => some version
  | 0x0002 => some resultQuery
  | 0x0010 => some planSubmit
  | 0x0011 => some planCancel
  | 0x0012 => some changeForce
  | 0x0013 => some changeReport
  | 0x0018 => some enrol
  | 0x0019 => some rotate
  | 0x0020 => some manifestReq
  | 0x0021 => some ctxKill
  | 0x0022 => some stallReset
  | 0x0030 => some queueCreate
  | 0x0031 => some queueDestroy
  | 0x0032 => some ctxCreate
  | 0x0033 => some ctxDestroy
  | 0x0034 => some srndSeed
  | 0x0035 => some xlatInval
  | 0x0036 => some memStats
  | 0x0037 => some memClear
  | 0x0038 => some schedSet
  | 0x0039 => some schedStat
  | 0x0040 => some drvConfig
  | 0x0041 => some drvOutring
  | 0x0042 => some drvLoad
  | 0x0043 => some drvUnload
  | 0x0044 => some drvStat
  | 0x0045 => some drvLend
  | 0x0046 => some drvBorrow
  | 0x0050 => some remoteExport
  | 0x0051 => some groupSet
  | 0x0052 => some groupClear
  | 0x0060 => some secChallenge
  | 0x0061 => some debugUnlock
  | 0x0062 => some debugLock
  | 0x0063 => some zeroiseReq
  | 0x0064 => some decommission
  | 0x0065 => some selftest
  | 0x0066 => some ledgerQuery
  | 0x0070 => some attestReport
  | 0x0071 => some attestLog
  | 0x0072 => some sealKeygen
  | 0x0073 => some sealInstall
  | 0x0074 => some sealDrop
  | 0x0075 => some measureImage
  | 0x0076 => some queueRebind
  | 0x0080 => some accEvents
  | 0x0081 => some accRecords
  | 0x0082 => some orphanClear
  | 0x0090 => some pkgReset
  | _ => none
/-- UNKNOWN_OPCODE (R192). -/
def unknownOpcode : Answer := ⟨resUnknown, 0, []⟩
/-- A mailbox request inside a finished session, made by the session's own function. Sessions other than a stall's serve none. -/
def State.askInside (s : State) (id : U32) (tag : U16) (payload : List Byte) (body : Req → State → State) : State :=
  s.inSession id.toNat (fun x s =>
    match x.fn, scopeOf x.fn with
    | some f, some _ => body { fn := f, tag := tag, payload := payload, session := some id } s
    | _, _ => s.spdmError x.fn eInvalidRequest)
/-- VENDOR_DEFINED_REQUEST: served by the same rules as through BAR0. -/
def vendorDefined (id : U32) (op : U16) (tag : U16) (payload : List Byte) (s : State) : State :=
  s.askInside id tag payload (fun m s =>
    match mailboxOf op.toNat with
    | some g => g m s
    | none => s.mbAnswer m op.toNat unknownOpcode)
/-- A request that has its effect only inside a session: sent inside one, or through the function's own mailbox (R452, R460, R462).
Inside a session only TAG and the payload are the message's. -/
def State.ask (s : State) (id : Option U32) (m : MbReq) (body : Req → State → State) : State :=
  match id with
  | none => body (plain m) s
  | some i => s.askInside i m.tag m.payload body

def execGetVersion (via : Option Fn) (s : State) : Host.Outcome State Fault Refusal := .next (getVersion via s)
def execGetCapabilities (via : Option Fn) (s : State) : Host.Outcome State Fault Refusal := .next (getCapabilities via s)
def execNegotiateAlgorithms (via : Option Fn) (s : State) : Host.Outcome State Fault Refusal := .next (negotiateAlgorithms via s)
def execGetDigests (via : Option Fn) (s : State) : Host.Outcome State Fault Refusal := .next (getDigests via s)
def execGetCertificate (via : Option Fn) (slot : Byte) (ofs len : U16) (s : State) : Host.Outcome State Fault Refusal :=
  .next (getCertificate via slot ofs len s)
def execChallenge (via : Option Fn) (slot : Byte) (s : State) : Host.Outcome State Fault Refusal := .next (challenge via slot s)
def execGetMeasurements (via : Option Fn) (index : Byte) (nonce : Option (List Byte)) (s : State) : Host.Outcome State Fault Refusal :=
  .next (getMeasurements via index nonce s)
def execKeyExchange (via : Option Fn) (id : U32) (peer : List Byte) (s : State) : Host.Outcome State Fault Refusal := .next (keyExchange via id peer s)
def execFinish (id : U32) (leaf : Option (List Byte)) (good : Bool) (s : State) : Host.Outcome State Fault Refusal := .next (finish id leaf good s)
def execHeartbeat (id : U32) (s : State) : Host.Outcome State Fault Refusal := .next (heartbeat id s)
def execHeartbeatMissed (id : U32) (s : State) : Host.Outcome State Fault Refusal := .next (heartbeatMissed id s)
def execKeyUpdate (id : U32) (s : State) : Host.Outcome State Fault Refusal := .next (keyUpdate id s)
def execEndSession (id : U32) (s : State) : Host.Outcome State Fault Refusal := .next (endSession id s)
def execChunkGet (via : Option Fn) (s : State) : Host.Outcome State Fault Refusal := .next (chunkGet via s)
def execVendorDefinedRequest (id : U32) (op tag : U16) (payload : List Byte) (s : State) : Host.Outcome State Fault Refusal :=
  .next (vendorDefined id op tag payload s)
def execSealKeygen (id : Option U32) (m : MbReq) (s : State) : Host.Outcome State Fault Refusal := .next (s.ask id m sealKeygen)
def execSealInstall (id : Option U32) (m : MbReq) (s : State) : Host.Outcome State Fault Refusal := .next (s.ask id m sealInstall)
def execSealDrop (id : Option U32) (m : MbReq) (s : State) : Host.Outcome State Fault Refusal := .next (s.ask id m sealDrop)
def execQueueRebind (id : Option U32) (m : MbReq) (s : State) : Host.Outcome State Fault Refusal := .next (s.ask id m queueRebind)

end Sys2Proof.Machine
end

