-- ==== Sys2Proof/Machine/Registers.lean ====
section
/-! DEFINITION. Writes to the registers of BAR0 and reads that clear them, by their access codes (R17, R19) and the register
tables of each block. A write to a register that has a command of its own has that command's effect. A register that is
read-only, plan-owned or reserved ignores writes. Reads latch and clear as their rules say. -/

namespace Sys2Proof.Machine

/-- W1C: bits written 1 clear. -/
def w1c {w : Nat} (r : BitVec w) (v : U32) : BitVec w := r &&& ~~~ (v.setWidth w)

/-! MSI-X tables (R176, R177, R184). -/

def State.msixOf (s : State) : Fn → Msix
  | .pf0 p => (s.pf p).msix
  | .vf p n => (s.vf p n).msix
  | .rtp => Msix.init
def State.setMsix (s : State) (f : Fn) (g : Msix → Msix) : State :=
  match f with
  | .pf0 p => s.setPf p (fun i => { i with msix := g i.msix })
  | .vf p n => s.setVf p n (fun i => { i with msix := g i.msix })
  | .rtp => s
/-- Pending messages that nothing masks any longer are sent. -/
def State.msixFlush (s : State) (f : Fn) : State :=
  let m := s.msixOf f
  let go := if !m.enabled || m.fmask then [] else (members m.pba).filter (fun v => !(m.table.get MsixEntry.init v).masked)
  forAll go (fun v u => (u.setMsix f (fun m => { m with pba := excl m.pba v })).emit (.msi f v)) s
/-- A dword of an entry: address low and high, data, vector control. -/
def MsixEntry.store (e : MsixEntry) (w : Nat) (v : U32) : MsixEntry :=
  match w with
  | 0 => { e with addr := join64 (hi32 e.addr) v }
  | 1 => { e with addr := join64 v (lo32 e.addr) }
  | 2 => { e with data := v }
  | _ => { e with masked := has v 0 }
/-- A write at offset `o` of the table. PRESUMED, log 20. -/
def msixWrite (f : Fn) (o : Nat) (v : U32) (s : State) : State :=
  (s.setMsix f (fun m => { m with table := m.table.upd MsixEntry.init (o / 16) (fun e => e.store (o % 16 / 4) v) })).msixFlush f
/-- Message Control: enable and function mask. PRESUMED, log 20. DESIGN CHOICE, log 21. -/
def msixControlWrite (f : Fn) (v : U32) (s : State) : State :=
  (s.setMsix f (fun m => { m with enabled := has v 15, fmask := has v 14 })).msixFlush f

/-! The mailbox (R189, R190). -/

/-- GO: the request stands in MB_REQUEST. -/
def mailboxGo (f : Fn) (s : State) : State :=
  let r := (s.mb f).request
  let m : Req := { fn := f, tag := BitVec.ofNat 16 (f16 r 2), payload := fitBytes (min (f32 r 4) 4089) (r.drop 8), session := none }
  match mailboxOf (f16 r 0) with
  | some g => g m s
  | none =>
    let x := s.mbGo m (f16 r 0)
    if x.2 then x.1.mbAnswer m (f16 r 0) unknownOpcode else x.1
/-- Bytes of a buffer replaced from offset `k`. -/
def patch (l : List Byte) (k : Nat) (b : List Byte) : List Byte :=
  let l := fitBytes (max l.length (k + b.length)) l
  l.take k ++ b ++ l.drop (k + b.length)
/-- A write at offset `o` of a mailbox. While BUSY is set MB_REQUEST keeps its content. -/
def mailboxWrite (f : Fn) (o : Nat) (v : U32) (s : State) : State :=
  if o = 0 then (if has v 0 then mailboxGo f s else s)
  else if o = 4 then s.setMb f (fun b => { b with done := b.done && !has v 1, overrun := b.overrun && !has v 2 })
  else if 0x1000 ≤ o && o < 0x2000 then
    s.setMb f (fun b => if b.busy then b else { b with request := patch b.request (o - 0x1000) (leBytes 4 v.toNat) })
  else s

/-! The GTB block (R78). -/

/-- A tick channel's registers; channels 0 to 3 ignore PF0 (R61). -/
def tickWrite (byRtp : Bool) (n : Fin 32) (o : Nat) (v : U32) (s : State) : State :=
  if n.val < 4 && !byRtp then s
  else match o with
  | 0x00 => gateCmpLoWrite (.tick byRtp n) v s
  | 0x04 => gateCmpHiWrite (.tick byRtp n) v none s
  | 0x08 => s.setTick n (fun c => { c with period := join64 (hi32 c.period) v })
  | 0x0C => s.setTick n (fun c => { c with period := join64 v (lo32 c.period) })
  | 0x10 =>
    let s := s.setTick n (fun c => { c with en := has v 0, live := has v 1, skip := has v 2, irqEn := has v 3, wakeEn := has v 4 })
    if has v 8 then tickChannelArm byRtp n s else s
  | 0x14 => s.setTick n (fun c => { c with fired := c.fired && !has v 0 })
  | _ => s
def captureWrite (n : Fin 8) (o : Nat) (v : U32) (s : State) : State :=
  match o with
  | 0x1C => s.setCap n (fun c => { c with en := has v 0, invert := has v 1, wakeEn := has v 2, irqEn := has v 3, filter := fld v 8 8 })
  | 0x20 => capStuckClear n (has v 2) (has v 3) (s.setCap n (fun c => { c with pairNew := c.pairNew && !has v 0, overrun := c.overrun && !has v 1 }))
  | 0x24 => s.setCap n (fun c => { c with stuckLimit := fld v 0 16 })
  | _ => s
/-- PRESCALE as a write stores it. -/
def storedPrescale (v : U32) : BitVec 6 := BitVec.ofNat 6 (max 3 (min 32 (fld v 5 6).toNat))
/-- PRESUMED, log 32. -/
def timerWrite (n : Fin 16) (o : Nat) (v : U32) (s : State) : State :=
  match o with
  | 0x00 => s.setTimer n (fun t => { t with count := v })
  | 0x04 => s.setTimer n (fun t => { t with top := v })
  | 0x08 => s.setTimer n (fun t => { t with mtch := v })
  | 0x0C => s.setTimer n (fun t =>
      { t with en := has v 0, oneshot := has v 1, events := has v 2, prescale := storedPrescale v, irqWrap := has v 11, irqMatch := has v 12
               gateInv := has v 13 })
  | 0x10 => rtTrigWrite n v s
  | 0x14 => s.setTimer n (fun t => { t with wrapped := t.wrapped && !has v 0, matched := t.matched && !has v 1 })
  | _ => s
def syncOutWrite (n : Fin 4) (o : Nat) (v : U32) (s : State) : State :=
  match o with
  | 0x00 => s.setOut n (fun x => { x with en := has v 0, invert := has v 1, levelMode := has v 2, src := fld v 8 8 })
  | 0x04 => s.setOut n (fun x => { x with width := fld v 0 24 })
  | _ => s
/-- A write at offset `o` of the block. -/
def gtbWrite (byRtp : Bool) (o : Nat) (v : U32) (s : State) : State :=
  if o = 0x10 then servoAutoWrite (has v 0) s
  else if o = 0x14 then { s with gtb := { s.gtb with refSw := s.gtb.refSw && !has v 3, trimLimit := s.gtb.trimLimit && !has v 5 } }
  else if o = 0x18 then gtbTrimWrite v s
  else
    let n := o % 0x1000 / 0x40
    if h : o / 0x1000 = 1 ∧ n < 32 then tickWrite byRtp ⟨n, h.2⟩ (o % 0x40) v s
    else if h : o / 0x1000 = 2 ∧ n < 8 then captureWrite ⟨n, h.2⟩ (o % 0x40) v s
    else if h : o / 0x1000 = 3 ∧ n < 16 then timerWrite ⟨n, h.2⟩ (o % 0x40) v s
    else if h : o / 0x1000 = 4 ∧ o % 0x1000 / 0x10 < 4 then syncOutWrite ⟨o % 0x1000 / 0x10, h.2⟩ (o % 0x10) v s
    else s

/-! The other blocks of PF0. -/

/-- HL (R203). -/
def hlWrite (p : HostPort) (o : Nat) (v : U32) (s : State) : State :=
  if o = 0x10008 then s.setPf p (fun i => { i with cause := w1c i.cause v })
  else if o = 0x1000C then causeEnableWrite (.pf0 p) v s
  else if o = 0x10010 then s.setPf p (fun i => { i with hostEvt := w1c i.hostEvt v })
  else if 0x18000 ≤ o && o < 0x18400 then msixWrite (.pf0 p) (o - 0x18000) v s
  else s
/-- YP_STATUS (R138). -/
def ypWrite (o : Nat) (v : U32) (s : State) : State :=
  if o = 0 then
    { s with yard := { s.yard with
      storeFail := s.yard.storeFail && !has v 8, rejected := s.yard.rejected && !has v 9, committed := s.yard.committed && !has v 10 } }
  else s
/-- RG (R366). -/
def rgWrite (o : Nat) (v : U32) (s : State) : State :=
  if o = 0 then rgUrgWrite false v s
  else if o = 4 then rgUrgWrite true v s
  else
    let n := (o - 0x1000) / 0x20
    let k := o % 0x20 / 4
    if h : 0x1000 ≤ o ∧ n < 128 ∧ k < 5 then rgDutyWrite ⟨n, h.2.1⟩ ⟨k, h.2.2⟩ v s else s
/-- TL (R401). Registers of ports the variant is not fitted with are reserved. -/
def tlWrite (o : Nat) (v : U32) (s : State) : State :=
  if o = 8 then { s with tl := { s.tl with evt := w1c s.tl.evt v } }
  else
    let n := (o - 0x1000) / 0x80
    if h : 0x1000 ≤ o ∧ n < 48 then
      if linkPorts s.pkg.variant ≤ n then s
      else match o % 0x80 with
      | 0x04 => tlPCtlWrite ⟨n, h.2⟩ v s
      | 0x08 => tlPAsymWrite ⟨n, h.2⟩ v s
      | _ => s
    else s
/-- RSV (R525). -/
def rsvWrite (o : Nat) (v : U32) (s : State) : State :=
  if o = 4 then { s with rsv := { s.rsv with evt := w1c s.rsv.evt v } } else if o = 8 then rsvCtlWrite v s else s
/-- PWR (R549). -/
def pwrWrite (o : Nat) (v : U32) (s : State) : State :=
  match o with
  | 0x04 => pwrCtlWrite v s
  | 0x08 => { s with power := { s.power with idle := v &&& 0x00FFFFFF } }
  | 0x0C => { s with power := { s.power with evt := w1c s.power.evt v } }
  | _ => s
/-- May MU_CTL take this value (R572). -/
def muCtlOk (v : U32) : Bool :=
  decide (5 ≤ (fld v 2 4).toNat) && decide ((fld v 2 4).toNat ≤ 9) && fld v 6 2 ≠ 3 && fld v 8 2 ≠ 3
/-- May MU_DIV take this value (R551). -/
def muDivOk (n : Nat) : Bool := n = 16 || decide (32 ≤ n)
/-- MU (R572): a written format waits until no frame is in progress (R552). -/
def muWrite (o : Nat) (v : U32) (s : State) : State :=
  let locked := s.side.mu.lock
  match o with
  | 0x00 => if locked || !muCtlOk v then s else s.setMu (fun u => { u with pendCtl := some (fld v 0 11), lock := has v 31 })
  | 0x04 => if locked || !muDivOk (fld v 0 16).toNat then s else s.setMu (fun u => { u with pendDiv := some (fld v 0 16) })
  | 0x0C => s.setMu (fun u => { u with evt := w1c u.evt v })
  | 0x10 => if locked then s else s.setMu (fun u => { u with stuck := if fld v 0 8 = 0 then 1 else fld v 0 8 })
  | 0x14 => s.setMu (fun u => { u with sleep := fld v 0 8 })
  | _ => s

/-- A write in PF0's BAR0 (R176), through a port's instance or, with none, by the RTP, which has no instance's registers. DESIGN CHOICE, log 26. -/
def pfWrite (p : Option HostPort) (o : Nat) (v : U32) (s : State) : State :=
  if o % 4 ≠ 0 || o < 0x10000 then s
  else if o < 0x100000 then p.elim s (fun p => hlWrite p o v s)
  else if o < 0x200000 then gtbWrite p.isNone (o - 0x100000) v s
  else if o < 0x300000 then ypWrite (o - 0x200000) v s
  else if o < 0x400000 then rgWrite (o - 0x300000) v s
  else if o < 0x500000 then tlWrite (o - 0x400000) v s
  else if o < 0x680000 then s
  else if o < 0x700000 then rsvWrite (o - 0x680000) v s
  else if o < 0x780000 then pwrWrite (o - 0x700000) v s
  else if o < 0x800000 then muWrite (o - 0x780000) v s
  else p.elim s (fun p => mailboxWrite (.pf0 p) (o - 0x800000) v s)

/-! A VF's BAR0 (R79, R177, R204, R237). -/

/-- A gate slot's registers (R79). -/
def gateSlotWrite (n : StallNo) (g : Fin 64) (o : Nat) (v : U32) (s : State) : State :=
  match o with
  | 0x00 => gateCmpLoWrite (.gate n g) v s
  | 0x04 => gateCmpHiWrite (.gate n g) v none s
  | 0x08 => gatePrerollWrite n g v s
  | 0x0C =>
    if has v 0 && has v 1 then gateCtl n g .disarmArm s
    else if has v 0 then gateCtl n g .arm s
    else if has v 1 then gateCtl n g .disarm s
    else s
  | 0x10 => onGate n g (fun i s => s.setGate i (fun x => { x with wakeN := fld v 0 10 })) s
  | _ => s
/-- The engine of a number (R194). -/
def engineOf : Nat → Engine
  | 0 => .compute
  | 1 => .copy
  | 2 => .relay
  | _ => .drover
/-- The queue whose doorbell slot lies at offset `o` of the doorbells (R215). -/
def slotQueue (n : StallNo) (o : Nat) : Option QueueId :=
  let i := o / 0x10
  if h : i < 512 then
    some { stall := n, ctx := ⟨i / 32, by omega⟩, engine := engineOf (i % 32 / 8), queue := ⟨i % 8, by omega⟩ }
  else none
def slotWrite (p : HostPort) (n : StallNo) (o : Nat) (v : U32) (s : State) : State :=
  match slotQueue n o with
  | none => s
  | some q =>
    match o % 0x10 with
    | 0x0 => doorbell p q v s
    | 0x4 => consumedWrite q v s
    | _ => s
/-- HL_VBAR2_BASE as its halves store it (R204). -/
def bar2BaseLo (b : BitVec 40) (v : U32) : BitVec 40 := (b &&& 0xFF00000000) ||| (v &&& 0xFFE00000).setWidth 40
def bar2BaseHi (b : BitVec 40) (v : U32) : BitVec 40 := (b &&& 0xFFFFFFFF) ||| ((v &&& 0xFF).setWidth 40 <<< 32)
def hostAttachWrite (p : HostPort) (n : StallNo) (o : Nat) (v : U32) (s : State) : State :=
  match o with
  | 0x00 => s.setVf p n (fun i => { i with cause := w1c i.cause v })
  | 0x04 => causeEnableWrite (.vf p n) v s
  | 0x10 => s.setVf p n (fun i => { i with bar2Base := bar2BaseLo i.bar2Base v })
  | 0x14 => s.setVf p n (fun i => { i with bar2Base := bar2BaseHi i.bar2Base v })
  | _ => s
/-- A write in a VF's BAR0. DESIGN CHOICE, log 26. -/
def vfWrite (p : HostPort) (n : StallNo) (o : Nat) (v : U32) (s : State) : State :=
  if o % 4 ≠ 0 || o < 0x1100 then s
  else if o < 0x2000 then
    (if h : (o - 0x1100) / 0x20 < 64 then gateSlotWrite n ⟨(o - 0x1100) / 0x20, h⟩ ((o - 0x1100) % 0x20) v s else s)
  else if o < 0x4000 then slotWrite p n (o - 0x2000) v s
  else if o < 0x8000 then s
  else if o < 0xC000 then mailboxWrite (.vf p n) (o - 0x8000) v s
  else if o < 0xC200 then msixWrite (.vf p n) (o - 0xC000) v s
  else if 0xE000 ≤ o && o < 0xE100 then hostAttachWrite p n (o - 0xE000) v s
  else s

/-- Does an access of a function reach its registers. DEDUCED, log 19. -/
def State.regReached (s : State) (f : Fn) : Bool := s.power.powerGood && !s.power.thermStop && s.fnSeen f
/-- REGISTER_WRITE: a dword. A BAR0 write through a host port is a wake source (R536). DESIGN CHOICE, log 26. -/
def registerWrite (f : Fn) (r : RegAt) (v : U32) (s : State) : State :=
  if !s.regReached f then s
  else match r, f with
  | .msixControl, f => msixControlWrite f v s
  | .bar0 o, .pf0 p => pfWrite (some p) o v s.barWrite
  | .bar0 o, .vf p n => vfWrite p n o v s.barWrite
  | .bar0 o, .rtp => pfWrite none o v s

/-! Reads that clear (R17). -/

/-- Put two counts in one register. -/
def twoHalves (lo hi : U16) : U32 := BitVec.ofNat 32 (lo.toNat + 65536 * hi.toNat)
/-- A Tsuholt port's counters: the value and the port without it. -/
def TlPort.readClear (x : TlPort) : Nat → Option (U32 × TlPort)
  | 0x14 => some (x.fecCorr, { x with fecCorr := 0 })
  | 0x18 => some (x.tagFail, { x with tagFail := 0 })
  | 0x1C => some (x.resend, { x with resend := 0 })
  | 0x20 => some (x.proto, { x with proto := 0 })
  | _ => none
/-- The MEE's counters (R439). -/
def Mee.readClear (m : Mee) : Nat → Option (U32 × Mee)
  | 0x40 => some (m.tagFail, { m with tagFail := 0 })
  | 0x44 => some (m.eccCe, { m with eccCe := 0 })
  | 0x48 => some (m.eccUe, { m with eccUe := 0 })
  | 0x4C => some (m.poisonWr, { m with poisonWr := 0 })
  | _ => none
/-- A compute die's RC registers (R549). -/
def Therm.readClear (t : Therm) : Nat → Option (U32 × Therm)
  | 0x4 => some (t.time, { t with time := 0 })
  | 0x8 => some (t.peak.setWidth 32, { t with peak := 0 })
  | _ => none
/-- The MUART's counters (R572). -/
def Muart.readClear (u : Muart) : Nat → Option (U32 × Muart)
  | 0x18 => some (BitVec.ofNat 32 (leNat [u.framing, u.parity, u.overrun, u.collision]), { u with framing := 0, parity := 0, overrun := 0, collision := 0 })
  | 0x1C => some (twoHalves u.wakeLost u.breaks, { u with wakeLost := 0, breaks := 0 })
  | _ => none
/-- The RC register at an offset of PF0's BAR0: its value, and the state with it cleared. -/
def State.pfReadClear (s : State) (o : Nat) : Option (U32 × State) :=
  if 0x101000 ≤ o && o < 0x101800 && o % 0x40 = 0x20 then
    let n := (o - 0x101000) / 0x40
    some ((s.tick n).missed, s.setTick n (fun c => { c with missed := 0 }))
  else if o = 0x300008 then some (twoHalves s.rg.evtLink s.rg.evtHost, { s with rg := { s.rg with evtLink := 0, evtHost := 0 } })
  else if 0x401000 ≤ o && o < 0x401000 + 0x80 * linkPorts s.pkg.variant then
    let n := (o - 0x401000) / 0x80
    ((s.tlp n).readClear (o % 0x80)).map (fun r => (r.1, s.setTlp n (fun _ => r.2)))
  else if 0x500040 ≤ o && o < 0x500050 then (s.mee.readClear (o - 0x500000)).map (fun r => (r.1, { s with mee := r.2 }))
  else if o = 0x700010 then some (s.power.wakeSrc.setWidth 32, { s with power := { s.power with wakeSrc := 0 } })
  else if 0x700040 ≤ o && o < 0x700080 then
    let d := (o - 0x700040) / 0x10
    ((s.power.therm.get Therm.init d).readClear (o % 0x10)).map (fun r =>
      (r.1, { s with power := { s.power with therm := s.power.therm.set Therm.init d r.2 } }))
  else if 0x780000 ≤ o && o < 0x780020 then (s.side.mu.readClear (o - 0x780000)).map (fun r => (r.1, s.setMu (fun _ => r.2)))
  else none
/-- The same in a VF's BAR0: HL_VBAR2_DENY. -/
def State.vfReadClear (s : State) (n o : Nat) : Option (U32 × State) :=
  if o = 0xE018 then (s.stall? n).map (fun t => (t.bar2Deny, s.setStall n { t with bar2Deny := 0 })) else none
/-- Reads of PF0's BAR0 that latch (R50, R68, R362). -/
def pfLatchRead (f : Fn) (o : Nat) (s : State) : Option State :=
  let n := (o - 0x102000) / 0x40
  let d := (o - 0x310000) / 0x1000
  if o = 0x100000 then some (gtbNowLoRead f s)
  else if h : 0x102000 ≤ o ∧ n < 8 then
    match o % 0x40 with
    | 0x00 => some (capLoRead f ⟨n, h.2⟩ .rise s)
    | 0x08 => some (capLoRead f ⟨n, h.2⟩ .fall s)
    | 0x10 => some (capLoRead f ⟨n, h.2⟩ .pair s)
    | _ => none
  else if h : 0x310000 ≤ o ∧ d < 128 then
    (if (s.dlvCounter d (o % 0x1000)).isSome then some (dlvCounterRead f ⟨d, h.2⟩ (o % 0x1000) s) else none)
  else none
/-- The same of a VF's (R50, R237, R362). -/
def vfLatchRead (p : HostPort) (n : StallNo) (o : Nat) (s : State) : Option State :=
  if o = 0x1000 then some (gtbNowLoRead (.vf p n) s)
  else if 0x2000 ≤ o && o < 0x4000 && o % 0x10 = 8 then (slotQueue n (o - 0x2000)).map (fun q => qdbAsnLoRead p q s)
  else if 0x4000 ≤ o && o < 0x4C00 && (s.dlvCounter n (o - 0x4000)).isSome then some (dlvCounterRead (.vf p n) n (o - 0x4000) s)
  else none
/-- READ_TO_CLEAR: a 4-byte read returns the register's value, and clears it where its access code is RC. DESIGN CHOICE, log 26. -/
def readToClear (f : Fn) (o : Nat) (s : State) : State :=
  if !s.regReached f then s
  else
    let plain (v : Nat) (l : Option State) : State := l.getD (s.answer f 4 v)
    let r := match f with
      | .vf _ n => s.vfReadClear n o
      | _ => s.pfReadClear o
    match r, f with
    | some (v, u), _ => u.answer f 4 v.toNat
    | none, .vf p n => plain (s.vfRead p n o) (vfLatchRead p n o s)
    | none, .pf0 p => plain (s.pfRead (some p) o) (pfLatchRead f o s)
    | none, .rtp => plain (s.pfRead none o) (pfLatchRead f o s)

def execRegisterWrite (f : Fn) (r : RegAt) (v : U32) (s : State) : Host.Outcome State Fault Refusal := .next (registerWrite f r v s)
/-- What one 8-byte read returns whole, with nothing latched: the GTB, a queue's ACCEPTED_ASN, a delivery counter (R50, R237, R362). -/
def State.wideRead (s : State) (f : Fn) (o : Nat) : Option Nat :=
  match f with
  | .vf _ n =>
    if o = 0x1000 then some s.nowW.toNat
    else if 0x2000 ≤ o && o < 0x4000 && o % 0x10 = 8 then
      (slotQueue n (o - 0x2000)).map (fun q => ((s.queue? q.stall (queueKey q)).map (fun x => x.acceptedAsn.toNat)).getD 0)
    else if 0x4000 ≤ o && o < 0x4C00 then s.dlvCounter n (o - 0x4000)
    else none
  | _ =>
    if o = 0x100000 then some s.nowW.toNat
    else if 0x310000 ≤ o && o < 0x390000 then s.dlvCounter ((o - 0x310000) / 0x1000) (o % 0x1000)
    else none
/-- An 8-byte read. At any other offset it reads its two dwords. DESIGN CHOICE, log 26. -/
def readWide (f : Fn) (o : Nat) (s : State) : State :=
  if !s.regReached f then s
  else match s.wideRead f o with
    | some v => s.answer f 8 v
    | none => readToClear f (o + 4) (readToClear f o s)
def execReadToClear (f : Fn) (wide : Bool) (ofs : Nat) (s : State) : Host.Outcome State Fault Refusal :=
  .next (if wide then readWide f ofs s else readToClear f ofs s)

end Sys2Proof.Machine
end

