-- ==== Sys2Proof/Machine/Sideband.lean ====
section
/-! DEFINITION. The I3C sideband (R565–R571): the target's common commands, the MCTP endpoint's control commands, and the
PLDM terminus with its sensors, effecters and platform events. -/

namespace Sys2Proof.Machine

/-! I3C (R565, R566). -/

/-- A transaction on the bus: it wakes the sideband only (R536). -/
def State.onI3c (s : State) (f : State → State) : State := if s.sideUp then f (s.noteWake 6) else s
def State.setSide (s : State) (f : Sideband → Sideband) : State := { s with side := f s.side }
/-- What a reading command returns. -/
def State.i3cRead (s : State) (l : List Byte) : State := s.emit (.i3c l)
/-- The provisional ID (R565): manufacturer, a set bit, and bytes 0 to 3 of the identity digest. -/
def pidHi : BitVec 16 := Config.i3cMaker ++ (1 : BitVec 1)
def pidLo : List Byte := (digestBytes Config.idDigest).take 4
/-- ENTDAA: a target without a dynamic address gives its identity, most significant byte first, BCR and DCR, and takes one. DEDUCED, log 87. -/
def entdaa (a : BitVec 7) (s : State) : State :=
  s.onI3c (fun s => if s.side.assigned then s
    else (s.i3cRead ((leBytes 2 pidHi.toNat).reverse ++ pidLo.reverse ++ [0x06, 0x00])).setSide (fun x => { x with addr := a, assigned := true }))
/-- SETDASA: the static address 0x3A takes a dynamic one. DEDUCED, log 87. -/
def setdasa (a : BitVec 7) (s : State) : State :=
  s.onI3c (fun s => if s.side.assigned then s else s.setSide (fun x => { x with addr := a, assigned := true }))
/-- RSTDAA: the dynamic address and the EID go. -/
def rstdaa (s : State) : State := s.onI3c (fun s => s.setSide (fun x => { x with addr := 0, assigned := false, eid := 0 }))
/-- ENEC and DISEC name the events they enable or disable; bit 0 is the in-band interrupt. -/
def enec (v : Byte) (s : State) : State := s.onI3c (fun s => s.setSide (fun x => { x with ibiEn := x.ibiEn || has v 0 }))
def disec (v : Byte) (s : State) : State := s.onI3c (fun s => s.setSide (fun x => { x with ibiEn := x.ibiEn && !has v 0 }))
def getpid (s : State) : State := s.onI3c (fun s => s.i3cRead ((leBytes 2 pidHi.toNat).reverse ++ pidLo.reverse))
def getbcr (s : State) : State := s.onI3c (fun s => s.i3cRead [0x06])
def getdcr (s : State) : State := s.onI3c (fun s => s.i3cRead [0x00])
/-- GETSTATUS and GETMXDS: the spec gives neither value. -/
def getstatus (s : State) : State := s.onI3c (fun s => let r := s.draw 16; r.2.i3cRead (leBytes 2 r.1.toNat))
def getmxds (s : State) : State := s.onI3c (fun s => let r := s.draw 16; r.2.i3cRead (leBytes 2 r.1.toNat))
/-- The greatest write and read length, 68 bytes, most significant byte first. -/
def getmwl (s : State) : State := s.onI3c (fun s => s.i3cRead [0, 68])
def getmrl (s : State) : State := s.onI3c (fun s => s.i3cRead [0, 68])
/-- SETMWL and SETMRL accept 68 only, which is what stands; RSTACT never resets the part. -/
def setmwl (_ : U16) (s : State) : State := s.onI3c id
def setmrl (_ : U16) (s : State) : State := s.onI3c id
def rstact (_ : Byte) (s : State) : State := s.onI3c id
/-- IBI_RETRY: 1 ms after the controller's NACK at `at'` the interrupt is raised again. -/
def ibiRetry (at' : Nat) (s : State) : State := if s.sideUp then (s.advance (at' + 16000000)).ibi else s

/-! MCTP control (R567). -/

/-- A message addressed to the endpoint: it reaches a target that has its address. DEDUCED, log 87. -/
def State.onMctp (s : State) (f : State → State) : State := s.onI3c (fun s => if s.side.assigned then f s else s)
/-- Set Endpoint ID: 0 and 0xFF are no EIDs. -/
def setEndpointId (e : Byte) (s : State) : State :=
  s.onMctp (fun s => if e = 0 || e = 0xFF then s.mctp .invalidData []
    else (s.setSide (fun x => { x with eid := e })).mctp .success [e.toNat])
def getEndpointId (s : State) : State := s.onMctp (fun s => s.mctp .success [s.side.eid.toNat])
def getEndpointUuid (s : State) : State := s.onMctp (fun s => s.mctp .success (Config.endpointUuid.map (·.toNat)))
/-- MCTP 1.3. -/
def getMctpVersion (s : State) : State := s.onMctp (fun s => s.mctp .success [1, 3])
/-- The message types the endpoint carries. -/
def getMessageTypes (s : State) : State := s.onMctp (fun s => s.mctp .success [0x00, 0x01, 0x05, 0x06])

/-! PLDM base (R569). -/

def getTid (s : State) : State := s.onMctp (fun s => s.mctp .success [s.side.tid.toNat])
/-- SetTID: 0 and 0xFF are no TIDs. DEDUCED, log 87. -/
def setTid (t : Byte) (s : State) : State :=
  s.onMctp (fun s => if t = 0 || t = 0xFF then s.mctp .invalidData [] else (s.setSide (fun x => { x with tid := t })).mctp .success [])
def getPldmVersion (ty : Byte) (s : State) : State :=
  s.onMctp (fun s => if ty = 0 then s.mctp .success (Config.pldmBaseVersion.map (·.toNat))
    else if ty = 2 then s.mctp .success [1, 2] else s.mctp .invalidType [])
def getPldmTypes (s : State) : State := s.onMctp (fun s => s.mctp .success [0, 2])
/-- GetPLDMCommands: the commands of R569 by their standard codes. -/
def getPldmCommands (ty : Byte) (s : State) : State :=
  s.onMctp (fun s => if ty = 0 then s.mctp .success [0x01, 0x02, 0x03, 0x04, 0x05]
    else if ty = 2 then s.mctp .success [0x0B, 0x0D, 0x11, 0x21, 0x31, 0x39, 0x50, 0x51] else s.mctp .invalidType [])

/-! Sensors, effecters and their records (R569). -/

/-- What a PDR describes: a sensor or effecter, its ID, and its kind: numeric, or states of an OEM set. -/
structure Pdr where
  effecter : Bool
  id : Nat
  set : Option Nat              -- the OEM state set; none for numeric
  deriving DecidableEq, Repr

/-- The repository, in the order of R569's tables; sensors 7 and 8 exist only on an XH5128L. -/
def pdrs (v : Variant) : List Pdr :=
  let num (i : Nat) : Pdr := { effecter := false, id := i, set := none }
  let st (i k : Nat) : Pdr := { effecter := false, id := i, set := some k }
  let eff (i : Nat) (k : Option Nat) : Pdr := { effecter := true, id := i, set := k }
  [num 1, num 2, num 3, num 4, num 5, num 6] ++ (if v = .xh5128l then [num 7, num 8] else [])
    ++ [num 10, num 11, num 12, st 20 0x8003, st 21 0x8004, st 22 0x8005, num 23, st 30 0x8002]
    ++ [eff 1 (some 0x8001), eff 2 none, eff 3 none, eff 4 (some 0x8001)]
/-- GetPDR: record 0 is the first, and the answer names the record after it, 0 at the end. PRESUMED, log 86. -/
def getPdr (h : U32) (s : State) : State :=
  s.onMctp (fun s =>
    let l := pdrs s.pkg.variant
    match l[h.toNat]? with
    | none => s.mctp .invalidHandle []
    | some r =>
      let next := if h.toNat + 1 < l.length then h.toNat + 1 else 0
      s.mctp .success [next, if r.effecter then 1 else 0, r.id, r.set.getD 0])
def getPdrRepositoryInfo (s : State) : State := s.onMctp (fun s => s.mctp .success [(pdrs s.pkg.variant).length])
/-- A numeric sensor's reading. -/
def State.numSensor (s : State) (id : Nat) : Option Nat :=
  if !(pdrs s.pkg.variant).any (fun r => !r.effecter && r.id = id && r.set.isNone) then none
  else if id ≤ 8 then some (s.therm (id - 1)).tmax.toNat
  else if id = 10 then some s.rsv.vbank
  else if id = 11 then some s.rsv.vmain
  else if id = 12 then some s.rsv.rideMs
  else some s.yard.active.epoch
def getSensorReading (id : U16) (s : State) : State :=
  s.onMctp (fun s => match s.numSensor id.toNat with
    | none => s.mctp .invalidSensor []
    | some v => s.mctp .success [v])
def getStateSensorReadings (id : U16) (s : State) : State :=
  s.onMctp (fun s => match s.stateSensor id.toNat with
    | none => s.mctp .invalidSensor []
    | some v => s.mctp .success [v])

/-! Platform events (R571). -/

def PlatEvent.values : PlatEvent → List Nat
  | .state i v => [i, v]
  | .cross i l up => [i, l, if up then 1 else 0]
/-- POLL_FOR_PLATFORM_EVENT: the oldest event is delivered, and with it whether events were lost. -/
def pollForPlatformEvent (s : State) : State :=
  s.onMctp (fun s => match s.side.events with
    | [] => s.mctp .success []
    | e :: l =>
      let lost := if s.side.eventLost then 1 else 0
      (s.setSide (fun x => { x with events := l, eventLost := false })).mctp .success (e.values ++ [lost]))
/-- EventMessageBufferSize: the size the part answers is not stated. -/
def eventMessageBufferSize (_ : U16) (s : State) : State :=
  s.onMctp (fun s => let r := s.draw 16; r.2.mctp .success [r.1.toNat])

/-! Effecters (R569, R570). -/

/-- In the error state PLDM refuses what the console would (R563, R570). -/
def State.pldmAct (s : State) (always : Bool) (f : State → State) : State :=
  s.onMctp (fun s => if s.prot.error && !always then s.mctp .notReady [] else f s)
/-- PLDM_ENROL_CONFIRM: bytes 0 to 3 of the pending key digest. -/
def pldmEnrolConfirm (v : U32) (s : State) : State :=
  s.pldmAct false (fun s => match s.enrolDigest? with
    | none => s.mctp .notReady []
    | some d => if leNat (d.take 4) ≠ v.toNat then s.mctp .invalidData [] else s.confirmEnrol.2.mctp .success [])
/-- PLDM_DECOM_CONFIRM: bytes 0 to 3 of the pending NONCE. -/
def pldmDecomConfirm (v : U32) (s : State) : State :=
  s.pldmAct false (fun s => match s.decomNonce? with
    | none => s.mctp .notReady []
    | some d =>
      if leNat (d.take 4) ≠ v.toNat then s.mctp .invalidData []
      else
        let r := s.confirmDecom
        r.2.mctp (if r.1 then .success else .notReady) [])
def pldmResetWarm (s : State) : State :=
  s.pldmAct false (fun s => if !s.prot.approved || s.warmBad.isSome then s.mctp .notReady [] else s.requestWarm .pldm)
def pldmResetCold (s : State) : State := s.pldmAct true (fun s => s.requestCold .pldm 4)
def pldmSelftest (s : State) : State := s.pldmAct false (fun s => s.startSelftest [.pldm])
/-- PLDM_ZEROISE: at the request, with no second step. -/
def pldmZeroise (s : State) : State :=
  s.pldmAct true (fun s => if s.prot.zeroised then s.mctp .success []
    else { s with prot := { s.prot with zeroiseReq := s.prot.zeroiseReq ++ [Waiter.pldm] } }.zeroise)

/-! Module signals (R578, R581, R582). -/

/-- RSV_OK is high while the reserve is ARMED or DEGRADED. -/
def State.rsvOk (s : State) : Bool := s.rsv.st = .armed || s.rsv.st = .degraded
/-- ALERT# is asserted. Before boot phase 2 ends only the error state asserts it. -/
def State.alert (s : State) : Bool :=
  s.prot.error || (decide (2 < s.power.phase) && (s.power.thermStop || s.rsv.st = .fault || s.side.mu.lineFault || !s.side.events.isEmpty))
/-- THERMTRIP# is asserted. -/
def State.thermTripPin (s : State) : Bool := s.power.thermTrip
/-- Does a function's MSI-X hold a vector that has fired with its entry unmasked. -/
def Msix.waits (m : Msix) : Bool := (List.range 64).any (fun v => has m.pba v && !(m.table.get MsixEntry.init v).masked)
/-- Is a message pending for a function presented on this port (R582). -/
def State.portMsg (s : State) (p : Nat) : Bool :=
  let f := s.pf p
  (f.cause &&& f.causeEn) ≠ 0 || f.msix.waits
  || (List.range 128).any (fun n => s.vfSeen n p && (((s.vf p n).cause &&& (s.vf p n).causeEn) ≠ 0 || (s.vf p n).msix.waits))
/-- WAKE# is asserted: from the end of boot phase 6, while a message waits on a port whose link is down. -/
def State.wakePin (s : State) : Bool :=
  decide (6 < s.power.phase) && allPorts.any (fun (p : HostPort) =>
    s.portFitted p && !(s.port p).linkUp && !has s.pkg.deadIodie p && s.portMsg p)

def execEntdaa (a : BitVec 7) (s : State) : Host.Outcome State Fault Refusal := .next (entdaa a s)
def execSetdasa (a : BitVec 7) (s : State) : Host.Outcome State Fault Refusal := .next (setdasa a s)
def execRstdaa (s : State) : Host.Outcome State Fault Refusal := .next (rstdaa s)
def execEnec (v : Byte) (s : State) : Host.Outcome State Fault Refusal := .next (enec v s)
def execDisec (v : Byte) (s : State) : Host.Outcome State Fault Refusal := .next (disec v s)
def execGetpid (s : State) : Host.Outcome State Fault Refusal := .next (getpid s)
def execGetbcr (s : State) : Host.Outcome State Fault Refusal := .next (getbcr s)
def execGetdcr (s : State) : Host.Outcome State Fault Refusal := .next (getdcr s)
def execGetstatus (s : State) : Host.Outcome State Fault Refusal := .next (getstatus s)
def execGetmwl (s : State) : Host.Outcome State Fault Refusal := .next (getmwl s)
def execGetmrl (s : State) : Host.Outcome State Fault Refusal := .next (getmrl s)
def execSetmwl (v : U16) (s : State) : Host.Outcome State Fault Refusal := .next (setmwl v s)
def execSetmrl (v : U16) (s : State) : Host.Outcome State Fault Refusal := .next (setmrl v s)
def execGetmxds (s : State) : Host.Outcome State Fault Refusal := .next (getmxds s)
def execRstact (v : Byte) (s : State) : Host.Outcome State Fault Refusal := .next (rstact v s)
def execIbiRetry (at' : Nat) (s : State) : Host.Outcome State Fault Refusal := .next (ibiRetry at' s)
def execSetEndpointId (e : Byte) (s : State) : Host.Outcome State Fault Refusal := .next (setEndpointId e s)
def execGetEndpointId (s : State) : Host.Outcome State Fault Refusal := .next (getEndpointId s)
def execGetEndpointUuid (s : State) : Host.Outcome State Fault Refusal := .next (getEndpointUuid s)
def execGetMctpVersionSupport (s : State) : Host.Outcome State Fault Refusal := .next (getMctpVersion s)
def execGetMessageTypeSupport (s : State) : Host.Outcome State Fault Refusal := .next (getMessageTypes s)
def execGetTid (s : State) : Host.Outcome State Fault Refusal := .next (getTid s)
def execSetTid (t : Byte) (s : State) : Host.Outcome State Fault Refusal := .next (setTid t s)
def execGetPldmVersion (ty : Byte) (s : State) : Host.Outcome State Fault Refusal := .next (getPldmVersion ty s)
def execGetPldmTypes (s : State) : Host.Outcome State Fault Refusal := .next (getPldmTypes s)
def execGetPldmCommands (ty : Byte) (s : State) : Host.Outcome State Fault Refusal := .next (getPldmCommands ty s)
def execGetPdr (h : U32) (s : State) : Host.Outcome State Fault Refusal := .next (getPdr h s)
def execGetPdrRepositoryInfo (s : State) : Host.Outcome State Fault Refusal := .next (getPdrRepositoryInfo s)
def execGetSensorReading (id : U16) (s : State) : Host.Outcome State Fault Refusal := .next (getSensorReading id s)
def execGetStateSensorReadings (id : U16) (s : State) : Host.Outcome State Fault Refusal := .next (getStateSensorReadings id s)
def execPollForPlatformEvent (s : State) : Host.Outcome State Fault Refusal := .next (pollForPlatformEvent s)
def execEventMessageBufferSize (n : U16) (s : State) : Host.Outcome State Fault Refusal := .next (eventMessageBufferSize n s)
def execPldmEnrolConfirm (v : U32) (s : State) : Host.Outcome State Fault Refusal := .next (pldmEnrolConfirm v s)
def execPldmDecomConfirm (v : U32) (s : State) : Host.Outcome State Fault Refusal := .next (pldmDecomConfirm v s)
def execPldmResetWarm (s : State) : Host.Outcome State Fault Refusal := .next (pldmResetWarm s)
def execPldmResetCold (s : State) : Host.Outcome State Fault Refusal := .next (pldmResetCold s)
def execPldmSelftest (s : State) : Host.Outcome State Fault Refusal := .next (pldmSelftest s)
def execPldmZeroise (s : State) : Host.Outcome State Fault Refusal := .next (pldmZeroise s)

end Sys2Proof.Machine
end

