-- ==== Sys2Proof/Machine/Dispatch.lean ====
section
/-! DEFINITION. The effect of each command, one arm per constructor. -/

namespace Sys2Proof.Machine

def exec (i : Instr) (s : State) : Host.Outcome State Fault Refusal :=
  match i with
  | .refClockLost => Sys2Proof.Machine.execRefClockLost s
  | .refClockSwitchBack => Sys2Proof.Machine.execRefClockSwitchBack s
  | .gridTick refGood => Sys2Proof.Machine.execGridTick refGood s
  | .regulationWindowStart temps => Sys2Proof.Machine.execRegulationWindowStart temps s
  | .gtbNowLoRead f => Sys2Proof.Machine.execGtbNowLoRead f s
  | .gtbTrimWrite v => Sys2Proof.Machine.execGtbTrimWrite v s
  | .servoAutoWrite v => Sys2Proof.Machine.execServoAutoWrite v s
  | .timeAlignment => Sys2Proof.Machine.execTimeAlignment s
  | .gateCmpLoWrite t v => Sys2Proof.Machine.execGateCmpLoWrite t v s
  | .gateCmpHiWrite t hi lo => Sys2Proof.Machine.execGateCmpHiWrite t hi lo s
  | .gatePrerollWrite sn g v => Sys2Proof.Machine.execGatePrerollWrite sn g v s
  | .gateCtlArm sn g => Sys2Proof.Machine.execGateCtlArm sn g s
  | .gateCtlDisarm sn g => Sys2Proof.Machine.execGateCtlDisarm sn g s
  | .gateCtlDisarmArm sn g => Sys2Proof.Machine.execGateCtlDisarmArm sn g s
  | .gateWriteTakesEffect g => Sys2Proof.Machine.execGateWriteTakesEffect g s
  | .gateWaking g => Sys2Proof.Machine.execGateWaking g s
  | .gateFire g => Sys2Proof.Machine.execGateFire g s
  | .gateHoldEnd g => Sys2Proof.Machine.execGateHoldEnd g s
  | .tickChannelArm byRtp n => Sys2Proof.Machine.execTickChannelArm byRtp n s
  | .tickChannelFireCatchup n => Sys2Proof.Machine.execTickChannelFireCatchup n s
  | .tickChannelFireLive n => Sys2Proof.Machine.execTickChannelFireLive n s
  | .syncInEdgeAccepted n rising reached => Sys2Proof.Machine.execSyncInEdgeAccepted n rising reached s
  | .capLoRead f n which => Sys2Proof.Machine.execCapLoRead f n which s
  | .syncInStuck n => Sys2Proof.Machine.execSyncInStuck n s
  | .capStuckClear n hi lo => Sys2Proof.Machine.execCapStuckClear n hi lo s
  | .relayTimerWrap n => Sys2Proof.Machine.execRelayTimerWrap n s
  | .relayTimerMatch n => Sys2Proof.Machine.execRelayTimerMatch n s
  | .relayTimerReset n => Sys2Proof.Machine.execRelayTimerReset n s
  | .rtTrigWrite n v => Sys2Proof.Machine.execRtTrigWrite n v s
  | .syncOutPulseEnd n => Sys2Proof.Machine.execSyncOutPulseEnd n s
  | .version m => Sys2Proof.Machine.execVersion m s
  | .resultQuery m => Sys2Proof.Machine.execResultQuery m s
  | .planSubmit m => Sys2Proof.Machine.execPlanSubmit m s
  | .planValidated => Sys2Proof.Machine.execPlanValidated s
  | .planCommit => Sys2Proof.Machine.execPlanCommit s
  | .planStoreDone => Sys2Proof.Machine.execPlanStoreDone s
  | .planCancel m => Sys2Proof.Machine.execPlanCancel m s
  | .changeForce m => Sys2Proof.Machine.execChangeForce m s
  | .changeReport m => Sys2Proof.Machine.execChangeReport m s
  | .enrol m => Sys2Proof.Machine.execEnrol m s
  | .enrolWindowExpiry => Sys2Proof.Machine.execEnrolWindowExpiry s
  | .rotate m => Sys2Proof.Machine.execRotate m s
  | .mirrorPrepareDone => Sys2Proof.Machine.execMirrorPrepareDone s
  | .changePhaseTick => Sys2Proof.Machine.execChangePhaseTick s
  | .stallPaused sn => Sys2Proof.Machine.execStallPaused sn s
  | .changeHold sn => Sys2Proof.Machine.execChangeHold sn s
  | .holdActionExpiry => Sys2Proof.Machine.execHoldActionExpiry s
  | .changeGrantTick => Sys2Proof.Machine.execChangeGrantTick s
  | .manifestReq m => Sys2Proof.Machine.execManifestReq m s
  | .ctxKill m => Sys2Proof.Machine.execCtxKill m s
  | .ctxKillDone c => Sys2Proof.Machine.execCtxKillDone c s
  | .stallReset m => Sys2Proof.Machine.execStallReset m s
  | .hostPortLoss p why => Sys2Proof.Machine.execHostPortLoss p why s
  | .hostPortLinkUp p => Sys2Proof.Machine.execHostPortLinkUp p s
  | .flr f => Sys2Proof.Machine.execFlr f s
  | .sriovConfigWrite p enable num => Sys2Proof.Machine.execSriovConfigWrite p enable num s
  | .causeEnableWrite f v => Sys2Proof.Machine.execCauseEnableWrite f v s
  | .bar2Read p sn ofs bytes => Sys2Proof.Machine.execBar2Read p sn ofs bytes s
  | .bar2Write p sn ofs data => Sys2Proof.Machine.execBar2Write p sn ofs data s
  | .ideTlpCheckFail p stream => Sys2Proof.Machine.execIdeTlpCheckFail p stream s
  | .queueCreate m => Sys2Proof.Machine.execQueueCreate m s
  | .queueDestroy m => Sys2Proof.Machine.execQueueDestroy m s
  | .doorbell p q tail => Sys2Proof.Machine.execDoorbell p q tail s
  | .acceptancePublish q => Sys2Proof.Machine.execAcceptancePublish q s
  | .consumedWrite q v => Sys2Proof.Machine.execConsumedWrite q v s
  | .qdbAsnLoRead p q => Sys2Proof.Machine.execQdbAsnLoRead p q s
  | .nop q => Sys2Proof.Machine.execNop q s
  | .launch q => Sys2Proof.Machine.execLaunch q s
  | .launchIndirect q => Sys2Proof.Machine.execLaunchIndirect q s
  | .safeHint q => Sys2Proof.Machine.execSafeHint q s
  | .waitAt q => Sys2Proof.Machine.execWaitAt q s
  | .waitAtPass q pos => Sys2Proof.Machine.execWaitAtPass q pos s
  | .waitGate q => Sys2Proof.Machine.execWaitGate q s
  | .gateArm q => Sys2Proof.Machine.execGateArm q s
  | .gateDisarm q => Sys2Proof.Machine.execGateDisarm q s
  | .timestamp q => Sys2Proof.Machine.execTimestamp q s
  | .semSignal q => Sys2Proof.Machine.execSemSignal q s
  | .semWait q => Sys2Proof.Machine.execSemWait q s
  | .semWaitTimeout q pos => Sys2Proof.Machine.execSemWaitTimeout q pos s
  | .waitQueue q => Sys2Proof.Machine.execWaitQueue q s
  | .waitQueueTimeout q pos => Sys2Proof.Machine.execWaitQueueTimeout q pos s
  | .fence q => Sys2Proof.Machine.execFence q s
  | .receipt q => Sys2Proof.Machine.execReceipt q s
  | .copy q => Sys2Proof.Machine.execCopy q s
  | .copyStrided q => Sys2Proof.Machine.execCopyStrided q s
  | .fill q => Sys2Proof.Machine.execFill q s
  | .sealedLoad q => Sys2Proof.Machine.execSealedLoad q s
  | .remoteWrite q => Sys2Proof.Machine.execRemoteWrite q s
  | .remoteRead q => Sys2Proof.Machine.execRemoteRead q s
  | .collective q => Sys2Proof.Machine.execCollective q s
  | .collectiveLaunch q pos => Sys2Proof.Machine.execCollectiveLaunch q pos s
  | .collectiveTimeout q pos => Sys2Proof.Machine.execCollectiveTimeout q pos s
  | .commandEnd q pos => Sys2Proof.Machine.execCommandEnd q pos s
  | .completionVisible q => Sys2Proof.Machine.execCompletionVisible q s
  | .srndSeed m => Sys2Proof.Machine.execSrndSeed m s
  | .ctxCreate m => Sys2Proof.Machine.execCtxCreate m s
  | .ctxDestroy m => Sys2Proof.Machine.execCtxDestroy m s
  | .xlatInval m => Sys2Proof.Machine.execXlatInval m s
  | .memStats m => Sys2Proof.Machine.execMemStats m s
  | .taskPlace sn => Sys2Proof.Machine.execTaskPlace sn s
  | .taskEnd c writes how => Sys2Proof.Machine.execTaskEnd c writes how s
  | .taskSafePointStop c pc core ranges => Sys2Proof.Machine.execTaskSafePointStop c pc core ranges s
  | .contextStopped c => Sys2Proof.Machine.execContextStopped c s
  | .preemptLimitExpiry c => Sys2Proof.Machine.execPreemptLimitExpiry c s
  | .ctxSliceExpiry sn => Sys2Proof.Machine.execCtxSliceExpiry sn s
  | .rotSliceExpiry sn => Sys2Proof.Machine.execRotSliceExpiry sn s
  | .tenantResident sn => Sys2Proof.Machine.execTenantResident sn s
  | .schedSet m => Sys2Proof.Machine.execSchedSet m s
  | .schedStat m => Sys2Proof.Machine.execSchedStat m s
  | .memClear m => Sys2Proof.Machine.execMemClear m s
  | .memClearDone sn => Sys2Proof.Machine.execMemClearDone sn s
  | .drvConfig m => Sys2Proof.Machine.execDrvConfig m s
  | .drvOutring m => Sys2Proof.Machine.execDrvOutring m s
  | .drvLoad m => Sys2Proof.Machine.execDrvLoad m s
  | .drvLoadDone sn slot => Sys2Proof.Machine.execDrvLoadDone sn slot s
  | .drvUnload m => Sys2Proof.Machine.execDrvUnload m s
  | .drvStat m => Sys2Proof.Machine.execDrvStat m s
  | .drvLend m => Sys2Proof.Machine.execDrvLend m s
  | .drvBorrow m => Sys2Proof.Machine.execDrvBorrow m s
  | .drvSubmit q => Sys2Proof.Machine.execDrvSubmit q s
  | .drvCancel q => Sys2Proof.Machine.execDrvCancel q s
  | .drvRelease q => Sys2Proof.Machine.execDrvRelease q s
  | .droverStep sn => Sys2Proof.Machine.execDroverStep sn s
  | .droverStepEnd sn writes farBad => Sys2Proof.Machine.execDroverStepEnd sn writes farBad s
  | .requestIssue n k size drains link => Sys2Proof.Machine.execRequestIssue n k size drains link s
  | .requestComplete n k id => Sys2Proof.Machine.execRequestComplete n k id s
  | .urgencyAssert host p => Sys2Proof.Machine.execUrgencyAssert host p s
  | .urgencyWithdraw host p => Sys2Proof.Machine.execUrgencyWithdraw host p s
  | .rgUrgWrite host v => Sys2Proof.Machine.execRgUrgWrite host v s
  | .rgDutyWrite n k v => Sys2Proof.Machine.execRgDutyWrite n k v s
  | .dutyGateChange n k => Sys2Proof.Machine.execDutyGateChange n k s
  | .dlvCounterRead f n o => Sys2Proof.Machine.execDlvCounterRead f n o s
  | .yardJobStart => Sys2Proof.Machine.execYardJobStart s
  | .tlPCtlWrite p v => Sys2Proof.Machine.execTlPCtlWrite p v s
  | .retrain p => Sys2Proof.Machine.execRetrain p s
  | .tlPAsymWrite p v => Sys2Proof.Machine.execTlPAsymWrite p v s
  | .portPeerDetect p peer => Sys2Proof.Machine.execPortPeerDetect p peer s
  | .portTrained p => Sys2Proof.Machine.execPortTrained p s
  | .portStepTimeout p => Sys2Proof.Machine.execPortStepTimeout p s
  | .keyxHello p rnd pub chain => Sys2Proof.Machine.execKeyxHello p rnd pub chain s
  | .keyxFinish p sig => Sys2Proof.Machine.execKeyxFinish p sig s
  | .rekeyStart p => Sys2Proof.Machine.execRekeyStart p s
  | .keyxSwitch p last => Sys2Proof.Machine.execKeyxSwitch p last s
  | .rekeyDeadline p => Sys2Proof.Machine.execRekeyDeadline p s
  | .linkFrameReceived p n check credits flits strange => Sys2Proof.Machine.execLinkFrameReceived p n check credits flits strange s
  | .linkAck p n => Sys2Proof.Machine.execLinkAck p n s
  | .linkNak p n => Sys2Proof.Machine.execLinkNak p n s
  | .wake p => Sys2Proof.Machine.execWake p s
  | .tkReq p m => Sys2Proof.Machine.execTkReq p m s
  | .tkGrant p m => Sys2Proof.Machine.execTkGrant p m s
  | .tkDeny p m => Sys2Proof.Machine.execTkDeny p m s
  | .tkDone p m => Sys2Proof.Machine.execTkDone p m s
  | .wr p m => Sys2Proof.Machine.execWr p m s
  | .wrAck p m => Sys2Proof.Machine.execWrAck p m s
  | .rd p m => Sys2Proof.Machine.execRd p m s
  | .rdData p m => Sys2Proof.Machine.execRdData p m s
  | .coll p m => Sys2Proof.Machine.execColl p m s
  | .collReady p m => Sys2Proof.Machine.execCollReady p m s
  | .mgmt p m body => Sys2Proof.Machine.execMgmt p m body s
  | .timeSend stamps => Sys2Proof.Machine.execTimeSend stamps s
  | .time p m => Sys2Proof.Machine.execTime p m s
  | .masterAdvertExpiry p => Sys2Proof.Machine.execMasterAdvertExpiry p s
  | .remoteExport m => Sys2Proof.Machine.execRemoteExport m s
  | .groupSet m => Sys2Proof.Machine.execGroupSet m s
  | .groupClear m => Sys2Proof.Machine.execGroupClear m s
  | .ueEccEvent p a => Sys2Proof.Machine.execUeEccEvent p a s
  | .groomBayCleared bay => Sys2Proof.Machine.execGroomBayCleared bay s
  | .slotClean slot => Sys2Proof.Machine.execSlotClean slot s
  | .secChallenge m => Sys2Proof.Machine.execSecChallenge m s
  | .debugUnlock m tap => Sys2Proof.Machine.execDebugUnlock m tap s
  | .debugLock m => Sys2Proof.Machine.execDebugLock m s
  | .debugSessionExpiry => Sys2Proof.Machine.execDebugSessionExpiry s
  | .tapBypass => Sys2Proof.Machine.execTapBypass s
  | .tapIdcode => Sys2Proof.Machine.execTapIdcode s
  | .tapSamplePreload => Sys2Proof.Machine.execTapSamplePreload s
  | .tapHighz => Sys2Proof.Machine.execTapHighz s
  | .tapClamp => Sys2Proof.Machine.execTapClamp s
  | .tapExtest => Sys2Proof.Machine.execTapExtest s
  | .tapScan => Sys2Proof.Machine.execTapScan s
  | .selftest m => Sys2Proof.Machine.execSelftest m s
  | .periodicSelftest => Sys2Proof.Machine.execPeriodicSelftest s
  | .cryptoInstanceFailure u cause alg inst => Sys2Proof.Machine.execCryptoInstanceFailure u cause alg inst s
  | .zeroise m => Sys2Proof.Machine.execZeroise m s
  | .decommission m => Sys2Proof.Machine.execDecommission m s
  | .decommissionConfirmExpiry => Sys2Proof.Machine.execDecommissionConfirmExpiry s
  | .ledgerQuery m => Sys2Proof.Machine.execLedgerQuery m s
  | .attestReport m => Sys2Proof.Machine.execAttestReport m s
  | .attestLog m => Sys2Proof.Machine.execAttestLog m s
  | .measureImage m => Sys2Proof.Machine.execMeasureImage m s
  | .sealKeygen id m => Sys2Proof.Machine.execSealKeygen id m s
  | .sealInstall id m => Sys2Proof.Machine.execSealInstall id m s
  | .sealDrop id m => Sys2Proof.Machine.execSealDrop id m s
  | .queueRebind id m => Sys2Proof.Machine.execQueueRebind id m s
  | .getVersion via => Sys2Proof.Machine.execGetVersion via s
  | .getCapabilities via => Sys2Proof.Machine.execGetCapabilities via s
  | .negotiateAlgorithms via => Sys2Proof.Machine.execNegotiateAlgorithms via s
  | .getDigests via => Sys2Proof.Machine.execGetDigests via s
  | .getCertificate via slot ofs len => Sys2Proof.Machine.execGetCertificate via slot ofs len s
  | .challenge via slot => Sys2Proof.Machine.execChallenge via slot s
  | .getMeasurements via index nonce => Sys2Proof.Machine.execGetMeasurements via index nonce s
  | .keyExchange via id peer => Sys2Proof.Machine.execKeyExchange via id peer s
  | .finish id leaf good => Sys2Proof.Machine.execFinish id leaf good s
  | .heartbeat id => Sys2Proof.Machine.execHeartbeat id s
  | .heartbeatMissed id => Sys2Proof.Machine.execHeartbeatMissed id s
  | .keyUpdate id => Sys2Proof.Machine.execKeyUpdate id s
  | .endSession id => Sys2Proof.Machine.execEndSession id s
  | .chunkGet via => Sys2Proof.Machine.execChunkGet via s
  | .vendorDefinedRequest id op tag payload => Sys2Proof.Machine.execVendorDefinedRequest id op tag payload s
  | .componentFault c retire lines hit => Sys2Proof.Machine.execComponentFault c retire lines hit s
  | .journalRebuildDone sn => Sys2Proof.Machine.execJournalRebuildDone sn s
  | .recoveryComplete => Sys2Proof.Machine.execRecoveryComplete s
  | .accEvents m => Sys2Proof.Machine.execAccEvents m s
  | .accRecords m => Sys2Proof.Machine.execAccRecords m s
  | .orphanClear m => Sys2Proof.Machine.execOrphanClear m s
  | .mainPowerLost vbank vmain => Sys2Proof.Machine.execMainPowerLost vbank vmain s
  | .mainPowerReturn vbank vmain => Sys2Proof.Machine.execMainPowerReturn vbank vmain s
  | .flushStart => Sys2Proof.Machine.execFlushStart s
  | .flushDone => Sys2Proof.Machine.execFlushDone s
  | .flushAbort => Sys2Proof.Machine.execFlushAbort s
  | .bankDead => Sys2Proof.Machine.execBankDead s
  | .bankAcceptReached => Sys2Proof.Machine.execBankAcceptReached s
  | .imageSlotEraseDone => Sys2Proof.Machine.execImageSlotEraseDone s
  | .healthTestStart => Sys2Proof.Machine.execHealthTestStart s
  | .testStart => Sys2Proof.Machine.execTestStart s
  | .healthTestDone cap esr complete => Sys2Proof.Machine.execHealthTestDone cap esr complete s
  | .unguardedWrite v => Sys2Proof.Machine.execUnguardedWrite v s
  | .clusterIdleScatter c => Sys2Proof.Machine.execClusterIdleScatter c s
  | .clusterIdleClear c => Sys2Proof.Machine.execClusterIdleClear c s
  | .clusterWakeDone c => Sys2Proof.Machine.execClusterWakeDone c s
  | .pkgClearEntry l1 => Sys2Proof.Machine.execPkgClearEntry l1 s
  | .pkgClearEntered l1 => Sys2Proof.Machine.execPkgClearEntered l1 s
  | .pkgWake src needsCluster => Sys2Proof.Machine.execPkgWake src needsCluster s
  | .pkgWakePhaseDone => Sys2Proof.Machine.execPkgWakePhaseDone s
  | .pwrCtlWrite v => Sys2Proof.Machine.execPwrCtlWrite v s
  | .thermalTrip => Sys2Proof.Machine.execThermalTrip s
  | .pkgResetWarm m => Sys2Proof.Machine.execPkgResetWarm m s
  | .warmResetDone => Sys2Proof.Machine.execWarmResetDone s
  | .pkgResetCold m => Sys2Proof.Machine.execPkgResetCold m s
  | .coldResetRelease => Sys2Proof.Machine.execColdResetRelease s
  | .bootPhaseDone failed badRtp cause alg inst => Sys2Proof.Machine.execBootPhaseDone failed badRtp cause alg inst s
  | .muartCharReceived c framing parity => Sys2Proof.Machine.execMuartCharReceived c framing parity s
  | .muartCharSent collided => Sys2Proof.Machine.execMuartCharSent collided s
  | .muartRetry => Sys2Proof.Machine.execMuartRetry s
  | .muConfigApply => Sys2Proof.Machine.execMuConfigApply s
  | .muartSleep => Sys2Proof.Machine.execMuartSleep s
  | .muartWake => Sys2Proof.Machine.execMuartWake s
  | .break => Sys2Proof.Machine.execBreak s
  | .lineFault => Sys2Proof.Machine.execLineFault s
  | .lineFaultClear => Sys2Proof.Machine.execLineFaultClear s
  | .consoleStatus => Sys2Proof.Machine.execConsoleStatus s
  | .consoleTime => Sys2Proof.Machine.execConsoleTime s
  | .confirmEnrol => Sys2Proof.Machine.execConfirmEnrol s
  | .confirmDecom => Sys2Proof.Machine.execConfirmDecom s
  | .consoleSelftest => Sys2Proof.Machine.execConsoleSelftest s
  | .consoleZeroise => Sys2Proof.Machine.execConsoleZeroise s
  | .consoleZeroiseAbandoned => Sys2Proof.Machine.execConsoleZeroiseAbandoned s
  | .resetWarm => Sys2Proof.Machine.execResetWarm s
  | .resetCold => Sys2Proof.Machine.execResetCold s
  | .consoleLine => Sys2Proof.Machine.execConsoleLine s
  | .entdaa a => Sys2Proof.Machine.execEntdaa a s
  | .setdasa a => Sys2Proof.Machine.execSetdasa a s
  | .rstdaa => Sys2Proof.Machine.execRstdaa s
  | .enec v => Sys2Proof.Machine.execEnec v s
  | .disec v => Sys2Proof.Machine.execDisec v s
  | .getpid => Sys2Proof.Machine.execGetpid s
  | .getbcr => Sys2Proof.Machine.execGetbcr s
  | .getdcr => Sys2Proof.Machine.execGetdcr s
  | .getstatus => Sys2Proof.Machine.execGetstatus s
  | .getmwl => Sys2Proof.Machine.execGetmwl s
  | .getmrl => Sys2Proof.Machine.execGetmrl s
  | .setmwl v => Sys2Proof.Machine.execSetmwl v s
  | .setmrl v => Sys2Proof.Machine.execSetmrl v s
  | .getmxds => Sys2Proof.Machine.execGetmxds s
  | .rstact v => Sys2Proof.Machine.execRstact v s
  | .ibiRetry at' => Sys2Proof.Machine.execIbiRetry at' s
  | .setEndpointId e => Sys2Proof.Machine.execSetEndpointId e s
  | .getEndpointId => Sys2Proof.Machine.execGetEndpointId s
  | .getEndpointUuid => Sys2Proof.Machine.execGetEndpointUuid s
  | .getMctpVersionSupport => Sys2Proof.Machine.execGetMctpVersionSupport s
  | .getMessageTypeSupport => Sys2Proof.Machine.execGetMessageTypeSupport s
  | .getTid => Sys2Proof.Machine.execGetTid s
  | .setTid t => Sys2Proof.Machine.execSetTid t s
  | .getPldmVersion ty => Sys2Proof.Machine.execGetPldmVersion ty s
  | .getPldmTypes => Sys2Proof.Machine.execGetPldmTypes s
  | .getPldmCommands ty => Sys2Proof.Machine.execGetPldmCommands ty s
  | .getPdr h => Sys2Proof.Machine.execGetPdr h s
  | .getPdrRepositoryInfo => Sys2Proof.Machine.execGetPdrRepositoryInfo s
  | .getSensorReading id => Sys2Proof.Machine.execGetSensorReading id s
  | .getStateSensorReadings id => Sys2Proof.Machine.execGetStateSensorReadings id s
  | .pollForPlatformEvent => Sys2Proof.Machine.execPollForPlatformEvent s
  | .eventMessageBufferSize n => Sys2Proof.Machine.execEventMessageBufferSize n s
  | .pldmEnrolConfirm v => Sys2Proof.Machine.execPldmEnrolConfirm v s
  | .pldmDecomConfirm v => Sys2Proof.Machine.execPldmDecomConfirm v s
  | .pldmResetWarm => Sys2Proof.Machine.execPldmResetWarm s
  | .pldmResetCold => Sys2Proof.Machine.execPldmResetCold s
  | .pldmSelftest => Sys2Proof.Machine.execPldmSelftest s
  | .pldmZeroise => Sys2Proof.Machine.execPldmZeroise s
  | .registerWrite f r v => Sys2Proof.Machine.execRegisterWrite f r v s
  | .readToClear f wide ofs => Sys2Proof.Machine.execReadToClear f wide ofs s
  | .semWaitPass q pos => Sys2Proof.Machine.execSemWaitPass q pos s
  | .gtbCoarseEnd => Sys2Proof.Machine.execGtbCoarseEnd s
  | .laneLockLost p => Sys2Proof.Machine.execLaneLockLost p s
  | .portLowpowerExit p => Sys2Proof.Machine.execPortLowpowerExit p s
  | .selftestRunDone pass => Sys2Proof.Machine.execSelftestRunDone pass s
  | .measureImageDone n => Sys2Proof.Machine.execMeasureImageDone n s
  | .stallResetDone n => Sys2Proof.Machine.execStallResetDone n s
  | .xlatInvalDone sn => Sys2Proof.Machine.execXlatInvalDone sn s
  | .debugHalt n clusters => Sys2Proof.Machine.execDebugHalt n clusters s
  | .debugResume n => Sys2Proof.Machine.execDebugResume n s
  | .ideKmRequest p stream op session => Sys2Proof.Machine.execIdeKmRequest p stream op session s

end Sys2Proof.Machine
end

