-- ==== Sys2Proof/Machine/Step.lean ====
section
/-! DEFINITION. One step of the block: the command at the front of the queue, or a tick of the GTB. -/

namespace Sys2Proof.Machine

/-- The command at the front of the queue runs on the queue's rest. With no command waiting the GTB goes on by one step,
and the relay timers count with it (R46, R70). DESIGN CHOICE: the opcode table has no row for it. DESIGN CHOICE, log 1. DESIGN CHOICE, log 2. -/
def step (s : State) : Host.Outcome State Fault Refusal :=
  match s.pending with
  | [] => .next s.stepOn
  | c :: rest => exec c { s with pending := rest }

/-- The state with the command a word spells in front of its queue. DESIGN CHOICE, log 3. -/
def State.withFetchWord (s : State) (nbits w : Nat) : State :=
  match decodeTableWord nbits w with
  | none => s
  | some c => { s with pending := c :: s.pending }

end Sys2Proof.Machine
end

