-- ==== Sys2Proof/Safety.lean ====
section
/-! DEFINITION. What claims are stated in: the parts of the state and what it is to change only some of them, and the
promises every command keeps. -/

namespace Sys2Proof.Machine

/-- The parts of the state, as claims about what a command leaves alone name them. -/
inductive Part where
  | pkg | gtb | gates | ticks | caps | timers | outs | matrix | marks | yard | pf | vf | rtpLat | ports | unreach | history
  | out | hostMem | clusters | stalls | hbm | poison | lineSlot | mee | prot | power | acct | rsv | rg | tl | side | sessions | free
  deriving DecidableEq, Repr

/-- The two states hold the same in a part. -/
def Part.same (p : Part) (s t : State) : Prop :=
  match p with
  | .pkg => t.pkg = s.pkg
  | .gtb => t.gtb = s.gtb
  | .gates => t.tb.gates = s.tb.gates
  | .ticks => t.tb.ticks = s.tb.ticks
  | .caps => t.tb.caps = s.tb.caps
  | .timers => t.tb.timers = s.tb.timers
  | .outs => t.tb.outs = s.tb.outs
  | .matrix => t.tb.matrix = s.tb.matrix
  | .marks => t.tb.gridDone = s.tb.gridDone ∧ t.tb.winDone = s.tb.winDone ∧ t.tb.irqLater = s.tb.irqLater
  | .yard => t.yard = s.yard
  | .pf => t.host.pf = s.host.pf
  | .vf => t.host.vf = s.host.vf
  | .rtpLat => t.host.rtpLat = s.host.rtpLat
  | .ports => t.host.ports = s.host.ports
  | .unreach => t.host.unreach = s.host.unreach
  | .history => t.host.history = s.host.history
  | .out => t.host.out = s.host.out
  | .hostMem => t.host.hostMem = s.host.hostMem ∧ t.host.hostBad = s.host.hostBad
  | .clusters => t.clusters = s.clusters
  | .stalls => t.stalls = s.stalls
  | .hbm => t.hbm = s.hbm
  | .poison => t.poison = s.poison
  | .lineSlot => t.lineSlot = s.lineSlot
  | .mee => t.mee = s.mee
  | .prot => t.prot = s.prot
  | .power => t.power = s.power
  | .acct => t.acct = s.acct
  | .rsv => t.rsv = s.rsv
  | .rg => t.rg = s.rg
  | .tl => t.tl = s.tl
  | .side => t.side = s.side
  | .sessions => t.sessions = s.sessions
  | .free => t.free = s.free

/-- What every command promises: the queue's rest is left as it is; the package stays the part it was assembled as (R37); no
free value is drawn twice; what has been sent out stays sent, and what is sent comes behind it; HBM keeps its canonical
form and the relay timers theirs; no era floor falls (R485); the fuse bank in use never goes back, and a part whose banks
are spent stays so (R438). -/
structure Kept (s t : State) : Prop where
  queue : t.pending = s.pending
  variant : t.pkg.variant = s.pkg.variant
  stepping : t.pkg.stepping = s.pkg.stepping
  caching : t.xlatCaching = s.xlatCaching
  drawn : s.free ≤ t.free
  sent : s.host.out <+: t.host.out
  canonical : Memory.wf s.hbm = true → Memory.wf t.hbm = true
  sorted : Tab.sorted s.tb.timers = true → Tab.sorted t.tb.timers = true
  eras : ∀ n, s.eraFloor n ≤ t.eraFloor n
  bank : s.prot.bank.toNat ≤ t.prot.bank.toNat
  spent : s.prot.spent = true → t.prot.spent = true

/-- The second state keeps every promise and differs from the first at most in the parts listed. -/
structure Only (l : List Part) (s t : State) : Prop extends Kept s t where
  rest : ∀ p : Part, p ∉ l → p.same s t

/-- The command answers a next state, of which `P` holds. -/
def Completes (c : Instr) (s : State) (P : State → Prop) : Prop := ∃ t, exec c s = .next t ∧ P t

/-! What hypotheses on a state are stated in. -/

/-- The command of queue `q` that may start now (R226): it is the queue's next, its opcode is `op`, the queue is not FAULTED,
its stall has a cluster in service, and no other command of the queue has its position. -/
def State.starts (s : State) (q : QueueId) (op : Nat) (e : Entry) : Bool :=
  match s.startable q.stall (queueKey q) op with
  | none => false
  | some (t, x, e') => decide (e' = e) && !x.faulted && !t.hold.liveClusters.isEmpty && decide (x.entries.filter (fun d => d.pos = e.pos) = [e])
/-- The command of a Drover queue that may start now (R226, R314): as `State.starts`, but Drover needs no cluster. -/
def State.drvStarts (s : State) (q : QueueId) (op : Nat) (e : Entry) : Bool :=
  match s.stall? q.stall, s.queue? q.stall (queueKey q) with
  | some t, some x =>
    decide (x.next? = some e) && decide (e.opcode = op) && s.drvServes t && (t.kills.find? (qkCtx (queueKey q))).isNone
      && (t.ctx? (qkCtx (queueKey q))).any (fun c => !c.killing) && !e.undecided && x.orderFree e && !x.faulted
      && decide (x.entries.filter (fun d => d.pos = e.pos) = [e])
  | _, _ => false
/-- The command at a position of a queue. -/
def State.entryAt (s : State) (q : QueueId) (pos : U32) : Option Entry := (s.queue? q.stall (queueKey q)).bind (fun x => x.entry? pos)
/-- The command at a position has finished its work with this status, detail and value (R227). -/
def State.finished (s : State) (q : QueueId) (pos : U32) (status detail : Byte) (value : U64) : Prop :=
  ∃ e, s.entryAt q pos = some e ∧ e.st = .ready ∧ e.status = status ∧ e.detail = detail ∧ e.value = value
/-- The command at a position has started and has not finished. -/
def State.waits (s : State) (q : QueueId) (pos : U32) : Prop := ∃ e, s.entryAt q pos = some e ∧ e.st = .started

/-- The entry of a command as it starts (R226, R57): its times, and the wait it is measured against. -/
def State.startedAs (s : State) (q : QueueId) (e : Entry) : Entry :=
  { e with
    st := .started, startAt := s.now, beginAt := s.now
    lateRef := match (s.queue? q.stall (queueKey q)).bind (fun x => x.gated) with
      | some (p, r) => if p = e.pos then some r else none
      | none => none }
/-- The state in which a command that starts does its work. -/
def State.withStarted (s : State) (q : QueueId) (e : Entry) : State := s.modEntry q.stall (queueKey q) e.pos (fun _ => s.startedAs q e)
/-- A transfer has come to the end of a run of moves: memory is as the moves left it, and its command is over where one stopped it
or where all its bytes have moved (R224, R278, R299). -/
def State.moved (t : State) (q : QueueId) (pos : U32) (total : Nat) (r : Moved × State) : Prop :=
  t.hbm = r.2.hbm ∧ t.host.hostMem = r.2.host.hostMem ∧
    (r.1.halted = true → t.finished q pos r.1.status.1 r.1.status.2 (BitVec.ofNat 64 r.1.done)) ∧
    (r.1.halted = false → total ≤ r.1.done → t.finished q pos (finalStatus r.1.status).1 (finalStatus r.1.status).2 (BitVec.ofNat 64 r.1.done)) ∧
    (r.1.halted = false → r.1.done < total → t.waits q pos)

/-- A mailbox can take the request at GO, and the request passes every check that comes before its own body (R190, R593). -/
def State.mbTakes (s : State) (f : MbForm) (m : MbReq) : Bool := (s.mbGo (plain m) f.op).2 && (s.mbCheck f (plain m)).isNone
/-- The mailbox holds this answer to the request: BUSY clear, DONE set, and the response in MB_RESPONSE (R190, R191). -/
def State.answered (t : State) (m : MbReq) (op : Nat) (a : Answer) : Prop :=
  (t.mb m.fn).busy = false ∧ (t.mb m.fn).done = true ∧
    (t.mb m.fn).response = (RespHdr.mk (BitVec.ofNat 16 op) m.tag a.payload.length a.result a.detail).bytes ++ a.payload

/-- A message has left on a port or waits there for credit (R370, R374). -/
def State.said (t : State) (p op : Nat) (m : LinkMsg) : Prop := .link p op m ∈ t.host.out ∨ ∃ x ∈ (t.tlp p).sendq, x.op = op ∧ x.msg = m
/-- A stall's message that arrives on the port is for this package and is taken up at once (R377, R383, R544). -/
def State.takesIn (s : State) (p : LinkPort) (m : LinkMsg) : Bool :=
  decide (p.val < linkPorts s.pkg.variant) && s.portUsable p && decide (m.dst = s.podId) && s.power.warm.isNone

/-- The buffer a message used is freed before its effect (R370). -/
def State.credited (s : State) (p : LinkPort) (op : Nat) (m : LinkMsg) : State := s.emit (.credit p (channelOf op) (classOf op m) (msgFlits m))

/-- A request of a stall's function arrives inside a finished session of its own (R452). -/
def State.asksInside (s : State) (id : U32) (m : MbReq) : Option Req :=
  match (s.sessionHeard id.toNat).filter (fun x => x.finished) with
  | none => none
  | some x => match x.fn with
    | some (.vf p n) => some { fn := .vf p n, tag := m.tag, payload := m.payload, session := some id }
    | _ => none
/-- A request inside a session has this answer, and nothing else is sent. -/
def State.replied (s t : State) (r : Req) (op : Nat) (a : Answer) : Prop :=
  t.host.out = s.host.out ++ [.spdm (some r.fn) 0x7E ((RespHdr.mk (BitVec.ofNat 16 op) r.tag a.payload.length a.result a.detail).bytes ++ a.payload)]
/-- The SPDM responder answers on a transport: the response, or, where the transport does not carry it whole, ERROR with
LARGE_RESPONSE (R449). -/
def State.told (s t : State) (via : Option Fn) (code : Nat) (body : List Byte) : Prop :=
  t.host.out = s.host.out ++ [if Config.spdmWhole via.isNone body.length then .spdm via code body else .spdm via 0x7F [0x0F]]
/-- The console's command is this one, and it may run now (R561, R563). -/
def State.conRuns (s : State) (c : ConCmd) : Bool := decide (s.side.con.cmd = some c) && s.sideUp && !s.side.con.running
/-- The MUART has these characters to send behind what it had, and may have more behind them. -/
def State.says (s t : State) (l : List Byte) : Prop := s.side.mu.tx ++ l <+: t.side.mu.tx
/-- An MCTP answer goes out, and an in-band interrupt behind it where those are enabled (R566, R567). -/
def State.mctpSays (s t : State) (c : McCode) (v : List Nat) : Prop :=
  t.host.out = s.host.out ++ [.mctp c v] ++ (if s.side.ibiEn then [.ibi Config.mctpMdb] else [])

/-- Does the variant have the unit a command names (R35). -/
def fitted (v : Variant) : Instr → Bool
  | .hostPortLoss p _ | .hostPortLinkUp p | .sriovConfigWrite p _ _ | .ideTlpCheckFail p _ | .ideKmRequest p _ _ _ => decide (p.val < iodies v)
  | .tlPCtlWrite p _ | .retrain p | .tlPAsymWrite p _ | .portPeerDetect p _ | .portTrained p | .portStepTimeout p | .keyxHello p _ _ _
  | .keyxFinish p _ | .rekeyStart p | .keyxSwitch p _ | .rekeyDeadline p | .linkFrameReceived p _ _ _ _ _ | .linkAck p _ | .linkNak p _
  | .laneLockLost p | .wake p | .portLowpowerExit p | .time p _ | .masterAdvertExpiry p | .tkReq p _ | .tkGrant p _ | .tkDeny p _
  | .tkDone p _ | .wr p _ | .wrAck p _ | .rd p _ | .rdData p _ | .coll p _ | .collReady p _ | .mgmt p _ _ => decide (p.val < linkPorts v)
  | .urgencyAssert host p | .urgencyWithdraw host p => if host then decide (p.val < iodies v) else decide (p.val < linkPorts v)
  | .componentFault c _ _ _ => compFitted v c
  | .ueEccEvent p _ => compFitted v (.pc p)
  | .cryptoInstanceFailure u _ _ _ => cryptoFitted v u
  | _ => true

/-- One advance of a relay timer's COUNT, as R70 words it. -/
def Timer.once (t : Timer) : Timer :=
  if t.count ≠ t.top then { t with count := t.count + 1, matched := t.matched || decide (t.count + 1 = t.mtch) }
  else if t.oneshot then { t with en := false, wrapped := true }
  else { t with count := 0, wrapped := true, matched := t.matched || decide (t.mtch = 0) }
/-- `k` advances one after another; a timer that has stopped advances no more. -/
def Timer.times : Nat → Timer → Timer
  | 0, t => t
  | k + 1, t => Timer.times k (if t.en then t.once else t)

end Sys2Proof.Machine
end

