-- ==== Sys2Proof/Certificates/Slice0/Obligations.lean ====
section
/-! DEFINITION. The statements for the provers. -/

open Sys2Proof Sys2Proof.Machine

/-! The step (log 1, 2). -/

/-- A step runs the command that has waited longest, on the rest of the queue. The queue is the model's own form (log 1). -/
def Obligations.StepRunsTheFrontCommand : Prop :=
  ∀ (s : State) (c : Instr) (rest : List Instr), step { s with pending := c :: rest } = exec c { s with pending := rest }

/-- With no command waiting a step is one step of the GTB and of what it clocks, and of nothing else: the model's choice (log 2). -/
def Obligations.IdleStepIsOneGtbStep : Prop :=
  ∀ s : State, s.pending = [] →
    ∃ t, step s = .next t ∧ t.now = s.nextStep ∧ Only [.gtb, .timers, .outs, .matrix, .pf, .out] s t

/-- The promises hold of every step, whatever the state: one command leaves the queue, or none where none waits; no free value is
drawn twice; what was sent stays sent; HBM keeps its canonical form and the relay timers theirs; no era floor ever falls (R486);
and the fuse bank in use never goes back, nor is a spent part made good (R438). -/
def Obligations.EveryStepKeepsThePromises : Prop :=
  ∀ s t : State, step s = .next t →
    t.pending = s.pending.tail ∧ t.xlatCaching = s.xlatCaching ∧ s.free ≤ t.free ∧ s.host.out <+: t.host.out ∧
    (Memory.wf s.hbm = true → Memory.wf t.hbm = true) ∧ (Tab.sorted s.tb.timers = true → Tab.sorted t.tb.timers = true) ∧
    (∀ n, s.eraFloor n ≤ t.eraFloor n) ∧ s.prot.bank.toNat ≤ t.prot.bank.toNat ∧ (s.prot.spent = true → t.prot.spent = true)

/-- The invariant at reset: HBM has its canonical form, with nothing listed, as the relay timers have theirs. -/
def Obligations.ResetKeepsThePromises : Prop :=
  Memory.wf State.reset.hbm = true ∧ State.reset.pending = [] ∧ (∀ a, Memory.read State.reset.hbm a = 0) ∧ Tab.sorted State.reset.tb.timers = true

/-- R37, whole: no command, nothing it starts and no tick changes the variant, and with it the stacks and I/O dies the part uses
or its registers report. -/
def Obligations.VariantStaysAsAssembled : Prop :=
  ∀ s t : State, step s = .next t → t.pkg.variant = s.pkg.variant ∧ t.pkg.stepping = s.pkg.stepping ∧
    stackCount t.pkg.variant = stackCount s.pkg.variant ∧ iodies t.pkg.variant = iodies s.pkg.variant ∧
    t.pkg.idReg = s.pkg.idReg ∧ t.pkg.memReg = s.pkg.memReg

/-- Every command completes where the variant is fitted with the unit it names, and stops the machine, by name, exactly where it
is not (log 18). No command is refused. -/
def Obligations.CommandsCompleteOnFittedUnits : Prop :=
  ∀ (s : State) (c : Instr),
    (fitted s.pkg.variant c = true → ∃ t, exec c s = .next t) ∧ (fitted s.pkg.variant c = false → exec c s = .fault .notFitted)

/-! Time (R43–R79). -/

/-- The reference clock and COARSE (R46, R48), and the trim (R45). -/
def Obligations.ReferenceClockAndTrim : Prop :=
  (∀ s : State, s.gtb.refSrc = false → Completes .refClockLost s (fun t =>
    t.gtb.refSrc = true ∧ t.gtb.refSw = true ∧ t.gtb.switchedAt = s.now ∧ t.gtb.goodPeriods = 0 ∧ t.now = s.now ∧
    t.gtb.needPeriods = (match s.gtb.returnedAt with | some r => if s.now - r ≤ 2 ^ 30 then 1024 else 16 | none => 16))) ∧
  (∀ s : State, s.gtb.refSrc = true → s.gtb.needPeriods ≤ s.gtb.goodPeriods → Completes .refClockSwitchBack s (fun t =>
    t.gtb.refSrc = false ∧ t.gtb.refSw = true ∧ t.gtb.returnedAt = some t.now ∧ t.gtb.goodPeriods = 0 ∧ t.now = (s.advanceEdge (s.now + 1)).now)) ∧
  (∀ (s : State) (u : Nat), s.gtb.coarseEnd = some u → Completes .gtbCoarseEnd s (fun t => t.gtb.coarse = false ∧ t.gtb.coarseEnd = none)) ∧
  (∀ (s : State) (v : U32), s.gtb.servoAuto = false → Completes (.gtbTrimWrite v) s (fun t =>
    t.gtb.trim.toInt = max (-(2 ^ 27)) (min (2 ^ 27) v.toInt) ∧
    t.gtb.trimLimit = (s.gtb.trimLimit || decide (v.toInt < -(2 ^ 27)) || decide (2 ^ 27 < v.toInt)))) ∧
  (∀ (s : State) (v : U32), s.gtb.servoAuto = true → Completes (.gtbTrimWrite v) s (fun t => t.gtb.trim = s.gtb.trim)) ∧
  (∀ s : State, Completes (.servoAutoWrite true) s (fun t => t.gtb.servoAuto = true)) ∧
  (∀ s : State, s.tl.ports.any (fun e => e.2.up) = false → Completes (.servoAutoWrite false) s (fun t => t.gtb.servoAuto = false)) ∧
  (∀ s : State, s.tl.ports.any (fun e => e.2.up) = true → Completes (.servoAutoWrite false) s (fun t => t.gtb.servoAuto = s.gtb.servoAuto))

/-- R44: what one reference cycle does to the integer part and the fraction accumulator, how much it can add, and that the GTB
never goes back as time goes on. -/
def Obligations.OneReferenceCycle : Prop :=
  (∀ g : Gtb, g.base.toNat + 161 < 2 ^ 64 →
    (((g.cycles 1 0).base.toNat : Int) = g.base.toNat + 160 +
      (if 2 ^ 32 ≤ (g.acc.toNat : Int) + g.trim.toInt then 1 else if (g.acc.toNat : Int) + g.trim.toInt < 0 then -1 else 0)) ∧
    ((g.cycles 1 0).acc = g.acc + g.trim) ∧ g.base.toNat + 159 ≤ (g.cycles 1 0).base.toNat ∧ (g.cycles 1 0).base.toNat ≤ g.base.toNat + 161) ∧
  (∀ (s : State) (t : Nat), t + 320 < 2 ^ 64 → s.now ≤ (s.advance t).now)

/-- The GTB is brought to a stated time at the first step that reaches it, and never back (R44, R46). -/
def Obligations.AdvanceReachesItsTime : Prop :=
  ∀ (s : State) (t : Nat), s.gtb.running = true → t + 320 < 2 ^ 64 →
    t ≤ (s.advance t).now ∧ s.now ≤ (s.advance t).now ∧ (t ≤ s.now → s.advance t = s) ∧
      (s.now < t → s.gtb.coarse = false → (s.advance t).now < t + 16)

/-- Reads of the GTB and of a capture latch the high half for the reading function (R50, R68). -/
def Obligations.LatchingReads : Prop :=
  (∀ (s : State) (f : Fn), Completes (.gtbNowLoRead f) s (fun t =>
    (t.lat f).gtbHi = hi32 s.nowW ∧ t.host.out = s.host.out ++ [.readData f (leBytes 4 (lo32 s.nowW).toNat) false] ∧
    Only [.pf, .vf, .rtpLat, .out] s t)) ∧
  (∀ (s : State) (f : Fn) (n : Fin 8), Completes (.capLoRead f n .rise) s (fun t =>
    (t.lat f).riseHi.get 0 n = hi32 (s.cap n).rise ∧ t.host.out = s.host.out ++ [.readData f (leBytes 4 (lo32 (s.cap n).rise).toNat) false])) ∧
  (∀ (s : State) (f : Fn) (n : Fin 8), Completes (.capLoRead f n .fall) s (fun t =>
    (t.lat f).fallHi.get 0 n = hi32 (s.cap n).fall ∧ t.host.out = s.host.out ++ [.readData f (leBytes 4 (lo32 (s.cap n).fall).toNat) false])) ∧
  (∀ (s : State) (f : Fn) (n : Fin 8), Completes (.capLoRead f n .pair) s (fun t =>
    (t.lat f).pairHi.get 0 n = hi32 (s.cap n).pairRise ∧ (t.lat f).pairPw.get 0 n = (s.cap n).pw ∧
    t.host.out = s.host.out ++ [.readData f (leBytes 4 (lo32 (s.cap n).pairRise).toNat) false]))

/-- Writes of a gate's comparator, pre-roll and control land and take effect at the next step boundary; a low half alone is only
staged and an 8-byte write replaces it (R53, R54, R55). No other gate changes. An ARM that takes effect: the gate is ARMED, WAKING or FIRED by its CMP and PREROLL (R54,
R55, R56); a DISARM leaves it IDLE and its clusters free (R54, R59). The writes have gone. LATE_ARM's test is the model's reading
(log 28). A gate's own events: its pre-roll begins, it fires at the first step at or after CMP, and 16,000 gticks later its hold
on the clusters it woke ends (R54, R55, R56, R59). -/
def Obligations.Gates : Prop :=
  (∀ (s : State) (n : StallNo) (g : Fin 64) (i : Nat) (v : U32), s.gateOf n g = some i →
    Completes (.gateCmpLoWrite (.gate n g) v) s (fun t => t.gate i = { s.gate i with stagedLo := some v } ∧ ∀ j, j ≠ i → t.gate j = s.gate j)) ∧
  (∀ (s : State) (n : StallNo) (g : Fin 64) (i : Nat) (hi l : U32), s.gateOf n g = some i → (s.gate i).stagedLo = some l →
    Completes (.gateCmpHiWrite (.gate n g) hi none) s (fun t =>
      t.gate i = { s.gate i with stagedLo := none, pend := (s.gate i).pend ++ [.cmp (hi ++ l)], landed := s.now } ∧
      ∀ j, j ≠ i → t.gate j = s.gate j)) ∧
  (∀ (s : State) (n : StallNo) (g : Fin 64) (i : Nat) (hi l : U32), s.gateOf n g = some i →
    Completes (.gateCmpHiWrite (.gate n g) hi (some l)) s (fun t =>
      t.gate i = { s.gate i with stagedLo := some l, pend := (s.gate i).pend ++ [.cmp (hi ++ l)], landed := s.now } ∧
      ∀ j, j ≠ i → t.gate j = s.gate j)) ∧
  (∀ (s : State) (n : StallNo) (g : Fin 64) (i : Nat) (v : U32), s.gateOf n g = some i →
    Completes (.gatePrerollWrite n g v) s (fun t =>
      t.gate i = { s.gate i with pend := (s.gate i).pend ++ [.preroll v], landed := s.now } ∧ ∀ j, j ≠ i → t.gate j = s.gate j)) ∧
  (∀ (s : State) (n : StallNo) (g : Fin 64) (i : Nat) (c : Instr) (w : GateWrite), s.gateOf n g = some i →
    (c, w) ∈ [(Instr.gateCtlArm n g, GateWrite.arm), (.gateCtlDisarm n g, .disarm), (.gateCtlDisarmArm n g, .disarmArm)] →
    Completes c s (fun t =>
      t.gate i = { s.gate i with pend := (s.gate i).pend ++ [w], landed := s.now } ∧ ∀ j, j ≠ i → t.gate j = s.gate j)) ∧
  (∀ (s : State) (g : GateNo), (s.gate g).pend = [.arm] → ((s.gate g).st = .idle ∨ (s.gate g).st = .fired) →
    Completes (.gateWriteTakesEffect g) s (fun t =>
      (t.gate g).pend = [] ∧ (t.gate g).cmp = (s.gate g).cmp ∧ (t.gate g).lateArm = decide ((s.gate g).cmp.toNat < t.now + (s.gate g).preroll.toNat) ∧
      (t.gate g).pastArm = decide ((s.gate g).cmp.toNat ≤ t.now) ∧
      ((s.gate g).cmp.toNat ≤ t.now → (t.gate g).st = .fired ∧ (t.gate g).firedAt = t.nowW ∧ (t.gate g).fireCount = (s.gate g).fireCount + 1) ∧
      (t.now < (s.gate g).cmp.toNat → (t.gate g).fireCount = (s.gate g).fireCount ∧
        (t.gate g).st = if (s.gate g).cmp.toNat ≤ t.now + (s.gate g).preroll.toNat then .waking else .armed))) ∧
  (∀ (s : State) (g : GateNo), (s.gate g).pend = [.disarm] →
    Completes (.gateWriteTakesEffect g) s (fun t => (t.gate g).pend = [] ∧ (t.gate g).st = .idle ∧ (t.gate g).held = 0 ∧
      (t.gate g).cmp = (s.gate g).cmp ∧ (t.gate g).fireCount = (s.gate g).fireCount)) ∧
  (∀ (s : State) (g : GateNo), (s.gate g).st = .armed →
    (s.gate g).cmp.toNat ≤ (s.advance ((s.gate g).cmp.toNat - (s.gate g).preroll.toNat)).now + (s.gate g).preroll.toNat →
    Completes (.gateWaking g) s (fun t => (t.gate g).st = .waking ∧ (t.gate g).cmp = (s.gate g).cmp)) ∧
  (∀ (s : State) (g : GateNo), ((s.gate g).st = .armed ∨ (s.gate g).st = .waking) → (s.gate g).cmp.toNat ≤ (s.advance (s.gate g).cmp.toNat).now →
    Completes (.gateFire g) s (fun t => (t.gate g).st = .fired ∧ (t.gate g).firedAt = t.nowW ∧ (s.gate g).cmp.toNat ≤ t.now ∧
      (t.gate g).fireCount = (s.gate g).fireCount + 1 ∧ (t.gate g).cmp = (s.gate g).cmp ∧
      (t.gate g).holdEnd = (if (s.gate g).held = 0 then none else some (t.now + 16000)) ∧ ∀ j, j ≠ g.val → t.gate j = s.gate j)) ∧
  (∀ (s : State) (g : GateNo) (u : Nat), (s.gate g).holdEnd = some u →
    Completes (.gateHoldEnd g) s (fun t => (t.gate g).held = 0 ∧ (t.gate g).holdEnd = none ∧ (t.gate g).st = (s.gate g).st ∧
      ∀ j, j ≠ g.val → t.gate j = s.gate j))

/-- Tick channels: the writes of CMP and ARM, and the firings of the catch-up and the live kind with their reloads (R61–R64).
PF0's writes of channels 0 to 3 are ignored. Capture inputs: an accepted edge is stamped with the instant the pin reached its
level, and a closing edge updates the pair; a level that stays sets its STUCK flag, and clearing it restarts the count (R66, R67,
R69). -/
def Obligations.TicksAndCaptures : Prop :=
  (∀ (s : State) (r : Bool) (n : Fin 32) (v : U32), (4 ≤ n.val ∨ r = true) →
    Completes (.gateCmpLoWrite (.tick r n) v) s (fun t => t.tick n = { s.tick n with stagedLo := some v })) ∧
  (∀ (s : State) (r : Bool) (n : Fin 32) (hi l : U32), (4 ≤ n.val ∨ r = true) →
    Completes (.gateCmpHiWrite (.tick r n) hi (some l)) s (fun t => t.tick n = { s.tick n with stagedLo := some l, cmp := hi ++ l, armedAt := s.now })) ∧
  (∀ (s : State) (n : Fin 32) (v : U32), n.val < 4 → Completes (.gateCmpLoWrite (.tick false n) v) s (fun t => t.tick n = s.tick n)) ∧
  (∀ (s : State) (r : Bool) (n : Fin 32), (4 ≤ n.val ∨ r = true) → (s.tick n).live = false →
    Completes (.tickChannelArm r n) s (fun t => t.tick n = { s.tick n with armed := true, armedAt := s.now })) ∧
  (∀ (s : State) (n : Fin 32), (s.tick n).en = true → (s.tick n).live = false → (s.tick n).armed = true →
    (s.tick n).cmp.toNat ≤ (s.advance (max (s.tick n).cmp.toNat ((s.tick n).armedAt + 1))).now →
    Completes (.tickChannelFireCatchup n) s (fun t =>
      (t.tick n).fired = true ∧ (t.tick n).firedAt = t.nowW ∧ (t.tick n).fireCount = (s.tick n).fireCount + 1 ∧
      ((s.tick n).period = 0 → (t.tick n).armed = false ∧ (t.tick n).cmp = (s.tick n).cmp) ∧
      ((s.tick n).period ≠ 0 → (s.tick n).skip = false →
        (t.tick n).armed = true ∧ (t.tick n).cmp = BitVec.ofNat 64 ((s.tick n).cmp.toNat + (s.tick n).period.toNat)))) ∧
  (∀ (s : State) (n : Fin 32), (s.tick n).en = true → (s.tick n).live = true → s.gtb.base.toNat < (s.tick n).cmp.toNat →
    (s.tick n).cmp.toNat ≤ (s.advanceEdge (s.tick n).cmp.toNat).gtb.base.toNat →
    Completes (.tickChannelFireLive n) s (fun t =>
      (t.tick n).fired = true ∧ (t.tick n).firedAt = t.nowW ∧ (t.tick n).fireCount = (s.tick n).fireCount + 1 ∧
      (t.tick n).cmp = (s.tick n).cmp + (s.tick n).period)) ∧
  (∀ (s : State) (n : Fin 8) (rising : Bool) (a : U64), (s.cap n).en = true → (s.cap n).stuck = false → (s.cap n).level = !rising →
    Completes (.syncInEdgeAccepted n rising a) s (fun t =>
      (t.cap n).level = rising ∧ (t.cap n).rise = (if rising then a else (s.cap n).rise) ∧ (t.cap n).fall = (if rising then (s.cap n).fall else a) ∧
      (rising ≠ (s.cap n).invert → (t.cap n).openEdge = some a ∧ (t.cap n).pairCount = (s.cap n).pairCount) ∧
      (∀ o, rising = (s.cap n).invert → (s.cap n).openEdge = some o →
        (t.cap n).pairRise = o ∧ (t.cap n).pw.toNat = min (a.toNat - o.toNat) (2 ^ 32 - 1) ∧ (t.cap n).pairNew = true ∧
        (t.cap n).pairCount = (s.cap n).pairCount + 1 ∧ (t.cap n).overrun = ((s.cap n).overrun || (s.cap n).pairNew) ∧ (t.cap n).openEdge = none))) ∧
  (∀ (s : State) (n : Fin 8), (s.cap n).stuckLimit ≠ 0 → (s.cap n).stuck = false →
    Completes (.syncInStuck n) s (fun t => (t.cap n).stuckHi = (s.cap n).level ∧ (t.cap n).stuckLo = !(s.cap n).level)) ∧
  (∀ (s : State) (n : Fin 8) (hi lo : Bool), ((hi && (s.cap n).stuckHi) || (lo && (s.cap n).stuckLo)) = true →
    Completes (.capStuckClear n hi lo) s (fun t =>
      t.cap n = { s.cap n with stuckHi := (s.cap n).stuckHi && !hi, stuckLo := (s.cap n).stuckLo && !lo, heldSince := s.now }))

/-- R70: a timer that counts `k` clocks at once does what `k` single advances do: COUNT, EN, the WRAP and MATCH flags. -/
def Obligations.TimerCountsEveryAdvance : Prop :=
  ∀ (t : Timer) (k : Nat), t.en = true → (t.countOn k).1 = Timer.times k t

/-- As the GTB goes on, a timer that is enabled, whose gate is open and which no reset reaches counts the clocks of the steps it
went on by (R70, R72). The premise that the timers are listed once each is an invariant of its own. -/
def Obligations.TimersFollowTheGtb : Prop :=
  ∀ (s : State) (u n : Nat), Tab.sorted s.tb.timers = true → s.now < (s.advance u).now → (s.timer n).en = true → s.gateOpen (s.timer n) = true →
    ((s.timer n).resetSrc = 0 ∨ (s.timer n).resetSrc ∉ s.tb.matrix) →
    (s.advance u).timer n = ((s.timer n).countOn ((s.timer n).advances s.now (s.advance u).now s.tb.matrix)).1

/-- Relay timers and SYNC_OUT (R70, R71, R72, R74): WRAP and MATCH come when the GTB has been brought to the step in which the
timer makes that advance; a reset event leaves COUNT 0 a step later; TRIG keeps only sources of the right kind. Grid ticks and
regulation windows come once for every multiple of 2^20 and 2^16 gticks, in order (R51); each is an event of the trigger matrix
(R71). -/
def Obligations.RelayTimersGridAndWindow : Prop :=
  (∀ (s : State) (n : Fin 16), (s.timer n).en = true → (s.timer n).events = false →
    Completes (.relayTimerWrap n) s (fun t => t = s.advance ((s.timer n).crossing s.now (s.timer n).toWrap))) ∧
  (∀ (s : State) (n : Fin 16) (d : Nat), (s.timer n).en = true → (s.timer n).events = false → (s.timer n).toMatch = some d →
    Completes (.relayTimerMatch n) s (fun t => t = s.advance ((s.timer n).crossing s.now d))) ∧
  (∀ (s : State) (n : Fin 16), (s.timer n).resetSrc ≠ 0 → (s.timer n).resetSrc ∈ s.tb.matrix → s.now < s.nextStep →
    Completes (.relayTimerReset n) s (fun t => (t.timer n).count = 0 ∧ t.now = s.nextStep)) ∧
  (∀ (s : State) (n : Fin 16) (v : U32), Completes (.rtTrigWrite n v) s (fun t =>
    t.timer n = { s.timer n with
      gateSrc := if isLevel (v.extractLsb' 0 8).toNat then v.extractLsb' 0 8 else 0
      resetSrc := if isEvent (v.extractLsb' 8 8).toNat then v.extractLsb' 8 8 else 0
      clockSrc := if isEvent (v.extractLsb' 16 8).toNat then v.extractLsb' 16 8 else 0 })) ∧
  (∀ (s : State) (n : Fin 4) (u : Nat), (s.syncOut n).pulseEnd = some u →
    Completes (.syncOutPulseEnd n) s (fun t => (t.syncOut n).pulseEnd = none ∧ t.now = (s.advance u).now)) ∧
  (∀ (s : State) (good : Bool), (s.tb.gridDone + 1) * 2 ^ 20 ≤ (s.advance ((s.tb.gridDone + 1) * 2 ^ 20)).now →
    Completes (.gridTick good) s (fun t => t.tb.gridDone = s.tb.gridDone + 1 ∧ (s.tb.gridDone + 1) * 2 ^ 20 ≤ t.now ∧ (0x80 : Byte) ∈ t.tb.matrix)) ∧
  (∀ (s : State) (l : List Nat), s.rsv.st ≠ .ride → (s.tb.winDone + 1) * 2 ^ 16 ≤ (s.advance ((s.tb.winDone + 1) * 2 ^ 16)).now →
    Completes (.regulationWindowStart l) s (fun t => t.tb.winDone = s.tb.winDone + 1 ∧ (s.tb.winDone + 1) * 2 ^ 16 ≤ t.now ∧
      ∀ (n : Nat) (x : Stall), t.stall? n = some x → x.dlv.window = BitVec.ofNat 64 (s.tb.winDone + 1)))

/-! The mailbox and yard plans (R99, R126–R137, R190–R195, R593). -/

/-- Requests that answer with what the part holds: VERSION, RESULT_QUERY, MANIFEST_REQ and CHANGE_REPORT (R99, R193, R194, R195). -/
def Obligations.MailboxQueries : Prop :=
  (∀ (s : State) (m : MbReq), s.mbTakes versionForm m = true → Completes (.version m) s (fun t => t.answered m 0x0001 (okWith [0x00, 0x01]))) ∧
  (∀ (s : State) (m : MbReq), s.mbTakes (resultQueryForm (plain m)) m = true → Completes (.resultQuery m) s (fun t =>
    t.answered m 0x0002 (match ((s.host.history.get [] (queryKey (plain m))).reverse).find? (fun h => h.tag.toNat = f16 m.payload 2) with
      | none => refuse 1
      | some h => okWith h.bytes))) ∧
  (∀ (s : State) (m : MbReq) (p : HostPort) (n : StallNo) (x : Stall), m.fn = .vf p n → s.stall? n = some x → x.man.pending = false →
    s.mbTakes manifestForm m = true → Completes (.manifestReq m) s (fun t =>
      t.answered m 0x0020 (okWith (withSignature (s.manifestHead n x s.now (slice m.payload 8 32)) s.free)) ∧ t.free = s.free + 1)) ∧
  (∀ (s : State) (m : MbReq), s.yard.chgEpoch ≠ 0 → s.mbTakes (form 0x0013 true false 4 []) m = true → Completes (.changeReport m) s (fun t =>
    t.answered m 0x0013 (okWith (slice s.yard.report.bytes (f32 m.payload 0) 4080))))

/-- A request that GO takes and that fails a check of R593 is answered with that check's answer, whatever its own body would do; a
GO while BUSY or DONE is set is ignored with OVERRUN (R190). -/
def Obligations.MailboxChecks : Prop :=
  ∀ (s : State) (m : MbReq) (c : Instr) (f : MbForm),
    (c, f) ∈ [(Instr.version m, versionForm), (.resultQuery m, resultQueryForm (plain m)), (.manifestReq m, manifestForm), (.planSubmit m, planSubmitForm)
      , (.planCancel m, form 0x0011 true false 0 []), (.changeForce m, form 0x0012 true false 0 []), (.changeReport m, form 0x0013 true false 4 [])
      , (.enrol m, form 0x0018 true false 96 []), (.rotate m, form 0x0019 true false 196 []), (.ctxKill m, ctxKillForm), (.ctxDestroy m, ctxDestroyForm)
      , (.xlatInval m, xlatInvalForm), (.memStats m, memStatsForm), (.srndSeed m, srndSeedForm), (.schedSet m, schedSetForm), (.schedStat m, schedStatForm)
      , (.memClear m, memClearForm), (.queueDestroy m, queueDestroyForm), (.queueRebind none m, queueRebindForm), (.drvLoad m, drvLoadForm)
      , (.drvUnload m, drvUnloadForm), (.drvStat m, drvStatForm), (.remoteExport m, remoteExportForm), (.groupSet m, groupSetForm (plain m))
      , (.groupClear m, groupClearForm), (.secChallenge m, form 0x0060 true false 0 []), (.debugLock m, form 0x0062 true false 0 [])
      , (.attestLog m, attestLogForm)] → hostFn m.fn = true →
    (∀ a : Answer, (s.mbGo (plain m) f.op).2 = true → s.mbCheck f (plain m) = some a → Completes c s (fun t => t.answered m f.op a)) ∧
    ((s.mbGo (plain m) f.op).2 = false → ((s.mb m.fn).busy || (s.mb m.fn).done) = true → s.power.powerGood = true → s.power.thermStop = false →
      s.fnServed m.fn = true → (match m.fn with | .vf _ n => (s.stall? n).isSome | .pf0 _ => true | .rtp => false) = true →
      Completes c s (fun t => t.mb m.fn = { s.mb m.fn with overrun := true }))

/-- A plan is fetched, checked, committed, stored or withdrawn (R131–R135): what each step leaves in the YP registers. The
yard-keeper key (R126, R127): ENROL opens a window of 60 s for its confirmation, the window's expiry withdraws it, and ROTATE
replaces an enrolled key by a request the present key has signed. -/
def Obligations.PlansAndTheYardKeeperKey : Prop :=
  (∀ (s : State) (m : MbReq) (bs : List Byte), s.mbTakes planSubmitForm m = true → s.yard.st = .idle →
    s.hostRead (f64 m.payload 0) (min (f32 m.payload 8) (2 ^ 20 + 1)) = some bs →
    Completes (.planSubmit m) s (fun t => t.yard.st = .validating ∧ t.yard.staged = bs ∧ (t.mb m.fn).busy = true)) ∧
  (∀ s : State, s.yard.st = .validating → Completes .planValidated s (fun t =>
    match s.submitRej s.yard.staged with
    | some r => t.yard.st = .idle ∧ t.yard.rejected = true ∧ t.yard.reason = BitVec.ofNat 8 r.reason ∧ t.yard.rejections = satAdd s.yard.rejections 1 ∧
        t.yard.active = s.yard.active
    | none => t.yard.plan = some (readPlan s.yard.staged) ∧ t.yard.accepted = satAdd s.yard.accepted 1 ∧
        t.yard.st = (if (readPlan s.yard.staged).change.isSome then .changing
          else if (readPlan s.yard.staged).slots.any (fun k => (s.slot k.slot).st ≠ .clean) || (readPlan s.yard.staged).bays.any (fun b => s.prot.grooming.contains b.bay)
            then .waitGroom else .armed))) ∧
  (∀ (s : State) (p : Plan), s.yard.st = .armed → s.yard.plan = some p → s.running = true →
    firstRej ((contentChecks ((s.advance s.commitTick).planEnv false) s.yard.planBytes).filter (fun c => c.1 = 0x14 || c.1 = 0x1D)) = none →
    Completes .planCommit s (fun t => t.yard.st = .idle ∧ t.yard.active = p ∧ t.yard.committed = true ∧ t.yard.commitAt = t.nowW ∧ t.yard.plan = none ∧
      t.yard.epochFloor = (if s.yard.epochFloor.toNat < p.epoch then BitVec.ofNat 32 p.epoch else s.yard.epochFloor) ∧
      ∀ r ∈ p.stalls, (t.stall? r.stall).isSome = true)) ∧
  (∀ (s : State) (w : StoreWrite), s.yard.writing = some w → s.yard.writeWait = none →
    Completes .planStoreDone s (fun t => t.yard.writing = none ∧ t.yard.store.find? w.slot = some w.data)) ∧
  (∀ (s : State) (m : MbReq), s.mbTakes (form 0x0011 true false 0 []) m = true → s.yard.st = .armed →
    Completes (.planCancel m) s (fun t => t.yard.st = .idle ∧ t.yard.plan = none ∧ t.yard.rejected = true ∧ t.yard.reason = 0x33)) ∧
  (∀ (s : State) (m : MbReq), s.mbTakes (form 0x0018 true false 96 []) m = true → s.yard.keyState = .unenrolled →
    Completes (.enrol m) s (fun t => t.answered m 0x0018 (if Config.onCurve m.payload then ok else refuse 0x12) ∧
      t.yard.keyState = (if Config.onCurve m.payload then .pending else .unenrolled) ∧
      (Config.onCurve m.payload = true → t.yard.pendKey = m.payload ∧ t.yard.pendAt = s.now))) ∧
  (∀ s : State, s.yard.keyState = .pending → Completes .enrolWindowExpiry s (fun t => t.yard.keyState = .unenrolled ∧ t.yard.pendKey = [])) ∧
  (∀ (s : State) (m : MbReq), s.mbTakes (form 0x0019 true false 196 []) m = true → s.yard.keyState = .enrolled → s.yard.st = .idle →
    f32 m.payload 0 = s.yard.keySeq.toNat + 1 →
    Completes (.rotate m) s (fun t =>
      (Config.onCurve (slice m.payload 4 96) = false → t.answered m 0x0019 (refuse 0x12) ∧ t.yard.key = s.yard.key) ∧
      (Config.onCurve (slice m.payload 4 96) = true → Config.ecdsaVerify s.yard.key (Config.sha384 ([0x59, 0x4B, 0x52, 0x54] ++ slice m.payload 0 4 ++ slice m.payload 4 96)) (slice m.payload 100 96) = true →
        t.answered m 0x0019 ok ∧ t.yard.key = slice m.payload 4 96 ∧ t.yard.keySeq = s.yard.keySeq + 1) ∧
      (Config.onCurve (slice m.payload 4 96) = true → Config.ecdsaVerify s.yard.key (Config.sha384 ([0x59, 0x4B, 0x52, 0x54] ++ slice m.payload 0 4 ++ slice m.payload 4 96)) (slice m.payload 100 96) = false →
        t.answered m 0x0019 (refuse 0x13) ∧ t.yard.key = s.yard.key)))

/-! Changing the plan under load (R147–R168). -/

/-- The steps of a change plan: its mirrors are prepared and T_1 is placed (R150, R160); a phase tick pauses the stalls that
release (R152); a paused stall releases (R153); a stall that has not paused in time holds the phase (R162); and the last grant
tick ends the change (R155, R156). The end of a hold by force or by abort (R163–R165): a force keeps the change going and marks it
forced, and the hold's own action of 1 ends it while it can still be aborted. -/
def Obligations.YardChanges : Prop :=
  (∀ (s : State) (c : Change), s.yard.chg = some c → c.step = .prepare → c.acts = true →
    Completes .mirrorPrepareDone s (fun t => t.yard.chg = some { c with
      step := .none, prepLeft := [], nextTick := max s.nextGrid (((c.new.change.map (·.startGrid)).getD 0) * 2 ^ 20) })) ∧
  (∀ (s : State) (c : Change), s.yard.chg = some c → c.step = .none → c.acts = true → c.prepLeft = [] → s.power.warm = none → c.phase ≠ 0 →
    (∀ n ∈ phaseStalls c.old c.new (c.phase + 1), c.new.defines n = true) →
    Completes .changePhaseTick s (fun t =>
      t.yard.chg = some { c with phase := c.phase + 1, step := .pausing, tk := t.now, nextTick := 0, released := [], excluded := 0 } ∧
      ∀ n ∈ phaseStalls c.old c.new (c.phase + 1), ∀ x, t.stall? n = some x → x.paused = true)) ∧
  (∀ (s : State) (n : StallNo) (c : Change) (x : Stall), s.yard.chg = some c → s.stall? n = some x → c.step = .pausing → c.acts = true →
    n.val ∈ c.stallsNow → n.val ∉ c.released → x.paused = true → x.hasPaused = true → (c.old.holdingsOf n).isSome = true → (c.new.holdingsOf n).isSome = true →
    Completes (.stallPaused n) s (fun t => ∃ d, t.yard.chg = some d ∧ n.val ∈ d.released ∧ d.old = c.old ∧ d.new = c.new)) ∧
  (∀ (s : State) (n : StallNo) (c : Change) (x : Stall), s.yard.chg = some c → s.stall? n = some x → c.step = .pausing → c.acts = true →
    n.val ∈ c.stallsNow → n.val ∉ c.released → c.hold = [] →
    Completes (.changeHold n) s (fun t => t.yard.chg = some { c with step := .hold, nextTick := 0, hold := [n.val], holdAt := t.now, atGrant := false } ∧
      t.yard.active = s.yard.active)) ∧
  (∀ (s : State) (c : Change), s.yard.chg = some c → c.step = .grantWait → c.acts = true → c.grantees = [] → c.phases ≤ c.phase →
    s.power.warmDeferred = false →
    Completes .changeGrantTick s (fun t => t.yard.chg = none ∧ t.yard.st = .idle ∧ t.yard.base = c.new ∧ t.yard.committed = true ∧ t.yard.commitAt = t.nowW ∧
      t.yard.chgLast = BitVec.ofNat 32 ((if c.forced then 3 else 1) + 65536 * min c.kills 0xFFFF))) ∧
  (∀ (s : State) (m : MbReq) (c : Change), s.yard.chg = some c → c.step = .hold → c.atGrant = false → s.mbTakes (form 0x0012 true false 0 []) m = true →
    Completes (.changeForce m) s (fun t => ∃ d, t.yard.chg = some d ∧ d.forced = true ∧ d.old = c.old ∧ d.new = c.new)) ∧
  (∀ (s : State) (c : Change), s.yard.chg = some c → c.step = .hold → c.acts = true → c.holdGrids ≠ 0 → c.forcing = 0 → c.holdAction = 1 → c.abortable = true →
    Completes .holdActionExpiry s (fun t => t.yard.chg = none ∧ t.yard.st = .idle ∧ t.yard.rejected = true ∧ t.yard.reason = 0x33 ∧ t.yard.sub = 1 ∧
      ((c.phase = 0 → c.tk ≠ 0) → t.yard.active = c.old)))

/-! Contexts, stall memory and scheduling (R256, R264–R270, R280, R298–R311, R545). -/

/-- Contexts are made and removed, and what their requests answer (R264, R266, R270, R280, R256). -/
def Obligations.ContextRequests : Prop :=
  (∀ (s : State) (m : MbReq) (p : HostPort) (n : StallNo) (x : Stall), m.fn = .vf p n → s.stall? n = some x →
    s.mbTakes (ctxCreateForm x.hold.ctxMax) m = true →
    (x.ctxRefusal m.payload = none → Completes (.ctxCreate m) s (fun t => t.answered m 0x0032 ok ∧ ∃ y, t.stall? n = some y ∧
      y.ctx? (f8 m.payload 0) = some { key := if f8 m.payload 1 = 0xFF then none else some (f8 m.payload 1), root := f64 m.payload 8, faultRec := f64 m.payload 16
                                       seq := 0, faults := 0, multiHit := 0, conflicts := 0, killing := false, pauseReq := false, rotReq := none, sliceReq := none
                                       stopped := false, tlb := [] } ∧
      ∀ c, c ≠ f8 m.payload 0 → y.ctx? c = x.ctx? c)) ∧
    (∀ d, x.ctxRefusal m.payload = some d → Completes (.ctxCreate m) s (fun t => t.answered m 0x0032 (refuse d) ∧ t.stall? n = some x))) ∧
  (∀ (s : State) (m : MbReq) (p : HostPort) (n : StallNo) (x : Stall), m.fn = .vf p n → s.stall? n = some x → s.mbTakes ctxDestroyForm m = true →
    (x.ctx? (f8 m.payload 0)).isSome = true → x.queuesOf (f8 m.payload 0) = [] → x.kills.find? (f8 m.payload 0) = none →
    Completes (.ctxDestroy m) s (fun t => t.answered m 0x0033 ok ∧ ∃ y, t.stall? n = some y ∧ y.ctx? (f8 m.payload 0) = none ∧
      (∀ c, c ≠ f8 m.payload 0 → y.ctx? c = x.ctx? c) ∧ y.queues = x.queues)) ∧
  (∀ (s : State) (m : MbReq) (p : HostPort) (n : StallNo) (x : Stall), m.fn = .vf p n → s.stall? n = some x → s.mbTakes xlatInvalForm m = true →
    Completes (.xlatInval m) s (fun t => t.stall? n = some { x with invals := x.invals ++ [plain m] } ∧ (t.mb m.fn).busy = true)) ∧
  (∀ (s : State) (n : StallNo) (x : Stall) (r : Req) (l : List Req), s.stall? n = some x → x.invals = r :: l →
    Completes (.xlatInvalDone n) s (fun t => ∃ y, t.stall? n = some y ∧ y.invals = l ∧
      ∀ c z, y.ctx? c = some z → (f8 r.payload 0 = 0xFF ∨ f8 r.payload 0 = c) → z.tlb = [])) ∧
  (∀ (s : State) (m : MbReq) (x : Stall), s.mbTakes memStatsForm m = true → s.stall? (stallArg memStatsForm (plain m)) = some x →
    Completes (.memStats m) s (fun t => t.answered m 0x0036 (okWith (leBytes 4 x.stats.multiHit.toNat ++ leBytes 4 x.stats.conflicts.toNat
      ++ leBytes 4 x.stats.accessFaults.toNat ++ leBytes 4 x.stats.xlatFaults.toNat)))) ∧
  (∀ (s : State) (m : MbReq) (p : HostPort) (n : StallNo) (x : Stall), m.fn = .vf p n → s.stall? n = some x → s.mbTakes srndSeedForm m = true →
    Completes (.srndSeed m) s (fun t => t.answered m 0x0034 (okWith (leBytes 8 x.seed.toNat)) ∧
      t.stall? n = some { x with seed := BitVec.ofNat 64 (f64 m.payload 0) }))

/-- A kill and a stall reset stop the work of a context or a whole stall at once, and end when its clearing has (R309, R545).
MEM_CLEAR (R310, R311): the request is kept until MEM_CLEAR_DONE clears what its key may write, writes no other data, and answers. -/
def Obligations.KillsResetsAndClearing : Prop :=
  (∀ (s : State) (m : MbReq) (n : StallNo) (x : Stall), s.mbTakes ctxKillForm m = true → stallArg ctxKillForm (plain m) = n.val → s.stall? n = some x →
    (x.ctx? (f8 m.payload 1)).isSome = true → x.kills.find? (f8 m.payload 1) = none →
    Completes (.ctxKill m) s (fun t => ∃ y, t.stall? n = some y ∧ y.kills.find? (f8 m.payload 1) = some [plain m] ∧ y.sched.kills = satAdd x.sched.kills 1 ∧
      ∀ l ∈ y.launches, qkCtx l.qk ≠ f8 m.payload 1)) ∧
  (∀ (s : State) (c : CtxId) (x : Stall) (rs : List Req), s.stall? c.stall = some x → x.kills.find? c.ctx = some rs →
    Completes (.ctxKillDone c) s (fun t => ∃ y, t.stall? c.stall = some y ∧ y.kills.find? c.ctx = none ∧
      ∀ z, y.ctx? c.ctx = some z → z.killing = false)) ∧
  (∀ (s : State) (m : MbReq) (n : StallNo) (x : Stall), s.mbTakes { form 0x0022 true false 8 [(1, 7)] with stallAt := some 0 } m = true →
    f8 m.payload 0 = n.val → s.stall? n = some x → x.reset = [] →
    Completes (.stallReset m) s (fun t => ∃ y, t.stall? n = some y ∧ y.reset = [plain m] ∧
      (∀ l ∈ y.launches, y.ctx? (qkCtx l.qk) = none) ∧ y.drover = Drover.init ∧ y.seed = 0 ∧
      y.sched = Sched.init ∧ y.stats = MemStats.init ∧ y.bar2Deny = 0)) ∧
  (∀ (s : State) (n : StallNo) (x : Stall), s.stall? n = some x →
    Completes (.stallResetDone n) s (fun t => ∃ y, t.stall? n = some y ∧ y.reset = [])) ∧
  (∀ (s : State) (m : MbReq) (x : Stall), s.mbTakes memClearForm m = true → s.stall? (stallArg memClearForm (plain m)) = some x → x.man.pending = false →
    f8 m.payload 1 < x.hold.slots.length → f64 m.payload 8 + f64 m.payload 16 ≤ x.hold.spaceEnd s.pkg.variant →
    Completes (.memClear m) s (fun t => t.stall? (stallArg memClearForm (plain m)) = some { x with
      memClear := x.memClear ++ [{ req := plain m, keyIndex := f8 m.payload 1, offset := f64 m.payload 8, bytes := f64 m.payload 16 }] })) ∧
  (∀ (s : State) (n : StallNo) (x : Stall) (c : MemClear) (l : List MemClear), s.stall? n = some x → x.memClear = c :: l →
    Completes (.memClearDone n) s (fun t => (∃ y, t.stall? n = some y ∧ y.memClear = l) ∧
      ∀ a, (∀ i < c.bytes / 64, ∀ b y, x.hold.place s.pkg.variant (c.offset + 64 * i) = some (b, y) →
          ¬ (bayAddr s.pkg.variant b y ≤ a ∧ a < bayAddr s.pkg.variant b y + 64)) →
        Memory.read t.hbm a = Memory.read s.hbm a))

/-- Scheduling requests (R306, R307): SCHED_SET answers with the values before, and SCHED_STAT with what stands. Preemption,
slices and rotation (R299–R305): requests to stop, their end in time or by PREEMPT_LIMIT, and the tenant that becomes resident. -/
def Obligations.SchedulingAndPreemption : Prop :=
  (∀ (s : State) (m : MbReq) (x : Stall), s.mbTakes schedSetForm m = true → s.stall? (stallArg schedSetForm (plain m)) = some x →
    Completes (.schedSet m) s (fun t => t.answered m 0x0038 (okWith (leBytes 4 x.sched.rotSlice.toNat ++ leBytes 4 x.sched.ctxSlice.toNat)) ∧
      ∃ y, t.stall? (stallArg schedSetForm (plain m)) = some y ∧
        y.sched.rotSlice = (if x.hold.iso = 1 then BitVec.ofNat 32 (f32 m.payload 4) else x.sched.rotSlice) ∧
        y.sched.ctxSlice = (if x.hold.sole then x.sched.ctxSlice else BitVec.ofNat 32 (f32 m.payload 8)) ∧
        y.sched.resident = x.sched.resident ∧ y.ctxs = x.ctxs ∧ y.queues = x.queues)) ∧
  (∀ (s : State) (m : MbReq) (x : Stall), s.mbTakes schedStatForm m = true → s.stall? (stallArg schedStatForm (plain m)) = some x →
    Completes (.schedStat m) s (fun t => t.answered m 0x0039 (okWith (leBytes 1 (x.sched.resident.getD 0xFF) ++ zeros 3 ++ leBytes 4 x.sched.rotEff
      ++ leBytes 4 x.sched.ctxSlice.toNat ++ leBytes 4 x.sched.preemptRefused.toNat ++ leBytes 4 x.sched.rotations.toNat ++ leBytes 4 x.sched.switches.toNat
      ++ leBytes 4 x.sched.lastRot.toNat ++ leBytes 4 x.sched.kills.toNat)))) ∧
  (∀ (s : State) (c : CtxId) (x : Stall) (z : Ctx), s.stall? c.stall = some x → x.ctx? c.ctx = some z → z.requested = true → x.halted? c.ctx = true →
    (∀ a, z.rotReq = some a → s.now ≤ a + x.hold.preemptLimit) → (∀ a, z.sliceReq = some a → s.now ≤ a + x.hold.preemptLimit) →
    Completes (.contextStopped c) s (fun t => ∃ y, t.stall? c.stall = some y ∧ y.ctx? c.ctx = some { z with stopped := true, sliceReq := none })) ∧
  (∀ (s : State) (c : CtxId) (x : Stall) (z : Ctx) (r : Nat), s.stall? c.stall = some x → x.ctx? c.ctx = some z →
    z.rotReq.orElse (fun _ => z.sliceReq) = some r → z.stopped = false →
    Completes (.preemptLimitExpiry c) s (fun t => ∃ y, t.stall? c.stall = some y ∧ y.sched.preemptRefused = satAdd x.sched.preemptRefused 1 ∧
      ∀ l ∈ y.launches, qkCtx l.qk ≠ c.ctx)) ∧
  (∀ (s : State) (n : StallNo) (x : Stall) (w a c h : Nat) (z : Ctx), s.stall? n = some x → x.sched.ctxSlice ≠ 0 → x.hold.sole = false →
    x.sched.waitSince = [(w, a)] → a + x.sched.ctxSlice.toNat ≤ (s.advance (a + x.sched.ctxSlice.toNat)).now →
    c ≠ w → x.ctx? c = some z → z.requested = false → s.holding x c = some h → h + x.sched.ctxSlice.toNat ≤ (s.advance (a + x.sched.ctxSlice.toNat)).now →
    (∀ d k, d ∈ x.ctxs.map (·.1) → d ≠ c → s.holding x d = some k → h < k ∨ (h = k ∧ d < c)) →
    Completes (.ctxSliceExpiry n) s (fun t => a + x.sched.ctxSlice.toNat ≤ t.now ∧
      ∃ y, t.stall? n = some y ∧ y.ctx? c = some { z with sliceReq := some t.now, stopped := false })) ∧
  (∀ (s : State) (n : StallNo) (x : Stall) (i : Nat), s.stall? n = some x → x.hold.iso = 1 → x.hold.sole = false → x.paused = false → x.sched.rotating = none →
    x.sched.resident = none → x.sched.forward = [] → (List.range x.hold.slots.length).find? x.eligible = some i →
    Completes (.rotSliceExpiry n) s (fun t => t.stall? n = some (x.reside i s.now))) ∧
  (∀ (s : State) (n : StallNo) (x : Stall) (i j : Nat), s.stall? n = some x → x.hold.iso = 1 → x.hold.sole = false → x.paused = false → x.sched.rotating = none →
    x.sched.resident = some i → x.sched.forward = [] → x.nextTenant i = some j →
    Completes (.rotSliceExpiry n) s (fun t => ∃ y, t.stall? n = some y ∧ y.sched.rotating = some (some i, t.now) ∧ y.sched.incoming = some j ∧
      (x.idleTenant i = false → x.sched.residentAt + x.sched.sliceNow ≤ (s.advance (x.sched.residentAt + x.sched.sliceNow)).now →
        x.sched.residentAt + x.sched.sliceNow ≤ t.now) ∧
      ∀ c z, y.ctx? c = some z → z.key = some i → z.rotReq = some t.now ∧ z.stopped = false)) ∧
  (∀ (s : State) (n : StallNo) (x : Stall) (out : Option Nat) (r j : Nat), s.stall? n = some x → x.paused = false → x.sched.rotating = some (out, r) →
    x.sched.incoming = some j → (∀ e ∈ x.ctxs, e.2.key = out → e.2.rotReq.isSome = true → e.2.stopped = true) →
    Completes (.tenantResident n) s (fun t => ∃ y, t.stall? n = some y ∧ y.sched.resident = some j ∧ y.sched.residentAt = s.now ∧ y.sched.rotating = none ∧
      y.sched.rotations = satAdd x.sched.rotations 1 ∧ (∀ c z, y.ctx? c = some z → z.key = out → z.rotReq = none)))

/-! Stall memory (R261–R281, R407–R414). -/

/-- Lines of HBM: what is written is read back under the same key slot, a whole line makes a poisoned or foreign one good, a read
under another slot delivers zeros and poison and is counted, and a partial write of a foreign line leaves it poisoned (R408,
R411–R414). Every other byte is as it was. -/
def Obligations.MemoryLines : Prop :=
  (∀ (s : State) (a slot : Nat) (bs : List Byte), a % 64 + bs.length ≤ 64 → bs ≠ [] →
    ((s.lineSlot.find? (lineOf a) = none ∨ s.lineSlot.find? (lineOf a) = some slot) ∧ lineOf a ∉ s.poison ∨ a % 64 = 0 ∧ bs.length = 64) →
    ((s.lineWrite a slot bs false).lineRead a bs.length slot).1 = bs ∧ ((s.lineWrite a slot bs false).lineRead a bs.length slot).2.1 = false) ∧
  (∀ (s : State) (a slot : Nat) (bs : List Byte) (p : Bool) (b : Nat), ¬ (a ≤ b ∧ b < a + bs.length) →
    Memory.read (s.lineWrite a slot bs p).hbm b = Memory.read s.hbm b) ∧
  (∀ (s : State) (a n slot k : Nat), s.lineSlot.find? (lineOf a) = some k → k ≠ slot →
    (s.lineRead a n slot).1 = zeros n ∧ (s.lineRead a n slot).2.1 = true ∧ (s.lineRead a n slot).2.2.mee.tagFail = satAdd s.mee.tagFail 1) ∧
  (∀ (s : State) (a slot k n : Nat) (bs : List Byte), s.lineSlot.find? (lineOf a) = some k → k ≠ slot → (a % 64 ≠ 0 ∨ bs.length ≠ 64) →
    ((s.lineWrite a slot bs false).lineRead a n slot).1 = zeros n ∧ ((s.lineWrite a slot bs false).lineRead a n slot).2.1 = true)

/-- A store goes where its address translates to, inside one line, and nowhere else; where the access is refused the bytes it was
to store to keep what they hold, but for the context's fault record (R269, R272–R279). -/
def Obligations.StoresGoWhereTheyAim : Prop :=
  (∀ (s : State) (w : Who) (va need a k : Nat) (bs : List Byte) (p : Bool), (s.aim w va need rWrite accWrite).1 = .to a k →
    (s.writePiece w va bs p need).1 = .ok ∧
    (∀ i, i < bs.length → Memory.read (s.writePiece w va bs p need).2.hbm (a + i) = bs.getD i 0) ∧
    ∀ b, ¬ (a ≤ b ∧ b < a + bs.length) → Memory.read (s.writePiece w va bs p need).2.hbm b = Memory.read s.hbm b) ∧
  (∀ (s : State) (w : Who) (va need : Nat) (m : Met) (bs : List Byte) (p : Bool), (s.aim w va need rWrite accWrite).1 = .not m →
    (s.writePiece w va bs p need).1 = m ∧ (s.writePiece w va bs p need).2 = (s.aim w va need rWrite accWrite).2) ∧
  (∀ (s : State) (w : Who) (va need page acc a k : Nat), (s.aim w va need page acc).1 = .to a k → (s.aim w va need page acc).2.hbm = s.hbm)

/-- A transfer moves its bytes in order and never beyond the boundary it runs to (R299); one that is stopped ends FAULTED_PARTIAL
(R278). -/
def Obligations.TransfersStayInTheirChunk : Prop :=
  ∀ (src : Source) (dst : Dest) (fin fuel u : Nat) (m : Moved) (s : State), u ≤ fin → m.done = u →
    u ≤ (moveRun src dst fin fuel u m s).1.done ∧ (moveRun src dst fin fuel u m s).1.done ≤ fin ∧
    ((moveRun src dst fin fuel u m s).1.halted = false → fin ≤ u + fuel → (moveRun src dst fin fuel u m s).1.done = fin) ∧
    (m.halted = false → (moveRun src dst fin fuel u m s).1.halted = true → stPartial = (moveRun src dst fin fuel u m s).1.status.1)

/-! The commands of a queue (R205–R237, R466–R470). -/

/-- NOP, FENCE and the waits on time and on a gate (R220, R224, R225, R226). GATE_ARM and GATE_DISARM do to their gate what the
time page's writes would (R224). -/
def Obligations.WaitAndGateCommands : Prop :=
  (∀ (s : State) (q : QueueId) (e : Entry), s.starts q 0x01 e = true → Completes (.nop q) s (fun t => t.finished q e.pos stDone 0 0 ∧ Only [.stalls] s t)) ∧
  (∀ (s : State) (q : QueueId) (e : Entry), s.starts q 0x13 e = true → Completes (.fence q) s (fun t => t.finished q e.pos stDone 0 0 ∧ Only [.stalls] s t)) ∧
  (∀ (s : State) (q : QueueId) (e : Entry), s.starts q 0x08 e = true →
    Completes (.waitAt q) s (fun t => (e.u64 8 ≤ s.now → t.finished q e.pos stDone 0 s.nowW) ∧ (s.now < e.u64 8 → t.waits q e.pos) ∧ Only [.stalls] s t)) ∧
  (∀ (s : State) (q : QueueId) (pos : U32) (e : Entry), s.started? q.stall (queueKey q) pos = some e → e.opcode = 0x08 → e.u64 8 ≤ (s.advance (e.u64 8)).now →
    Completes (.waitAtPass q pos) s (fun t => e.u64 8 ≤ t.now ∧ t.finished q pos stDone 0 t.nowW)) ∧
  (∀ (s : State) (q : QueueId) (e : Entry) (g : Nat), s.starts q 0x09 e = true → e.gate = some g →
    Completes (.waitGate q) s (fun t => ((s.gate g).st = .fired → t.finished q e.pos stDone 0 (s.gate g).firedAt) ∧ ((s.gate g).st ≠ .fired → t.waits q e.pos) ∧
      Only [.stalls] s t)) ∧
  (∀ (s : State) (q : QueueId) (e : Entry), s.starts q 0x12 e = true →
    Completes (.waitQueue q) s (fun t => ((s.waitQueueValue q.stall (queueKey q) e).2 = true → t.finished q e.pos stDone 0 (s.waitQueueValue q.stall (queueKey q) e).1) ∧
      ((s.waitQueueValue q.stall (queueKey q) e).2 = false → t.waits q e.pos) ∧ Only [.stalls] s t)) ∧
  (∀ (s : State) (q : QueueId) (pos : U32) (e : Entry), s.started? q.stall (queueKey q) pos = some e → e.opcode = 0x12 → e.u64 0x18 ≠ 0 →
    Completes (.waitQueueTimeout q pos) s (fun t => t.finished q pos stPartial 0x07 (s.waitQueueValue q.stall (queueKey q) e).1)) ∧
  (∀ (s : State) (q : QueueId) (e : Entry) (g : Nat), s.starts q 0x0A e = true → e.gate = some g → g < 256 → (s.gate g).pend = [] →
    ((s.gate g).st = .idle ∨ (s.gate g).st = .fired) →
    Completes (.gateArm q) s (fun t => (t.gate g).cmp = BitVec.ofNat 64 (e.u64 0x10) ∧ (t.gate g).preroll = BitVec.ofNat 32 (e.u32 0x0C) ∧
      (t.gate g).wakeN = BitVec.ofNat 10 (e.u16 0x0A) ∧ (t.gate g).pend = [] ∧ (t.gate g).st ≠ .idle ∧ t.finished q e.pos stDone 0 (t.gate g).stateWord)) ∧
  (∀ (s : State) (q : QueueId) (e : Entry) (g : Nat), s.starts q 0x0B e = true → e.gate = some g →
    Completes (.gateDisarm q) s (fun t => t.gate g = { s.gate g with pend := (s.gate g).pend ++ [.disarm], landed := s.now } ∧ t.finished q e.pos stDone 0 0 ∧
      ∀ j, j ≠ g → t.gate j = s.gate j))

/-- The commands that write a word or a semaphore, and the waits on one (R222, R224, R228, R470): the bytes stored are those their
run of writes stores at the command's address, and VALUE reports what the spec says. A read of SEM_WAIT that finds poison waits
on and the wait then ends POISON_CONSUMED, the model's reading (log 98). The end of a command and the visibility of its record
(R213, R227, R230): the status is written once, and COMPLETED_POS and COMPLETED_ASN follow in order. -/
def Obligations.MarksReceiptsAndEnds : Prop :=
  (∀ (s : State) (q : QueueId) (e : Entry), s.starts q 0x0C e = true →
    Completes (.timestamp q) s (fun t =>
      let r := (s.withStarted q e).writeRun (cmdWho q.stall (queueKey q) e) (e.u64 8) (leBytes 8 s.nowW.toNat) (List.replicate 8 false) rWrite
      t.hbm = r.2.hbm ∧ (r.1.2 = [] → t.finished q e.pos stDone 0 s.nowW))) ∧
  (∀ (s : State) (q : QueueId) (e : Entry), s.starts q 0x10 e = true →
    Completes (.semSignal q) s (fun t =>
      let r := ((s.withStarted q e).modEntry q.stall (queueKey q) e.pos (fun x => { x with sideEffect := nonReplayable e.bytes })).atomic
        (cmdWho q.stall (queueKey q) e) (e.u64 8) 8 (match e.u8 0x18 with | 1 => .add | 2 => .umax | _ => .swap) (e.u64 0x10)
      t.hbm = r.2.2.hbm ∧ (r.2.1 = .ok → t.finished q e.pos stDone 0 (BitVec.ofNat 64 (r.1.getD 0))))) ∧
  (∀ (s : State) (q : QueueId) (e : Entry), s.starts q 0x11 e = true →
    Completes (.semWait q) s (fun t =>
      let r := (s.withStarted q e).readPiece (cmdWho q.stall (queueKey q) e) (e.u64 8) 8 rRead rRead accRead
      (r.2.1 = .ok → semHolds (e.u8 0x18) (leNat r.1) (e.u64 0x10) = true → t.finished q e.pos stDone 0 (BitVec.ofNat 64 (leNat r.1))) ∧
      (r.2.1 = .ok → semHolds (e.u8 0x18) (leNat r.1) (e.u64 0x10) = false → t.waits q e.pos))) ∧
  (∀ (s : State) (q : QueueId) (pos : U32) (e : Entry), s.started? q.stall (queueKey q) pos = some e → e.opcode = 0x11 →
    (e.u64 0x20 = 0 ∨ s.now < e.startAt + e.u64 0x20) →
    Completes (.semWaitPass q pos) s (fun t =>
      let r := s.readPiece (cmdWho q.stall (queueKey q) e) (e.u64 8) 8 rRead rRead accRead
      (r.2.1 = .ok → semHolds (e.u8 0x18) (leNat r.1) (e.u64 0x10) = true →
        t.finished q pos (if e.poll.isSome then stPoison else stDone) (e.poll.getD 0) (BitVec.ofNat 64 (leNat r.1))) ∧
      (r.2.1 = .poisoned ∨ r.2.1 = .conflict ∨ (r.2.1 = .ok ∧ semHolds (e.u8 0x18) (leNat r.1) (e.u64 0x10) = false) → t.waits q pos))) ∧
  (∀ (s : State) (q : QueueId) (pos : U32) (e : Entry), s.started? q.stall (queueKey q) pos = some e → e.opcode = 0x11 → e.u64 0x20 ≠ 0 →
    Completes (.semWaitTimeout q pos) s (fun t => match e.poll with
      | none => t.finished q pos stPartial 0x07 e.value
      | some d => ∃ v, t.finished q pos stPoison d v)) ∧
  (∀ (s : State) (q : QueueId) (e : Entry) (n : Stall) (x : Queue), s.starts q 0x14 e = true → s.stall? q.stall = some n → s.queue? q.stall (queueKey q) = some x →
    Completes (.receipt q) s (fun t => t.free = s.free + 1 ∧ ∃ (d : Byte × Byte) (v : U64), t.finished q e.pos d.1 d.2 v ∧ (d.1 = stDone → v = BitVec.ofNat 64 (x.receiptRecs e).length))) ∧
  (∀ (s : State) (q : QueueId) (pos : U32) (e : Entry), s.entryAt q pos = some e → e.st = .ready →
    Completes (.commandEnd q pos) s (fun t => t.entryAt q pos = some (e.conclude s.now))) ∧
  (∀ (e : Entry) (now : Nat), (e.conclude now).st = .ended ∧ (e.conclude now).value = e.value ∧ (e.conclude now).detail = e.detail ∧
    (e.status ≠ stDone → (e.conclude now).status = e.status) ∧
    (e.status = stDone → 0 < e.replays → (e.conclude now).status = stDoneReplayed) ∧
    (∀ r, e.status = stDone → e.replays = 0 → e.lateRef = some r → r + 1600 < e.beginAt → (e.conclude now).status = stDoneLate) ∧
    (e.startAt ≠ 0 → (e.conclude now).endAt = now)) ∧
  (∀ (s : State) (q : QueueId) (x : Queue) (e : Entry), s.queue? q.stall (queueKey q) = some x → x.nextVisible? = some e → e.st = .ended → s.queueServed x = true →
    Completes (.completionVisible q) s (fun t => ∃ y, t.queue? q.stall (queueKey q) = some y ∧ y.completedPos = e.pos + 1 ∧ y.completedAsn = e.asn ∧
      y.hdrSeq = x.hdrSeq + 2 ∧ (isFaultStatus e.status = true → y.faulted = true) ∧ y.acceptedPos = x.acceptedPos ∧ y.consumed = x.consumed))

/-- Transfers (R223, R224, R299, R459, R466): each moves its next chunk between the addresses its fields give, and ends where the
chunk was its last. A COPY between a stall and a sealed bounce area, and a SEALED_LOAD, move whole pages. -/
def Obligations.TransferCommands : Prop :=
  (∀ (s : State) (q : QueueId) (e : Entry), s.starts q 0x20 e = true → e.u8 0x20 ≠ 2 → e.u8 0x21 ≠ 2 →
    Completes (.copy q) s (fun t => t.moved q e.pos (e.u64 0x18)
      (moveRun (sideSource q.stall (cmdWho q.stall (queueKey q) e) (e.u8 0x20) (e.u8 0x21) (fun i => e.u64 8 + i) (fun i => e.u64 0x18 - i))
        (sideDest q.stall (cmdWho q.stall (queueKey q) e) (e.u8 0x21) (e.u8 0x20) (fun i => e.u64 0x10 + i) (fun i => e.u64 0x18 - i))
        (chunkEnd e.progress (e.u64 0x18)) chunkFuel e.progress (startMoved e) (s.withStarted q e)))) ∧
  (∀ (s : State) (q : QueueId) (e : Entry), s.starts q 0x20 e = true → (e.u8 0x20 = 2 ∨ e.u8 0x21 = 2) → (s.session? (e.u32 0x24)).isSome = true →
    Completes (.copy q) s (fun t => t.moved q e.pos (e.u64 0x18)
      (bouncePages q.stall (queueKey q) e.pos (e.u8 0x21 = 2) (cmdWho q.stall (queueKey q) e) (e.u32 0x24) (e.u64 8) (e.u64 0x10) (e.u64 0x18)
        (chunkEnd e.progress (e.u64 0x18)) chunkFuel (startMoved e) (s.withStarted q e)))) ∧
  (∀ (s : State) (q : QueueId) (e : Entry), s.starts q 0x20 e = true → (e.u8 0x20 = 2 ∨ e.u8 0x21 = 2) → (s.session? (e.u32 0x24)).isNone = true →
    Completes (.copy q) s (fun t => t.finished q e.pos stNotRun 0x04 0 ∧ t.hbm = s.hbm ∧ t.host.hostMem = s.host.hostMem)) ∧
  (∀ (s : State) (q : QueueId) (e : Entry), s.starts q 0x21 e = true →
    Completes (.copyStrided q) s (fun t => t.moved q e.pos (e.u32 0x18 * e.u32 0x1C)
      (moveRun (sideSource q.stall (cmdWho q.stall (queueKey q) e) (e.u8 0x28) (e.u8 0x29)
          (fun i => e.u64 8 + i / e.u32 0x18 * e.u32 0x20 + i % e.u32 0x18) (fun i => e.u32 0x18 - i % e.u32 0x18))
        (sideDest q.stall (cmdWho q.stall (queueKey q) e) (e.u8 0x29) (e.u8 0x28)
          (fun i => e.u64 0x10 + i / e.u32 0x18 * e.u32 0x24 + i % e.u32 0x18) (fun i => e.u32 0x18 - i % e.u32 0x18))
        (chunkEnd e.progress (e.u32 0x18 * e.u32 0x1C)) chunkFuel e.progress (startMoved e) (s.withStarted q e)))) ∧
  (∀ (s : State) (q : QueueId) (e : Entry), s.starts q 0x22 e = true →
    Completes (.fill q) s (fun t => t.moved q e.pos (e.u64 0x10)
      (moveRun (fillSource (slice e.bytes 0x18 (e.u8 0x20)))
        (stallDest (cmdWho q.stall (queueKey q) e) false (fun i => e.u64 8 + i) (fun i => e.u64 0x10 - i))
        (chunkEnd e.progress (e.u64 0x10)) chunkFuel e.progress (startMoved e) (s.withStarted q e)))) ∧
  (∀ (s : State) (q : QueueId) (e : Entry) (x : Stall) (im : SealedImage), s.starts q 0x23 e = true → s.stall? q.stall = some x →
    x.attest.images.find? (e.u32 0x24) = some im → (e.u64 0x28 + e.u64 0x18) / 4096 ≤ im.pages →
    Completes (.sealedLoad q) s (fun t => t.moved q e.pos (e.u64 0x18)
      (sealedPages (cmdWho q.stall (queueKey q) e) im (e.u64 8) (e.u64 0x10) (e.u64 0x28 / 4096) (chunkEnd e.progress (e.u64 0x18)) chunkFuel (startMoved e)
        (s.withStarted q e))))

/-! Kernels and tasks (R221, R291–R298, R442). -/

/-- LAUNCH and LAUNCH_INDIRECT start a grid with no task placed, or end their command with the status that loading the kernel came
to (R221, R296, R442). A ready task is put on a free cluster: the next index of the launch that the queue served next has, and the
cluster is the stall's (R233, R291–R293, R301). A task that ends or stops at a safe point leaves its cluster free; the last one of
a launch ends its command with the tasks completed as its VALUE, and a stopped one is kept in the lowest free save slot (R224,
R293, R295–R298); one that has not begun goes back to its pool (R295, log 99). -/
def Obligations.ClusterWork : Prop :=
  (∀ (s : State) (q : QueueId) (e : Entry), s.starts q 0x02 e = true →
    Completes (.launch q) s (fun t =>
      let r := (s.withStarted q e).loadKernel (cmdWho q.stall (queueKey q) e) (e.u64 8) (e.u64 0x10) (e.u32 0x2C) (e.u64 0x18)
      (∀ st, r.1 = .inr st → t.finished q e.pos st.1 st.2 0) ∧
      (∀ l, r.1 = .inl l → t.waits q e.pos ∧ ∃ y k, t.stall? q.stall = some y ∧ y.launches.getLast? = some k ∧ k.qk = queueKey q ∧ k.pos = e.pos ∧
        k.gridX = e.u32 0x20 ∧ k.gridY = e.u32 0x24 ∧ k.gridZ = e.u16 0x28 ∧ k.next = 0 ∧ k.done = 0 ∧ k.running = [] ∧ k.saved = [] ∧ k.lrd = l.lrd))) ∧
  (∀ (s : State) (q : QueueId) (e : Entry), s.starts q 0x03 e = true →
    Completes (.launchIndirect q) s (fun t =>
      let g := (s.withStarted q e).fetch (cmdWho q.stall (queueKey q) e) (e.u64 0x20) 12 rRead rRead accRead (0, 0)
      (∀ d, g.1 = .stops d → t.finished q e.pos stPartial d 0) ∧
      (∀ b st, g.1 = .bytes b st → (f32 b 0 = 0 ∨ f32 b 4 = 0 ∨ f32 b 8 = 0 ∨ 65535 < f32 b 8) → t.finished q e.pos stNotRun 0x0F 0) ∧
      (∀ b st l, g.1 = .bytes b st → ¬ (f32 b 0 = 0 ∨ f32 b 4 = 0 ∨ f32 b 8 = 0 ∨ 65535 < f32 b 8) →
        (g.2.loadKernel (cmdWho q.stall (queueKey q) e) (e.u64 8) (e.u64 0x10) (e.u32 0x2C) (e.u64 0x18)).1 = .inl l →
        t.waits q e.pos ∧ ∃ y k, t.stall? q.stall = some y ∧ y.launches.getLast? = some k ∧ k.qk = queueKey q ∧ k.pos = e.pos ∧
          k.gridX = f32 b 0 ∧ k.gridY = f32 b 4 ∧ k.gridZ = f32 b 8 ∧ k.next = 0 ∧ k.running = []))) ∧
  (∀ (s : State) (q : QueueId) (e : Entry),
    (s.modCtx q.stall (qkCtx (queueKey q)) (fun x => { x with pauseReq := false, rotReq := none, sliceReq := none })).starts q 0x04 e = true →
    Completes (.safeHint q) s (fun t =>
      let asked := (s.stall? q.stall).any (fun t => (t.ctx? (qkCtx (queueKey q))).any Ctx.requested)
      ∃ v : U64, t.finished q e.pos stDone 0 v ∧ (asked = true → v = 1) ∧ (asked = false → e.u8 8 ≠ 1 → v = 0))) ∧
  (∀ (s : State) (n : StallNo) (x : Stall) (k c : Nat) (l : Launch) (e : Entry) (y : Queue), s.stall? n = some x → s.freeCluster? x = some c →
    x.nextServed ((s.readyQueues x (fun _ => true)).filter (fun k => (x.queue? k).any (fun q => decide (q.served < q.weight)))) = some k →
    x.readyLaunch k = some l → l.saved = [] → l.again = [] → x.queue? k = some y → y.entry? l.pos = some e →
    Completes (.taskPlace n) s (fun t => (t.clusters.get Cluster.init c).stall = some n.val ∧ (t.clusters.get Cluster.init c).ctx = qkCtx k ∧
      ∃ z d, t.stall? n = some z ∧ z.launch? k l.pos = some d ∧ ∃ r ∈ d.running, r.idx = l.next ∧ r.cluster = c)) ∧
  (∀ (s : State) (c : Fin 512) (q : QueueId) (x : Stall) (l : Launch) (r : RunTask) (e : Entry), s.taskOn c = some (q.stall, l, r) → s.stall? q.stall = some x →
    l.qk = queueKey q → x.launch? l.qk l.pos = some l → s.entryAt q l.pos = some e → e.st = .started → l.stopping = false →
    Completes (.taskEnd c [] .done) s (fun t => (t.clusters.get Cluster.init c).stall = none ∧ t.hbm = s.hbm ∧
      (l.running = [r] → l.saved = [] → l.again = [] → l.total ≤ l.next →
        t.finished q l.pos (finalStatus (e.status, e.detail)).1 (finalStatus (e.status, e.detail)).2 (BitVec.ofNat 64 (l.done + 1))) ∧
      (l.next < l.total → ∃ y d, t.stall? q.stall = some y ∧ y.launch? l.qk l.pos = some d ∧ d.done = l.done + 1))) ∧
  (∀ (s : State) (c : Fin 512) (q : QueueId) (x : Stall) (l : Launch) (r : RunTask) (e : Entry) (d : Lrd) (a : LrdEntry) (pc : U32) (core ranges : List Byte),
    s.taskOn c = some (q.stall, l, r) → s.stall? q.stall = some x → l.qk = queueKey q → x.launch? l.qk l.pos = some l → s.entryAt q l.pos = some e →
    l.lrd = some d → d.entries.find? (fun y => y.pc = pc.toNat) = some a → (x.paused || (x.ctx? (qkCtx l.qk)).any Ctx.requested) = true → r.startAt ≤ s.now →
    Completes (.taskSafePointStop c pc core ranges) s (fun t => (t.clusters.get Cluster.init c).stall = none ∧ (t.clusters.get Cluster.init c).atSafe = true ∧
      ∀ y k, t.stall? q.stall = some y → y.launch? l.qk l.pos = some k → k.stopping = false →
        k.saved.find? (l.freeSlot s.now) = some (r.idx, pc) ∧ ∀ z ∈ k.running, z.cluster ≠ c.val)) ∧
  (∀ (s : State) (c : Fin 512) (q : QueueId) (x : Stall) (l : Launch) (r : RunTask) (pc : U32) (core ranges : List Byte),
    s.taskOn c = some (q.stall, l, r) → s.stall? q.stall = some x → l.qk = queueKey q → x.launch? l.qk l.pos = some l → l.stopping = false → r.back = none →
    (x.paused || (x.ctx? (qkCtx l.qk)).any Ctx.requested) = true → s.now < r.startAt →
    Completes (.taskSafePointStop c pc core ranges) s (fun t => (t.clusters.get Cluster.init c).stall = none ∧ t.hbm = s.hbm ∧
      ∃ y k, t.stall? q.stall = some y ∧ y.launch? l.qk l.pos = some k ∧ r.idx ∈ k.again ∧ k.done = l.done ∧ ∀ z ∈ k.running, z.cluster ≠ c.val))

/-! Queues (R205–R218, R235, R237, R460). -/

/-- Queues are made, removed and bound anew (R205–R208, R460). -/
def Obligations.QueueRequests : Prop :=
  (∀ (s : State) (m : MbReq) (p : HostPort) (n : StallNo) (x : Stall), m.fn = .vf p n → s.stall? n = some x →
    s.mbTakes (queueCreateForm x.hold.ctxMax) m = true → (s.mbGo (plain m) 0x0030).1.queueCreateRefusal x n m.payload = none →
    Completes (.queueCreate m) s (fun t => ∃ y, t.queue? n (qkey (f8 m.payload 0) (f8 m.payload 1) (f8 m.payload 2)) = some y ∧
      y.log2Depth = f8 m.payload 3 ∧ y.weight = f8 m.payload 4 ∧ y.vector = f8 m.payload 5 ∧ y.ring = f64 m.payload 16 ∧ y.cpl = f64 m.payload 24 ∧
      y.hdr = f64 m.payload 32 ∧ y.admLimit = (if f32 m.payload 8 = 0 then 2 ^ f8 m.payload 3 else f32 m.payload 8) ∧ y.acceptedPos = 0 ∧ y.completedPos = 0 ∧
      y.consumed = 0 ∧ y.entries = [] ∧
      y.baseAsn = asnOf x.journal.era (x.journal.nextCount (qkey (f8 m.payload 0) (f8 m.payload 1) (f8 m.payload 2))))) ∧
  (∀ (s : State) (m : MbReq) (p : HostPort) (n : StallNo) (y : Queue), m.fn = .vf p n → s.mbTakes queueDestroyForm m = true →
    s.queue? n (qkey (f8 m.payload 0) (f8 m.payload 1) (f8 m.payload 2)) = some y → y.idle = true → y.checking = none →
    Completes (.queueDestroy m) s (fun t => t.answered m 0x0031 ok ∧ t.queue? n (qkey (f8 m.payload 0) (f8 m.payload 1) (f8 m.payload 2)) = none ∧
      ∀ k, k ≠ qkey (f8 m.payload 0) (f8 m.payload 1) (f8 m.payload 2) → t.queue? n k = s.queue? n k)) ∧
  (∀ (s : State) (i : U32) (m : MbReq) (p : HostPort) (n : StallNo) (x : Session) (y : Queue), s.sessionHeard i.toNat = some x → x.finished = true →
    x.fn = some (.vf p n) → s.mbCheck queueRebindForm { fn := .vf p n, tag := m.tag, payload := m.payload, session := some i } = none →
    s.queue? n (qkey (f8 m.payload 0) (f8 m.payload 1) (f8 m.payload 2)) = some y → y.isSealed = true → y.waiting = [] →
    Completes (.queueRebind (some i) m) s (fun t => ∃ z, t.queue? n (qkey (f8 m.payload 0) (f8 m.payload 1) (f8 m.payload 2)) = some z ∧
      z.session = i ∧ z.pages = [] ∧ z.acceptedPos = y.acceptedPos ∧ z.entries = y.entries ∧
      t.host.out.getLast? = some (.spdm (some (.vf p n)) 0x7E (RespHdr.mk 0x0076 m.tag 0 resOk 0).bytes)))

/-- A doorbell begins a check of the positions up to its tail, waits where one is held, and is counted where its tail is out of
range (R215, R216, R218); the check is published in one go (R217), and CONSUMED frees records (R215, R235). -/
def Obligations.DoorbellsAndAcceptance : Prop :=
  (∀ (s : State) (p : HostPort) (q : QueueId) (tail : U32) (x : Queue), s.vfSeen q.stall p = true → s.running = true →
    s.queue? q.stall (queueKey q) = some x → (s.wakePackage 0 false).dbHeld q.stall x = true →
    Completes (.doorbell p q tail) s (fun t => t.queue? q.stall (queueKey q) = some { x with waiting := x.waiting ++ [(tail, p.val)] })) ∧
  (∀ (s : State) (p : HostPort) (q : QueueId) (tail : U32) (x : Queue), s.vfSeen q.stall p = true → s.running = true →
    s.queue? q.stall (queueKey q) = some x → (s.wakePackage 0 false).dbHeld q.stall x = false → x.ringFault = false →
    x.depth < (tail - x.acceptedPos).toNat →
    Completes (.doorbell p q tail) s (fun t => t.queue? q.stall (queueKey q) = some { x with staleDb := satAdd x.staleDb 1 })) ∧
  (∀ (s : State) (p : HostPort) (q : QueueId) (tail : U32) (x : Queue), s.vfSeen q.stall p = true → s.running = true →
    s.queue? q.stall (queueKey q) = some x → (s.wakePackage 0 false).dbHeld q.stall x = false → x.ringFault = false →
    (tail - x.acceptedPos).toNat ≤ x.depth → tail ≠ x.acceptedPos →
    Completes (.doorbell p q tail) s (fun t =>
      (∀ n, s.stall? q.stall = some n → n.journal.nextCount (queueKey q) + (tail - x.acceptedPos).toNat ≤ countMax → (t.queue? q.stall (queueKey q)).isSome = true) ∧
      ∀ y, t.queue? q.stall (queueKey q) = some y → ∃ c, y.checking = some c ∧ c.tail = tail ∧ c.port = p.val ∧
      c.fresh.length ≤ (tail - x.acceptedPos).toNat ∧ y.acceptedPos = x.acceptedPos)) ∧
  (∀ (s : State) (q : QueueId) (x : Queue) (n : Stall) (c : Check), s.stall? q.stall = some n → n.journal.durable = true → s.queue? q.stall (queueKey q) = some x →
    x.checking = some c → x.waiting = [] →
    Completes (.acceptancePublish q) s (fun t => ∃ y, t.queue? q.stall (queueKey q) = some y ∧ y.checking = none ∧
      y.acceptedPos = x.acceptedPos + BitVec.ofNat 32 c.fresh.length ∧ y.entries.length = x.entries.length + c.fresh.length ∧ y.hdrSeq = x.hdrSeq + 2 ∧
      (∀ r, c.refusal = some r → y.refCode = r.1 ∧ y.refDetail = r.2 ∧ y.refPos = y.acceptedPos ∧
        y.refusedCount = x.refusedCount + (c.tail - y.acceptedPos)))) ∧
  (∀ (s : State) (q : QueueId) (v : U32) (x : Queue), s.queue? q.stall (queueKey q) = some x → (x.completedPos - x.consumed).toNat < (v - x.consumed).toNat →
    Completes (.consumedWrite q v) s (fun t => t.queue? q.stall (queueKey q) = some { x with staleDb := satAdd x.staleDb 1 })) ∧
  (∀ (s : State) (q : QueueId) (v : U32) (x : Queue), s.queue? q.stall (queueKey q) = some x → (v - x.consumed).toNat ≤ (x.completedPos - x.consumed).toNat →
    Completes (.consumedWrite q v) s (fun t => ∃ y, t.queue? q.stall (queueKey q) = some y ∧ y.consumed = v ∧ y.acceptedPos = x.acceptedPos ∧
      y.completedPos = x.completedPos ∧ y.entries = x.entries.filter (fun e => decide ((v - x.consumed).toNat ≤ (e.pos - x.consumed).toNat)))) ∧
  (∀ (s : State) (p : HostPort) (q : QueueId) (x : Queue), s.vfSeen q.stall p = true → s.queue? q.stall (queueKey q) = some x →
    Completes (.qdbAsnLoRead p q) s (fun t => (t.lat (.vf p q.stall)).qdbHi = hi32 x.acceptedAsn ∧
      t.host.out = s.host.out ++ [.readData (.vf p q.stall) (leBytes 4 (lo32 x.acceptedAsn).toNat) false]))

/-! The host ports (R170–R204). -/

/-- A host port is lost and comes back (R197, R200, R202), and a function-level reset (R200): no stall changes. Selective IDE
(R201, R202). -/
def Obligations.HostPortsAndIde : Prop :=
  (∀ (s : State) (p : HostPort) (why : PortLoss), s.portFitted p = true → (s.port p).linkUp = true → (s.port p).lost = false →
    Completes (.hostPortLoss p why) s (fun t => (t.port p).linkUp = false ∧ (t.port p).lost = true ∧ (t.port p).streams = [] ∧ t.stalls = s.stalls ∧
      t.hbm = s.hbm ∧ t.host.unreach = s.host.unreach ||| t.unreachable)) ∧
  (∀ (s : State) (p : HostPort), s.portFitted p = true → s.running = true → has s.pkg.deadIodie p = false →
    Completes (.hostPortLinkUp p) s (fun t => (t.port p).linkUp = true ∧ (t.port p).lost = false ∧ (t.port p).perst = false ∧ t.stalls = s.stalls)) ∧
  (∀ (s : State) (p : HostPort), Completes (.flr (.pf0 p)) s (fun t => t.pf p = PfInst.init ∧ Only [.pf] s t)) ∧
  (∀ (s : State) (p : HostPort) (n : StallNo), Completes (.flr (.vf p n)) s (fun t => t.vf p n = VfInst.init ∧ Only [.vf] s t)) ∧
  (∀ (s : State) (p : HostPort) (en : Bool) (num : U16), s.portFitted p = true →
    Completes (.sriovConfigWrite p en num) s (fun t => t.pf p = { s.pf p with vfEnable := en, numVfs := num } ∧ Only [.pf] s t)) ∧
  (∀ (s : State) (p : HostPort) (k : Fin 8), s.portFitted p = true → ((s.port p).streams.get IdeStream.init k).st = .active →
    Completes (.ideTlpCheckFail p k) s (fun t => ((t.port p).streams.get IdeStream.init k).st = .insecure ∧ Only [.ports] s t)) ∧
  (∀ (s : State) (p : HostPort) (k : Fin 8) (i : U32), s.portFitted p = true → (s.session? i.toNat).any (fun x => x.fn = some (.pf0 p)) = true →
    (s.port p).lost = false → ((s.port p).streams.get IdeStream.init k).st ≠ .inactive →
    Completes (.ideKmRequest p k .go i) s (fun t => ((t.port p).streams.get IdeStream.init k).st = .active ∧
      ((t.port p).streams.get IdeStream.init k).keyGen = ((s.port p).streams.get IdeStream.init k).keyGen + 1))

/-- The cause registers (R186, R188): enabling causes that are set raises their messages; nothing else of the instance changes.
The BAR2 window (R178, R272, R280, R414): a read delivers the bytes at HL_VBAR2_BASE + offset and a write stores there, line by
line; outside the window's rights a read delivers zeros and a write is dropped. Writes and reads of BAR0 by their offset (R17,
R176, R177): a masked write-one-to-clear bit, a mailbox buffer, a read that clears, and an 8-byte read that returns the GTB, an ASN or a
delivery counter whole and latches nothing (R50, R237, R362). -/
def Obligations.HostRegisters : Prop :=
  (∀ (s : State) (p : HostPort) (v : U32), Completes (.causeEnableWrite (.pf0 p) v) s (fun t => (t.pf p).causeEn = v.setWidth 9 ∧ (t.pf p).cause = (s.pf p).cause)) ∧
  (∀ (s : State) (p : HostPort) (n : StallNo) (x : Stall) (v : U32), s.stall? n = some x →
    Completes (.causeEnableWrite (.vf p n) v) s (fun t => (t.vf p n).causeEn = v.setWidth 5 ∧ (t.vf p n).cause = (s.vf p n).cause)) ∧
  (∀ (s : State) (p : HostPort) (v : U32), (s.pf p).cause &&& v.setWidth 9 &&& ~~~ (s.pf p).causeEn = 0 →
    Completes (.causeEnableWrite (.pf0 p) v) s (fun t => t.host.out = s.barWrite.host.out)) ∧
  (∀ (s : State) (p : HostPort) (n : StallNo) (o a k len : Nat), s.vfSeen n p = true → (s.bar2Aim n ((s.vf p n).bar2Base.toNat + o) rRead).1 = .to a k →
    0 < len → (((s.vf p n).bar2Base.toNat + o) % 64) + len ≤ 64 → (s.lineSlot.find? (lineOf a) = none ∨ s.lineSlot.find? (lineOf a) = some k) → lineOf a ∉ s.poison →
    Completes (.bar2Read p n o len) s (fun t => t.host.out = s.host.out ++ [.readData (.vf p n) (s.hbm.readN a len) false] ∧ t.hbm = s.hbm)) ∧
  (∀ (s : State) (p : HostPort) (n : StallNo) (o len : Nat) (x : Stall), s.vfSeen n p = true → s.stall? n = some x → x.hold.bar2En = false → 0 < len →
    (((s.vf p n).bar2Base.toNat + o) % 64) + len ≤ 64 →
    Completes (.bar2Read p n o len) s (fun t => t.host.out = s.host.out ++ [.readData (.vf p n) (zeros len) false] ∧
      t.stall? n = some { x with bar2Deny := satAdd x.bar2Deny 1 })) ∧
  (∀ (s : State) (p : HostPort) (n : StallNo) (o a k : Nat) (bs : List Byte), s.barWrite.vfSeen n p = true →
    (s.barWrite.bar2Aim n ((s.vf p n).bar2Base.toNat + o) rWrite).1 = .to a k → bs ≠ [] → (((s.vf p n).bar2Base.toNat + o) % 64) + bs.length ≤ 64 →
    Completes (.bar2Write p n o bs) s (fun t => (∀ i, i < bs.length → Memory.read t.hbm (a + i) = bs.getD i 0) ∧
      ∀ b, ¬ (a ≤ b ∧ b < a + bs.length) → Memory.read t.hbm b = Memory.read s.hbm b)) ∧
  (∀ (s : State) (p : HostPort) (v : U32), s.regReached (.pf0 p) = true →
    Completes (.registerWrite (.pf0 p) (.bar0 0x10008) v) s (fun t => (t.pf p).cause = w1c (s.pf p).cause v ∧ (t.pf p).causeEn = (s.pf p).causeEn)) ∧
  (∀ (s : State) (f : Fn) (o : Nat) (v : U32), s.regReached f = true → o % 4 ≠ 0 → Completes (.registerWrite f (.bar0 o) v) s (fun t =>
    t = (if f = .rtp then s else s.barWrite))) ∧
  (∀ (s : State) (p : HostPort) (n : StallNo) (v : U32), s.regReached (.vf p n) = true →
    Completes (.registerWrite (.vf p n) (.bar0 0xE010) v) s (fun t => (t.vf p n).bar2Base = bar2BaseLo (s.vf p n).bar2Base v)) ∧
  (∀ (s : State) (f : Fn) (r : RegAt) (v : U32), s.regReached f = false → Completes (.registerWrite f r v) s (fun t => t = s)) ∧
  (∀ (s : State) (p : HostPort), s.regReached (.pf0 p) = true →
    Completes (.readToClear (.pf0 p) false 0x500040) s (fun t => t.mee.tagFail = 0 ∧ t.mee.eccCe = s.mee.eccCe ∧
      t.host.out = s.host.out ++ [.readData (.pf0 p) (leBytes 4 s.mee.tagFail.toNat) false])) ∧
  (∀ (s : State) (p : HostPort) (n : StallNo) (x : Stall), s.regReached (.vf p n) = true → s.stall? n = some x →
    Completes (.readToClear (.vf p n) false 0xE018) s (fun t => t.stall? n = some { x with bar2Deny := 0 } ∧
      t.host.out = s.host.out ++ [.readData (.vf p n) (leBytes 4 x.bar2Deny.toNat) false])) ∧
  (∀ (s : State) (p : HostPort), s.regReached (.pf0 p) = true → Completes (.readToClear (.pf0 p) false 0x700010) s (fun t => t.power.wakeSrc = 0)) ∧
  (∀ (s : State) (f : Fn) (o v : Nat), s.regReached f = true → s.wideRead f o = some v →
    Completes (.readToClear f true o) s (fun t => t = { s with host := { s.host with out := s.host.out ++ [.readData f (leBytes 8 v) false] } })) ∧
  (∀ (s : State) (p : HostPort) (n : StallNo), s.wideRead (.pf0 p) 0x100000 = some s.nowW.toNat ∧ s.wideRead (.vf p n) 0x1000 = some s.nowW.toNat) ∧
  (∀ (s : State) (p : HostPort) (n : StallNo) (o : Nat) (q : QueueId) (x : Queue), o < 0x2000 → o % 0x10 = 8 → slotQueue n o = some q →
    s.queue? q.stall (queueKey q) = some x → s.wideRead (.vf p n) (0x2000 + o) = some x.acceptedAsn.toNat) ∧
  (∀ (s : State) (p : HostPort) (n : StallNo) (o v : Nat), o < 0xC00 → s.dlvCounter n o = some v → s.wideRead (.vf p n) (0x4000 + o) = some v)

/-! Regulation and delivery (R344–R366). -/

/-- A request is charged whole where its credit covers it or none was charged in the window, goes over budget or waits where it
does not, and passes as an urgent drain whatever the budget (R345–R349, R354); its end is counted with its latency (R350, R364). -/
def Obligations.RequestsAreRegulated : Prop :=
  (∀ (s : State) (n : StallNo) (x : Stall) (k : Fin 5) (size : Fin 257), s.stall? n = some x → size.val ≠ 0 → x.paused = false → s.running = true →
    (x.dlv.reg k).held = [] → (x.dlv.reg k).gateShut = false → x.hold.budget k ≠ 0 → (size.val ≤ (x.dlv.reg k).credit ∨ (x.dlv.reg k).charged = false) →
    Completes (.requestIssue n k size none none) s (fun t => ∃ y, t.stall? n = some y ∧ (y.dlv.reg k).credit = (x.dlv.reg k).credit - size.val ∧
      (y.dlv.reg k).charged = true ∧ (y.dlv.reg k).live.bytesIn = (x.dlv.reg k).live.bytesIn + BitVec.ofNat 64 size.val ∧
      (y.dlv.reg k).flying.length = (x.dlv.reg k).flying.length + 1 ∧ ∀ j, j ≠ k.val → y.dlv.reg j = x.dlv.reg j)) ∧
  (∀ (s : State) (n : StallNo) (x : Stall) (k : Fin 5) (size : Fin 257), s.stall? n = some x → size.val ≠ 0 → x.paused = false → s.running = true →
    (x.dlv.reg k).held = [] → (x.dlv.reg k).gateShut = false → (x.dlv.reg k).credit < size.val → (x.dlv.reg k).charged = true →
    Completes (.requestIssue n k size none none) s (fun t => ∃ y, t.stall? n = some y ∧ (y.dlv.reg k).credit = (x.dlv.reg k).credit ∧
      ((x.dlv.reg k).mode = 0 → (y.dlv.reg k).held.length = 1 ∧ (y.dlv.reg k).live.bytesOver = (x.dlv.reg k).live.bytesOver) ∧
      ((x.dlv.reg k).mode ≠ 0 → (y.dlv.reg k).held = [] ∧ (y.dlv.reg k).live.bytesOver = (x.dlv.reg k).live.bytesOver + BitVec.ofNat 64 size.val))) ∧
  (∀ (s : State) (n : StallNo) (x : Stall) (k : Fin 5) (size : Fin 257) (p : LinkPort), s.stall? n = some x → size.val ≠ 0 → has s.rg.linkUrgent p = true →
    Completes (.requestIssue n k size (some (false, p)) none) s (fun t => ∃ y, t.stall? n = some y ∧
      (y.dlv.reg k).live.bytesUrgent = (x.dlv.reg k).live.bytesUrgent + BitVec.ofNat 64 size.val ∧ (y.dlv.reg k).held = (x.dlv.reg k).held)) ∧
  (∀ (s : State) (n : StallNo) (x : Stall) (k : Fin 5) (i a : Nat) (r : PortReq), s.stall? n = some x →
    List.find? (fun (e : PortReq × Nat) => e.1.id = i) (x.dlv.reg k).flying = some (r, a) →
    Completes (.requestComplete n k i) s (fun t => ∃ y, t.stall? n = some y ∧ (∀ e ∈ (y.dlv.reg k).flying, e.1.id ≠ i) ∧
      (y.dlv.reg k).live.requests = (x.dlv.reg k).live.requests + 1 ∧
      (y.dlv.reg k).live.latSum = (x.dlv.reg k).live.latSum + BitVec.ofNat 64 (s.now - a) ∧ (y.dlv.reg k).winN = (x.dlv.reg k).winN + 1 ∧
      (y.dlv.reg k).credit = (x.dlv.reg k).credit))

/-- The RG block and the delivery page (R349, R354, R355, R357, R362): urgency, its thresholds, duty gates, jobs of the yard
memory regulator, and the latching read of a counter. The priority of a regulator under a latency target (R350, R351): the step of
each eighth of the target, and never above 15. -/
def Obligations.RegulatorsAndLatency : Prop :=
  (∀ (s : State) (p : LinkPort), fitted s.pkg.variant (.urgencyAssert false p) = true → has s.rg.linkUrgent p = false →
    Completes (.urgencyAssert false p) s (fun t => has t.rg.linkUrgent p = true ∧ t.rg.evtLink = satAdd s.rg.evtLink 1 ∧ t.rg.evtHost = s.rg.evtHost ∧ Only [.rg] s t)) ∧
  (∀ (s : State) (p : LinkPort), fitted s.pkg.variant (.urgencyAssert true p) = true → has s.rg.hostUrgent p = false →
    Completes (.urgencyAssert true p) s (fun t => has t.rg.hostUrgent p = true ∧ t.rg.evtHost = satAdd s.rg.evtHost 1 ∧ t.rg.evtLink = s.rg.evtLink ∧ Only [.rg] s t)) ∧
  (∀ (s : State) (host : Bool) (p : LinkPort), fitted s.pkg.variant (.urgencyWithdraw host p) = true →
    Completes (.urgencyWithdraw host p) s (fun t => (if host then has t.rg.hostUrgent p else has t.rg.linkUrgent p) = false ∧
      t.rg.evtLink = s.rg.evtLink ∧ t.rg.evtHost = s.rg.evtHost ∧ Only [.rg] s t)) ∧
  (∀ (s : State) (n : StallNo) (k : Fin 5) (x : Stall) (v : U32), s.stall? n = some x →
    Completes (.rgDutyWrite n k v) s (fun t => ∃ y, t.stall? n = some y ∧ dutyOn (y.dlv.reg k).duty = has v 8 ∧ dutyInv (y.dlv.reg k).duty = has v 9 ∧
      dutyDemotes (y.dlv.reg k).duty = has v 10 ∧ dutySrc (y.dlv.reg k).duty = (if isLevel (dutySrc v) then dutySrc v else 0) ∧
      (y.dlv.reg k).gateShut = s.barWrite.dutyShut (y.dlv.reg k).duty ∧ ∀ j, j ≠ k.val → y.dlv.reg j = x.dlv.reg j)) ∧
  (∀ (s : State) (n : StallNo) (k : Fin 5) (x : Stall), s.stall? n = some x →
    Completes (.dutyGateChange n k) s (fun t => ∃ y, t.stall? n = some y ∧ (y.dlv.reg k).gateShut = s.dutyShut (x.dlv.reg k).duty ∧
      (s.dutyShut (x.dlv.reg k).duty ≠ (x.dlv.reg k).gateShut → t.now = s.nextStep))) ∧
  (∀ (s : State) (p : HostPort) (n : StallNo) (o v : Nat), s.fnSeen (.vf p n) = true → s.dlvCounter n o = some v →
    Completes (.dlvCounterRead (.vf p n) n o) s (fun t => (t.lat (.vf p n)).dlvHi.get 0 (4096 * n.val + o) = BitVec.ofNat 32 (v / 2 ^ 32) ∧
      t.host.out = s.host.out ++ [.readData (.vf p n) (leBytes 4 v) false])) ∧
  (∀ s : State, Completes .yardJobStart s (fun t =>
    (t.rg.jobs.filter (fun j => j.start.isSome)).length = max (s.rg.jobs.filter (fun j => j.start.isSome)).length (min 8 s.rg.jobs.length) ∧
    t.rg.jobs.map (fun j => (j.stall, j.kind, j.bytes)) = s.rg.jobs.map (fun j => (j.stall, j.kind, j.bytes)))) ∧
  (∀ e t : Nat, 0 < t → (latStep e t = 0 ↔ 2 * e < t) ∧ (latStep e t = 8 ↔ t ≤ e)) ∧
  (∀ e f t : Nat, e ≤ f → latStep e t ≤ latStep f t) ∧
  (∀ (g : Regulator) (h : Holdings) (k : Nat), (g.window h k).prio ≤ 15 ∧ (g.window h k).credit = h.budget k ∧ (g.window h k).charged = false ∧
    (g.window h k).creditLeft = g.credit ∧ (g.window h k).shown = (g.window h k).live)

/-- R355, whole: a write of RG_URG_LINK or RG_URG_HOST takes effect, on its own register only, exactly when 1 ≤ LO < HI; HI is
four bits, so HI ≤ 15 holds of every written value. -/
def Obligations.UrgencyWritesTakeEffect : Prop :=
  (∀ (s : State) (host : Bool) (v : U32), 1 ≤ (fld v 4 4).toNat → (fld v 4 4).toNat < (fld v 0 4).toNat →
    Completes (.rgUrgWrite host v) s (fun t => (if host then t.rg.urgHost else t.rg.urgLink) = v &&& 0xFF ∧
      (if host then t.rg.urgLink else t.rg.urgHost) = (if host then s.rg.urgLink else s.rg.urgHost))) ∧
  (∀ (s : State) (host : Bool) (v : U32), ((fld v 4 4).toNat < 1 ∨ (fld v 0 4).toNat ≤ (fld v 4 4).toNat) →
    Completes (.rgUrgWrite host v) s (fun t => t.rg = s.rg))

/-! The Tsuholt ports (R367–R384, R401) and pod time (R395–R399). -/

/-- Bring-up and retraining (R374, R380, R381, R401). The key exchange and the rekey (R375, R376): a HELLO names the peer, a
FINISH whose signature stands makes the port ACTIVE at epoch 0 or gives it its next keys, and a SWITCH brings them into use after
the last frame of the present ones. -/
def Obligations.LinkBringUpAndKeys : Prop :=
  (∀ (s : State) (p : LinkPort) (v : U32), p.val < linkPorts s.pkg.variant → has v 2 = false → (s.tlp p).st ≠ .retired →
    Completes (.tlPCtlWrite p v) s (fun t => (t.tlp p).lowOk = has v 1 ∧ (t.tlp p).en = (has v 0 || (s.portHeld p && (s.tlp p).en)) ∧
      ((t.tlp p).en = false → (t.tlp p).st = .disabled) ∧ ((t.tlp p).en = true → (s.tlp p).st = .disabled → (t.tlp p).st = .detect) ∧
      ((t.tlp p).en = true → (s.tlp p).st ≠ .disabled → (t.tlp p).st = (s.tlp p).st))) ∧
  (∀ (s : State) (p : LinkPort), p.val < linkPorts s.pkg.variant → (s.tlp p).up = true →
    Completes (.retrain p) s (fun t => ((t.tlp p).st = .train ∨ (t.tlp p).st = .retired) ∧ (t.tlp p).keys = none ∧ (t.tlp p).nextKeys = none)) ∧
  (∀ (s : State) (p : LinkPort) (v : U32), p.val < linkPorts s.pkg.variant →
    Completes (.tlPAsymWrite p v) s (fun t => (t.tlp p).asym = max (-(2 ^ 15)) (min (2 ^ 15) v.toInt) ∧ (t.tlp p).st = (s.tlp p).st)) ∧
  (∀ (s : State) (p peer : LinkPort), p.val < linkPorts s.pkg.variant → (s.tlp p).st = .detect →
    Completes (.portPeerDetect p peer) s (fun t => (t.tlp p).st = .train ∧ (t.tlp p).peerPort = peer ∧ Only [.tl] s t)) ∧
  (∀ (s : State) (p : LinkPort), p.val < linkPorts s.pkg.variant → (s.tlp p).st = .train → s.prot.approved = true →
    Completes (.portTrained p) s (fun t => (t.tlp p).st = .keyx ∧ (t.tlp p).keyx.isSome = true ∧ s.free < t.free)) ∧
  (∀ (s : State) (p : LinkPort), p.val < linkPorts s.pkg.variant → ((s.tlp p).st = .train ∨ (s.tlp p).st = .keyx) →
    Completes (.portStepTimeout p) s (fun t => ((s.tlp p).fails + 1 < 3 → (t.tlp p).fails = (s.tlp p).fails + 1 ∧ (t.tlp p).st = (s.tlp p).st) ∧
      (3 ≤ (s.tlp p).fails + 1 → (t.tlp p).st = .retired))) ∧
  (∀ (s : State) (p : LinkPort), p.val < linkPorts s.pkg.variant → (s.tlp p).up = true →
    Completes (.laneLockLost p) s (fun t => ((t.tlp p).st = .train ∨ (t.tlp p).st = .retired) ∧ (t.tlp p).keys = none)) ∧
  (∀ (s : State) (p : LinkPort), p.val < linkPorts s.pkg.variant → (s.tlp p).st = .lowpower →
    Completes (.wake p) s (fun t => (t.tlp p).st = .active ∧ (t.tlp p).waking = false)) ∧
  (∀ (s : State) (p : LinkPort), p.val < linkPorts s.pkg.variant → (s.tlp p).st = .lowpower → (s.tlp p).waking = true →
    Completes (.portLowpowerExit p) s (fun t => (t.tlp p).st = .active ∧ (t.tlp p).waking = false)) ∧
  (∀ (s : State) (p : LinkPort) (rnd pub chain : List Byte), p.val < linkPorts s.pkg.variant → (s.tlp p).st = .keyx → (s.tlp p).fails + 1 < 3 →
    Completes (.keyxHello p rnd pub chain) s (fun t => match Config.chainLeaf chain with
      | none => (t.tlp p).fails = (s.tlp p).fails + 1 ∧ (t.tlp p).st = .keyx
      | some (_, i) => (t.tlp p).peerId = i ∧ (t.tlp p).keyx.any (fun k => k.peer.isSome) = true ∧ (t.tlp p).st = .keyx)) ∧
  (∀ (s : State) (p : LinkPort) (sig hello pub key : List Byte) (k : Keyx), p.val < linkPorts s.pkg.variant → (s.tlp p).keyx = some k →
    k.peer = some (hello, pub, key) → (s.tlp p).st = .keyx →
    Completes (.keyxFinish p sig) s (fun t =>
      (Config.ecdsaVerify key ((s.tlp p).transcript s.prot.bank k hello) sig = true → (t.tlp p).st = .active ∧ (t.tlp p).epoch = 0 ∧ (t.tlp p).fails = 0 ∧
        (t.tlp p).keys = some ((s.tlp p).derive k pub ((s.tlp p).transcript s.prot.bank k hello))) ∧
      (Config.ecdsaVerify key ((s.tlp p).transcript s.prot.bank k hello) sig = false → (t.tlp p).st = .keyx ∨ (t.tlp p).st = .retired))) ∧
  (∀ (s : State) (p : LinkPort) (sig hello pub key : List Byte) (k : Keyx), p.val < linkPorts s.pkg.variant → (s.tlp p).keyx = some k →
    k.peer = some (hello, pub, key) → (s.tlp p).up = true →
    Completes (.keyxFinish p sig) s (fun t =>
      (t.tlp p).nextKeys = (if Config.ecdsaVerify key ((s.tlp p).transcript s.prot.bank k hello) sig
        then some ((s.tlp p).derive k pub ((s.tlp p).transcript s.prot.bank k hello)) else (s.tlp p).nextKeys) ∧ (t.tlp p).keys = (s.tlp p).keys)) ∧
  (∀ (s : State) (p : LinkPort), p.val < linkPorts s.pkg.variant → (s.tlp p).up = true → (s.tlp p).keyx = none → (s.tlp p).nextKeys = none →
    Completes (.rekeyStart p) s (fun t => ((s.tlp p).isLower = true → (t.tlp p).keyx.isSome = true) ∧ ((s.tlp p).isLower = false → t = s))) ∧
  (∀ (s : State) (p : LinkPort), p.val < linkPorts s.pkg.variant → (s.tlp p).up = true →
    Completes (.keyxSwitch p 0xFFFFFFFF) s (fun t =>
      ((s.tlp p).frame s.now < 2 ^ 32 → (t.tlp p).switched = true ∧ (t.tlp p).keys = (s.tlp p).keys ∧ (t.tlp p).epoch = (s.tlp p).epoch) ∧
      (∀ k, 2 ^ 32 ≤ (s.tlp p).frame s.now → (s.tlp p).nextKeys = some k → (t.tlp p).keys = some k ∧ (t.tlp p).epoch = (s.tlp p).epoch + 1 ∧
        (t.tlp p).nextKeys = none))) ∧
  (∀ (s : State) (p : LinkPort), p.val < linkPorts s.pkg.variant → (s.tlp p).up = true → ((s.tlp p).nextKeys = none ∨ (s.tlp p).switched = false) →
    Completes (.rekeyDeadline p) s (fun t => ((t.tlp p).st = .train ∨ (t.tlp p).st = .retired) ∧ (t.tlp p).keys = none ∧ has t.tl.evt evtRekey = true))

/-- Frames and their acknowledgement (R379, R380): a good frame returns its credits and is the last good one; a bad one is
answered by naming the last good one; an ACK drops what was kept, and a NAK sends the rest again. -/
def Obligations.LinkFrames : Prop :=
  (∀ (s : State) (p : LinkPort) (n : U32) (check : FrameCheck) (cs : List (Fin 4 × Fin 4 × Nat)) (flits strange : Nat), p.val < linkPorts s.pkg.variant →
    (s.tlp p).up = true → (check = .good ∨ check = .corrected) →
    Completes (.linkFrameReceived p n check cs flits strange) s (fun t => (t.tlp p).lastGood = n.toNat ∧ (t.tlp p).badRun = 0 ∧
      (t.tlp p).rx = (s.tlp p).rx + BitVec.ofNat 64 (256 * flits) ∧ (t.tlp p).proto = satAdd (s.tlp p).proto strange ∧
      (t.tlp p).fecCorr = (if check = .corrected then satAdd (s.tlp p).fecCorr 1 else (s.tlp p).fecCorr))) ∧
  (∀ (s : State) (p : LinkPort) (n : U32) (cs : List (Fin 4 × Fin 4 × Nat)) (flits strange : Nat), p.val < linkPorts s.pkg.variant →
    (s.tlp p).up = true → (s.tlp p).badRun + 1 < 8 →
    Completes (.linkFrameReceived p n .lost cs flits strange) s (fun t => (t.tlp p).badRun = (s.tlp p).badRun + 1 ∧ (t.tlp p).lastGood = (s.tlp p).lastGood ∧
      t.said p 0x33 (s.hopMsg (leBytes 4 (s.tlp p).lastGood)))) ∧
  (∀ (s : State) (p : LinkPort) (n : U32), p.val < linkPorts s.pkg.variant →
    Completes (.linkAck p n) s (fun t => (t.tlp p).kept = (s.tlp p).kept.filter (fun e => decide (n.toNat < e.1)) ∧ Only [.tl] s t)) ∧
  (∀ (s : State) (p : LinkPort) (n : U32), p.val < linkPorts s.pkg.variant → (s.tlp p).up = true → (s.tlp p).frame s.now ≤ n.toNat + 256 →
    Completes (.linkNak p n) s (fun t => (t.tlp p).kept = (s.tlp p).kept.filter (fun e => decide (n.toNat < e.1)) ∧
      (t.tlp p).resend = satAdd (s.tlp p).resend ((s.tlp p).frame s.now - n.toNat) ∧ Only [.tl, .out] s t)) ∧
  (∀ (s : State) (p : LinkPort) (n : U32), p.val < linkPorts s.pkg.variant → (s.tlp p).up = true → n.toNat + 256 < (s.tlp p).frame s.now →
    Completes (.linkNak p n) s (fun t => (t.tlp p).st = .train ∨ (t.tlp p).st = .retired))

/-- Pod time (R395–R399): TIME goes out once a grid period, a TIME message tells who the neighbour is and whom it follows, an
advertisement not renewed is dropped, and a package aligns once. -/
def Obligations.PodTime : Prop :=
  (∀ (s : State) (l : List (LinkPort × U64 × U64)), Completes (.timeSend l) s (fun t => s.tl.sentGrid < t.tl.sentGrid ∧
    t.now = (s.advance (t.tl.sentGrid * 2 ^ 20 + 2 ^ 19)).now)) ∧
  (∀ (s : State) (p : LinkPort) (m : LinkMsg), p.val < linkPorts s.pkg.variant → (s.tlp p).up = true →
    Completes (.time p m) s (fun t => (t.tlp p).told = true ∧ (t.tlp p).peerPkg = m.src ∧ (t.tlp p).peerSize = f8 m.data 28 ∧
      ((f8 m.data 24 = 0xFF ∨ f8 m.data 26 = 0xFF) → (t.tlp p).advert = none) ∧
      (f8 m.data 24 ≠ 0xFF → f8 m.data 26 ≠ 0xFF → (t.tlp p).advert = some { id := f8 m.data 24, prio := f8 m.data 25, hops := f8 m.data 26
                                                                             ofs := (BitVec.ofNat 64 (f64 m.data 16)).toInt, grid := s.now / 2 ^ 20 }))) ∧
  (∀ (s : State) (p : LinkPort) (a : Advert), p.val < linkPorts s.pkg.variant → (s.tlp p).advert = some a →
    Completes (.masterAdvertExpiry p) s (fun t => (t.tlp p).advert = none ∧ t.now = (s.advance ((a.grid + 8) * 2 ^ 20 + 2 ^ 19)).now)) ∧
  (∀ (s : State), s.gtb.aligned = false → s.tl.alignFrom ≠ 0 →
    Completes .timeAlignment s (fun t => t.gtb.aligned = true ∧ (∀ e, s.tl.est = some e → (e < -64 → t.gtb.base = s.gtb.base + BitVec.ofNat 64 e.natAbs ∧
      t.gtb.align = BitVec.ofNat 64 e.natAbs) ∧ (-64 ≤ e → t.gtb.base = s.gtb.base ∧ t.gtb.align = 0))))

/-! Remote memory and collectives (R382–R394). -/

/-- REMOTE_WRITE and REMOTE_READ (R382, R384, R387, R388): a command with no usable port does not run; another takes its first
ticket, with a key of the present time, for the first chunk of its range. -/
def Obligations.RemoteCommands : Prop :=
  (∀ (s : State) (q : QueueId) (e : Entry) (x : Stall), s.stall? q.stall = some x → s.stallPort x.hold (e.u8 0x22) (e.u8 0x20) = none →
    (s.starts q 0x30 e = true → Completes (.remoteWrite q) s (fun t => t.finished q e.pos stNotRun 0x0D 0 ∧ Only [.stalls] s t)) ∧
    (s.starts q 0x31 e = true → Completes (.remoteRead q) s (fun t => t.finished q e.pos stNotRun 0x0D 0 ∧ Only [.stalls] s t))) ∧
  (∀ (s : State) (q : QueueId) (e : Entry) (x : Stall) (p : Nat), s.starts q 0x30 e = true → s.stall? q.stall = some x →
    s.stallPort x.hold (e.u8 0x22) (e.u8 0x20) = some p → e.progress < e.u64 0x18 → x.relay.claims = [] →
    Completes (.remoteWrite q) s (fun t => t.waits q e.pos ∧ t.hbm = s.hbm ∧ ∃ y c, t.stall? q.stall = some y ∧ c ∈ y.relay.claims ∧ c.own = true ∧ c.read = false ∧
      c.qk = queueKey q ∧ c.pos = e.pos ∧ c.keyT = s.now ∧ c.peer = e.u8 0x20 ∧ c.peerStall = e.u8 0x21 ∧ c.port = p ∧ c.addr = e.u64 0x10 + e.progress ∧
      c.loc = e.u64 8 + e.progress ∧ c.span = min chunkSpan (e.u64 0x18 - e.progress))) ∧
  (∀ (s : State) (q : QueueId) (e : Entry) (x : Stall) (p : Nat), s.starts q 0x31 e = true → s.stall? q.stall = some x →
    s.stallPort x.hold (e.u8 0x22) (e.u8 0x20) = some p → e.progress < e.u64 0x18 → x.relay.claims = [] →
    Completes (.remoteRead q) s (fun t => t.waits q e.pos ∧ t.hbm = s.hbm ∧ ∃ y c, t.stall? q.stall = some y ∧ c ∈ y.relay.claims ∧ c.own = true ∧ c.read = true ∧
      c.qk = queueKey q ∧ c.pos = e.pos ∧ c.keyT = s.now ∧ c.peer = e.u8 0x20 ∧ c.peerStall = e.u8 0x21 ∧ c.port = p ∧ c.addr = e.u64 8 + e.progress ∧
      c.loc = e.u64 0x10 + e.progress ∧ c.span = min chunkSpan (e.u64 0x18 - e.progress)))

/-- The tickets of a chunk (R386, R388, R389, R391): a request an export allows takes its place among the claims, and one no
export allows is denied; a grant starts the data; a denial ends the command; DONE frees the slot. The data of a chunk (R386, R389,
R390): a WR stores through the export at the address it names and is acknowledged, an RD is answered with what memory delivers,
and their answers go on with the chunk at the other end or end its command with a peer's fault. -/
def Obligations.RemoteTicketsAndData : Prop :=
  (∀ (s : State) (p : LinkPort) (m : LinkMsg) (x : Stall) (n : Nat) (a : Export), s.takesIn p m = true → s.stall? m.dstStall = some x →
    x.relay.exportFor m.src m.srcStall m.addr m.span (!m.read) = some (n, a) →
    (∀ c ∈ x.relay.claims, c.own = true → ¬ (c.keyT = m.keyT ∧ c.srcPkg = m.src ∧ c.srcStall = m.srcStall ∧ c.ticket = m.ticket)) →
    Completes (.tkReq p m) s (fun t => ∃ y c, t.stall? m.dstStall = some y ∧ c ∈ y.relay.claims ∧ c.own = false ∧ c.keyT = m.keyT ∧ c.srcPkg = m.src ∧
      c.srcStall = m.srcStall ∧ c.ticket = m.ticket ∧ c.num = n ∧ c.addr = m.addr ∧ c.span = m.span ∧ c.read = m.read)) ∧
  (∀ (s : State) (p : LinkPort) (m : LinkMsg) (x : Stall), s.takesIn p m = true → s.stall? m.dstStall = some x →
    x.relay.exportFor m.src m.srcStall m.addr m.span (!m.read) = none →
    Completes (.tkReq p m) s (fun t => t.said p 0x03 { s.newMsg m.dstStall m.src m.srcStall with keyT := m.keyT, ticket := m.ticket, data := leBytes 1 1 } ∧
      t.stall? m.dstStall = some x)) ∧
  (∀ (s : State) (p : LinkPort) (m : LinkMsg) (x : Stall) (c : Claim), s.takesIn p m = true → s.stall? m.dstStall = some x → x.relay.claims = [c] →
    s.ownClaim m = some c → c.read = true → c.committed = false → ((s.queue? m.dstStall c.qk).bind (fun q => q.entry? c.pos)).isSome = true →
    0 < c.span → (s.tlp c.port).up = true →
    Completes (.tkGrant p m) s (fun t => (∃ y, t.stall? m.dstStall = some y ∧ y.relay.claims = [{ c with granted := true, committed := true }]) ∧
      t.said c.port 0x12 { s.claimMsg m.dstStall c with addr := c.addr, seq := 0, span := min pieceBytes c.span })) ∧
  (∀ (s : State) (p : LinkPort) (m : LinkMsg) (q : QueueId) (c : Claim) (e : Entry), s.takesIn p m = true → q.stall.val = m.dstStall → c.qk = queueKey q →
    s.ownClaim m = some c → s.started? q.stall (queueKey q) c.pos = some e →
    Completes (.tkDeny p m) s (fun t => t.finished q c.pos stPartial 0x0D (BitVec.ofNat 64 e.progress))) ∧
  (∀ (s : State) (p : LinkPort) (m : LinkMsg) (c : Claim), s.takesIn p m = true → s.peerClaim m = some c →
    Completes (.tkDone p m) s (fun t => ∀ y, t.stall? m.dstStall = some y → ∀ d ∈ y.relay.claims, d.same c = false)) ∧
  (∀ (s : State) (p : LinkPort) (m : LinkMsg) (a : Export), s.takesIn p m = true → s.granted m m.data.length false = some a →
    Completes (.wr p m) s (fun t =>
      let r := (s.credited p 0x10 m).writeRun (exportWho m.dstStall a) m.addr m.data (List.replicate m.data.length m.poison) rWrite
      t.hbm = r.2.hbm ∧ t.said p 0x11 { s.reply m with fault := !r.1.2.isEmpty })) ∧
  (∀ (s : State) (p : LinkPort) (m : LinkMsg), s.takesIn p m = true → s.granted m m.data.length false = none →
    Completes (.wr p m) s (fun t => t.hbm = s.hbm ∧
      t.said p 0x03 { s.newMsg m.dstStall m.src m.srcStall with keyT := m.keyT, ticket := m.ticket, data := leBytes 1 1 })) ∧
  (∀ (s : State) (p : LinkPort) (m : LinkMsg) (a : Export), s.takesIn p m = true → s.granted m m.span true = some a →
    Completes (.rd p m) s (fun t =>
      let g := (s.credited p 0x12 m).readRun (exportWho m.dstStall a) m.addr m.span rRead
      t.said p 0x13 { s.reply m with data := fit m.span g.1.bytes, poison := g.1.poison.any id, fault := !g.1.met.isEmpty })) ∧
  (∀ (s : State) (p : LinkPort) (m : LinkMsg) (q : QueueId) (c : Claim) (e : Entry), s.takesIn p m = true → q.stall.val = m.dstStall → c.qk = queueKey q →
    s.ownClaim m = some c → c.committed = true → c.read = false → s.started? q.stall (queueKey q) c.pos = some e →
    Completes (.wrAck p m) s (fun t => (m.fault = true → t.finished q c.pos stPartial 0x0D (BitVec.ofNat 64 e.progress)) ∧
      (m.fault = false → max c.done (min c.span (pieceBytes * (m.seq + 1))) < c.span →
        t.waits q c.pos ∧ ∃ y d, t.stall? q.stall = some y ∧ d ∈ y.relay.claims ∧ d.same c = true ∧ d.done = max c.done (min c.span (pieceBytes * (m.seq + 1)))) ∧
      (m.fault = false → c.span ≤ max c.done (min c.span (pieceBytes * (m.seq + 1))) → e.u64 0x18 ≤ e.progress + c.span →
        t.finished q c.pos (finalStatus (e.status, e.detail)).1 (finalStatus (e.status, e.detail)).2 (BitVec.ofNat 64 (e.progress + c.span))))) ∧
  (∀ (s : State) (p : LinkPort) (m : LinkMsg) (q : QueueId) (c : Claim) (e : Entry), s.takesIn p m = true → q.stall.val = m.dstStall → c.qk = queueKey q →
    s.ownClaim m = some c → c.committed = true → c.read = true → s.started? q.stall (queueKey q) c.pos = some e → m.fault = false → c.done + m.data.length < c.span →
    Completes (.rdData p m) s (fun t =>
      let r := (s.credited p 0x13 m).writeRun (relayWho q.stall c.qk e.asn) (c.loc + pieceBytes * m.seq) m.data (List.replicate m.data.length m.poison) rWrite
      metsStop r.1.2 = false → t.hbm = r.2.hbm ∧ t.waits q c.pos))

/-- REMOTE_EXPORT, GROUP_SET and GROUP_CLEAR (R385, R392). Collectives (R227, R393, R394): one of a group that cannot be reached
does not run; a member waits for LAUNCH_AT, begins then, and gives up when data it needs stay away too long; COLL and COLL_READY
are counted for the member that sent them. -/
def Obligations.GroupsAndCollectives : Prop :=
  (∀ (s : State) (m : MbReq) (p : HostPort) (n : StallNo) (x : Stall), m.fn = .vf p n → s.stall? n = some x → s.mbTakes remoteExportForm m = true →
    (x.ctx? (f8 m.payload 1)).isSome = true → x.relay.claims = [] → x.relay.waits = [] →
    Completes (.remoteExport m) s (fun t => t.answered m 0x0050 ok ∧ ∃ y, t.stall? n = some y ∧
      y.relay.exports.find? (f8 m.payload 0) = (if f64 m.payload 16 = 0 then none
        else some { ctx := f8 m.payload 1, rights := f8 m.payload 2, va := f64 m.payload 8, bytes := f64 m.payload 16, allow := allowPairs m.payload 24 }) ∧
      ∀ j, j ≠ f8 m.payload 0 → y.relay.exports.find? j = x.relay.exports.find? j)) ∧
  (∀ (s : State) (m : MbReq) (p : HostPort) (n : StallNo) (x : Stall), m.fn = .vf p n → s.stall? n = some x → s.mbTakes (groupSetForm (plain m)) m = true →
    (x.ctx? (f8 m.payload 6)).isSome = true → (x.relay.groups.filter (fun g => g.id ≠ f32 m.payload 0)).length < 16 → x.relay.coll? (f32 m.payload 0) = none →
    Completes (.groupSet m) s (fun t => t.answered m 0x0051 ok ∧ ∃ y g, t.stall? n = some y ∧ y.relay.group? (f32 m.payload 0) = some g ∧
      g.index = f8 m.payload 5 ∧ g.ctx = f8 m.payload 6 ∧ g.stage = f64 m.payload 8 ∧ g.stageBytes = f64 m.payload 16 ∧
      g.members = (List.range (f8 m.payload 4)).map (fun i => (f8 m.payload (24 + 2 * i), f8 m.payload (25 + 2 * i))) ∧
      ∀ i, i ≠ f32 m.payload 0 → y.relay.group? i = x.relay.group? i)) ∧
  (∀ (s : State) (m : MbReq) (p : HostPort) (n : StallNo) (x : Stall) (g : Group), m.fn = .vf p n → s.stall? n = some x → s.mbTakes groupClearForm m = true →
    x.relay.group? (f32 m.payload 0) = some g → x.relay.coll? (f32 m.payload 0) = none → x.relay.clears = [] →
    Completes (.groupClear m) s (fun t => t.answered m 0x0052 ok ∧ ∃ y, t.stall? n = some y ∧ y.relay.group? (f32 m.payload 0) = none)) ∧
  (∀ (s : State) (q : QueueId) (e : Entry) (x : Stall), s.starts q 0x32 e = true → s.stall? q.stall = some x → x.collAhead (queueKey q) e = false →
    x.relay.group? (e.u32 0x0C) = none → Completes (.collective q) s (fun t => t.finished q e.pos stNotRun 0x0D 0 ∧ Only [.stalls] s t)) ∧
  (∀ (s : State) (q : QueueId) (e : Entry) (x : Stall) (g : Group), s.starts q 0x32 e = true → s.stall? q.stall = some x → x.collAhead (queueKey q) e = false →
    x.relay.group? (e.u32 0x0C) = some g → (e.collOp = 3 → e.u8 0x0B < g.members.length) →
    (∀ j ∈ g.others, ∀ a, g.members[j]? = some a → (s.stallPort x.hold 0xFF a.1).isSome = true) → e.u64 0x28 ≠ 0 →
    Completes (.collective q) s (fun t => t.waits q e.pos ∧ ∃ y c, t.stall? q.stall = some y ∧ y.relay.colls = x.relay.colls ++ [c] ∧ c.qk = queueKey q ∧
      c.pos = e.pos ∧ c.group = e.u32 0x0C ∧ c.begun = false)) ∧
  (∀ (s : State) (q : QueueId) (e : Entry) (x : Stall) (g : Group) (j : Nat), s.starts q 0x32 e = true → s.stall? q.stall = some x →
    x.collAhead (queueKey q) e = false → x.relay.group? (e.u32 0x0C) = some g → (e.collOp = 3 → e.u8 0x0B < g.members.length) →
    (∀ j ∈ g.others, ∀ a, g.members[j]? = some a → (s.stallPort x.hold 0xFF a.1).isSome = true) → e.u64 0x28 = 0 → j ∈ g.others → g.ready.get 0 j = 0 →
    Completes (.collective q) s (fun t => t.waits q e.pos ∧ ∃ y c, t.stall? q.stall = some y ∧ y.relay.colls = x.relay.colls ++ [c] ∧ c.qk = queueKey q ∧ c.begun = false)) ∧
  (∀ (s : State) (q : QueueId) (pos : U32) (e : Entry) (x : Stall) (g : Group) (c : Coll), s.started? q.stall (queueKey q) pos = some e → e.opcode = 0x32 → e.u64 0x28 ≠ 0 →
    s.stall? q.stall = some x → List.find? (fun (c : Coll) => c.qk = queueKey q && c.pos = pos && !c.begun) x.relay.colls = some c →
    x.relay.coll? c.group = some c → x.relay.group? c.group = some g → e.u64 0x28 ≤ (s.advance (e.u64 0x28)).now →
    Completes (.collectiveLaunch q pos) s (fun t => e.u64 0x28 ≤ t.now ∧
      ∀ y, t.stall? q.stall = some y → ∀ d ∈ y.relay.colls, d.group = c.group → d.begun = true)) ∧
  (∀ (s : State) (q : QueueId) (pos : U32) (e : Entry) (x : Stall) (c : Coll) (h : Nat × Nat), s.stall? q.stall = some x → s.started? q.stall (queueKey q) pos = some e →
    List.find? (fun (c : Coll) => c.qk = queueKey q && c.pos = pos) x.relay.colls = some c → c.begun = true → h ∈ c.heard →
    (c.buf.get [] h.1).length < e.partBytes →
    Completes (.collectiveTimeout q pos) s (fun t => t.finished q pos stPartial 0x0D 0 ∧ ∀ y, t.stall? q.stall = some y → ∀ d ∈ y.relay.colls, d.group ≠ c.group)) ∧
  (∀ (s : State) (p : LinkPort) (m : LinkMsg) (x : Stall) (g : Group) (j : Nat), s.takesIn p m = true → s.stall? m.dstStall = some x →
    x.relay.group? m.addr = some g → g.memberOf m = some j → x.relay.coll? m.addr = none → m.data = [] →
    Completes (.coll p m) s (fun t => ∃ y d, t.stall? m.dstStall = some y ∧ y.relay.group? m.addr = some d ∧ d.freed.get 0 j = max (g.freed.get 0 j) m.span ∧
      ∀ i, i ≠ j → d.freed.get 0 i = g.freed.get 0 i)) ∧
  (∀ (s : State) (p : LinkPort) (m : LinkMsg) (x : Stall) (g : Group) (j : Nat), s.takesIn p m = true → s.stall? m.dstStall = some x →
    x.relay.group? m.addr = some g → g.memberOf m = some j → x.relay.coll? m.addr = none → m.data ≠ [] → g.got.get 0 j % g.share + m.data.length ≤ g.share →
    Completes (.coll p m) s (fun t =>
      let r := (s.credited p 0x20 m).writeRun { stall := m.dstStall, ctx := g.ctx, engine := 2, queue := 0, asn := 0 } (g.shareAt j + g.got.get 0 j % g.share) m.data
        (List.replicate m.data.length m.poison) rWrite
      t.hbm = r.2.hbm ∧ (metsStop r.1.2 = false → ∃ y d, t.stall? m.dstStall = some y ∧ y.relay.group? m.addr = some d ∧
        d.got.get 0 j = g.got.get 0 j + m.data.length ∧ d.inbox.get [] j = g.inbox.get [] j ++ m.data))) ∧
  (∀ (s : State) (p : LinkPort) (m : LinkMsg) (x : Stall) (g : Group) (j : Nat), s.takesIn p m = true → s.stall? m.dstStall = some x →
    x.relay.group? m.addr = some g → g.memberOf m = some j → x.relay.coll? m.addr = none →
    Completes (.collReady p m) s (fun t => ∃ y d, t.stall? m.dstStall = some y ∧ y.relay.group? m.addr = some d ∧ d.ready.get 0 j = g.ready.get 0 j + 1))

/-- Drover's requests (R312–R317, R336, R337, R343). Drover's commands and its step (R319, R330, R340, R341). MGMT between RTPs
(R336, R337, R372): a borrow is granted within what the lender lends and allows, and a return frees it. -/
def Obligations.DroverAndLoans : Prop :=
  (∀ (s : State) (m : MbReq) (p : HostPort) (n : StallNo) (x : Stall), m.fn = .vf p n → s.stall? n = some x → s.mbTakes (drvConfigForm x.hold.droverSeq) m = true →
    x.drvConfigRefusal s.pkg.variant (drvConfigOf m.payload) = none →
    Completes (.drvConfig m) s (fun t => t.answered m 0x0040 ok ∧ t.stall? n = some { x with drover := { x.drover with cfg := some (drvConfigOf m.payload) } })) ∧
  (∀ (s : State) (m : MbReq) (p : HostPort) (n : StallNo) (x : Stall) (y : Queue), m.fn = .vf p n → s.stall? n = some x →
    s.queue? n (qkey (f8 m.payload 0) 3 (f8 m.payload 1)) = some y → s.mbTakes (drvOutringForm (fun _ => y.isSealed)) m = true → y.ringHost = true →
    x.drover.seqs.any (fun z => z.qk = qkey (f8 m.payload 0) 3 (f8 m.payload 1) && z.st ≠ .kept) = false →
    Completes (.drvOutring m) s (fun t => ∃ z r, t.stall? n = some z ∧ z.drover.rings.find? (qkey (f8 m.payload 0) 3 (f8 m.payload 1)) = some r ∧
      r.log2Depth = f8 m.payload 2 ∧ r.ring = f64 m.payload 8 ∧ r.hdr = f64 m.payload 16 ∧ r.outSeq = 0 ∧ r.produced = 0 ∧ r.consumed = 0)) ∧
  (∀ (s : State) (m : MbReq) (p : HostPort) (n : StallNo) (x : Stall) (c : DrvConfig), m.fn = .vf p n → s.stall? n = some x → s.mbTakes drvLoadForm m = true →
    x.drover.cfg = some c → x.drover.models.find? (f8 m.payload 0) = none → (x.ctx? (f8 m.payload 1)).any (fun z => z.keys x.hold c.keyIndex) = true →
    Completes (.drvLoad m) s (fun t => (t.mb m.fn).busy = true ∧ ∃ y d, t.stall? n = some y ∧ y.drover.models.find? (f8 m.payload 0) = some d ∧
      d.loading = some (plain m) ∧ d.ctx = f8 m.payload 1 ∧ d.desc = f64 m.payload 8)) ∧
  (∀ (s : State) (n : StallNo) (k : Fin 4) (x : Stall) (c : DrvConfig) (d : DrvModel) (r : Req), s.stall? n = some x → x.drover.cfg = some c →
    x.drover.models.find? k = some d → d.loading = some r →
    Completes (.drvLoadDone n k) s (fun t => ∃ y, t.stall? n = some y ∧ y.drover.models.find? k = (match (s.readModel n x c d).1 with
      | .inr _ => none
      | .inl z => some z.1))) ∧
  (∀ (s : State) (m : MbReq) (p : HostPort) (n : StallNo) (x : Stall) (d : DrvModel), m.fn = .vf p n → s.stall? n = some x → s.mbTakes drvUnloadForm m = true →
    x.drover.models.find? (f8 m.payload 0) = some d → d.loading = none → (∀ z ∈ x.drover.seqs, z.model ≠ f8 m.payload 0) →
    Completes (.drvUnload m) s (fun t => t.answered m 0x0043 ok ∧ ∃ y, t.stall? n = some y ∧ y.drover.models.find? (f8 m.payload 0) = none ∧
      (∀ k, k ≠ f8 m.payload 0 → y.drover.models.find? k = x.drover.models.find? k) ∧ y.drover.seqs = x.drover.seqs)) ∧
  (∀ (s : State) (m : MbReq) (x : Stall), s.mbTakes drvStatForm m = true → s.stall? (stallArg drvStatForm (plain m)) = some x →
    Completes (.drvStat m) s (fun t => t.answered m 0x0044 (okWith ([x.seqLimit, x.drover.seqs.length, (x.drover.seqs.filter (fun z => z.st = .kept)).length, x.loftCap,
        x.drover.held, x.drover.reserved, (x.drover.seqs.map (fun z => drvStat.countFar z.pages)).sum, x.drover.lentPages, x.drover.busyRefused.toNat,
        ((x.drover.models.filter (fun e => e.2.loading.isNone)).map (fun e => 2 ^ e.1)).sum].flatMap (leBytes 4)
      ++ leBytes 8 x.drover.steps ++ leBytes 8 x.drover.tokensIn ++ leBytes 8 x.drover.tokensOut)))) ∧
  (∀ (s : State) (m : MbReq) (p : HostPort) (n : StallNo) (x : Stall), m.fn = .vf p n → s.stall? n = some x →
    s.mbTakes (drvLendForm ((x.drover.cfg.map (·.pageBytes)).getD 0)) m = true → x.drover.seqs = [] →
    (x.drover.loans.map (·.bytes)).sum ≤ f64 m.payload 0 → f64 m.payload 0 ≤ (x.drover.cfg.map (·.loftBytes)).getD 0 →
    Completes (.drvLend m) s (fun t => t.answered m 0x0045 ok ∧ ∃ y, t.stall? n = some y ∧ y.drover.lent = f64 m.payload 0 ∧ y.drover.loans = x.drover.loans ∧
      (f8 m.payload 8, f8 m.payload 9) ∈ y.drover.allow)) ∧
  (∀ (s : State) (m : MbReq) (p : HostPort) (n : StallNo) (x : Stall) (l : Nat), m.fn = .vf p n → s.stall? n = some x →
    s.mbTakes (drvBorrowForm x.hold.farLoft) m = true → s.stallPort x.hold (f8 m.payload 3) (f8 m.payload 1) = some l → f8 m.payload 0 = 0 →
    x.drover.borrows.length < 8 → x.drover.localPages + x.drover.borrowed + f32 m.payload 8 ≤ x.hold.loftPages →
    Completes (.drvBorrow m) s (fun t => (t.mb m.fn).busy = true ∧ ∃ y, t.stall? n = some y ∧ y.drover.borrows = x.drover.borrows ∧
      y.drover.waits = x.drover.waits ++ [{ req := plain m, give := false, peer := f8 m.payload 1, stall := f8 m.payload 2, link := l, pages := f32 m.payload 8 }])) ∧
  (∀ (s : State) (q : QueueId) (e : Entry), s.drvStarts q 0x40 e = true → Completes (.drvSubmit q) s (fun t => t.waits q e.pos ∧ Only [.stalls] s t)) ∧
  (∀ (s : State) (q : QueueId) (e : Entry) (x : Stall), s.drvStarts q 0x41 e = true → s.stall? q.stall = some x →
    Completes (.drvCancel q) s (fun t => (x.drover.stepping = true → t.waits q e.pos) ∧
      (x.drover.stepping = false → (∀ k ∈ x.queues, ∀ d ∈ k.2.entries, d.opcode = 0x41 → d.st ≠ .started) → (∀ z ∈ x.drover.seqs, z.st = .kept ∨ z.qk ≠ qkey q.ctx 3 (e.u8 8) ∨ z.asn.toNat ≠ e.u64 0x10) → t.finished q e.pos stDone 0 0))) ∧
  (∀ (s : State) (q : QueueId) (e : Entry) (x : Stall) (z : Sequence), s.drvStarts q 0x42 e = true → s.stall? q.stall = some x →
    x.drover.seqs.find? (fun z => z.st = .kept && !z.claimed && z.qk = qkey q.ctx 3 (e.u8 8) && z.asn.toNat = e.u64 0x10) = some z →
    Completes (.drvRelease q) s (fun t => t.finished q e.pos stDone 0 (BitVec.ofNat 64 z.pages.length) ∧ ∃ y, t.stall? q.stall = some y ∧
      y.drover.seqs = x.drover.seqs.filter (fun w => w.asn ≠ z.asn))) ∧
  (∀ (s : State) (n : StallNo) (x : Stall), s.stall? n = some x → x.drover.stepping = false →
    Completes (.droverStep n) s (fun t => ∃ y, t.stall? n = some y ∧ y.drover.steps = x.drover.steps + (if y.drover.stepping then 1 else 0))) ∧
  (∀ (s : State) (n : StallNo) (x : Stall) (c : DrvConfig), s.stall? n = some x → s.drvServes x = true → x.drover.stepping = false → x.drover.cfg = some c →
    x.drover.rings = [] → (∀ z ∈ x.drover.seqs, z.st ≠ .admitted) → (∀ e ∈ x.queues, ∀ d ∈ e.2.entries, d.opcode ≠ 0x41) → x.drover.schedule c ≠ [] →
    Completes (.droverStep n) s (fun t => ∃ y, t.stall? n = some y ∧ y.drover.stepping = true ∧ y.drover.steps = x.drover.steps + 1)) ∧
  (∀ (s : State) (n : StallNo) (x : Stall) (c : DrvConfig) (ws : List (Nat × List Byte)) (bad : List U64), s.stall? n = some x → x.drover.cfg = some c →
    x.drover.stepping = true → Completes (.droverStepEnd n ws bad) s (fun t => ∃ y, t.stall? n = some y ∧ y.drover.stepping = false ∧ y.drover.steps = x.drover.steps)) ∧
  (∀ (s : State) (q : QueueId) (x : Stall) (c : DrvConfig) (z : Sequence) (e : Entry) (d : DrvModel), s.stall? q.stall = some x → x.drover.cfg = some c →
    x.drover.stepping = true → x.drover.seqs = [z] → 0 < z.step → z.st = .prefill → z.read + z.step ≠ z.tokens.length → z.qk = queueKey q →
    s.entryAt q z.pos = some e → x.drover.models.find? z.model = some d → (∀ e ∈ x.queues, ∀ d ∈ e.2.entries, d.opcode ≠ 0x41) →
    Completes (.droverStepEnd q.stall [] []) s (fun t => ∃ y, t.stall? q.stall = some y ∧ y.drover.tokensIn = x.drover.tokensIn + z.step ∧
      y.drover.seqs = [{ z with read := z.read + z.step, prompt := z.read + z.step, step := 0 }])) ∧
  (∀ (s : State) (p : LinkPort) (m : LinkMsg) (n : StallNo) (x : Stall) (b : Nat), s.takesIn p m = true → m.dstStall = n.val → s.stall? n = some x →
    ((x.drover.loans.map (·.bytes)).sum + b ≤ x.drover.lent ∧ (x.drover.allow.any (fun a => a = (0xFF, 0xFF) || a = (m.src, m.srcStall))) = true) →
    Completes (.mgmt p m (.borrow b)) s (fun t => ∃ y, t.stall? n = some y ∧ y.drover.loans = x.drover.loans ++ [{ peer := m.src, stall := m.srcStall, bytes := b }])) ∧
  (∀ (s : State) (p : LinkPort) (m : LinkMsg) (n : StallNo) (x : Stall) (b : Nat), s.takesIn p m = true → m.dstStall = n.val → s.stall? n = some x →
    ¬ ((x.drover.loans.map (·.bytes)).sum + b ≤ x.drover.lent ∧ (x.drover.allow.any (fun a => a = (0xFF, 0xFF) || a = (m.src, m.srcStall))) = true) →
    Completes (.mgmt p m (.borrow b)) s (fun t => t.stall? n = some x)) ∧
  (∀ (s : State) (p : LinkPort) (m : LinkMsg) (n : StallNo) (x : Stall) (b : Nat) (l : Loan), s.takesIn p m = true → m.dstStall = n.val → s.stall? n = some x →
    List.find? (fun (l : Loan) => l.peer = m.src && l.stall = m.srcStall && l.bytes = b) x.drover.loans = some l →
    Completes (.mgmt p m (.giveBack b)) s (fun t => ∃ y, t.stall? n = some y ∧ y.drover.loans = x.drover.loans.erase l))

/-! Drover (R312–R343). -/

/-- A step schedules at most BUDGET tokens, at most one for a sequence that decodes (R330). -/
def Obligations.StepsKeepTheirBudget : Prop :=
  ∀ (d : Drover) (c : DrvConfig), ((d.schedule c).map (·.step)).sum ≤ c.budget ∧
    ∀ x ∈ d.schedule c, 0 < x.step ∧ (x.st = .decode → x.step = 1) ∧ (x.st = .prefill → x.step ≤ c.chunk ∧ x.read + x.step ≤ x.tokens.length)

/-! Sky states, package Clear and the thermal trip (R527–R536, R541, R549). -/

/-- Clusters: a Broken one goes to Scattered and a Scattered one to Clear when their idle times have run, and one that wakes
arrives in its state (R530, R531). No other cluster changes. Package Clear: its entry, with the GTB gone over to reference cycles
and every link that may down to one lane, the wake by a source of R536 and its phases, and the write of PWR_CTL (R46, R378, R529,
R533, R534, R549). How the entry is split in two events is the model's (log 83). A die at 115 °C stops the whole part: THERMTRIP#
is latched, every cluster goes to Clear, and the package is in package Clear (R541, R513). -/
def Obligations.SkyStatesAndTrip : Prop :=
  (∀ (s : State) (c : Fin 512), (s.sky c.val).sky = .broken → (s.sky c.val).waking = none → (s.sky c.val).scatter ≠ 0 → (s.sky c.val).haltHold = false →
    s.gateHeld c.val = false →
    Completes (.clusterIdleScatter c) s (fun t => t.now = (s.advance ((s.sky c.val).since + (s.sky c.val).scatter)).now ∧
      t.sky c.val = { s.sky c.val with sky := .scattered, since := t.now } ∧ (∀ d, d ≠ c.val → t.sky d = s.sky d) ∧
      Only [.gtb, .timers, .outs, .matrix, .pf, .out, .power] s t)) ∧
  (∀ (s : State) (c : Fin 512), (s.sky c.val).sky = .scattered → (s.sky c.val).waking = none → (s.sky c.val).clearAfter ≠ 0 → (s.sky c.val).haltHold = false →
    s.gateHeld c.val = false → has s.power.ctl 1 = true → (s.clusters.get Cluster.init c.val).stall = none →
    Completes (.clusterIdleClear c) s (fun t => t.now = (s.advance ((s.sky c.val).since + (s.sky c.val).clearAfter)).now ∧
      (t.sky c.val).sky = .clear ∧ (t.sky c.val).since = t.now ∧ (∀ d, d ≠ c.val → t.sky d = s.sky d) ∧
      Only [.gtb, .timers, .outs, .matrix, .pf, .out, .power] s t)) ∧
  (∀ (s : State) (c : Fin 512) (k : Sky) (u : Nat), (s.sky c.val).waking = some (k, u) →
    Completes (.clusterWakeDone c) s (fun t => t.now = (s.advance u).now ∧ (t.sky c.val).sky = k ∧ (t.sky c.val).waking = none ∧
      (k = .broken → (t.sky c.val).since = t.now ∧ (t.sky c.val).scatter = s.idleScatter ∧ (t.sky c.val).clearAfter = s.idleClear) ∧
      (k ≠ .broken → (t.sky c.val).since = (s.sky c.val).since) ∧ (∀ d, d ≠ c.val → t.sky d = s.sky d) ∧
      Only [.gtb, .timers, .outs, .matrix, .pf, .out, .power] s t)) ∧
  (∀ (s : State) (l1 : BitVec 4), s.power.clearSt = .awake → fld s.power.idle 16 8 ≠ 0 → s.mayClear? l1 = true →
    Completes (.pkgClearEntry l1) s (fun t => t = { s with power := { s.power with clearSt := .entering } })) ∧
  (∀ (s : State) (l1 : BitVec 4), s.power.clearSt = .entering → s.mayClear? l1 = true →
    Completes (.pkgClearEntered l1) s (fun t => t.power.clearSt = .inClear ∧ t.power.clearFrom = s.now ∧ t.gtb.coarse = true ∧ t.gtb.coarseEnd = none ∧
      t.now = s.now ∧ (∀ p, p < 48 → (t.tlp p).st = if (s.tlp p).st = .active && (s.tlp p).lowOk then .lowpower else (s.tlp p).st) ∧
      Only [.gtb, .out, .power, .tl, .side] s t)) ∧
  (∀ (s : State) (l1 : BitVec 4), s.power.clearSt = .entering → s.mayClear? l1 = false →
    Completes (.pkgClearEntered l1) s (fun t => t = { s with power := { s.power with clearSt := .waking 1, wakeNeedsCluster := false } })) ∧
  (∀ (s : State) (src : Fin 8) (b : Bool), src.val ≠ 5 → src.val ≠ 6 → s.running = true → s.power.clearSt = .inClear →
    Completes (.pkgWake src b) s (fun t => t.power.clearSt = .waking 1 ∧ t.power.wakeSrc = incl s.power.wakeSrc src.val ∧ t.power.wakeNeedsCluster = b ∧
      t.power.clearTime = s.power.clearTime + (s.now - s.power.clearFrom) ∧ t.gtb.coarseEnd = some (s.now + 16000) ∧ t.gtb.coarse = s.gtb.coarse ∧
      Only [.gtb, .out, .power, .side] s t)) ∧
  (∀ (s : State) (src : Fin 8) (b : Bool), (src.val = 5 ∨ src.val = 6) → s.power.clearSt = .inClear →
    Completes (.pkgWake src b) s (fun t => t = { s with power := { s.power with wakeSrc := incl s.power.wakeSrc src.val } })) ∧
  (∀ (s : State) (k : Nat), s.power.clearSt = .waking k → k < 4 →
    Completes .pkgWakePhaseDone s (fun t => t.power.clearSt = .waking (k + 1) ∧ (k ≠ 3 → Only [.power] s t))) ∧
  (∀ s : State, s.power.clearSt = .waking 4 → s.power.wakeNeedsCluster = true →
    Completes .pkgWakePhaseDone s (fun t => t.power.clearSt = .waking 5 ∧ Only [.power] s t)) ∧
  (∀ (s : State) (k : Nat), s.power.clearSt = .waking k → 4 ≤ k → (k = 4 → s.power.wakeNeedsCluster = false) →
    Completes .pkgWakePhaseDone s (fun t => t.power.clearSt = .awake ∧ t.power.evt = s.power.evt ||| evtWake ∧ Only [.pf, .out, .power] s t)) ∧
  (∀ (s : State) (v : U32), s.power.clearSt = .awake → Completes (.pwrCtlWrite v) s (fun t => t = { s with power := { s.power with ctl := v &&& 3 } })) ∧
  (∀ (s : State) (v : U32), s.power.clearSt = .inClear → s.running = true →
    Completes (.pwrCtlWrite v) s (fun t => t.power.ctl = v &&& 3 ∧ t.power.clearSt = .waking 1 ∧ t.power.wakeSrc = incl s.power.wakeSrc 0)) ∧
  (∀ s : State, s.power.thermStop = false → s.power.therm.any (fun e => decide (115 ≤ e.2.tmax.toNat)) = true →
    Completes .thermalTrip s (fun t => t.power.thermStop = true ∧ t.power.thermTrip = true ∧ has t.power.evt 4 = true ∧
      (s.power.powerGood = true → s.power.coldReq = none → t.power.clearSt = .inClear ∧ t.gtb.coarse = true ∧ (∀ c, (t.sky c).sky = .clear) ∧
        ∀ p, p < 48 → (t.tlp p).up = false)))

/-! The reserve (R506–R525). -/

/-- Main power is lost: the part stops, and the controller rides through, flushes, or holds by what the bank has (R513–R517). The
flush and what ends it: INTENT rises as it starts; its end writes one image of that sequence to that slot and holds; an abort or a
dead bank writes none (R516–R520, R522). Charging, the health test and the write of RSV_CTL (R508, R509, R512, R523, R524). -/
def Obligations.ReserveAndFlush : Prop :=
  (∀ (s : State) (vb vm : U32), (s.rsv.mainOk = true ∨ s.power.powerGood = true) → s.rsv.onMain = true →
    Completes (.mainPowerLost vb vm) s (fun t => t.rsv.mainOk = false ∧ t.power.powerGood = false ∧ t.rsv.lossAt = s.nowW ∧ has t.rsv.evt 0 = true ∧
      t.rsv.vbank = vb.toNat ∧ t.rsv.vmain = vm.toNat ∧
      (s.running = true → t.power.clearSt = .inClear ∧ ∀ c, (t.sky c).sky = .clear) ∧
      (s.rsv.vFlush < vb.toNat → t.rsv.st = .ride ∧ t.rsv.intent = s.rsv.intent) ∧
      (vb.toNat ≤ s.rsv.vFlush → 6400 < vb.toNat → t.rsv.st = .flush ∧ t.rsv.intent = s.rsv.consumed + 1 ∧ t.rsv.flushCause = 1) ∧
      (vb.toNat ≤ s.rsv.vFlush → vb.toNat ≤ 6400 → t.rsv.st = .held ∧ t.gtb.running = false ∧ t.rsv.intent = s.rsv.intent))) ∧
  (∀ (s : State) (vb vm : U32), s.rsv.mainOk = true → s.rsv.onMain = false →
    Completes (.mainPowerLost vb vm) s (fun t => t.rsv.mainOk = false ∧ t.power.powerGood = false ∧ t.rsv.st = s.rsv.st)) ∧
  (∀ (s : State) (vb vm : U32), s.rsv.mainOk = false → s.rsv.st = .ride → (s.power.thermTrip = false ∨ ∀ e ∈ s.power.therm, e.2.tmax.toNat < 100) →
    Completes (.mainPowerReturn vb vm) s (fun t => t.rsv.mainOk = true ∧ t.power.powerGood = true ∧ t.power.thermStop = false ∧ t.power.clearSt = .awake ∧
      t.rsv.lastKind = 1 ∧ t.rsv.vbank = vb.toNat ∧ t.rsv.st = ({ s.rsv with vbank := vb.toNat }).settled ∧ has t.rsv.evt 1 = true)) ∧
  (∀ (s : State) (vb vm : U32), s.rsv.mainOk = false → s.rsv.st ≠ .ride →
    Completes (.mainPowerReturn vb vm) s (fun t => t = { s with rsv := { s.rsv with mainOk := true, vbank := vb.toNat, vmain := vm.toNat } })) ∧
  (∀ s : State, s.rsv.st = .ride → s.rsv.mainOk = false →
    Completes .flushStart s (fun t => t.rsv.st = .flush ∧ t.rsv.intent = s.rsv.consumed + 1 ∧ t.rsv.consumed = s.rsv.consumed ∧ t.rsv.flushCause = 1 ∧
      t.rsv.flushAt = s.now ∧ t.rsv.slotErased = false ∧ t.rsv.images.find? (imageSlot (s.rsv.consumed + 1)) = none ∧
      Only [.out, .rsv, .side] s t)) ∧
  (∀ s : State, s.rsv.st = .flush → s.moduleStopped = false →
    Completes .flushDone s (fun t => t.rsv.st = .held ∧ (∃ i, t.rsv.images.find? (imageSlot s.rsv.intent) = some i ∧ i.seq = s.rsv.intent ∧
        i.cause = s.rsv.flushCause ∧ i.lossAt = s.rsv.lossAt ∧ i.bank = s.prot.bank ∧ i.stalls = s.imageStalls) ∧
      (∀ k, k ≠ imageSlot s.rsv.intent → t.rsv.images.find? k = s.rsv.images.find? k) ∧
      (s.rsv.flushCause = 1 → t.gtb.running = false ∧ t.power = s.power) ∧ (s.rsv.flushCause ≠ 1 → t.power.coldReply = [] ∧ t.gtb = s.gtb))) ∧
  (∀ s : State, s.rsv.st = .flush → s.moduleStopped = true →
    Completes .flushDone s (fun t => t.rsv.st = .held ∧ t.rsv.images = s.rsv.images)) ∧
  (∀ s : State, s.rsv.st = .flush → s.rsv.mainOk = false →
    Completes .flushAbort s (fun t => t.rsv = { s.rsv with st := .held, vbank := 6400 } ∧ t.gtb = { s.gtb with running := false } ∧
      Only [.gtb, .out, .rsv, .side] s t)) ∧
  (∀ s : State, s.rsv.mainOk = false → s.power.powerGood = false →
    Completes .bankDead s (fun t => t.rsv = { s.rsv with st := .held, vbank := 6000 } ∧ t.gtb = { s.gtb with running := false } ∧
      Only [.gtb, .out, .rsv, .side] s t)) ∧
  (∀ s : State, s.rsv.st = .charging →
    Completes .bankAcceptReached s (fun t => t.rsv.vbank = max s.rsv.vbank s.rsv.vAccept ∧
      t.rsv.st = (if s.rsv.slotErased then s.rsv.tested else .charging))) ∧
  (∀ s : State, s.rsv.slotErased = false → s.rsv.onMain = true →
    Completes .imageSlotEraseDone s (fun t => t.rsv.slotErased = true ∧ t.rsv.images.find? (imageSlot (s.rsv.consumed + 1)) = none ∧
      (∀ k, k ≠ imageSlot (s.rsv.consumed + 1) → t.rsv.images.find? k = s.rsv.images.find? k) ∧
      t.rsv.st = (if s.rsv.st = .charging then (if s.rsv.vbank < s.rsv.vAccept then .charging else s.rsv.tested) else s.rsv.st))) ∧
  (∀ s : State, (s.rsv.st = .armed ∨ s.rsv.st = .degraded ∨ s.rsv.st = .fault) → s.rsv.testBusy = false →
    Completes .healthTestStart s (fun t => t.rsv = { s.rsv with testBusy := true, testWanted := false, vbank := 16200 })) ∧
  (∀ s : State, Completes .testStart s (fun t => t.rsv = { s.rsv with testWanted := true })) ∧
  (∀ (s : State) (c e : U16), s.rsv.testBusy = true →
    Completes (.healthTestDone c e true) s (fun t => t.rsv.testBusy = false ∧ t.rsv.testAt = s.nowW ∧ t.rsv.testFailed = false ∧ t.rsv.cap = c.toNat ∧
      t.rsv.esr = e.toNat ∧ t.rsv.usable = usableOf c.toNat ∧ t.rsv.vFlush = vFlushOf c.toNat ∧ t.rsv.vAccept = vAcceptOf c.toNat ∧ has t.rsv.evt 3 = true)) ∧
  (∀ (s : State) (c e : U16), s.rsv.testBusy = true →
    Completes (.healthTestDone c e false) s (fun t => t.rsv.testBusy = false ∧ t.rsv.testFailed = true ∧ t.rsv.cap = s.rsv.cap ∧ t.rsv.esr = s.rsv.esr ∧
      t.rsv.st = (if s.rsv.vbank < s.rsv.vAccept || !s.rsv.slotErased then .charging else .fault) ∧ has t.rsv.evt 3 = true)) ∧
  (∀ (s : State) (v : U32), Completes (.unguardedWrite v) s (fun t =>
    t.rsv = { s.rsv with
      unguarded := if s.rsv.lock then s.rsv.unguarded else has v 0, testWanted := s.rsv.testWanted || has v 1, lock := s.rsv.lock || has v 31 }))

/-! Resets and boot (R542–R548). -/

/-- PKG_RESET and the end of a warm reset (R544, R546): KIND 1 begins a warm reset, or is refused with what bars it; KIND 2
answers at once, or, with the reserve LIVE, when its flush has committed. The release of a cold reset: the GTB starts at 0,
everything volatile is as after reset, and the fuses, the key store, the plan store and the reserve's images stay (R43, R543,
R547). What lies outside the part, or is the model's own, stays too (log 7). -/
def Obligations.PackageResetsAndRelease : Prop :=
  (∀ (s : State) (m : MbReq) (c : Instr), c ∈ [Instr.pkgResetWarm m, .pkgResetCold m] → s.mbTakes (pkgResetForm false) m = true → f8 m.payload 0 = 1 →
    (∀ d, s.warmBad = some d → Completes c s (fun t => t.answered m 0x0090 (refuse d) ∧ t.power.warm = s.power.warm)) ∧
    (s.warmBad = none → s.warmWaits = false → Completes c s (fun t => t.power.warm = some { reqs := [.mailbox (plain m)] } ∧
      (t.mb m.fn).busy = true ∧ (∀ k, (t.sky k).sky = .clear) ∧ t.clusters = []))) ∧
  (∀ (s : State) (m : MbReq) (c : Instr), c ∈ [Instr.pkgResetWarm m, .pkgResetCold m] → s.mbTakes (pkgResetForm true) m = true → f8 m.payload 0 = 2 →
    Completes c s (fun t => t.power.coldReq = some (s.power.coldReq.getD 3) ∧
      (s.rsv.live = false → s.rsv.st ≠ .flush → t.answered m 0x0090 ok ∧ t.rsv = s.rsv) ∧
      (s.rsv.live = true → s.moduleStopped = false → s.rsv.st ≠ .flush → s.rsv.st ≠ .held →
        t.rsv.st = .flush ∧ t.rsv.flushCause = 2 ∧ t.rsv.intent = s.rsv.consumed + 1 ∧ t.power.coldReply = s.power.coldReply ++ [.mailbox (plain m)] ∧
        (t.mb m.fn).busy = true))) ∧
  (∀ (s : State) (w : WarmReset), s.power.warm = some w →
    Completes .warmResetDone s (fun t => t.power.warm = none ∧ t.power.warmCnt = satAdd s.power.warmCnt 1 ∧ has t.power.evt 5 = true)) ∧
  (∀ s : State, Completes .coldResetRelease s (fun t =>
    t.now = 0 ∧ t.stalls = [] ∧ t.sessions = [] ∧ t.hbm = [] ∧ t.tl = State.reset.tl ∧ t.tb = State.reset.tb ∧ t.gtb = State.reset.gtb ∧ t.rg = State.reset.rg ∧
    t.power.phase = State.reset.power.phase ∧ t.yard.st = State.reset.yard.st ∧ t.yard.active = State.reset.yard.active ∧
    t.yard.store = s.yard.store ∧ t.yard.keySeq = s.yard.keySeq ∧ t.yard.epochFloor = s.yard.epochFloor ∧ (s.yard.keyState = .enrolled → t.yard.key = s.yard.key) ∧
    t.prot.bank = s.prot.bank ∧ t.rsv.images = s.rsv.images ∧ t.rsv.intent = s.rsv.intent ∧ t.rsv.consumed = s.rsv.consumed ∧ t.acct.eraFloor = s.acct.eraFloor))

/-- A boot phase that ends without a failure is followed by the next, and the last ends the boot; with both copies of the RTP
failed the module is in its error state (R435, R547, R548). What else the phases do is the model's reading (log 81). -/
def Obligations.BootPhases : Prop :=
  (∀ (s : State) (a b c : Byte), s.prot.error = false → 1 ≤ s.power.phase → s.power.phase < 7 →
    Completes (.bootPhaseDone [] 0 a b c) s (fun t => t.power.phase = s.power.phase + 1 ∧
      (s.power.phase = 1 → t.power.cause = s.power.causeDue ∧ t.rsv.mainOk = true) ∧
      (s.power.phase = 4 → t.prot.grooming = (List.range 128).filter s.pkg.bayFine) ∧ (s.power.phase = 5 → t.prot.grooming = []))) ∧
  (∀ (s : State) (a b c : Byte), s.prot.error = false → s.power.phase = 7 →
    Completes (.bootPhaseDone [] 0 a b c) s (fun t => t.power.phase = bootDone ∧ t.power.bootAt = t.nowW)) ∧
  (∀ (s : State) (l : List Component) (a b c : Byte), s.prot.error = false → 1 ≤ s.power.phase → s.power.phase ≤ 7 →
    Completes (.bootPhaseDone l 3 a b c) s (fun t => t.power.phase = bootError ∧ t.prot.error = true ∧ t.prot.approved = false ∧
      t.prot.fipsCause = BitVec.ofNat 32 (a.toNat + 256 * b.toNat + 65536 * c.toNat)))

/-! Protection, debug, self-tests (R424–R438, R594). -/

/-- Debug (R424–R427): a challenge's nonce, an unlock by the mailbox or the TAP, halts, the lock and the end of a session, and
which TAP instructions a session brings. -/
def Obligations.DebugSessions : Prop :=
  (∀ (s : State) (m : MbReq), s.mbTakes (form 0x0060 true false 0 []) m = true → Completes (.secChallenge m) s (fun t =>
    t.answered m 0x0060 (okWith (Config.random 32 s.free).toList) ∧ t.prot.challenge = some ((Config.random 32 s.free).toList, s.now) ∧ t.free = s.free + 1)) ∧
  (∀ (s : State) (m : MbReq), s.mbTakes (form 0x0061 true false 256 []) m = true → Completes (.debugUnlock m false) s (fun t =>
    match s.tokenBad m.payload with
    | some d => t.answered m 0x0061 (refuse d) ∧ t.prot = s.prot ∧ t.stalls = s.stalls
    | none => t.answered m 0x0061 ok ∧ t.prot.scope = f8 m.payload 5 ∧ t.prot.viaTap = false ∧ t.prot.notAfter = BitVec.ofNat 64 (f64 m.payload 8) ∧
        t.prot.stallMask = BitVec.ofNat 128 (leNat (slice m.payload 0x10 16)) ∧ t.prot.challenge = none ∧
        ∀ (n : StallNo) (x : Stall), s.stall? n = some x → has t.prot.stallMask n.val = true →
          ∃ y, t.stall? n = some y ∧ y.debugCount = x.debugCount + 1)) ∧
  (∀ (s : State) (m : MbReq), s.moduleStopped = false → s.prot.approved = true → m.payload.length = 256 → Completes (.debugUnlock m true) s (fun t =>
    ((s.tokenBad m.payload).isSome = true → t = s) ∧
    (s.tokenBad m.payload = none → t.prot.scope = f8 m.payload 5 ∧ t.prot.viaTap = true ∧ t.prot.challenge = none))) ∧
  (∀ (s : State) (m : MbReq), s.mbTakes (form 0x0062 true false 0 []) m = true → Completes (.debugLock m) s (fun t =>
    t.answered m 0x0062 ok ∧ t.prot.scope = 0 ∧ t.prot.stallMask = 0 ∧ t.prot.notAfter = 0)) ∧
  (∀ s : State, s.prot.scope ≠ 0 → s.prot.notAfter.toNat ≤ (s.advance s.prot.notAfter.toNat).now →
    Completes .debugSessionExpiry s (fun t => t.prot.scope = 0 ∧ t.prot.stallMask = 0 ∧ s.prot.notAfter.toNat ≤ t.now)) ∧
  (∀ (s : State) (n : StallNo) (x : Stall) (l : List (Fin 512)), s.stall? n = some x → s.debugs n.val = true →
    Completes (.debugHalt n l) s (fun t => (∃ y, t.stall? n = some y ∧ ∀ c ∈ l, x.hold.liveClusters.contains c.val = true → has y.halted c.val = true) ∧
      ∀ c ∈ l, x.hold.liveClusters.contains c.val = true → (t.sky c.val).haltHold = true ∧
        (t.sky c.val).sky = (if (s.sky c.val).sky = .overcast then .broken else (s.sky c.val).sky) ∧
        ((s.sky c.val).sky = .clear → (t.sky c.val).waking = some (.broken, s.now + 32000)) ∧
        ((s.sky c.val).sky = .scattered → (t.sky c.val).waking = some (.broken, s.now + 4800)))) ∧
  (∀ (s : State) (n : StallNo) (x : Stall) (l : List (Fin 512)), s.stall? n = some x → s.debugs n.val = false → Completes (.debugHalt n l) s (fun t => t = s)) ∧
  (∀ (s : State) (n : StallNo) (x : Stall), s.stall? n = some x → Completes (.debugResume n) s (fun t =>
    t.stall? n = some { x with halted := 0 } ∧ ∀ c, has x.halted c = true → (t.sky c).haltHold = false)) ∧
  (∀ (s : State) (c : Instr) (i : TapInstr), (c, i) ∈ [(Instr.tapSamplePreload, TapInstr.samplePreload), (.tapHighz, .highz), (.tapClamp, .clamp), (.tapExtest, .extest)
      , (.tapScan, .scan)] →
    Completes c s (fun t => t = { s with prot := { s.prot with tap := if s.tapHas i then i else .bypass } })) ∧
  (∀ s : State, Completes .tapBypass s (fun t => t.prot = { s.prot with tap := .bypass } ∧ t.host.out = s.host.out ++ [.tap [0]])) ∧
  (∀ s : State, Completes .tapIdcode s (fun t => t.prot = { s.prot with tap := .idcode } ∧ t.host.out = s.host.out ++ [.tap (leBytes 4 Config.tapIdcode.toNat)]))

/-- Self-tests and the module's error state (R434, R435): a run begins for those who wait for it, and its end leaves the time of a
run that passed; an instance's failure retires its die, and with both copies of the RTP gone the module is in its error state.
Zeroisation, decommission and the ledger's query (R437, R438, R594),
whose UNSETTLED of a CLEARING slot is the model's reading (log 95). -/
def Obligations.SelfTestsAndZeroise : Prop :=
  (∀ (s : State) (m : MbReq), s.mbTakes { form 0x0065 true false 0 [] with always := true } m = true → Completes (.selftest m) s (fun t =>
    t.prot = { s.prot with selftestBusy := true, selftestWait := s.prot.selftestWait ++ [.mailbox (plain m)] } ∧ (t.mb m.fn).busy = true)) ∧
  (∀ s : State, s.prot.error = false → Completes .periodicSelftest s (fun t => t = { s with prot := { s.prot with selftestBusy := true } })) ∧
  (∀ (s : State) (b : Bool), s.prot.selftestBusy = true → Completes (.selftestRunDone b) s (fun t =>
    t.prot = { s.prot with selftestBusy := false, selftestWait := [], stLast := if b then s.nowW else s.prot.stLast })) ∧
  (∀ (s : State) (d : Fin 4) (a b c : Byte), Completes (.cryptoInstanceFailure (.mee d) a b c) s (fun t => t.pkg.isRetired (.cdie d) = true)) ∧
  (∀ (s : State) (k : Fin 2) (a b c : Byte), (∀ j : Fin 2, j ≠ k → has s.pkg.deadIodie j.val = true) → s.prot.error = false →
    Completes (.cryptoInstanceFailure (.rtp k) a b c) s (fun t => has t.pkg.deadIodie k.val = true ∧ t.prot.error = true ∧ t.prot.approved = false ∧
      t.prot.fipsCause = BitVec.ofNat 32 (a.toNat + 256 * b.toNat + 65536 * c.toNat))) ∧
  (∀ (s : State) (m : MbReq), s.mbTakes { form 0x0063 true false 0 [] with always := true, inError := true } m = true →
    (s.prot.zeroised = true → Completes (.zeroise m) s (fun t => t.answered m 0x0063 ok ∧ t.prot = s.prot)) ∧
    (s.prot.zeroised = false → s.prot.zeroising = false → Completes (.zeroise m) s (fun t =>
      t.prot.approved = false ∧ (t.prot.zeroised || t.prot.zeroising) = true ∧ t.prot.challenge = none ∧ t.prot.scope = 0 ∧ t.rsv.images = [] ∧
      (∀ e ∈ t.sessions, e.2.ended = true ∧ e.2.secret = []) ∧ (∀ e ∈ t.stalls, e.2.attest.images = [] ∧ e.2.attest.pairs = []))) ∧
    (s.prot.zeroised = false → s.prot.zeroising = true → Completes (.zeroise m) s (fun t =>
      t.prot = { s.prot with zeroiseReq := s.prot.zeroiseReq ++ [.mailbox (plain m)] } ∧ (t.mb m.fn).busy = true))) ∧
  (∀ (s : State) (m : MbReq), s.mbTakes (form 0x0064 true false 128 []) m = true → s.prot.decom = none → Completes (.decommission m) s (fun t =>
    match s.decomBad m.payload with
    | some d => t.answered m 0x0064 (refuse d) ∧ t.prot = s.prot
    | none => t.prot = { s.prot with decom := some (plain m, s.now), challenge := none } ∧ (t.mb m.fn).busy = true)) ∧
  (∀ (s : State) (r : Req) (a : Nat), s.prot.decom = some (r, a) → a + 960000000000 < (s.advance (a + 960000000000 + 1)).now →
    Completes .decommissionConfirmExpiry s (fun t => t.prot = { s.prot with decom := none } ∧ a + 960000000000 < t.now)) ∧
  (∀ (s : State) (m : MbReq), s.mbTakes { form 0x0066 true false 8 [(2, 6)] with bad := fun p => if 1024 ≤ f16 p 0 then some 0 else none } m = true →
    Completes (.ledgerQuery m) s (fun t => t.answered m 0x0066 (okWith (leBytes 1 (slotCode (s.slot (f16 m.payload 0)).st) ++ [s.yard.slotOwner.get 0xFF (f16 m.payload 0)]
      ++ (if (s.slot (f16 m.payload 0)).st = .held ∨ (s.slot (f16 m.payload 0)).st = .clearing
          then leBytes 2 (s.slot (f16 m.payload 0)).reach.length ++ zeros 4 ++ leBytes 8 (reachBytes
            (if (s.slot (f16 m.payload 0)).st = .held then (s.slot (f16 m.payload 0)).reach else (s.slot (f16 m.payload 0)).left)) else zeros 14))) ∧
      t.prot = s.prot))

/-! Attestation, sealing and SPDM (R440–R465). -/

/-- Reports, logs and measurements of an image (R443–R448). -/
def Obligations.AttestationRequests : Prop :=
  (∀ (s : State) (m : MbReq), (fnIsPf m.fn && f8 m.payload 0 = 0xFF) = true → s.mbTakes (attestReportForm true) m = true →
    Completes (.attestReport m) s (fun t => t.answered m 0x0070 (okWith (withSignature (s.packageReport (slice m.payload 8 32) (slice m.payload 40 48)) s.free)) ∧
      t.free = s.free + 1)) ∧
  (∀ (s : State) (m : MbReq) (x : Stall), (fnIsPf m.fn && f8 m.payload 0 = 0xFF) = false → s.mbTakes (attestReportForm false) m = true →
    s.stall? (stallArg (attestReportForm false) (plain m)) = some x →
    Completes (.attestReport m) s (fun t => t.answered m 0x0070 (okWith (withSignature
      (s.stallReport (stallArg (attestReportForm false) (plain m)) x (slice m.payload 8 32) (slice m.payload 40 48)) s.free)) ∧ t.free = s.free + 1)) ∧
  (∀ (s : State) (m : MbReq) (x : Stall), s.mbTakes attestLogForm m = true → s.stall? (stallArg attestLogForm (plain m)) = some x →
    Completes (.attestLog m) s (fun t => t.answered m 0x0071 (okWith (((x.attest.log.drop (f32 m.payload 4)).take 63).flatMap LogEntry.bytes
      ++ leBytes 4 ((x.attest.log.drop (f32 m.payload 4)).take 63).length)))) ∧
  (∀ (s : State) (m : MbReq) (p : HostPort) (n : StallNo) (x : Stall), m.fn = .vf p n → s.stall? n = some x → s.mbTakes (measureImageForm x.hold.ctxMax) m = true →
    Completes (.measureImage m) s (fun t => t.stall? n = some { x with measuring := x.measuring ++ [plain m] } ∧ (t.mb m.fn).busy = true)) ∧
  (∀ (s : State) (n : StallNo) (x : Stall) (r : Req) (l : List Req), s.stall? n = some x → x.measuring = r :: l → s.enginesUp = true →
    Completes (.measureImageDone n) s (fun t => ∃ y, t.stall? n = some y ∧ y.measuring = l ∧ ∀ g, g =
        ((s.setStall n { x with measuring := l }).readRun (measureWho n (f8 r.payload 0)) (f64 r.payload 8) (f64 r.payload 16) rRead).1 →
      ((x.ctx? (f8 r.payload 0)).isSome = true → g.met = [] → g.poison.any id = false → y.attest.count = x.attest.count + 1) ∧
      ((x.ctx? (f8 r.payload 0)).isSome = false → y.attest = x.attest) ∧ (g.met ≠ [] → y.attest = x.attest)))

/-- Sealing (R461–R465): outside a session with mutual authentication, or of a stall that is not CONFIDENTIAL, each request lacks
the right; inside one, KEYGEN makes a pair, INSTALL uses it up, and DROP takes the image's key away. -/
def Obligations.SealingRequests : Prop :=
  (∀ (s : State) (m : MbReq) (c : Instr) (op : Nat), (c, op) ∈ [(Instr.sealKeygen none m, 0x0072), (.sealInstall none m, 0x0073), (.sealDrop none m, 0x0074)] →
    hostFn m.fn = true → (s.mbGo (plain m) op).2 = true → Completes c s (fun t => t.answered m op notPermitted ∧ t.stalls = s.stalls)) ∧
  (∀ (s : State) (id : U32) (m : MbReq) (r : Req) (c : Instr) (op : Nat),
    (c, op) ∈ [(Instr.sealKeygen (some id) m, 0x0072), (.sealInstall (some id) m, 0x0073), (.sealDrop (some id) m, 0x0074)] →
    s.asksInside id m = some r → s.mayOpenSeal r = false → Completes c s (fun t => s.replied t r op notPermitted ∧ t.stalls = s.stalls)) ∧
  (∀ (s : State) (id : U32) (m : MbReq) (r : Req) (p : HostPort) (n : StallNo) (x : Stall), s.asksInside id m = some r → r.fn = .vf p n → s.stall? n = some x →
    s.mayOpenSeal r = true → s.mbCheck (sealForm 0x0072 40) r = none →
    ((x.attest.images.find? (f8 m.payload 0)).isSome = true → Completes (.sealKeygen (some id) m) s (fun t => s.replied t r 0x0072 (refuse 1) ∧ t.stall? n = some x)) ∧
    (x.attest.images.find? (f8 m.payload 0) = none → Completes (.sealKeygen (some id) m) s (fun t => ∃ y, t.stall? n = some y ∧ y.attest.images = x.attest.images ∧
      y.attest.pairs.find? (f8 m.payload 0) = some { priv := (Config.random 48 s.free).toList, pub := (Config.p384Public (Config.random 48 s.free).toList).toList } ∧
      t.free = s.free + 2))) ∧
  (∀ (s : State) (id : U32) (m : MbReq) (r : Req) (p : HostPort) (n : StallNo) (x : Stall) (k : SealPair), s.asksInside id m = some r → r.fn = .vf p n →
    s.stall? n = some x → s.mayOpenSeal r = true → s.mbCheck (sealForm 0x0073 408) r = none → x.attest.images.find? (f8 m.payload 0) = none →
    x.attest.pairs.find? (f8 m.payload 0) = some k → imageHeaderOk (slice m.payload 8 256) = true →
    Completes (.sealInstall (some id) m) s (fun t => ∃ y, t.stall? n = some y ∧ y.attest.pairs.find? (f8 m.payload 0) = none ∧
      match unwrapKey k (slice m.payload 8 256) (slice m.payload 264 96) (slice m.payload 360 48) (Config.sha384 (slice m.payload 8 256)) with
      | none => s.replied t r 0x0073 (refuse 4) ∧ y.attest.images = x.attest.images ∧ y.attest.log = x.attest.log
      | some key => s.replied t r 0x0073 ok ∧ y.attest.count = x.attest.count + 1 ∧ y.attest.images.find? (f8 m.payload 0) =
          some { key := key, imageId := slice (slice m.payload 8 256) 8 16, pages := f32 (slice m.payload 8 256) 0x18, digest := Config.sha384 (slice m.payload 8 256) })) ∧
  (∀ (s : State) (id : U32) (m : MbReq) (r : Req) (p : HostPort) (n : StallNo) (x : Stall), s.asksInside id m = some r → r.fn = .vf p n → s.stall? n = some x →
    s.mayOpenSeal r = true → s.mbCheck (sealForm 0x0074 8) r = none → (x.attest.images.find? (f8 m.payload 0)).isSome = true →
    (x.loading (f8 m.payload 0) = false → Completes (.sealDrop (some id) m) s (fun t => s.replied t r 0x0074 ok ∧ ∃ y, t.stall? n = some y ∧
      y.attest.images.find? (f8 m.payload 0) = none ∧ y.attest.count = x.attest.count + 1)) ∧
    (x.loading (f8 m.payload 0) = true → Completes (.sealDrop (some id) m) s (fun t => t.host.out = s.host.out ∧ ∃ y, t.stall? n = some y ∧
      y.attest.images = x.attest.images ∧ y.attest.drops = x.attest.drops ++ [r])))

/-- The responder's negotiation, certificates and measurements (R440, R449): each answers once its connection has come so far, and
before that is unexpected. Secure sessions and the tenant binding (R450–R453): at most four of a stall; a stall's first session
with mutual authentication binds it, and one with another key is turned away; a heartbeat missed for 10 s and END_SESSION end it. -/
def Obligations.SpdmAndSessions : Prop :=
  (∀ (s : State) (via : Option Fn), s.spdmReached via = true →
    Completes (.getVersion via) s (fun t => s.told t via 0x04 [0, 1, 0x00, 0x13] ∧ (t.conn via).versioned = true ∧ (t.conn via).capable = false ∧ (t.conn via).agreed = false)) ∧
  (∀ (s : State) (via : Option Fn), s.spdmReached via = true → (s.conn via).versioned = true →
    Completes (.getCapabilities via) s (fun t => s.told t via 0x61 Config.spdmCapabilities ∧ (t.conn via).capable = true)) ∧
  (∀ (s : State) (via : Option Fn), s.spdmReached via = true → (s.conn via).capable = true →
    Completes (.negotiateAlgorithms via) s (fun t => s.told t via 0x63 Config.spdmAlgorithms ∧ (t.conn via).agreed = true)) ∧
  (∀ (s : State) (via : Option Fn) (c : Instr) (k l : Byte) (o n : U16) (nonce : Option (List Byte)) (id : U32) (key : List Byte),
    c ∈ [Instr.getDigests via, .getCertificate via k o n, .challenge via k, .getMeasurements via l nonce, .keyExchange via id key] → s.spdmReached via = true →
    (s.conn via).agreed = false → Completes c s (fun t => t.host.out = s.host.out ++ [.spdm via 0x7F [0x04]] ∧ t.side = s.side ∧ t.sessions = s.sessions)) ∧
  (∀ (s : State) (via : Option Fn), s.spdmReached via = true → (s.conn via).agreed = true →
    Completes (.getDigests via) s (fun t => s.told t via 0x01 (digestBytes (Config.sha384 s.chain)))) ∧
  (∀ (s : State) (via : Option Fn) (o n : U16), s.spdmReached via = true → (s.conn via).agreed = true →
    Completes (.getCertificate via 0 o n) s (fun t =>
      (s.chain.length ≤ o.toNat → t.host.out = s.host.out ++ [.spdm via 0x7F [0x01]]) ∧
      (o.toNat < s.chain.length → s.told t via 0x02 ([0, 0] ++ leBytes 2 (slice s.chain o.toNat n.toNat).length
        ++ leBytes 2 (s.chain.length - o.toNat - (slice s.chain o.toNat n.toNat).length) ++ slice s.chain o.toNat n.toNat)))) ∧
  (∀ (s : State) (via : Option Fn), s.spdmReached via = true → (s.conn via).agreed = true → s.moduleServes = true →
    Completes (.challenge via 0) s (fun t => s.told t via 0x03 (digestBytes (Config.sha384 s.chain) ++ (Config.spdmSign s.free).toList) ∧ t.free = s.free + 1)) ∧
  (∀ (s : State) (via : Option Fn) (k : Byte), s.spdmReached via = true → (s.conn via).agreed = true → s.moduleServes = true → k ≠ 0 →
    Completes (.challenge via k) s (fun t => t.host.out = s.host.out ++ [.spdm via 0x7F [0x01]])) ∧
  (∀ (s : State) (via : Option Fn) (i : Byte) (b : List Byte), s.spdmReached via = true → (s.conn via).agreed = true → s.moduleServes = true → i ≠ 0 → i ≠ 0xFF →
    s.measurement via i.toNat [] = some b →
    Completes (.getMeasurements via i none) s (fun t => s.told t via 0x60 (leBytes 1 1 ++ (leBytes 1 i.toNat ++ leBytes 2 b.length ++ b)))) ∧
  (∀ (s : State) (via : Option Fn), s.spdmReached via = true → (s.conn via).large ≠ [] →
    Completes (.chunkGet via) s (fun t => ∃ k, 1 ≤ k ∧ t.host.out = s.host.out ++ [.spdm via 0x06 ((s.conn via).large.take k)] ∧ (t.conn via).large = (s.conn via).large.drop k)) ∧
  (∀ (s : State) (via : Option Fn) (id : U32) (key : List Byte), s.spdmReached via = true → (s.conn via).agreed = true → s.moduleServes = true →
    ((scopeOf via).isSome = true → s.liveSessions via < 4) → (via = none → s.liveSessions via < 1) → s.sessions.find? id.toNat = none →
    Completes (.keyExchange via id key) s (fun t =>
      (Config.onCurve key = false → t.host.out = s.host.out ++ [.spdm via 0x7F [0x01]] ∧ t.sessions = s.sessions) ∧
      (Config.onCurve key = true → ∃ x, t.sessions.find? id.toNat = some x ∧ x.fn = via ∧ x.finished = false ∧ x.ended = false ∧ x.peer = none ∧ x.lastBeat = s.now ∧
        s.told t via 0x64 (leBytes 4 id.toNat ++ (Config.spdmSign (s.free + 1)).toList)))) ∧
  (∀ (s : State) (p : HostPort) (n : StallNo) (id : U32) (key : List Byte), s.spdmReached (some (.vf p n)) = true → (s.conn (some (.vf p n))).agreed = true →
    s.moduleServes = true → 4 ≤ s.liveSessions (some (.vf p n)) →
    Completes (.keyExchange (some (.vf p n)) id key) s (fun t => t.host.out = s.host.out ++ [.spdm (some (.vf p n)) 0x7F [0x03]] ∧ t.sessions = s.sessions)) ∧
  (∀ (s : State) (id : U32) (leaf : Option (List Byte)) (x : Session) (p : HostPort) (n : StallNo) (y : Stall), s.sessionHeard id.toNat = some x → x.finished = false →
    x.fn = some (.vf p n) → s.stall? n = some y →
    ((y.attest.tenant = none ∨ y.attest.tenant = leaf.map Config.sha384) → Completes (.finish id leaf true) s (fun t =>
      t.sessions.find? id.toNat = some { x with finished := true, peer := leaf.map Config.sha384, lastBeat := s.now } ∧
      s.told t x.fn 0x65 [] ∧ ∃ z, t.stall? n = some z ∧ z.attest.tenant = leaf.map Config.sha384)) ∧
    (y.attest.tenant ≠ none → y.attest.tenant ≠ leaf.map Config.sha384 → Completes (.finish id leaf true) s (fun t =>
      t.sessions.find? id.toNat = none ∧ t.host.out = s.host.out ++ [.spdm x.fn 0x7F [0x01]] ∧ t.stalls = s.stalls))) ∧
  (∀ (s : State) (id : U32) (leaf : Option (List Byte)) (x : Session), s.sessionHeard id.toNat = some x → x.finished = false →
    Completes (.finish id leaf false) s (fun t => t.sessions.find? id.toNat = none ∧ t.stalls = s.stalls)) ∧
  (∀ (s : State) (id : U32) (x : Session), s.sessionHeard id.toNat = some x → x.finished = true →
    Completes (.heartbeat id) s (fun t => t.sessions.find? id.toNat = some { x with lastBeat := s.now } ∧ s.told t x.fn 0x68 []) ∧
    Completes (.keyUpdate id) s (fun t => t.sessions = s.sessions ∧ s.told t x.fn 0x69 []) ∧
    Completes (.endSession id) s (fun t => t.sessions.find? id.toNat = some { x with ended := true } ∧ s.told t x.fn 0x6C [])) ∧
  (∀ (s : State) (id : U32) (x : Session), s.session? id.toNat = some x → x.lastBeat + 160000000000 ≤ (s.advance (x.lastBeat + 160000000000)).now →
    Completes (.heartbeatMissed id) s (fun t => t.sessions.find? id.toNat = some { x with ended := true } ∧ x.lastBeat + 160000000000 ≤ t.now)) ∧
  (∀ (s : State) (id : U32) (op tag : U16) (l : List Byte) (r : Req), s.asksInside id { fn := .rtp, tag := tag, payload := l } = some r →
    Completes (.vendorDefinedRequest id op tag l) s (fun t =>
      (∀ g, mailboxOf op.toNat = some g → t = g r s) ∧ (mailboxOf op.toNat = none → s.replied t r op.toNat unknownOpcode ∧ t.stalls = s.stalls)))

/-! Faults, recovery and accounting (R38, R413–R422, R488–R505). -/

/-- A component's fault (R38, R488, R497): stacks and dies are retired at once, a pseudo-channel or port as the fault says, a
cluster or slice at its third fault within 2^36 gticks; the fault is a recovery of its kind and index; a fault of a retired
component changes nothing. An uncorrectable event counts, poisons its line, and the sixteenth within 2^36 gticks retires the
pseudo-channel (R413, R415). -/
def Obligations.ComponentFaults : Prop :=
  (∀ (s : State) (c : Component) (b : Bool) (l : List Nat) (h : List (Nat × Nat × U32)), compFitted s.pkg.variant c = true → s.pkg.isRetired c = true →
    Completes (.componentFault c b l h) s (fun t => t = s)) ∧
  (∀ (s : State) (c : Component) (b : Bool) (l : List Nat) (h : List (Nat × Nat × U32)), compFitted s.pkg.variant c = true → s.pkg.isRetired c = false →
    Completes (.componentFault c b l h) s (fun t =>
      (∃ r ∈ t.acct.recoveries, r.kind = (compEvent c).1 ∧ r.index = (compEvent c).2 ∧ r.outcome = (if t.pkg.isRetired c then 1 else 0)) ∧
      (match c with
      | .stack _ | .cdie _ | .iodie _ => t.pkg.isRetired c = true
      | .pc _ | .linkPort _ => t.pkg.isRetired c = b
      | .cluster k => t.pkg.isRetired c = decide (2 ≤ ((s.acct.componentFaults.get [] k.val).filter (fun u => decide (s.now < u + 2 ^ 36))).length)
      | .slice d j => t.pkg.isRetired c = decide (2 ≤ ((s.acct.componentFaults.get [] (512 + 32 * d.val + j.val)).filter (fun u => decide (s.now < u + 2 ^ 36))).length)))) ∧
  (∀ (s : State) (p : Fin 768) (a : Nat), p.val < 64 * stackCount s.pkg.variant →
    ((s.prot.ueTimes.get [] p.val).filter (fun u => decide (s.now < u + 2 ^ 36))).length < 15 →
    Completes (.ueEccEvent p a) s (fun t => lineOf (p.val * 2 ^ 30 + a % 2 ^ 30) ∈ t.poison ∧ t.mee.eccUe = satAdd s.mee.eccUe 1 ∧ t.mee.errKind = 2 ∧ t.pkg = s.pkg ∧
      (∀ l, l ≠ lineOf (p.val * 2 ^ 30 + a % 2 ^ 30) → (l ∈ t.poison ↔ l ∈ s.poison)) ∧ Only [.poison, .mee, .prot] s t)) ∧
  (∀ (s : State) (p : Fin 768) (a : Nat), p.val < 64 * stackCount s.pkg.variant →
    15 ≤ ((s.prot.ueTimes.get [] p.val).filter (fun u => decide (s.now < u + 2 ^ 36))).length →
    Completes (.ueEccEvent p a) s (fun t => t.pkg.isRetired (.pc p) = true ∧ t.mee.eccUe = satAdd s.mee.eccUe 1))

/-- Recoveries end (R491, R495, R497): a rebuilt copy is in service, and a recovery with nothing left to decide or rebuild has its
COMPLETE record. A stopped command that is not replayable and has had no side effect begins afresh; one that may be replayed and
has been three times, faults. -/
def Obligations.RecoveriesComplete : Prop :=
  (∀ (s : State) (n : StallNo) (x : Stall) (b : Nat), s.stall? n = some x → x.journal.rebuild = some b →
    s.rg.jobs.any (fun j => j.stall = n.val && j.kind = .rebuild && j.start.isSome) = true →
    Completes (.journalRebuildDone n) s (fun t => ∃ y, t.stall? n = some y ∧ y.journal.copies = x.journal.copies ++ [b] ∧ y.journal.rebuild = none)) ∧
  (∀ (s : State) (r : Recovery), s.acct.recoveries = [r] → r.undecided = [] → r.rebuilds = [] →
    Completes .recoveryComplete s (fun t => t.acct.recoveries = [] ∧ t.acct.lastDone = s.nowW ∧ t.acct.seq = s.acct.seq + 1 ∧
      ∃ e, t.acct.log.getLast? = some e ∧ e.seq = s.acct.seq + 1 ∧ e.kind = r.kind ∧ e.phase = 2 ∧ e.outcome = r.outcome)) ∧
  (∀ (s : State) (a : CmdAt) (f : List (Nat × Nat)) (x : Stall) (q : Queue) (e : Entry), s.stall? a.stall = some x → x.queue? a.qk = some q → q.entry? a.pos = some e →
    e.undecided = true → e.isOver = false →
    (nonReplayable e.bytes = true → e.sideEffect = false → (s.decideOne a f).2 = some .again ∧ ∃ y z d, (s.decideOne a f).1.stall? a.stall = some y ∧
      y.queue? a.qk = some z ∧ z.entry? a.pos = some d ∧ d.st = .accepted ∧ d.undecided = false ∧ d.progress = 0) ∧
    (nonReplayable e.bytes = true → e.sideEffect = true → (s.decideOne a f).2 = some .faulted) ∧
    (nonReplayable e.bytes = false → 3 ≤ e.replays → (s.decideOne a f).2 = some .faulted))

/-- Cleared memory reads as zero and its slots are CLEAN (R411, R416, R418, R420, R422). Accounting requests (R497, R500, R501,
R505): what they answer, and that ORPHAN_CLEAR takes the list away. -/
def Obligations.GroomsAndAccounting : Prop :=
  (∀ (s : State) (b : Fin 128), b.val ∈ s.prot.grooming → s.running = true →
    Completes (.groomBayCleared b) s (fun t => b.val ∉ t.prot.grooming ∧ (∀ a, a / 2 ^ 30 ∈ bayPcs s.pkg.variant b.val → Memory.read t.hbm a = 0) ∧
      ∀ a, a / 2 ^ 30 ∉ bayPcs s.pkg.variant b.val → Memory.read t.hbm a = Memory.read s.hbm a)) ∧
  (∀ (s : State) (k : Fin 1024), s.mayClear k.val = true → (∀ i ∈ (s.slot k.val).left, (s.yard.bayOwner.get 0xFF i.bay).toNat < 128) →
    Completes (.slotClean k) s (fun t => t.slot k.val = SlotLedger.init ∧
      ∀ i ∈ (s.slot k.val).left, ∀ a, (bayByteOf s.pkg.variant a).1 = i.bay → i.lo / 64 * 64 ≤ (bayByteOf s.pkg.variant a).2 →
        (bayByteOf s.pkg.variant a).2 < ceilDiv i.hi 64 * 64 → Memory.read t.hbm a = 0)) ∧
  (∀ (s : State) (m : MbReq) (l : List AccEvent), s.mbTakes (accForm 0x0080 8 [(1, 3)] (fun x => x = 0xFF) (plain m)) m = true →
    (if fnIsPf m.fn && accStall (plain m) = 0xFF then some s.acct.log else (s.stall? (accStall (plain m))).map (·.evLog)) = some l →
    Completes (.accEvents m) s (fun t => t.answered m 0x0080 (okWith (
      leBytes 4 ((l.filter (fun e => decide (f32 m.payload 4 ≤ e.seq.toNat))).take 127).length
        ++ ((l.filter (fun e => decide (f32 m.payload 4 ≤ e.seq.toNat))).take 127).flatMap AccEvent.bytes)))) ∧
  (∀ (s : State) (m : MbReq) (o : OrphanList), s.mbTakes { accForm 0x0081 16 [(5, 3), (12, 4)] (fun _ => false) (plain m) with
      bad := fun p => minOfs ((accForm 0x0081 16 [(5, 3), (12, 4)] (fun _ => false) (plain m)).bad p) (lowest (badIf (1 < f8 p 4) 4)) } m = true →
    f8 m.payload 4 = 1 →
    (s.orphansFor (plain m) = some o → Completes (.accRecords m) s (fun t => t.answered m 0x0081 (okWith (
      accHead ((o.entries.drop (f32 m.payload 8)).take 72).length (f32 m.payload 8 + ((o.entries.drop (f32 m.payload 8)).take 72).length) (s.eraFloor (accStall (plain m)))
        ++ ((o.entries.drop (f32 m.payload 8)).take 72).flatMap Orphan.accBytes)))) ∧
    (s.orphansFor (plain m) = none → Completes (.accRecords m) s (fun t => t.answered m 0x0081 (refuse 2)))) ∧
  (∀ (s : State) (m : MbReq), s.mbTakes (accForm 0x0082 8 [(1, 7)] (fun _ => false) (plain m)) m = true →
    ((s.orphansFor (plain m)).isSome = true → Completes (.orphanClear m) s (fun t => t.answered m 0x0082 ok ∧ t.acct.orphans.find? (accStall (plain m)) = none)) ∧
    (s.orphansFor (plain m) = none → Completes (.orphanClear m) s (fun t => t.answered m 0x0082 (refuse 2) ∧ t.acct = s.acct)))

/-! The MUART, the console, and the I3C sideband (R550–R572). -/

/-- The MUART (R552–R560): what a discarded character counts, a character sent or collided, formats that take effect, sleep and
the wake's lost character, breaks and line faults. -/
def Obligations.MuartEvents : Prop :=
  (∀ (s : State) (c : BitVec 9) (f p : Bool), s.sideUp = true → s.side.mu.en = true → s.side.mu.lineFault = false → s.side.mu.rxAwake = true → s.side.mu.conEn = false →
    Completes (.muartCharReceived c f p) s (fun t => t.side.mu = { s.side.mu with
      lastActive := s.now, brk := false, framing := if f then satAdd s.side.mu.framing 1 else s.side.mu.framing
      parity := if p then satAdd s.side.mu.parity 1 else s.side.mu.parity } ∧ t.side.con = s.side.con)) ∧
  (∀ (s : State) (c : BitVec 9), s.sideUp = true → s.side.mu.en = true → s.side.mu.lineFault = false → s.side.mu.rxAwake = true → s.side.mu.conEn = true →
    s.side.con.reads = true → s.side.con.buf = [] → s.side.con.bad = false → s.side.con.long = false → 0x20 ≤ c.toNat → c.toNat ≤ 0x7E → s.side.con.chars.length < 128 →
    Completes (.muartCharReceived c false false) s (fun t => t.side.con = { s.side.con with chars := s.side.con.chars ++ [c.setWidth 8], lastCr := false })) ∧
  (∀ (s : State) (x : Byte) (l : List Byte), s.side.mu.tx = x :: l → s.sideUp = true → s.side.mu.en = true → s.side.mu.backoff = false → s.side.mu.lineFault = false →
    Completes (.muartCharSent false) s (fun t => t.side.mu = { s.side.mu with tx := l, hits := 0, lastActive := s.now } ∧ t.host.out = s.host.out ++ [.console x]) ∧
    (s.side.mu.half = true → s.side.mu.hits < 7 → Completes (.muartCharSent true) s (fun t =>
      t.side.mu = { s.side.mu with collision := satAdd s.side.mu.collision 1, hits := s.side.mu.hits + 1, backoff := true })) ∧
    (s.side.mu.half = true → 7 ≤ s.side.mu.hits → Completes (.muartCharSent true) s (fun t =>
      t.side.mu.tx = [] ∧ t.side.mu.hits = 0 ∧ t.side.mu.backoff = false ∧ t.side.mu.evt = s.side.mu.evt ||| muTxAbort))) ∧
  (∀ s : State, Completes .muartRetry s (fun t => t = s.setMu (fun u => { u with backoff := false }))) ∧
  (∀ s : State, Completes .muConfigApply s (fun t => t = s.setMu (fun u =>
    { u with ctl := u.pendCtl.getD u.ctl, div := u.pendDiv.getD u.div, pendCtl := none, pendDiv := none }))) ∧
  (∀ s : State, s.sideUp = true → s.side.mu.sleep ≠ 0 → s.side.mu.rxAwake = true → s.side.mu.lineFault = false → s.side.mu.tx = [] →
    Completes .muartSleep s (fun t => t.side.mu = { s.side.mu with rxAwake := false } ∧ t.now = (s.advance (s.side.mu.lastActive + s.side.mu.sleep.toNat * 2 ^ 28)).now)) ∧
  (∀ s : State, s.sideUp = true → s.side.mu.en = true → s.side.mu.rxAwake = false → s.side.mu.lineFault = false →
    Completes .muartWake s (fun t => t.side.mu = { s.side.mu with rxAwake := true, brk := false, wakeLost := satAdd s.side.mu.wakeLost 1, lastActive := s.now } ∧
      t.power.clearSt = s.power.clearSt)) ∧
  (∀ s : State, s.sideUp = true → s.side.mu.en = true → s.side.mu.lineFault = false → s.side.mu.rxAwake = true →
    Completes .break s (fun t => t.side.mu = { s.side.mu with brk := true, breaks := satAdd s.side.mu.breaks 1, evt := s.side.mu.evt ||| muBreakSeen } ∧
      t.side.con.chars = [] ∧ t.side.con.cmd = s.side.con.cmd)) ∧
  (∀ s : State, s.sideUp = true → s.side.mu.en = true → s.side.mu.lineFault = false →
    Completes .lineFault s (fun t => t.side.mu = { s.side.mu with lineFault := true, faultAt := s.nowW, evt := s.side.mu.evt ||| muFaultSet })) ∧
  (∀ s : State, s.sideUp = true → s.side.mu.lineFault = true →
    Completes .lineFaultClear s (fun t =>
      t.side.mu = { s.side.mu with lineFault := false, brk := false, rxAwake := true, lastActive := s.now, evt := s.side.mu.evt ||| muFaultClear }))

/-- The console's commands (R561–R564): each says what R562 and R563 give it, in the error state only some run, and a confirmation
needs its code. How a GTB value and a status are spelled in detail is the model's (log 84). -/
def Obligations.ConsoleCommands : Prop :=
  (∀ s : State, s.conRuns .status = true → Completes .consoleStatus s (fun t =>
    s.says t (partName s.pkg.variant ++ stepName s.pkg.stepping ++ crlf ++ ascii "epoch " ++ dec s.yard.active.epoch ++ crlf))) ∧
  (∀ s : State, s.conRuns .time = true → Completes .consoleTime s (fun t =>
    s.says t (hexGtb s.nowW ++ crlf ++ (if s.prot.approved then ascii "OK A" else ascii "OK -") ++ crlf ++ ascii "> "))) ∧
  (∀ s : State, s.conRuns .line = true → Completes .consoleLine s (fun t => s.says t
    (Config.conLine (s.side.mu.collision ++ s.side.mu.overrun ++ s.side.mu.parity ++ s.side.mu.framing) (s.side.mu.breaks ++ s.side.mu.wakeLost)
      ++ (if s.prot.approved then ascii "OK A" else ascii "OK -") ++ crlf ++ ascii "> "))) ∧
  (∀ (s : State) (c : Instr) (k : ConCmd) (code : List Byte), (c, k) ∈ [(Instr.confirmEnrol, ConCmd.confirmEnrol code), (.confirmDecom, .confirmDecom code)
      , (.consoleSelftest, .selftest), (.resetWarm, .resetWarm)] → s.conRuns k = true → s.prot.error = true →
    Completes c s (fun t => s.says t (ascii "ERR 06 STATE" ++ crlf) ∧ t.prot = s.prot ∧ t.yard = s.yard ∧ t.power = s.power)) ∧
  (∀ (s : State) (code : List Byte), s.conRuns (.confirmEnrol code) = true → s.prot.error = false → s.yard.keyState = .pending → s.now ≤ s.yard.pendAt + 960000000000 →
    Completes .confirmEnrol s (fun t =>
      (code = (keyDigest s.yard.pendKey).take 4 → t.yard.keyState = .enrolled ∧ t.yard.key = s.yard.pendKey ∧ t.yard.keySeq = 1) ∧
      (code ≠ (keyDigest s.yard.pendKey).take 4 → t.yard = s.yard))) ∧
  (∀ (s : State) (code : List Byte) (r : Req) (a : Nat), s.conRuns (.confirmDecom code) = true → s.prot.error = false → s.prot.decom = some (r, a) →
    s.now ≤ a + 960000000000 →
    (code ≠ (r.payload.take 32).take 4 → Completes .confirmDecom s (fun t => s.says t (ascii "ERR 05 MISMATCH" ++ crlf) ∧ t.prot = s.prot)) ∧
    (code = (r.payload.take 32).take 4 → s.stalls = [] → s.yard.isDefault = true → Completes .confirmDecom s (fun t =>
      t.prot.decommissioned = true ∧ t.prot.decom = none ∧ t.yard.keyState = .unenrolled ∧ t.yard.store = [] ∧ t.yard.epochFloor = 0 ∧
      (s.prot.bank ≠ 3 → t.prot.bank = s.prot.bank + 1) ∧ (s.prot.bank = 3 → t.prot.bank = 3 ∧ t.prot.spent = true)))) ∧
  (∀ s : State, s.conRuns .selftest = true → s.prot.error = false →
    Completes .consoleSelftest s (fun t => t.prot = { s.prot with selftestBusy := true, selftestWait := s.prot.selftestWait ++ [.console] } ∧ t.side.con.running = true)) ∧
  (∀ s : State, s.conRuns .zeroise = true → s.side.con.buf = [] →
    Completes .consoleZeroise s (fun t => s.says t (ascii "type yes within 10 s" ++ crlf) ∧ t.side.con.yesFrom = some s.now ∧ t.prot = s.prot)) ∧
  (∀ s : State, s.conRuns .yes = true → s.prot.zeroised = false → s.prot.zeroising = false →
    Completes .consoleZeroise s (fun t => t.prot.approved = false ∧ (t.prot.zeroised || t.prot.zeroising) = true ∧ ∀ e ∈ t.sessions, e.2.ended = true ∧ e.2.secret = [])) ∧
  (∀ (s : State) (u : Nat), s.side.con.yesFrom = some u → u + 160000000000 < (s.advance (u + 160000000000 + 1)).now →
    Completes .consoleZeroiseAbandoned s (fun t => s.says t (ascii "ERR 07 ABANDONED" ++ crlf) ∧ t.prot = s.prot)) ∧
  (∀ s : State, s.conRuns .resetWarm = true → s.prot.error = false → s.prot.approved = true → s.warmBad = none → s.warmWaits = false →
    Completes .resetWarm s (fun t => t.power.warm = some { reqs := [.console] } ∧ ∀ k, (t.sky k).sky = .clear)) ∧
  (∀ s : State, s.conRuns .resetCold = true → Completes .resetCold s (fun t => t.power.coldReq = some (s.power.coldReq.getD 4)))

/-- The I3C target's common commands (R565, R566): the address it takes and drops, the events it enables, what each read returns,
and the commands that change nothing. GETSTATUS and GETMXDS return what the spec does not give: two bytes, whatever they are. The
MCTP endpoint's and the PLDM terminus's answers (R567, R569, R571). The PLDM effecters (R570): confirmations against their
digests, resets, a self-test and zeroisation. In the error state those that the console would refuse are not ready. -/
def Obligations.SidebandProtocols : Prop :=
  (∀ (s : State) (a : BitVec 7), s.sideUp = true → s.side.assigned = false →
    Completes (.entdaa a) s (fun t => t.side = { s.side with addr := a, assigned := true } ∧
      t.host.out = s.host.out ++ [.i3c ((leBytes 2 pidHi.toNat).reverse ++ pidLo.reverse ++ [0x06, 0x00])]) ∧
    Completes (.setdasa a) s (fun t => t.side = { s.side with addr := a, assigned := true })) ∧
  (∀ s : State, s.sideUp = true → Completes .rstdaa s (fun t => t.side = { s.side with addr := 0, assigned := false, eid := 0 })) ∧
  (∀ (s : State) (v : Byte), s.sideUp = true → Completes (.enec v) s (fun t => t.side = { s.side with ibiEn := s.side.ibiEn || has v 0 }) ∧
    Completes (.disec v) s (fun t => t.side = { s.side with ibiEn := s.side.ibiEn && !has v 0 })) ∧
  (∀ (s : State) (c : Instr) (l : List Byte), s.sideUp = true →
    (c, l) ∈ [(Instr.getpid, (leBytes 2 pidHi.toNat).reverse ++ pidLo.reverse), (.getbcr, [0x06]), (.getdcr, [0x00]), (.getmwl, [0, 68]), (.getmrl, [0, 68])] →
    Completes c s (fun t => t.host.out = s.host.out ++ [.i3c l] ∧ t.side = s.side ∧ Only [.out, .power] s t)) ∧
  (∀ (s : State) (c : Instr), s.sideUp = true → c ∈ [Instr.getstatus, .getmxds] →
    Completes c s (fun t => (∃ l : List Byte, l.length = 2 ∧ t.host.out = s.host.out ++ [.i3c l]) ∧ t.side = s.side ∧ t.free = s.free + 1)) ∧
  (∀ (s : State) (c : Instr) (v : U16) (b : Byte), s.sideUp = true → c ∈ [Instr.setmwl v, .setmrl v, .rstact b] →
    Completes c s (fun t => t.side = s.side ∧ t.host = s.host ∧ Only [.power] s t)) ∧
  (∀ (s : State) (a : Nat), s.sideUp = true → Completes (.ibiRetry a) s (fun t => t.now = (s.advance (a + 16000000)).now ∧
    ((s.advance (a + 16000000)).side.ibiEn = true → t.host.out = (s.advance (a + 16000000)).host.out ++ [.ibi Config.mctpMdb]))) ∧
  (∀ (s : State) (c : Instr) (l : List Nat), s.sideUp = true → s.side.assigned = true →
    (c, l) ∈ [(Instr.getEndpointId, [s.side.eid.toNat]), (.getEndpointUuid, Config.endpointUuid.map (·.toNat)), (.getMctpVersionSupport, [1, 3])
      , (.getMessageTypeSupport, [0x00, 0x01, 0x05, 0x06]), (.getTid, [s.side.tid.toNat]), (.getPldmVersion 0, Config.pldmBaseVersion.map (·.toNat))
      , (.getPldmVersion 2, [1, 2]), (.getPldmTypes, [0, 2]), (.getPldmCommands 0, [0x01, 0x02, 0x03, 0x04, 0x05])
      , (.getPldmCommands 2, [0x0B, 0x0D, 0x11, 0x21, 0x31, 0x39, 0x50, 0x51]), (.getPdrRepositoryInfo, [(pdrs s.pkg.variant).length])] →
    Completes c s (fun t => s.mctpSays t .success l ∧ t.side = s.side)) ∧
  (∀ (s : State) (b : Byte), s.sideUp = true → s.side.assigned = true → b ≠ 0 → b ≠ 0xFF →
    Completes (.setEndpointId b) s (fun t => t.side = { s.side with eid := b } ∧ s.mctpSays t .success [b.toNat]) ∧
    Completes (.setTid b) s (fun t => t.side = { s.side with tid := b } ∧ s.mctpSays t .success [])) ∧
  (∀ (s : State) (b : Byte) (c : Instr), s.sideUp = true → s.side.assigned = true → (b = 0 ∨ b = 0xFF) → c ∈ [Instr.setEndpointId b, .setTid b] →
    Completes c s (fun t => t.side = s.side ∧ s.mctpSays t .invalidData [])) ∧
  (∀ (s : State) (h : U32) (r : Pdr), s.sideUp = true → s.side.assigned = true → (pdrs s.pkg.variant)[h.toNat]? = some r →
    Completes (.getPdr h) s (fun t => s.mctpSays t .success
      [if h.toNat + 1 < (pdrs s.pkg.variant).length then h.toNat + 1 else 0, if r.effecter then 1 else 0, r.id, r.set.getD 0])) ∧
  (∀ (s : State) (i : U16), s.sideUp = true → s.side.assigned = true → Completes (.getSensorReading i) s (fun t => match s.numSensor i.toNat with
    | none => s.mctpSays t .invalidSensor []
    | some v => s.mctpSays t .success [v])) ∧
  (∀ (s : State) (i : U16), s.sideUp = true → s.side.assigned = true → Completes (.getStateSensorReadings i) s (fun t => match s.stateSensor i.toNat with
    | none => s.mctpSays t .invalidSensor []
    | some v => s.mctpSays t .success [v])) ∧
  (∀ (s : State) (e : PlatEvent) (l : List PlatEvent), s.sideUp = true → s.side.assigned = true → s.side.events = e :: l →
    Completes .pollForPlatformEvent s (fun t => t.side = { s.side with events := l, eventLost := false } ∧
      s.mctpSays t .success (e.values ++ [if s.side.eventLost then 1 else 0]))) ∧
  (∀ (s : State) (n : U16), s.sideUp = true → s.side.assigned = true →
    Completes (.eventMessageBufferSize n) s (fun t => (∃ v, s.mctpSays t .success [v]) ∧ t.side = s.side ∧ t.free = s.free + 1)) ∧
  (∀ (s : State) (v : U32) (c : Instr), s.sideUp = true → s.side.assigned = true → s.prot.error = true →
    c ∈ [Instr.pldmEnrolConfirm v, .pldmDecomConfirm v, .pldmResetWarm, .pldmSelftest] →
    Completes c s (fun t => s.mctpSays t .notReady [] ∧ t.prot = s.prot ∧ t.yard = s.yard)) ∧
  (∀ (s : State) (v : U32), s.sideUp = true → s.side.assigned = true → s.prot.error = false → s.yard.keyState = .pending → s.now ≤ s.yard.pendAt + 960000000000 →
    Completes (.pldmEnrolConfirm v) s (fun t =>
      (leNat ((keyDigest s.yard.pendKey).take 4) = v.toNat → s.mctpSays t .success [] ∧ t.yard.keyState = .enrolled ∧ t.yard.key = s.yard.pendKey) ∧
      (leNat ((keyDigest s.yard.pendKey).take 4) ≠ v.toNat → s.mctpSays t .invalidData [] ∧ t.yard = s.yard))) ∧
  (∀ (s : State) (v : U32) (r : Req) (a : Nat), s.sideUp = true → s.side.assigned = true → s.prot.error = false → s.prot.decom = some (r, a) →
    s.now ≤ a + 960000000000 →
    (leNat ((r.payload.take 32).take 4) ≠ v.toNat → Completes (.pldmDecomConfirm v) s (fun t => s.mctpSays t .invalidData [] ∧ t.prot = s.prot)) ∧
    (leNat ((r.payload.take 32).take 4) = v.toNat → s.stalls = [] → s.yard.isDefault = true → Completes (.pldmDecomConfirm v) s (fun t =>
      t.prot.decommissioned = true ∧ t.prot.decom = none ∧ t.yard.keyState = .unenrolled ∧ t.yard.store = []))) ∧
  (∀ s : State, s.sideUp = true → s.side.assigned = true → s.prot.error = false → s.prot.approved = true → s.warmBad = none → s.warmWaits = false →
    Completes .pldmResetWarm s (fun t => t.power.warm = some { reqs := [.pldm] })) ∧
  (∀ s : State, s.sideUp = true → s.side.assigned = true → Completes .pldmResetCold s (fun t => t.power.coldReq = some (s.power.coldReq.getD 4))) ∧
  (∀ s : State, s.sideUp = true → s.side.assigned = true → s.prot.error = false →
    Completes .pldmSelftest s (fun t => t.prot = { s.prot with selftestBusy := true, selftestWait := s.prot.selftestWait ++ [.pldm] })) ∧
  (∀ s : State, s.sideUp = true → s.side.assigned = true → s.prot.zeroised = false → s.prot.zeroising = false →
    Completes .pldmZeroise s (fun t => t.prot.approved = false ∧ (t.prot.zeroised || t.prot.zeroising) = true))
end

