-- ==== Sys2Proof/Laws/Memory.lean ====
section
/-! SUPPORT. Tables and byte memory: every operation keeps the canonical form, a read after a write to the same place gives
what was written, and a write leaves every other place alone. -/

namespace Sys2Proof

variable {α : Type}

/-- The keys rise strictly, said of every pair. -/
theorem Tab.sorted_iff (t : Tab α) : Tab.sorted t = true ↔ t.Pairwise (fun a b => a.1 < b.1) := by
  induction t with
  | nil => simp [Tab.sorted]
  | cons a t ih =>
    cases t with
    | nil => simp [Tab.sorted]
    | cons b t =>
      simp only [Tab.sorted, Bool.and_eq_true, decide_eq_true_eq, ih, List.pairwise_cons, List.mem_cons, forall_eq_or_imp]
      constructor
      · rintro ⟨h, hb, ht⟩
        exact ⟨⟨h, fun x hx => h.trans (hb x hx)⟩, hb, ht⟩
      · rintro ⟨⟨h, _⟩, hb, ht⟩
        exact ⟨h, hb, ht⟩

theorem Tab.filter_sorted {t : Tab α} (h : Tab.sorted t = true) (p : Nat × α → Bool) : Tab.sorted (t.filter p) = true :=
  (Tab.sorted_iff _).mpr (((Tab.sorted_iff _).mp h).filter p)

theorem Tab.mem_insert {t : Tab α} {k : Nat} {v : α} {e : Nat × α} : e ∈ Tab.insert k v t ↔ e = (k, v) ∨ e ∈ t := by
  induction t with
  | nil => simp [Tab.insert]
  | cons a t ih =>
    obtain ⟨j, w⟩ := a
    simp only [Tab.insert]
    split
    · simp
    · simp only [List.mem_cons, ih]; tauto

theorem Tab.insert_sorted {t : Tab α} (h : Tab.sorted t = true) (k : Nat) (v : α) (hk : ∀ e ∈ t, e.1 ≠ k) :
    Tab.sorted (Tab.insert k v t) = true := by
  rw [Tab.sorted_iff] at h ⊢
  induction t with
  | nil => simp [Tab.insert]
  | cons a t ih =>
    obtain ⟨j, w⟩ := a
    rw [List.pairwise_cons] at h
    simp only [Tab.insert]
    split
    · rename_i hlt
      refine List.pairwise_cons.mpr ⟨fun e he => ?_, List.pairwise_cons.mpr h⟩
      rcases List.mem_cons.mp he with rfl | he
      · exact hlt
      · exact hlt.trans (h.1 e he)
    · rename_i hge
      refine List.pairwise_cons.mpr ⟨fun e he => ?_, ih h.2 (fun e he => hk e (List.mem_cons_of_mem _ he))⟩
      rcases Tab.mem_insert.mp he with rfl | he
      · have := hk (j, w) List.mem_cons_self
        simp only at this hge ⊢
        omega
      · exact h.1 e he

theorem Tab.mem_erase {t : Tab α} {k : Nat} {e : Nat × α} : e ∈ t.erase k ↔ e ∈ t ∧ e.1 ≠ k := by
  simp [Tab.erase]

theorem Tab.put_sorted {t : Tab α} (h : Tab.sorted t = true) (k : Nat) (v : Option α) : Tab.sorted (t.put k v) = true := by
  cases v with
  | none => exact Tab.filter_sorted h _
  | some v => exact Tab.insert_sorted (Tab.filter_sorted h _) k v (fun e he => (Tab.mem_erase.mp he).2)

theorem Tab.set_sorted [DecidableEq α] {d : α} {t : Tab α} (h : Tab.sorted t = true) (k : Nat) (v : α) : Tab.sorted (t.set d k v) = true := by
  unfold Tab.set
  split
  · exact Tab.filter_sorted h _
  · exact Tab.insert_sorted (Tab.filter_sorted h _) k v (fun e he => (Tab.mem_erase.mp he).2)

/-! Reading. -/

theorem Tab.get_erase (d : α) (t : Tab α) (k j : Nat) : Tab.get d (t.erase k) j = if j = k then d else Tab.get d t j := by
  induction t with
  | nil => simp [Tab.erase, Tab.get]
  | cons a t ih =>
    obtain ⟨i, w⟩ := a
    unfold Tab.erase at ih ⊢
    rw [List.filter_cons]
    by_cases hi : i = k
    · subst hi
      simp only [ne_eq, not_true_eq_false, decide_false, Bool.false_eq_true, if_false, ih, Tab.get]
      by_cases hj : j = i
      · simp [hj]
      · simp [hj, Ne.symm hj]
    · simp only [ne_eq, hi, not_false_eq_true, decide_true, if_true, Tab.get, ih]
      by_cases hj : i = j
      · subst hj; simp [hi]
      · simp [hj]

theorem Tab.get_insert (d : α) (t : Tab α) (k j : Nat) (v : α) (h : ∀ e ∈ t, e.1 ≠ k) :
    Tab.get d (Tab.insert k v t) j = if j = k then v else Tab.get d t j := by
  induction t with
  | nil =>
    simp only [Tab.insert, Tab.get]
    by_cases hj : j = k
    · simp [hj]
    · simp [hj, Ne.symm hj]
  | cons a t ih =>
    obtain ⟨i, w⟩ := a
    have hik : i ≠ k := h (i, w) List.mem_cons_self
    simp only [Tab.insert]
    split
    · simp only [Tab.get]
      by_cases hj : j = k
      · simp [hj]
      · simp [hj, Ne.symm hj]
    · simp only [Tab.get, ih (fun e he => h e (List.mem_cons_of_mem _ he))]
      by_cases hj : i = j
      · subst hj; simp [hik]
      · simp [hj]

/-- What a number holds after number `k` has been set. -/
@[simp] theorem Tab.get_set [DecidableEq α] (d : α) (t : Tab α) (k j : Nat) (v : α) :
    Tab.get d (t.set d k v) j = if j = k then v else Tab.get d t j := by
  unfold Tab.set
  split
  · rename_i hv
    rw [Tab.get_erase, hv]
  · rw [Tab.get_insert _ _ _ _ _ (fun e he => (Tab.mem_erase.mp he).2), Tab.get_erase]
    split <;> rfl

@[simp] theorem Tab.get_upd [DecidableEq α] (d : α) (t : Tab α) (k j : Nat) (f : α → α) :
    Tab.get d (t.upd d k f) j = if j = k then f (Tab.get d t k) else Tab.get d t j := by
  unfold Tab.upd; rw [Tab.get_set]

theorem Tab.find?_erase (t : Tab α) (k j : Nat) : Tab.find? (t.erase k) j = if j = k then none else Tab.find? t j := by
  induction t with
  | nil => simp [Tab.erase, Tab.find?]
  | cons a t ih =>
    obtain ⟨i, w⟩ := a
    unfold Tab.erase at ih ⊢
    rw [List.filter_cons]
    by_cases hi : i = k
    · subst hi
      simp only [ne_eq, not_true_eq_false, decide_false, Bool.false_eq_true, if_false, ih, Tab.find?]
      by_cases hj : j = i
      · simp [hj]
      · simp [hj, Ne.symm hj]
    · simp only [ne_eq, hi, not_false_eq_true, decide_true, if_true, Tab.find?, ih]
      by_cases hj : i = j
      · subst hj; simp [hi]
      · simp [hj]

theorem Tab.find?_insert (t : Tab α) (k j : Nat) (v : α) (h : ∀ e ∈ t, e.1 ≠ k) :
    Tab.find? (Tab.insert k v t) j = if j = k then some v else Tab.find? t j := by
  induction t with
  | nil =>
    simp only [Tab.insert, Tab.find?]
    by_cases hj : j = k
    · simp [hj]
    · simp [hj, Ne.symm hj]
  | cons a t ih =>
    obtain ⟨i, w⟩ := a
    have hik : i ≠ k := h (i, w) List.mem_cons_self
    simp only [Tab.insert]
    split
    · simp only [Tab.find?]
      by_cases hj : j = k
      · simp [hj]
      · simp [hj, Ne.symm hj]
    · simp only [Tab.find?, ih (fun e he => h e (List.mem_cons_of_mem _ he))]
      by_cases hj : i = j
      · subst hj; simp [hik]
      · simp [hj]

/-- What a number names after number `k` has been put. -/
@[simp] theorem Tab.find?_put (t : Tab α) (k j : Nat) (v : Option α) : Tab.find? (t.put k v) j = if j = k then v else Tab.find? t j := by
  cases v with
  | none => exact Tab.find?_erase t k j
  | some v =>
    show Tab.find? (Tab.insert k v (t.erase k)) j = _
    rw [Tab.find?_insert _ _ _ _ (fun e he => (Tab.mem_erase.mp he).2), Tab.find?_erase]
    split <;> rfl

/-! Byte memory. -/

theorem Memory.wf_iff (m : Memory) : Memory.wf m = true ↔ Tab.sorted m = true ∧ ∀ c ∈ m, c.2 ≠ 0 := by
  simp [Memory.wf]

theorem Memory.filter_wf {m : Memory} (p : Host.Cell → Bool) (h : Memory.wf m = true) : Memory.wf (m.filter p) = true := by
  rw [Memory.wf_iff] at h ⊢
  exact ⟨Tab.filter_sorted h.1 p, fun c hc => h.2 c (List.mem_of_mem_filter hc)⟩

theorem Memory.write_wf {m : Memory} (a : Nat) (b : Byte) (h : Memory.wf m = true) : Memory.wf (m.write a b) = true := by
  rw [Memory.wf_iff] at h ⊢
  refine ⟨Tab.set_sorted h.1 a b, fun c hc => ?_⟩
  unfold Memory.write Tab.set at hc
  split at hc
  · exact h.2 c (Tab.mem_erase.mp hc).1
  · rcases Tab.mem_insert.mp hc with rfl | hc
    · assumption
    · exact h.2 c (Tab.mem_erase.mp hc).1

theorem Memory.writeL_wf {m : Memory} (a : Nat) (bs : List Byte) (h : Memory.wf m = true) : Memory.wf (m.writeL a bs) = true := by
  induction bs generalizing m a with
  | nil => exact h
  | cons b t ih => exact ih _ (Memory.write_wf a b h)

theorem Memory.clear_wf {m : Memory} (a n : Nat) (h : Memory.wf m = true) : Memory.wf (m.clear a n) = true := Memory.filter_wf _ h

/-- A read after a write to the same place gives what was written; any other place reads as before. -/
@[simp] theorem Memory.read_write (m : Memory) (a j : Nat) (b : Byte) : (m.write a b).read j = if j = a then b else m.read j :=
  Tab.get_set _ _ _ _ _

/-- A run of bytes is stored where it says and nowhere else. -/
theorem Memory.read_writeL (m : Memory) (a j : Nat) (bs : List Byte) :
    (m.writeL a bs).read j = if a ≤ j ∧ j < a + bs.length then bs.getD (j - a) 0 else m.read j := by
  induction bs generalizing m a with
  | nil => simp [Memory.writeL]
  | cons b t ih =>
    simp only [Memory.writeL, ih, Memory.read_write, List.length_cons]
    by_cases hj : j = a
    · subst hj; simp
    · by_cases h1 : a + 1 ≤ j ∧ j < a + 1 + t.length
      · have h2 : a ≤ j ∧ j < a + (t.length + 1) := by omega
        rw [if_pos h1, if_pos h2, show j - a = (j - (a + 1)) + 1 by omega]
        simp
      · have h2 : ¬ (a ≤ j ∧ j < a + (t.length + 1)) := by omega
        rw [if_neg h1, if_neg h2, if_neg hj]

end Sys2Proof
end

