-- ==== Sys2Proof/Laws/Only.lean ====
section
/-! SUPPORT. What every shared operation can do: it keeps the promises and changes only the parts its lemma lists. -/

namespace Sys2Proof.Machine

variable {L : List Part} {s0 s : State}

/-- Changing nothing. -/
theorem Only.refl (L : List Part) (s : State) : Only L s s where
  queue := rfl
  variant := rfl
  stepping := rfl
  caching := rfl
  drawn := Nat.le_refl _
  sent := List.prefix_rfl
  canonical := id
  sorted := id
  eras := fun _ => Nat.le_refl _
  bank := Nat.le_refl _
  spent := id
  rest := fun p _ => by cases p <;> simp [Part.same]

/-- One change more, within the same parts. -/
theorem Only.more (h : Only L s0 s) (t : State) (hk : Kept s t) (hp : ∀ p, p ∉ L → p.same s t) : Only L s0 t where
  queue := hk.queue.trans h.queue
  variant := hk.variant.trans h.variant
  stepping := hk.stepping.trans h.stepping
  caching := hk.caching.trans h.caching
  drawn := h.drawn.trans hk.drawn
  sent := h.sent.trans hk.sent
  canonical := fun c => hk.canonical (h.canonical c)
  sorted := fun c => hk.sorted (h.sorted c)
  eras := fun n => (h.eras n).trans (hk.eras n)
  bank := h.bank.trans hk.bank
  spent := fun c => hk.spent (h.spent c)
  rest := fun p hn => by
    have a := h.rest p hn
    have b := hp p hn
    cases p <;> simp_all [Part.same]

theorem Only.trans (h : Only L s0 s) {t : State} (g : Only L s t) : Only L s0 t := h.more t g.toKept g.rest
theorem Only.mono {l : List Part} (h : Only l s0 s) (hl : l ⊆ L) : Only L s0 s where
  toKept := h.toKept
  rest := fun p hn => h.rest p (fun c => hn (hl c))

/-! What a package is assembled as, no component's loss changes. -/

@[simp] theorem Package.retire_variant (g : Package) (c : Component) : (g.retire c).variant = g.variant := by cases c <;> rfl
@[simp] theorem Package.retire_stepping (g : Package) (c : Component) : (g.retire c).stepping = g.stepping := by cases c <;> rfl
@[simp] theorem Package.refit_variant (g : Package) : g.refit.variant = g.variant := by unfold Package.refit; split <;> rfl
@[simp] theorem Package.refit_stepping (g : Package) : g.refit.stepping = g.stepping := by unfold Package.refit; split <;> rfl

/-! One field changed. -/

theorem Only.gtb (h : Only L s0 s) (x : Gtb) (hl : Part.gtb ∈ L) : Only L s0 { s with gtb := x } :=
  h.more _ ⟨rfl, rfl, rfl, rfl, Nat.le_refl _, List.prefix_rfl, id, id, fun _ => Nat.le_refl _, Nat.le_refl _, id⟩ (fun p hn => by cases p <;> simp_all [Part.same])
theorem Only.yard (h : Only L s0 s) (x : Yard) (hl : Part.yard ∈ L) : Only L s0 { s with yard := x } :=
  h.more _ ⟨rfl, rfl, rfl, rfl, Nat.le_refl _, List.prefix_rfl, id, id, fun _ => Nat.le_refl _, Nat.le_refl _, id⟩ (fun p hn => by cases p <;> simp_all [Part.same])
theorem Only.clusters (h : Only L s0 s) (x : Tab Cluster) (hl : Part.clusters ∈ L) : Only L s0 { s with clusters := x } :=
  h.more _ ⟨rfl, rfl, rfl, rfl, Nat.le_refl _, List.prefix_rfl, id, id, fun _ => Nat.le_refl _, Nat.le_refl _, id⟩ (fun p hn => by cases p <;> simp_all [Part.same])
theorem Only.stalls (h : Only L s0 s) (x : Tab Stall) (hl : Part.stalls ∈ L) : Only L s0 { s with stalls := x } :=
  h.more _ ⟨rfl, rfl, rfl, rfl, Nat.le_refl _, List.prefix_rfl, id, id, fun _ => Nat.le_refl _, Nat.le_refl _, id⟩ (fun p hn => by cases p <;> simp_all [Part.same])
theorem Only.poison (h : Only L s0 s) (x : List Nat) (hl : Part.poison ∈ L) : Only L s0 { s with poison := x } :=
  h.more _ ⟨rfl, rfl, rfl, rfl, Nat.le_refl _, List.prefix_rfl, id, id, fun _ => Nat.le_refl _, Nat.le_refl _, id⟩ (fun p hn => by cases p <;> simp_all [Part.same])
theorem Only.lineSlot (h : Only L s0 s) (x : Tab Nat) (hl : Part.lineSlot ∈ L) : Only L s0 { s with lineSlot := x } :=
  h.more _ ⟨rfl, rfl, rfl, rfl, Nat.le_refl _, List.prefix_rfl, id, id, fun _ => Nat.le_refl _, Nat.le_refl _, id⟩ (fun p hn => by cases p <;> simp_all [Part.same])
theorem Only.mee (h : Only L s0 s) (x : Mee) (hl : Part.mee ∈ L) : Only L s0 { s with mee := x } :=
  h.more _ ⟨rfl, rfl, rfl, rfl, Nat.le_refl _, List.prefix_rfl, id, id, fun _ => Nat.le_refl _, Nat.le_refl _, id⟩ (fun p hn => by cases p <;> simp_all [Part.same])
theorem Only.prot (h : Only L s0 s) (x : Prot) (hl : Part.prot ∈ L) (hb : s.prot.bank.toNat ≤ x.bank.toNat := by exact Nat.le_refl _)
    (hs : s.prot.spent = true → x.spent = true := by exact id) : Only L s0 { s with prot := x } :=
  h.more _ ⟨rfl, rfl, rfl, rfl, Nat.le_refl _, List.prefix_rfl, id, id, fun _ => Nat.le_refl _, hb, hs⟩ (fun p hn => by cases p <;> simp_all [Part.same])
theorem Only.power (h : Only L s0 s) (x : Power) (hl : Part.power ∈ L) : Only L s0 { s with power := x } :=
  h.more _ ⟨rfl, rfl, rfl, rfl, Nat.le_refl _, List.prefix_rfl, id, id, fun _ => Nat.le_refl _, Nat.le_refl _, id⟩ (fun p hn => by cases p <;> simp_all [Part.same])
theorem Only.acct (h : Only L s0 s) (x : Acct) (hl : Part.acct ∈ L)
    (he : ∀ n, s.acct.eraFloor.get 0 n ≤ x.eraFloor.get 0 n := by exact fun _ => Nat.le_refl _) : Only L s0 { s with acct := x } :=
  h.more _ ⟨rfl, rfl, rfl, rfl, Nat.le_refl _, List.prefix_rfl, id, id, he, Nat.le_refl _, id⟩ (fun p hn => by cases p <;> simp_all [Part.same])
theorem Only.rsv (h : Only L s0 s) (x : Reserve) (hl : Part.rsv ∈ L) : Only L s0 { s with rsv := x } :=
  h.more _ ⟨rfl, rfl, rfl, rfl, Nat.le_refl _, List.prefix_rfl, id, id, fun _ => Nat.le_refl _, Nat.le_refl _, id⟩ (fun p hn => by cases p <;> simp_all [Part.same])
theorem Only.rg (h : Only L s0 s) (x : RegBlock) (hl : Part.rg ∈ L) : Only L s0 { s with rg := x } :=
  h.more _ ⟨rfl, rfl, rfl, rfl, Nat.le_refl _, List.prefix_rfl, id, id, fun _ => Nat.le_refl _, Nat.le_refl _, id⟩ (fun p hn => by cases p <;> simp_all [Part.same])
theorem Only.tl (h : Only L s0 s) (x : Tsuholt) (hl : Part.tl ∈ L) : Only L s0 { s with tl := x } :=
  h.more _ ⟨rfl, rfl, rfl, rfl, Nat.le_refl _, List.prefix_rfl, id, id, fun _ => Nat.le_refl _, Nat.le_refl _, id⟩ (fun p hn => by cases p <;> simp_all [Part.same])
theorem Only.side (h : Only L s0 s) (x : Sideband) (hl : Part.side ∈ L) : Only L s0 { s with side := x } :=
  h.more _ ⟨rfl, rfl, rfl, rfl, Nat.le_refl _, List.prefix_rfl, id, id, fun _ => Nat.le_refl _, Nat.le_refl _, id⟩ (fun p hn => by cases p <;> simp_all [Part.same])
theorem Only.sessions (h : Only L s0 s) (x : Tab Session) (hl : Part.sessions ∈ L) : Only L s0 { s with sessions := x } :=
  h.more _ ⟨rfl, rfl, rfl, rfl, Nat.le_refl _, List.prefix_rfl, id, id, fun _ => Nat.le_refl _, Nat.le_refl _, id⟩ (fun p hn => by cases p <;> simp_all [Part.same])
theorem Only.gates (h : Only L s0 s) (x : Tab Gate) (hl : Part.gates ∈ L) : Only L s0 { s with tb := { s.tb with gates := x } } :=
  h.more _ ⟨rfl, rfl, rfl, rfl, Nat.le_refl _, List.prefix_rfl, id, id, fun _ => Nat.le_refl _, Nat.le_refl _, id⟩ (fun p hn => by cases p <;> simp_all [Part.same])
theorem Only.ticks (h : Only L s0 s) (x : Tab TickCh) (hl : Part.ticks ∈ L) : Only L s0 { s with tb := { s.tb with ticks := x } } :=
  h.more _ ⟨rfl, rfl, rfl, rfl, Nat.le_refl _, List.prefix_rfl, id, id, fun _ => Nat.le_refl _, Nat.le_refl _, id⟩ (fun p hn => by cases p <;> simp_all [Part.same])
theorem Only.caps (h : Only L s0 s) (x : Tab Capture) (hl : Part.caps ∈ L) : Only L s0 { s with tb := { s.tb with caps := x } } :=
  h.more _ ⟨rfl, rfl, rfl, rfl, Nat.le_refl _, List.prefix_rfl, id, id, fun _ => Nat.le_refl _, Nat.le_refl _, id⟩ (fun p hn => by cases p <;> simp_all [Part.same])
theorem Only.timers (h : Only L s0 s) (x : Tab Timer) (hl : Part.timers ∈ L)
    (ht : Tab.sorted s.tb.timers = true → Tab.sorted x = true := by exact fun c => Tab.set_sorted c _ _) :
    Only L s0 { s with tb := { s.tb with timers := x } } :=
  h.more _ ⟨rfl, rfl, rfl, rfl, Nat.le_refl _, List.prefix_rfl, id, ht, fun _ => Nat.le_refl _, Nat.le_refl _, id⟩ (fun p hn => by cases p <;> simp_all [Part.same])
theorem Only.outs (h : Only L s0 s) (x : Tab SyncOut) (hl : Part.outs ∈ L) : Only L s0 { s with tb := { s.tb with outs := x } } :=
  h.more _ ⟨rfl, rfl, rfl, rfl, Nat.le_refl _, List.prefix_rfl, id, id, fun _ => Nat.le_refl _, Nat.le_refl _, id⟩ (fun p hn => by cases p <;> simp_all [Part.same])
theorem Only.matrix (h : Only L s0 s) (x : List Byte) (hl : Part.matrix ∈ L) : Only L s0 { s with tb := { s.tb with matrix := x } } :=
  h.more _ ⟨rfl, rfl, rfl, rfl, Nat.le_refl _, List.prefix_rfl, id, id, fun _ => Nat.le_refl _, Nat.le_refl _, id⟩ (fun p hn => by cases p <;> simp_all [Part.same])
theorem Only.gridDone (h : Only L s0 s) (x : Nat) (hl : Part.marks ∈ L) : Only L s0 { s with tb := { s.tb with gridDone := x } } :=
  h.more _ ⟨rfl, rfl, rfl, rfl, Nat.le_refl _, List.prefix_rfl, id, id, fun _ => Nat.le_refl _, Nat.le_refl _, id⟩ (fun p hn => by cases p <;> simp_all [Part.same])
theorem Only.winDone (h : Only L s0 s) (x : Nat) (hl : Part.marks ∈ L) : Only L s0 { s with tb := { s.tb with winDone := x } } :=
  h.more _ ⟨rfl, rfl, rfl, rfl, Nat.le_refl _, List.prefix_rfl, id, id, fun _ => Nat.le_refl _, Nat.le_refl _, id⟩ (fun p hn => by cases p <;> simp_all [Part.same])
theorem Only.irqLater (h : Only L s0 s) (x : List Nat) (hl : Part.marks ∈ L) : Only L s0 { s with tb := { s.tb with irqLater := x } } :=
  h.more _ ⟨rfl, rfl, rfl, rfl, Nat.le_refl _, List.prefix_rfl, id, id, fun _ => Nat.le_refl _, Nat.le_refl _, id⟩ (fun p hn => by cases p <;> simp_all [Part.same])
theorem Only.pf (h : Only L s0 s) (x : Tab PfInst) (hl : Part.pf ∈ L) : Only L s0 { s with host := { s.host with pf := x } } :=
  h.more _ ⟨rfl, rfl, rfl, rfl, Nat.le_refl _, List.prefix_rfl, id, id, fun _ => Nat.le_refl _, Nat.le_refl _, id⟩ (fun p hn => by cases p <;> simp_all [Part.same])
theorem Only.vf (h : Only L s0 s) (x : Tab VfInst) (hl : Part.vf ∈ L) : Only L s0 { s with host := { s.host with vf := x } } :=
  h.more _ ⟨rfl, rfl, rfl, rfl, Nat.le_refl _, List.prefix_rfl, id, id, fun _ => Nat.le_refl _, Nat.le_refl _, id⟩ (fun p hn => by cases p <;> simp_all [Part.same])
theorem Only.rtpLat (h : Only L s0 s) (x : Latches) (hl : Part.rtpLat ∈ L) : Only L s0 { s with host := { s.host with rtpLat := x } } :=
  h.more _ ⟨rfl, rfl, rfl, rfl, Nat.le_refl _, List.prefix_rfl, id, id, fun _ => Nat.le_refl _, Nat.le_refl _, id⟩ (fun p hn => by cases p <;> simp_all [Part.same])
theorem Only.ports (h : Only L s0 s) (x : Tab HostPortSt) (hl : Part.ports ∈ L) : Only L s0 { s with host := { s.host with ports := x } } :=
  h.more _ ⟨rfl, rfl, rfl, rfl, Nat.le_refl _, List.prefix_rfl, id, id, fun _ => Nat.le_refl _, Nat.le_refl _, id⟩ (fun p hn => by cases p <;> simp_all [Part.same])
theorem Only.unreach (h : Only L s0 s) (x : BitVec 128) (hl : Part.unreach ∈ L) : Only L s0 { s with host := { s.host with unreach := x } } :=
  h.more _ ⟨rfl, rfl, rfl, rfl, Nat.le_refl _, List.prefix_rfl, id, id, fun _ => Nat.le_refl _, Nat.le_refl _, id⟩ (fun p hn => by cases p <;> simp_all [Part.same])
theorem Only.history (h : Only L s0 s) (x : Tab (List RespHdr)) (hl : Part.history ∈ L) : Only L s0 { s with host := { s.host with history := x } } :=
  h.more _ ⟨rfl, rfl, rfl, rfl, Nat.le_refl _, List.prefix_rfl, id, id, fun _ => Nat.le_refl _, Nat.le_refl _, id⟩ (fun p hn => by cases p <;> simp_all [Part.same])
theorem Only.hostMem (h : Only L s0 s) (x : Memory) (hl : Part.hostMem ∈ L) : Only L s0 { s with host := { s.host with hostMem := x } } :=
  h.more _ ⟨rfl, rfl, rfl, rfl, Nat.le_refl _, List.prefix_rfl, id, id, fun _ => Nat.le_refl _, Nat.le_refl _, id⟩ (fun p hn => by cases p <;> simp_all [Part.same])
theorem Only.pkg (h : Only L s0 s) (x : Package) (hv : x.variant = s.pkg.variant) (hs : x.stepping = s.pkg.stepping) (hl : Part.pkg ∈ L) :
    Only L s0 { s with pkg := x } :=
  h.more _ ⟨rfl, hv, hs, rfl, Nat.le_refl _, List.prefix_rfl, id, id, fun _ => Nat.le_refl _, Nat.le_refl _, id⟩ (fun p hn => by cases p <;> simp_all [Part.same])
theorem Only.hbm (h : Only L s0 s) (x : Memory) (hx : Memory.wf s.hbm = true → Memory.wf x = true) (hl : Part.hbm ∈ L) : Only L s0 { s with hbm := x } :=
  h.more _ ⟨rfl, rfl, rfl, rfl, Nat.le_refl _, List.prefix_rfl, hx, id, fun _ => Nat.le_refl _, Nat.le_refl _, id⟩ (fun p hn => by cases p <;> simp_all [Part.same])
theorem Only.free (h : Only L s0 s) (n : Nat) (hl : Part.free ∈ L) : Only L s0 { s with free := s.free + n } :=
  h.more _ ⟨rfl, rfl, rfl, rfl, Nat.le_add_right _ _, List.prefix_rfl, id, id, fun _ => Nat.le_refl _, Nat.le_refl _, id⟩ (fun p hn => by cases p <;> simp_all [Part.same])
theorem Only.out (h : Only L s0 s) (l : List Out) (hl : Part.out ∈ L) :
    Only L s0 { s with host := { s.host with out := s.host.out ++ l } } :=
  h.more _ ⟨rfl, rfl, rfl, rfl, Nat.le_refl _, List.prefix_append _ _, id, id, fun _ => Nat.le_refl _, Nat.le_refl _, id⟩ (fun p hn => by cases p <;> simp_all [Part.same])

/-! Choices and loops. -/

theorem Only.ite {c : Prop} [Decidable c] {a b : State} (ha : Only L s0 a) (hb : Only L s0 b) : Only L s0 (if c then a else b) := by
  split
  · exact ha
  · exact hb
theorem Only.dite {c : Prop} [Decidable c] {a : c → State} {b : ¬c → State} (ha : ∀ x, Only L s0 (a x)) (hb : ∀ x, Only L s0 (b x)) :
    Only L s0 (if x : c then a x else b x) := by
  split
  · exact ha _
  · exact hb _

theorem forAll_only {α : Type} (h : Only L s0 s) (l : List α) (f : α → State → State) (hf : ∀ a t, Only L s0 t → Only L s0 (f a t)) :
    Only L s0 (forAll l f s) := by
  unfold forAll
  induction l generalizing s with
  | nil => exact h
  | cons a l ih => exact ih (hf a s h)
theorem Only.getD {o : Option State} {d : State} (ho : ∀ t, o = some t → Only L s0 t) (hd : Only L s0 d) : Only L s0 (o.getD d) := by
  cases o with
  | none => exact hd
  | some t => exact ho t rfl
theorem Only.elim {α : Type} {o : Option α} {d : State} {f : α → State} (hd : Only L s0 d) (hf : ∀ x, o = some x → Only L s0 (f x)) :
    Only L s0 (o.elim d f) := by
  cases o with
  | none => exact hd
  | some x => exact hf x rfl
theorem Only.of_snd {α : Type} {p : α × State} {a : α} {x : State} (e : p = (a, x)) (hp : Only L s0 p.2) : Only L s0 x := by
  rw [e] at hp; exact hp
theorem Only.of_fst {α : Type} {p : State × α} {a : α} {x : State} (e : p = (x, a)) (hp : Only L s0 p.1) : Only L s0 x := by
  rw [e] at hp; exact hp
/-- The same loops where the state is one half of what they carry. -/
theorem forAll_only1 {α β : Type} {x : State × β} (h : Only L s0 x.1) (l : List α) (f : α → State × β → State × β)
    (hf : ∀ a t, Only L s0 t.1 → Only L s0 (f a t).1) : Only L s0 (forAll l f x).1 := by
  unfold forAll
  induction l generalizing x with
  | nil => exact h
  | cons a l ih => exact ih (hf a x h)
theorem forAll_only2 {α β : Type} {x : β × State} (h : Only L s0 x.2) (l : List α) (f : α → β × State → β × State)
    (hf : ∀ a t, Only L s0 t.2 → Only L s0 (f a t).2) : Only L s0 (forAll l f x).2 := by
  unfold forAll
  induction l generalizing x with
  | nil => exact h
  | cons a l ih => exact ih (hf a x h)
theorem foldl_only1 {α β : Type} {x : State × β} (h : Only L s0 x.1) (l : List α) (f : State × β → α → State × β)
    (hf : ∀ t a, Only L s0 t.1 → Only L s0 (f t a).1) : Only L s0 (l.foldl f x).1 := by
  induction l generalizing x with
  | nil => exact h
  | cons a l ih => exact ih (hf x a h)
theorem foldl_only2 {α β : Type} {x : β × State} (h : Only L s0 x.2) (l : List α) (f : β × State → α → β × State)
    (hf : ∀ t a, Only L s0 t.2 → Only L s0 (f t a).2) : Only L s0 (l.foldl f x).2 := by
  induction l generalizing x with
  | nil => exact h
  | cons a l ih => exact ih (hf x a h)
theorem foldl_only {α : Type} (h : Only L s0 s) (l : List α) (f : State → α → State) (hf : ∀ t a, Only L s0 t → Only L s0 (f t a)) :
    Only L s0 (l.foldl f s) := by
  induction l generalizing s with
  | nil => exact h
  | cons a l ih => exact ih (hf s a h)

end Sys2Proof.Machine
end

