-- ==== Sys2Proof/Laws/Ops.lean ====
section
/-! SUPPORT. Machine/Ops.lean: what each of its operations keeps, and the parts it changes. -/

namespace Sys2Proof.Machine

variable {L : List Part} {s0 s : State}

theorem State.setPf_only (h : Only L s0 s) (hl : [Part.pf] ⊆ L) (p : Nat) (f : PfInst → PfInst) :
    Only L s0 (State.setPf s p f) := by
  unfold State.setPf
  refine Only.pf ?_ _ (hl (by decide))
  exact h
theorem State.setVf_only (h : Only L s0 s) (hl : [Part.vf] ⊆ L) (p : Nat) (n : Nat) (f : VfInst → VfInst) :
    Only L s0 (State.setVf s p n f) := by
  unfold State.setVf
  refine Only.vf ?_ _ (hl (by decide))
  exact h
theorem State.setLat_only (h : Only L s0 s) (hl : [Part.pf, Part.vf, Part.rtpLat] ⊆ L) (f : Fn) (g : Latches → Latches) :
    Only L s0 (State.setLat s f g) := by
  unfold State.setLat
  split
  · refine State.setPf_only ?_ (List.Subset.trans (by decide) hl) _ _
    exact h
  · refine State.setVf_only ?_ (List.Subset.trans (by decide) hl) _ _ _
    exact h
  · refine Only.rtpLat ?_ _ (hl (by decide))
    exact h
theorem State.emit_only (h : Only L s0 s) (hl : [Part.out] ⊆ L) (o : Out) :
    Only L s0 (State.emit s o) := by
  unfold State.emit
  refine Only.out ?_ _ (hl (by decide))
  exact h
theorem State.msiPf_only (h : Only L s0 s) (hl : [Part.pf, Part.out] ⊆ L) (p : HostPort) (v : Nat) :
    Only L s0 (State.msiPf s p v) := by
  unfold State.msiPf
  extract_lets +onlyGivenNames x1
  extract_lets +onlyGivenNames x2
  have hx2 : Only L s0 x2 := by
    unfold x2
    refine State.setPf_only ?_ (List.Subset.trans (by decide) hl) _ _
    exact h
  clear_value x2
  refine Only.ite ?_ ?_
  · refine State.emit_only ?_ (List.Subset.trans (by decide) hl) _
    exact hx2
  · exact hx2
theorem State.msiVf_only (h : Only L s0 s) (hl : [Part.vf, Part.out] ⊆ L) (p : HostPort) (n : StallNo) (v : Nat) :
    Only L s0 (State.msiVf s p n v) := by
  unfold State.msiVf
  extract_lets +onlyGivenNames x1
  extract_lets +onlyGivenNames x2
  have hx2 : Only L s0 x2 := by
    unfold x2
    refine State.setVf_only ?_ (List.Subset.trans (by decide) hl) _ _ _
    exact h
  clear_value x2
  refine Only.ite ?_ ?_
  · refine State.emit_only ?_ (List.Subset.trans (by decide) hl) _
    exact hx2
  · exact hx2
theorem State.pfVector_only (h : Only L s0 s) (hl : [Part.pf, Part.out] ⊆ L) (v : Nat) :
    Only L s0 (State.pfVector s v) := by
  unfold State.pfVector
  refine forAll_only ?_ _ _ ?_
  · exact h
  · intro x1
    intro x2
    intro h3
    refine Only.ite ?_ ?_
    · refine State.msiPf_only ?_ (List.Subset.trans (by decide) hl) _ _
      exact h3
    · exact h3
theorem State.pfCauseOn_only (h : Only L s0 s) (hl : [Part.pf, Part.out] ⊆ L) (c : PfCause) (p : HostPort) :
    Only L s0 (State.pfCauseOn s c p) := by
  unfold State.pfCauseOn
  extract_lets +onlyGivenNames x1
  extract_lets +onlyGivenNames x2
  have hx2 : Only L s0 x2 := by
    unfold x2
    refine State.setPf_only ?_ (List.Subset.trans (by decide) hl) _ _
    exact h
  clear_value x2
  refine Only.ite ?_ ?_
  · refine State.msiPf_only ?_ (List.Subset.trans (by decide) hl) _ _
    exact hx2
  · exact hx2
theorem State.pfCause_only (h : Only L s0 s) (hl : [Part.pf, Part.out] ⊆ L) (c : PfCause) :
    Only L s0 (State.pfCause s c) := by
  unfold State.pfCause
  refine forAll_only ?_ _ _ ?_
  · exact h
  · intro x1
    intro x2
    intro h3
    refine Only.ite ?_ ?_
    · refine State.pfCauseOn_only ?_ (List.Subset.trans (by decide) hl) _ _
      exact h3
    · exact h3
theorem State.hostEvt_only (h : Only L s0 s) (hl : [Part.pf, Part.out] ⊆ L) (b : BitVec 4) :
    Only L s0 (State.hostEvt s b) := by
  unfold State.hostEvt
  refine forAll_only ?_ _ _ ?_
  · exact h
  · intro x1
    intro x2
    intro h3
    refine Only.ite ?_ ?_
    · extract_lets +onlyGivenNames x4
      extract_lets +onlyGivenNames x5
      have hx5 : Only L s0 x5 := by
        unfold x5
        refine State.setPf_only ?_ (List.Subset.trans (by decide) hl) _ _
        exact h3
      clear_value x5
      refine Only.ite ?_ ?_
      · refine State.pfCauseOn_only ?_ (List.Subset.trans (by decide) hl) _ _
        exact hx5
      · exact hx5
    · exact h3
theorem State.setStall_only (h : Only L s0 s) (hl : [Part.stalls] ⊆ L) (n : Nat) (a2 : Stall) :
    Only L s0 (State.setStall s n a2) := by
  unfold State.setStall
  refine Only.stalls ?_ _ (hl (by decide))
  exact h
theorem State.modStall_only (h : Only L s0 s) (hl : [Part.stalls] ⊆ L) (n : Nat) (f : Stall → Stall) :
    Only L s0 (State.modStall s n f) := by
  unfold State.modStall
  split
  · exact h
  · refine State.setStall_only ?_ (List.Subset.trans (by decide) hl) _ _
    exact h
theorem onStall_only (h : Only L s0 s) (n : Nat) (f : StallNo → State → State) (hf : ∀ x0 t, Only L s0 t → Only L s0 (f x0 t)) :
    Only L s0 (onStall n f s) := by
  unfold onStall
  refine Only.dite ?_ ?_
  · intro x1
    refine hf _ _ ?_
    exact h
  · intro x2
    exact h
theorem State.vfCauseOn_only (h : Only L s0 s) (hl : [Part.vf, Part.out] ⊆ L) (n : StallNo) (c : VfCause) (p : HostPort) :
    Only L s0 (State.vfCauseOn s n c p) := by
  unfold State.vfCauseOn
  extract_lets +onlyGivenNames x1
  extract_lets +onlyGivenNames x2
  have hx2 : Only L s0 x2 := by
    unfold x2
    refine State.setVf_only ?_ (List.Subset.trans (by decide) hl) _ _ _
    exact h
  clear_value x2
  refine Only.ite ?_ ?_
  · refine State.msiVf_only ?_ (List.Subset.trans (by decide) hl) _ _ _
    exact hx2
  · exact hx2
theorem State.vfCause_only (h : Only L s0 s) (hl : [Part.vf, Part.out] ⊆ L) (n : StallNo) (c : VfCause) :
    Only L s0 (State.vfCause s n c) := by
  unfold State.vfCause
  refine forAll_only ?_ _ _ ?_
  · exact h
  · intro x1
    intro x2
    intro h3
    refine Only.ite ?_ ?_
    · refine State.vfCauseOn_only ?_ (List.Subset.trans (by decide) hl) _ _ _
      exact h3
    · exact h3
theorem State.queueMsi_only (h : Only L s0 s) (hl : [Part.vf, Part.out] ⊆ L) (n : StallNo) (v : Nat) :
    Only L s0 (State.queueMsi s n v) := by
  unfold State.queueMsi
  refine forAll_only ?_ _ _ ?_
  · exact h
  · intro x1
    intro x2
    intro h3
    refine Only.ite ?_ ?_
    · refine State.msiVf_only ?_ (List.Subset.trans (by decide) hl) _ _ _
      exact h3
    · exact h3
theorem State.draw_only (h : Only L s0 s) (hl : [Part.free] ⊆ L) (w : Nat) :
    Only L s0 (State.draw w s).2 := by
  unfold State.draw
  dsimp only
  refine Only.free ?_ _ (hl (by decide))
  exact h
theorem State.drawBytes_only (h : Only L s0 s) (hl : [Part.free] ⊆ L) (n : Nat) :
    Only L s0 (State.drawBytes n s).2 := by
  unfold State.drawBytes
  dsimp only
  refine Only.free ?_ _ (hl (by decide))
  exact h
theorem State.signed_only (h : Only L s0 s) (hl : [Part.free] ⊆ L) :
    Only L s0 (State.signed s) := by
  unfold State.signed
  refine Only.free ?_ _ (hl (by decide))
  exact h
theorem State.reissue_only (h : Only L s0 s) (hl : [Part.vf, Part.out, Part.stalls, Part.free] ⊆ L) (n : StallNo) :
    Only L s0 (State.reissue s n) := by
  unfold State.reissue
  refine State.vfCause_only ?_ (List.Subset.trans (by decide) hl) _ _
  refine State.signed_only ?_ (List.Subset.trans (by decide) hl)
  refine State.modStall_only ?_ (List.Subset.trans (by decide) hl) _ _
  exact h

end Sys2Proof.Machine
end

