-- ==== Sys2Proof/Laws/MgmtOps.lean ====
section
/-! SUPPORT. Machine/MgmtOps.lean: what each of its operations keeps, and the parts it changes. -/

namespace Sys2Proof.Machine

variable {L : List Part} {s0 s : State}

theorem State.setMu_only (h : Only L s0 s) (hl : [Part.side] ⊆ L) (f : Muart → Muart) :
    Only L s0 (State.setMu s f) := by
  unfold State.setMu
  refine Only.side ?_ _ (hl (by decide))
  exact h
theorem State.setCon_only (h : Only L s0 s) (hl : [Part.side] ⊆ L) (f : Console → Console) :
    Only L s0 (State.setCon s f) := by
  unfold State.setCon
  refine Only.side ?_ _ (hl (by decide))
  exact h
theorem State.muEvt_only (h : Only L s0 s) (hl : [Part.pf, Part.out, Part.side] ⊆ L) (b : BitVec 4) :
    Only L s0 (State.muEvt s b) := by
  unfold State.muEvt
  extract_lets +onlyGivenNames x1
  extract_lets +onlyGivenNames x2
  have hx2 : Only L s0 x2 := by
    unfold x2
    refine State.setMu_only ?_ (List.Subset.trans (by decide) hl) _
    exact h
  clear_value x2
  refine Only.ite ?_ ?_
  · exact hx2
  · refine State.pfCause_only ?_ (List.Subset.trans (by decide) hl) _
    exact hx2
theorem State.say_only (h : Only L s0 s) (hl : [Part.side] ⊆ L) (l : List Byte) :
    Only L s0 (State.say s l) := by
  unfold State.say
  refine State.setMu_only ?_ (List.Subset.trans (by decide) hl) _
  exact h
theorem State.sayLines_only (h : Only L s0 s) (hl : [Part.side] ⊆ L) (ls : List (List Byte)) :
    Only L s0 (State.sayLines s ls) := by
  unfold State.sayLines
  refine forAll_only ?_ _ _ ?_
  · exact h
  · intro x1
    intro x2
    intro h3
    refine State.say_only ?_ (List.Subset.trans (by decide) hl) _
    exact h3
theorem State.conResult_only (h : Only L s0 s) (hl : [Part.side] ⊆ L) (result : List Byte) :
    Only L s0 (State.conResult s result) := by
  unfold State.conResult
  refine State.setCon_only ?_ (List.Subset.trans (by decide) hl) _
  refine State.say_only ?_ (List.Subset.trans (by decide) hl) _
  exact h
theorem State.conLine_only (h : Only L s0 s) (hl : [Part.side] ⊆ L) :
    Only L s0 (State.conLine s) := by
  unfold State.conLine
  extract_lets +onlyGivenNames x1
  extract_lets +onlyGivenNames x2
  extract_lets +onlyGivenNames x3
  have hx3 : Only L s0 x3 := by
    unfold x3
    refine State.setCon_only ?_ (List.Subset.trans (by decide) hl) _
    exact h
  clear_value x3
  split
  · refine Only.ite ?_ ?_
    · refine State.setCon_only ?_ (List.Subset.trans (by decide) hl) _
      exact hx3
    · refine State.conResult_only ?_ (List.Subset.trans (by decide) hl) _
      exact hx3
  · refine Only.ite ?_ ?_
    · refine State.conResult_only ?_ (List.Subset.trans (by decide) hl) _
      exact hx3
    · refine Only.ite ?_ ?_
      · refine State.conResult_only ?_ (List.Subset.trans (by decide) hl) _
        exact hx3
      · split
        · refine State.conResult_only ?_ (List.Subset.trans (by decide) hl) _
          exact hx3
        · refine State.setCon_only ?_ (List.Subset.trans (by decide) hl) _
          exact hx3
theorem State.conFeed_only (h : Only L s0 s) (hl : [Part.side] ⊆ L) (x : Option (BitVec 9)) :
    Only L s0 (State.conFeed s x) := by
  unfold State.conFeed
  extract_lets +onlyGivenNames x1
  split
  · refine State.setCon_only ?_ (List.Subset.trans (by decide) hl) _
    exact h
  · refine Only.ite ?_ ?_
    · refine State.conLine_only ?_ (List.Subset.trans (by decide) hl)
      refine State.setCon_only ?_ (List.Subset.trans (by decide) hl) _
      exact h
    · refine Only.ite ?_ ?_
      · refine Only.ite ?_ ?_
        · refine State.setCon_only ?_ (List.Subset.trans (by decide) hl) _
          exact h
        · refine State.conLine_only ?_ (List.Subset.trans (by decide) hl)
          exact h
      · extract_lets +onlyGivenNames x2
        have hx2 : Only L s0 x2 := by
          unfold x2
          refine State.setCon_only ?_ (List.Subset.trans (by decide) hl) _
          exact h
        clear_value x2
        refine Only.ite ?_ ?_
        · exact hx2
        · refine Only.ite ?_ ?_
          · exact hx2
          · refine Only.ite ?_ ?_
            · refine Only.ite ?_ ?_
              · refine State.setCon_only ?_ (List.Subset.trans (by decide) hl) _
                exact hx2
              · refine State.setCon_only ?_ (List.Subset.trans (by decide) hl) _
                exact hx2
            · refine State.setCon_only ?_ (List.Subset.trans (by decide) hl) _
              exact hx2
theorem State.conDrain_only (h : Only L s0 s) (hl : [Part.side] ⊆ L) (a1 : Nat) :
    Only L s0 (State.conDrain s a1) := by
  induction a1 generalizing s with
  | zero =>
    exact h
  | succ m ih =>
    unfold State.conDrain
    refine Only.ite ?_ ?_
    · exact h
    · split
      · exact h
      · refine ih ?_
        refine State.conFeed_only ?_ (List.Subset.trans (by decide) hl) _
        refine State.setCon_only ?_ (List.Subset.trans (by decide) hl) _
        exact h
theorem State.conRead_only (h : Only L s0 s) (hl : [Part.side] ⊆ L) :
    Only L s0 (State.conRead s) := by
  unfold State.conRead
  refine State.conDrain_only ?_ (List.Subset.trans (by decide) hl) _
  exact h
theorem State.conOk_only (h : Only L s0 s) (hl : [Part.side] ⊆ L) :
    Only L s0 (State.conOk s) := by
  unfold State.conOk
  refine State.conRead_only ?_ (List.Subset.trans (by decide) hl)
  refine State.conResult_only ?_ (List.Subset.trans (by decide) hl) _
  exact h
theorem State.conErr_only (h : Only L s0 s) (hl : [Part.side] ⊆ L) (e : ConErr) :
    Only L s0 (State.conErr s e) := by
  unfold State.conErr
  refine State.conRead_only ?_ (List.Subset.trans (by decide) hl)
  refine State.conResult_only ?_ (List.Subset.trans (by decide) hl) _
  exact h
theorem State.ibi_only (h : Only L s0 s) (hl : [Part.out] ⊆ L) :
    Only L s0 (State.ibi s) := by
  unfold State.ibi
  refine Only.ite ?_ ?_
  · refine State.emit_only ?_ (List.Subset.trans (by decide) hl) _
    exact h
  · exact h
theorem State.mctp_only (h : Only L s0 s) (hl : [Part.out] ⊆ L) (c : McCode) (values : List Nat) :
    Only L s0 (State.mctp s c values) := by
  unfold State.mctp
  refine State.ibi_only ?_ (List.Subset.trans (by decide) hl)
  refine State.emit_only ?_ (List.Subset.trans (by decide) hl) _
  exact h
theorem State.platEvent_only (h : Only L s0 s) (hl : [Part.out, Part.side] ⊆ L) (e : PlatEvent) :
    Only L s0 (State.platEvent s e) := by
  unfold State.platEvent
  refine Only.ite ?_ ?_
  · refine Only.side ?_ _ (hl (by decide))
    exact h
  · extract_lets +onlyGivenNames x1
    extract_lets +onlyGivenNames x2
    extract_lets +onlyGivenNames x3
    have hx3 : Only L s0 x3 := by
      unfold x3
      refine Only.side ?_ _ (hl (by decide))
      exact h
    clear_value x3
    refine Only.ite ?_ ?_
    · refine State.ibi_only ?_ (List.Subset.trans (by decide) hl)
      exact hx3
    · exact hx3
theorem State.platform_only (h : Only L s0 s) (hl : [Part.out, Part.side] ⊆ L) :
    Only L s0 (State.platform s) := by
  unfold State.platform
  refine forAll_only ?_ _ _ ?_
  · exact h
  · intro x1
    intro x2
    intro h3
    split
    · exact h3
    · refine Only.ite ?_ ?_
      · exact h3
      · refine State.platEvent_only ?_ (List.Subset.trans (by decide) hl) _
        refine Only.side ?_ _ (hl (by decide))
        exact h3

end Sys2Proof.Machine
end

