-- ==== Sys2Proof/Laws/TimeOps.lean ====
section
/-! SUPPORT. Machine/TimeOps.lean: what each of its operations keeps, and the parts it changes. -/

namespace Sys2Proof.Machine

variable {L : List Part} {s0 s : State}

theorem State.setTimer_only (h : Only L s0 s) (hl : [Part.timers] ⊆ L) (n : Nat) (f : Timer → Timer) :
    Only L s0 (State.setTimer s n f) := by
  unfold State.setTimer
  refine Only.timers ?_ _ (hl (by decide))
  exact h
theorem State.setCap_only (h : Only L s0 s) (hl : [Part.caps] ⊆ L) (n : Nat) (f : Capture → Capture) :
    Only L s0 (State.setCap s n f) := by
  unfold State.setCap
  refine Only.caps ?_ _ (hl (by decide))
  exact h
theorem State.setTick_only (h : Only L s0 s) (hl : [Part.ticks] ⊆ L) (n : Nat) (f : TickCh → TickCh) :
    Only L s0 (State.setTick s n f) := by
  unfold State.setTick
  refine Only.ticks ?_ _ (hl (by decide))
  exact h
theorem State.setGate_only (h : Only L s0 s) (hl : [Part.gates] ⊆ L) (g : Nat) (f : Gate → Gate) :
    Only L s0 (State.setGate s g f) := by
  unfold State.setGate
  refine Only.gates ?_ _ (hl (by decide))
  exact h
theorem State.setOut_only (h : Only L s0 s) (hl : [Part.outs] ⊆ L) (n : Nat) (f : SyncOut → SyncOut) :
    Only L s0 (State.setOut s n f) := by
  unfold State.setOut
  refine Only.outs ?_ _ (hl (by decide))
  exact h
theorem State.setTrim_only (h : Only L s0 s) (hl : [Part.gtb, Part.pf, Part.out] ⊆ L) (v : Int) :
    Only L s0 (State.setTrim s v) := by
  unfold State.setTrim
  extract_lets +onlyGivenNames x1
  extract_lets +onlyGivenNames x2
  extract_lets +onlyGivenNames x3
  extract_lets +onlyGivenNames x4
  have hx4 : Only L s0 x4 := by
    unfold x4
    refine Only.gtb ?_ _ (hl (by decide))
    exact h
  clear_value x4
  refine Only.ite ?_ ?_
  · refine State.pfCause_only ?_ (List.Subset.trans (by decide) hl) _
    exact hx4
  · exact hx4
theorem State.event_only (h : Only L s0 s) (hl : [Part.outs, Part.matrix] ⊆ L) (c : Nat) :
    Only L s0 (State.event s c) := by
  unfold State.event
  extract_lets +onlyGivenNames x1
  extract_lets +onlyGivenNames x2
  have hx2 : Only L s0 x2 := by
    unfold x2
    refine Only.matrix ?_ _ (hl (by decide))
    exact h
  clear_value x2
  refine forAll_only ?_ _ _ ?_
  · exact hx2
  · intro x3
    intro x4
    intro h5
    extract_lets +onlyGivenNames x6
    refine Only.ite ?_ ?_
    · refine State.setOut_only ?_ (List.Subset.trans (by decide) hl) _ _
      exact h5
    · exact h5
theorem State.timerOn_only (h : Only L s0 s) (hl : [Part.timers, Part.outs, Part.matrix, Part.pf, Part.out] ⊆ L) (g0 g1 : Nat) (ev : List Byte) (n : Nat)
    (was : State) : Only L s0 (s.timerOn g0 g1 ev n was) := by
  unfold State.timerOn
  extract_lets +onlyGivenNames x1
  clear_value x1
  refine Only.ite ?_ ?_
  · refine State.setTimer_only ?_ (List.Subset.trans (by decide) hl) _ _
    exact h
  · refine Only.ite ?_ ?_
    · extract_lets +onlyGivenNames x2
      clear_value x2
      extract_lets +onlyGivenNames x3
      have hx3 : Only L s0 x3 := by
        unfold x3
        refine State.setTimer_only ?_ (List.Subset.trans (by decide) hl) _ _
        exact h
      clear_value x3
      extract_lets +onlyGivenNames x4
      have hx4 : Only L s0 x4 := by
        unfold x4
        refine Only.ite ?_ ?_
        · refine State.event_only ?_ (List.Subset.trans (by decide) hl) _
          exact hx3
        · exact hx3
      clear_value x4
      extract_lets +onlyGivenNames x5
      have hx5 : Only L s0 x5 := by
        unfold x5
        refine Only.ite ?_ ?_
        · refine State.event_only ?_ (List.Subset.trans (by decide) hl) _
          exact hx4
        · exact hx4
      clear_value x5
      refine Only.ite ?_ ?_
      · refine State.pfVector_only ?_ (List.Subset.trans (by decide) hl) _
        exact hx5
      · exact hx5
    · exact h
theorem State.advanceTo_only (h : Only L s0 s) (hl : [Part.gtb, Part.timers, Part.outs, Part.matrix, Part.pf, Part.out] ⊆ L) (g : Gtb) :
    Only L s0 (State.advanceTo s g) := by
  unfold State.advanceTo
  refine Only.ite ?_ ?_
  · exact h
  · extract_lets +onlyGivenNames x1
    extract_lets +onlyGivenNames x2
    extract_lets +onlyGivenNames x3
    have hx3 : Only L s0 x3 := by
      unfold x3
      refine Only.more (s := (s)) ?_ _ ⟨rfl, rfl, rfl, rfl, Nat.le_refl _, List.prefix_rfl, id, id, fun _ => Nat.le_refl _, Nat.le_refl _, id⟩ (fun p hn => by cases p <;> first | rfl | exact ⟨rfl, rfl, rfl⟩ | exact ⟨rfl, rfl⟩ | exact absurd (hl (by decide)) hn)
      exact h
    clear_value x3
    refine forAll_only ?_ _ _ ?_
    · exact hx3
    · intro x4
      intro x5
      intro h6
      refine State.timerOn_only ?_ (List.Subset.trans (by decide) hl) _ _ _ _ _
      exact h6
theorem State.advance_only (h : Only L s0 s) (hl : [Part.gtb, Part.timers, Part.outs, Part.matrix, Part.pf, Part.out] ⊆ L) (a1 : Nat) :
    Only L s0 (State.advance s a1) := by
  unfold State.advance
  refine State.advanceTo_only ?_ (List.Subset.trans (by decide) hl) _
  exact h
theorem State.advanceEdge_only (h : Only L s0 s) (hl : [Part.gtb, Part.timers, Part.outs, Part.matrix, Part.pf, Part.out] ⊆ L) (a1 : Nat) :
    Only L s0 (State.advanceEdge s a1) := by
  unfold State.advanceEdge
  refine State.advanceTo_only ?_ (List.Subset.trans (by decide) hl) _
  exact h
theorem State.stepOn_only (h : Only L s0 s) (hl : [Part.gtb, Part.timers, Part.outs, Part.matrix, Part.pf, Part.out] ⊆ L) :
    Only L s0 (State.stepOn s) := by
  unfold State.stepOn
  refine State.advance_only ?_ (List.Subset.trans (by decide) hl) _
  exact h

end Sys2Proof.Machine
end

