-- ==== Sys2Proof/Laws/PowerOps.lean ====
section
/-! SUPPORT. Machine/PowerOps.lean: what each of its operations keeps, and the parts it changes. -/

namespace Sys2Proof.Machine

variable {L : List Part} {s0 s : State}

theorem State.setSky_only (h : Only L s0 s) (hl : [Part.power] ⊆ L) (c : Nat) (f : ClusterSky → ClusterSky) :
    Only L s0 (State.setSky s c f) := by
  unfold State.setSky
  refine Only.power ?_ _ (hl (by decide))
  exact h
theorem State.pwrEvt_only (h : Only L s0 s) (hl : [Part.pf, Part.out, Part.power] ⊆ L) (b : BitVec 6) :
    Only L s0 (State.pwrEvt s b) := by
  unfold State.pwrEvt
  extract_lets +onlyGivenNames x1
  extract_lets +onlyGivenNames x2
  extract_lets +onlyGivenNames x3
  have hx3 : Only L s0 x3 := by
    unfold x3
    refine Only.power ?_ _ (hl (by decide))
    exact h
  clear_value x3
  refine Only.ite ?_ ?_
  · exact hx3
  · refine State.pfCause_only ?_ (List.Subset.trans (by decide) hl) _
    exact hx3
theorem State.beginIdle_only (h : Only L s0 s) (hl : [Part.power] ⊆ L) (c : Nat) :
    Only L s0 (State.beginIdle s c) := by
  unfold State.beginIdle
  refine State.setSky_only ?_ (List.Subset.trans (by decide) hl) _ _
  exact h
theorem State.wakePackage_only (h : Only L s0 s) (hl : [Part.gtb, Part.out, Part.power, Part.side] ⊆ L) (src : Nat) (needsCluster : Bool) :
    Only L s0 (State.wakePackage s src needsCluster) := by
  unfold State.wakePackage
  refine Only.ite ?_ ?_
  · exact h
  · split
    · exact h
    · refine Only.power ?_ _ (hl (by decide))
      exact h
    · refine Only.power ?_ _ (hl (by decide))
      exact h
    · refine State.platform_only ?_ (List.Subset.trans (by decide) hl)
      refine Only.more (s := (s)) ?_ _ ⟨rfl, rfl, rfl, rfl, Nat.le_refl _, List.prefix_rfl, id, id, fun _ => Nat.le_refl _, Nat.le_refl _, id⟩ (fun p hn => by cases p <;> first | rfl | exact ⟨rfl, rfl, rfl⟩ | exact ⟨rfl, rfl⟩ | exact absurd (hl (by decide)) hn)
      exact h
theorem State.barWrite_only (h : Only L s0 s) (hl : [Part.gtb, Part.out, Part.power, Part.side] ⊆ L) :
    Only L s0 (State.barWrite s) := by
  unfold State.barWrite
  refine State.wakePackage_only ?_ (List.Subset.trans (by decide) hl) _ _
  exact h
theorem State.wakeCluster_only (h : Only L s0 s) (hl : [Part.power] ⊆ L) (c : Nat) :
    Only L s0 (State.wakeCluster s c) := by
  unfold State.wakeCluster
  split
  · refine State.setSky_only ?_ (List.Subset.trans (by decide) hl) _ _
    exact h
  · refine State.setSky_only ?_ (List.Subset.trans (by decide) hl) _ _
    exact h
  · exact h
theorem State.occupy_only (h : Only L s0 s) (hl : [Part.power] ⊆ L) (c : Nat) :
    Only L s0 (State.occupy s c).1 := by
  unfold State.occupy
  extract_lets +onlyGivenNames x1
  split
  · dsimp only
    exact h
  · dsimp only
    refine State.setSky_only ?_ (List.Subset.trans (by decide) hl) _ _
    exact h
  · extract_lets +onlyGivenNames x2
    dsimp only
    refine State.setSky_only ?_ (List.Subset.trans (by decide) hl) _ _
    exact h
theorem State.vacate_only (h : Only L s0 s) (hl : [Part.power] ⊆ L) (c : Nat) :
    Only L s0 (State.vacate s c) := by
  unfold State.vacate
  refine State.beginIdle_only ?_ (List.Subset.trans (by decide) hl) _
  refine State.setSky_only ?_ (List.Subset.trans (by decide) hl) _ _
  exact h
theorem State.darken_only (h : Only L s0 s) (hl : [Part.power] ⊆ L) (c : Nat) :
    Only L s0 (State.darken s c) := by
  unfold State.darken
  refine State.setSky_only ?_ (List.Subset.trans (by decide) hl) _ _
  exact h
theorem State.endHold_only (h : Only L s0 s) (hl : [Part.gates, Part.power] ⊆ L) (g : Nat) :
    Only L s0 (State.endHold s g) := by
  unfold State.endHold
  extract_lets +onlyGivenNames x1
  extract_lets +onlyGivenNames x2
  have hx2 : Only L s0 x2 := by
    unfold x2
    refine State.setGate_only ?_ (List.Subset.trans (by decide) hl) _ _
    exact h
  clear_value x2
  refine forAll_only ?_ _ _ ?_
  · exact hx2
  · intro x3
    intro x4
    intro h5
    refine Only.ite ?_ ?_
    · exact h5
    · refine State.beginIdle_only ?_ (List.Subset.trans (by decide) hl) _
      exact h5

end Sys2Proof.Machine
end

