-- ==== Sys2Proof/Laws/QueueOps.lean ====
section
/-! SUPPORT. Machine/QueueOps.lean: what each of its operations keeps, and the parts it changes. -/

namespace Sys2Proof.Machine

variable {L : List Part} {s0 s : State}

theorem State.modQueue_only (h : Only L s0 s) (hl : [Part.stalls] ⊆ L) (n : Nat) (k : Nat) (f : Queue → Queue) :
    Only L s0 (State.modQueue s n k f) := by
  unfold State.modQueue
  refine State.modStall_only ?_ (List.Subset.trans (by decide) hl) _ _
  exact h
theorem State.modCtx_only (h : Only L s0 s) (hl : [Part.stalls] ⊆ L) (n : Nat) (c : Nat) (f : Ctx → Ctx) :
    Only L s0 (State.modCtx s n c f) := by
  unfold State.modCtx
  refine State.modStall_only ?_ (List.Subset.trans (by decide) hl) _ _
  exact h
theorem State.modEntry_only (h : Only L s0 s) (hl : [Part.stalls] ⊆ L) (n : Nat) (k : Nat) (pos : U32) (f : Entry → Entry) :
    Only L s0 (State.modEntry s n k pos f) := by
  unfold State.modEntry
  refine State.modQueue_only ?_ (List.Subset.trans (by decide) hl) _ _ _
  exact h
theorem State.finish_only (h : Only L s0 s) (hl : [Part.stalls] ⊆ L) (n : Nat) (k : Nat) (pos : U32) (status : Byte) (detail : Byte) (value : U64) :
    Only L s0 (State.finish s n k pos status detail value) := by
  unfold State.finish
  refine State.modEntry_only ?_ (List.Subset.trans (by decide) hl) _ _ _ _
  exact h
theorem State.releaseGate_only (h : Only L s0 s) (hl : [Part.stalls] ⊆ L) (n : Nat) (g : Nat) (firedAt : U64) (cmp : U64) :
    Only L s0 (State.releaseGate s n g firedAt cmp) := by
  unfold State.releaseGate
  refine State.modStall_only ?_ (List.Subset.trans (by decide) hl) _ _
  exact h
theorem State.gateReleased_only (h : Only L s0 s) (hl : [Part.stalls] ⊆ L) (n : Nat) (g : Nat) :
    Only L s0 (State.gateReleased s n g) := by
  unfold State.gateReleased
  refine State.modStall_only ?_ (List.Subset.trans (by decide) hl) _ _
  exact h

end Sys2Proof.Machine
end

