-- ==== Sys2Proof/Laws/Mem.lean ====
section
/-! SUPPORT. Machine/Mem.lean: what each of its operations keeps, and the parts it changes. -/

namespace Sys2Proof.Machine

variable {L : List Part} {s0 s : State}

theorem State.meeErr_only (h : Only L s0 s) (hl : [Part.mee] ⊆ L) (kind : Nat) (slot : Nat) (a : Nat) :
    Only L s0 (State.meeErr s kind slot a) := by
  unfold State.meeErr
  refine Only.mee ?_ _ (hl (by decide))
  exact h
theorem State.lineRead_only (h : Only L s0 s) (hl : [Part.mee] ⊆ L) (a : Nat) (n : Nat) (slot : Nat) :
    Only L s0 (State.lineRead s a n slot).2.2 := by
  unfold State.lineRead
  extract_lets +onlyGivenNames x1
  split
  · dsimp only
    refine State.meeErr_only ?_ (List.Subset.trans (by decide) hl) _ _ _
    refine Only.mee ?_ _ (hl (by decide))
    exact h
  · split
    · dsimp only
      exact h
    · dsimp only
      exact h
theorem State.lineWrite_only (h : Only L s0 s) (hl : [Part.hbm, Part.poison, Part.lineSlot, Part.mee] ⊆ L) (a : Nat) (slot : Nat) (bs : List Byte) (poisoned : Bool) :
    Only L s0 (State.lineWrite s a slot bs poisoned) := by
  unfold State.lineWrite
  extract_lets +onlyGivenNames x1
  extract_lets +onlyGivenNames x2
  extract_lets +onlyGivenNames x3
  extract_lets +onlyGivenNames x4
  extract_lets +onlyGivenNames x5
  have hx5 : Only L s0 x5 := by
    unfold x5
    refine Only.ite ?_ ?_
    · refine State.meeErr_only ?_ (List.Subset.trans (by decide) hl) _ _ _
      refine Only.mee ?_ _ (hl (by decide))
      exact h
    · exact h
  clear_value x5
  extract_lets +onlyGivenNames x6
  refine Only.more (s := (x5)) ?_ _ ⟨rfl, rfl, rfl, rfl, Nat.le_refl _, List.prefix_rfl, by first | exact Memory.writeL_wf _ _ | exact Memory.clear_wf _ _ | exact Memory.filter_wf _, id, fun _ => Nat.le_refl _, Nat.le_refl _, id⟩ (fun p hn => by cases p <;> first | rfl | exact ⟨rfl, rfl, rfl⟩ | exact ⟨rfl, rfl⟩ | exact absurd (hl (by decide)) hn)
  exact hx5
theorem State.groomRange_only (h : Only L s0 s) (hl : [Part.hbm, Part.poison, Part.lineSlot] ⊆ L) (a : Nat) (n : Nat) :
    Only L s0 (State.groomRange s a n) := by
  unfold State.groomRange
  refine Only.more (s := (s)) ?_ _ ⟨rfl, rfl, rfl, rfl, Nat.le_refl _, List.prefix_rfl, by first | exact Memory.writeL_wf _ _ | exact Memory.clear_wf _ _ | exact Memory.filter_wf _, id, fun _ => Nat.le_refl _, Nat.le_refl _, id⟩ (fun p hn => by cases p <;> first | rfl | exact ⟨rfl, rfl, rfl⟩ | exact ⟨rfl, rfl⟩ | exact absurd (hl (by decide)) hn)
  exact h
theorem State.groomBay_only (h : Only L s0 s) (hl : [Part.hbm, Part.poison, Part.lineSlot] ⊆ L) (b : Nat) :
    Only L s0 (State.groomBay s b) := by
  unfold State.groomBay
  refine forAll_only ?_ _ _ ?_
  · exact h
  · intro x1
    intro x2
    intro h3
    refine State.groomRange_only ?_ (List.Subset.trans (by decide) hl) _ _
    exact h3
theorem State.quietWrite_only (h : Only L s0 s) (hl : [Part.hbm, Part.poison, Part.lineSlot, Part.mee] ⊆ L) (n : Nat) (x : Ctx) (o : Nat) (bs : List Byte) :
    Only L s0 (State.quietWrite s n x o bs) := by
  unfold State.quietWrite
  split
  · exact h
  · split
    · refine Only.ite ?_ ?_
      · exact h
      · refine State.lineWrite_only ?_ (List.Subset.trans (by decide) hl) _ _ _ _
        exact h
    · exact h
theorem State.recordFault_only (h : Only L s0 s) (hl : [Part.stalls, Part.hbm, Part.poison, Part.lineSlot, Part.mee] ⊆ L) (w : Who) (kind : Nat) (acc : Nat) (level : Nat) (va : Nat) (ofs : Nat) :
    Only L s0 (State.recordFault s w kind acc level va ofs) := by
  unfold State.recordFault
  extract_lets +onlyGivenNames x1
  extract_lets +onlyGivenNames x2
  have hx2 : Only L s0 x2 := by
    unfold x2
    refine State.modStall_only ?_ (List.Subset.trans (by decide) hl) _ _
    exact h
  clear_value x2
  extract_lets +onlyGivenNames x3
  have hx3 : Only L s0 x3 := by
    unfold x3
    refine State.modStall_only ?_ (List.Subset.trans (by decide) hl) _ _
    exact hx2
  clear_value x3
  split
  · exact hx3
  · refine State.quietWrite_only ?_ (List.Subset.trans (by decide) hl) _ _ _ _
    exact hx3
theorem State.countMulti_only (h : Only L s0 s) (hl : [Part.stalls] ⊆ L) (n : Nat) (c : Option Nat) :
    Only L s0 (State.countMulti s n c) := by
  unfold State.countMulti
  refine State.modStall_only ?_ (List.Subset.trans (by decide) hl) _ _
  exact h
theorem State.walkRead_only (h : Only L s0 s) (hl : [Part.stalls, Part.mee] ⊆ L) (w : Who) (x : Ctx) (o : Nat) :
    Only L s0 (State.walkRead s w x o).2 := by
  unfold State.walkRead
  split
  · dsimp only
    exact h
  · split
    · dsimp only
      exact h
    · split
      · extract_lets +onlyGivenNames x1
        have hx1 : Only L s0 x1 := by
          unfold x1
          refine Only.ite ?_ ?_
          · refine State.countMulti_only ?_ (List.Subset.trans (by decide) hl) _ _
            exact h
          · exact h
        clear_value x1
        split
        · dsimp only
          refine State.modStall_only ?_ (List.Subset.trans (by decide) hl) _ _
          exact hx1
        · split
          · dsimp only
            exact hx1
          · extract_lets +onlyGivenNames x2
            have hx2 : Only L s0 x2.2.2 := by
              unfold x2
              refine State.lineRead_only ?_ (List.Subset.trans (by decide) hl) _ _ _
              exact hx1
            clear_value x2
            split
            · dsimp only
              exact hx2
            · dsimp only
              exact hx2
      · dsimp only
        exact h
theorem State.walkFrom_only (h : Only L s0 s) (hl : [Part.stalls, Part.mee] ⊆ L) (w : Who) (x : Ctx) (va : Nat) (a4 : Nat) (a5 : Nat) (a6 : Nat) :
    Only L s0 (State.walkFrom s w x va a4 a5 a6).2 := by
  induction a4 generalizing s a5 a6 with
  | zero =>
    exact h
  | succ m ih =>
    unfold State.walkFrom
    extract_lets +onlyGivenNames x1
    extract_lets +onlyGivenNames x2
    have hx2 : Only L s0 x2.2 := by
      unfold x2
      refine State.walkRead_only ?_ (List.Subset.trans (by decide) hl) _ _ _
      exact h
    clear_value x2
    split
    · dsimp only
      exact hx2
    · extract_lets +onlyGivenNames x3
      split
      · dsimp only
        exact hx2
      · extract_lets +onlyGivenNames x4
        have hx4 : Only L s0 x4 := by
          unfold x4
          refine Only.ite ?_ ?_
          · refine State.modCtx_only ?_ (List.Subset.trans (by decide) hl) _ _ _
            exact hx2
          · exact hx2
        clear_value x4
        split
        · dsimp only
          exact hx4
        · refine ih ?_ _ _
          exact hx4
theorem State.translate_only (h : Only L s0 s) (hl : [Part.stalls, Part.mee] ⊆ L) (w : Who) (x : Ctx) (va : Nat) :
    Only L s0 (State.translate s w x va).2 := by
  unfold State.translate
  split
  · dsimp only
    exact h
  · refine State.walkFrom_only ?_ (List.Subset.trans (by decide) hl) _ _ _ _ _ _
    exact h
theorem State.aim_only (h : Only L s0 s) (hl : [Part.stalls, Part.hbm, Part.poison, Part.lineSlot, Part.mee] ⊆ L) (w : Who) (va : Nat) (need : Nat) (page : Nat) (acc : Nat) :
    Only L s0 (State.aim s w va need page acc).2 := by
  unfold State.aim
  split
  · dsimp only
    exact h
  · extract_lets +onlyGivenNames x1
    have hx1 : Only L s0 x1.2 := by
      unfold x1
      refine State.translate_only ?_ (List.Subset.trans (by decide) hl) _ _ _
      exact h
    clear_value x1
    split
    · dsimp only
      refine State.recordFault_only ?_ (List.Subset.trans (by decide) hl) _ _ _ _ _ _
      exact hx1
    · extract_lets +onlyGivenNames x2
      have hx2 : Only L s0 x2 := by
        unfold x2
        exact hx1
      clear_value x2
      split
      · dsimp only
        refine State.recordFault_only ?_ (List.Subset.trans (by decide) hl) _ _ _ _ _ _
        exact hx2
      · extract_lets +onlyGivenNames x3
        have hx3 : Only L s0 x3 := by
          unfold x3
          refine Only.ite ?_ ?_
          · refine State.countMulti_only ?_ (List.Subset.trans (by decide) hl) _ _
            exact hx2
          · exact hx2
        clear_value x3
        split
        · dsimp only
          refine State.recordFault_only ?_ (List.Subset.trans (by decide) hl) _ _ _ _ _ _
          exact hx3
        · split
          · dsimp only
            refine State.meeErr_only ?_ (List.Subset.trans (by decide) hl) _ _ _
            refine State.recordFault_only ?_ (List.Subset.trans (by decide) hl) _ _ _ _ _ _
            exact hx3
          · split
            · dsimp only
              refine State.recordFault_only ?_ (List.Subset.trans (by decide) hl) _ _ _ _ _ _
              exact hx3
            · split
              · dsimp only
                refine State.meeErr_only ?_ (List.Subset.trans (by decide) hl) _ _ _
                refine State.recordFault_only ?_ (List.Subset.trans (by decide) hl) _ _ _ _ _ _
                exact hx3
              · dsimp only
                exact hx3
theorem State.readPiece_only (h : Only L s0 s) (hl : [Part.stalls, Part.hbm, Part.poison, Part.lineSlot, Part.mee] ⊆ L) (w : Who) (va : Nat) (n : Nat) (need : Nat) (page : Nat) (acc : Nat) :
    Only L s0 (State.readPiece s w va n need page acc).2.2 := by
  unfold State.readPiece
  extract_lets +onlyGivenNames x1
  have hx1 : Only L s0 x1.2 := by
    unfold x1
    refine State.aim_only ?_ (List.Subset.trans (by decide) hl) _ _ _ _ _
    exact h
  clear_value x1
  split
  · dsimp only
    exact hx1
  · extract_lets +onlyGivenNames x2
    have hx2 : Only L s0 x2.2.2 := by
      unfold x2
      refine State.lineRead_only ?_ (List.Subset.trans (by decide) hl) _ _ _
      exact hx1
    clear_value x2
    dsimp only
    exact hx2
theorem State.writePiece_only (h : Only L s0 s) (hl : [Part.stalls, Part.hbm, Part.poison, Part.lineSlot, Part.mee] ⊆ L) (w : Who) (va : Nat) (bs : List Byte) (poisoned : Bool) (need : Nat) :
    Only L s0 (State.writePiece s w va bs poisoned need).2 := by
  unfold State.writePiece
  extract_lets +onlyGivenNames x1
  have hx1 : Only L s0 x1.2 := by
    unfold x1
    refine State.aim_only ?_ (List.Subset.trans (by decide) hl) _ _ _ _ _
    exact h
  clear_value x1
  split
  · dsimp only
    exact hx1
  · dsimp only
    refine State.lineWrite_only ?_ (List.Subset.trans (by decide) hl) _ _ _ _
    exact hx1
theorem State.readRunF_only (h : Only L s0 s) (hl : [Part.stalls, Part.hbm, Part.poison, Part.lineSlot, Part.mee] ⊆ L) (w : Who) (need : Nat) (page : Nat) (acc : Nat) (a5 : Nat) (a6 : Nat) (a7 : Nat) :
    Only L s0 (State.readRunF s w need page acc a5 a6 a7).2 := by
  induction a5 generalizing s a6 a7 with
  | zero =>
    exact h
  | succ m ih =>
    unfold State.readRunF
    split
    · dsimp only
      exact h
    · extract_lets +onlyGivenNames x1
      extract_lets +onlyGivenNames x2
      have hx2 : Only L s0 x2.2.2 := by
        unfold x2
        refine State.readPiece_only ?_ (List.Subset.trans (by decide) hl) _ _ _ _ _ _
        exact h
      clear_value x2
      split
      · dsimp only
        exact hx2
      · extract_lets +onlyGivenNames x3
        have hx3 : Only L s0 x3.2 := by
          unfold x3
          refine ih ?_ _ _
          exact hx2
        clear_value x3
        dsimp only
        exact hx3
theorem State.readRun_only (h : Only L s0 s) (hl : [Part.stalls, Part.hbm, Part.poison, Part.lineSlot, Part.mee] ⊆ L) (w : Who) (va : Nat) (n : Nat) (need : Nat) :
    Only L s0 (State.readRun s w va n need).2 := by
  unfold State.readRun
  refine State.readRunF_only ?_ (List.Subset.trans (by decide) hl) _ _ _ _ _ _ _
  exact h
theorem State.writeRunF_only (h : Only L s0 s) (hl : [Part.stalls, Part.hbm, Part.poison, Part.lineSlot, Part.mee] ⊆ L) (w : Who) (need : Nat) (a3 : Nat) (a4 : Nat) (a5 : List Byte) (a6 : List Bool) :
    Only L s0 (State.writeRunF s w need a3 a4 a5 a6).2 := by
  induction a3 generalizing s a4 a5 a6 with
  | zero =>
    exact h
  | succ m ih =>
    unfold State.writeRunF
    split
    · dsimp only
      exact h
    · extract_lets +onlyGivenNames x1
      extract_lets +onlyGivenNames x2
      have hx2 : Only L s0 x2.2 := by
        unfold x2
        refine State.writePiece_only ?_ (List.Subset.trans (by decide) hl) _ _ _ _ _
        exact h
      clear_value x2
      split
      · dsimp only
        exact hx2
      · extract_lets +onlyGivenNames x3
        have hx3 : Only L s0 x3.2 := by
          unfold x3
          refine ih ?_ _ _ _
          exact hx2
        clear_value x3
        dsimp only
        exact hx3
theorem State.writeRun_only (h : Only L s0 s) (hl : [Part.stalls, Part.hbm, Part.poison, Part.lineSlot, Part.mee] ⊆ L) (w : Who) (va : Nat) (bs : List Byte) (ps : List Bool) (need : Nat) :
    Only L s0 (State.writeRun s w va bs ps need).2 := by
  unfold State.writeRun
  refine State.writeRunF_only ?_ (List.Subset.trans (by decide) hl) _ _ _ _ _ _
  exact h
theorem State.hostWrite_only (h : Only L s0 s) (hl : [Part.hostMem] ⊆ L) (a : Nat) (bs : List Byte) :
    ∀ t, State.hostWrite s a bs = some t → Only L s0 t := by
  intro t e
  unfold State.hostWrite at e
  split at e
  · cases e
  · cases e
    exact Only.hostMem h _ (hl (by decide))
theorem State.atomic_only (h : Only L s0 s) (hl : [Part.stalls, Part.hbm, Part.poison, Part.lineSlot, Part.mee] ⊆ L) (w : Who) (va : Nat) (n : Nat) (op : AtomicOp) (x : Nat) :
    Only L s0 (State.atomic s w va n op x).2.2 := by
  unfold State.atomic
  extract_lets +onlyGivenNames x1
  have hx1 : Only L s0 x1.2 := by
    unfold x1
    refine State.aim_only ?_ (List.Subset.trans (by decide) hl) _ _ _ _ _
    exact h
  clear_value x1
  split
  · dsimp only
    exact hx1
  · extract_lets +onlyGivenNames x2
    have hx2 : Only L s0 x2.2.2 := by
      unfold x2
      refine State.lineRead_only ?_ (List.Subset.trans (by decide) hl) _ _ _
      exact hx1
    clear_value x2
    split
    · dsimp only
      exact hx2
    · extract_lets +onlyGivenNames x3
      extract_lets +onlyGivenNames x4
      dsimp only
      refine State.lineWrite_only ?_ (List.Subset.trans (by decide) hl) _ _ _ _
      exact hx2

end Sys2Proof.Machine
end

