-- ==== Sys2Proof/Laws/RingOps.lean ====
section
/-! SUPPORT. Machine/RingOps.lean: what each of its operations keeps, and the parts it changes. -/

namespace Sys2Proof.Machine

variable {L : List Part} {s0 s : State}

theorem State.setCounter_only (h : Only L s0 s) (hl : [Part.sessions] ⊆ L) (id : Nat) (qid : Nat) (dir : Nat) (v : Nat) :
    Only L s0 (State.setCounter s id qid dir v) := by
  unfold State.setCounter
  split
  · exact h
  · refine Only.sessions ?_ _ (hl (by decide))
    exact h
theorem State.sealPage_only (h : Only L s0 s) (hl : [Part.hostMem, Part.sessions] ⊆ L) (id : Nat) (n : Nat) (qid : Nat) (area : Nat) (base : Nat) (pages : Nat) (page : Nat) (plain : List Byte) :
    ∀ t, State.sealPage s id n qid area base pages page plain = some t → Only L s0 t := by
  intro t e
  unfold State.sealPage at e
  split at e
  · cases e
    exact h
  · dsimp only at e
    rw [Option.bind_eq_some_iff] at e
    obtain ⟨u, hu, ht⟩ := e
    exact State.hostWrite_only (State.hostWrite_only (State.setCounter_only h (List.Subset.trans (by decide) hl) _ _ _ _) (List.Subset.trans (by decide) hl) _ _ _ hu) (List.Subset.trans (by decide) hl) _ _ _ ht
theorem State.ringReadStall_only (h : Only L s0 s) (hl : [Part.stalls, Part.hbm, Part.poison, Part.lineSlot, Part.mee] ⊆ L) (n : Nat) (k : Nat) (va : Nat) (len : Nat) :
    Only L s0 (State.ringReadStall s n k va len).2 := by
  unfold State.ringReadStall
  extract_lets +onlyGivenNames x1
  have hx1 : Only L s0 x1.2 := by
    unfold x1
    refine State.readRunF_only ?_ (List.Subset.trans (by decide) hl) _ _ _ _ _ _ _
    exact h
  clear_value x1
  split
  · dsimp only
    exact hx1
  · dsimp only
    exact hx1
theorem State.readSlot_only (h : Only L s0 s) (hl : [Part.stalls, Part.hbm, Part.poison, Part.lineSlot, Part.mee, Part.sessions] ⊆ L) (n : Nat) (k : Nat) (q : Queue) (p : U32) :
    Only L s0 (State.readSlot s n k q p).2 := by
  unfold State.readSlot
  extract_lets +onlyGivenNames x1
  split
  · refine State.ringReadStall_only ?_ (List.Subset.trans (by decide) hl) _ _ _ _
    exact h
  · split
    · split
      · dsimp only
        exact h
      · dsimp only
        exact h
    · split
      · dsimp only
        exact h
      · extract_lets +onlyGivenNames x2
        extract_lets +onlyGivenNames x3
        split
        · dsimp only
          exact h
        · extract_lets +onlyGivenNames x4
          have hx4 : Only L s0 x4 := by
            unfold x4
            refine State.setCounter_only ?_ (List.Subset.trans (by decide) hl) _ _ _ _
            exact h
          clear_value x4
          dsimp only
          refine State.modQueue_only ?_ (List.Subset.trans (by decide) hl) _ _ _
          exact hx4
theorem State.ringDead_only (h : Only L s0 s) (hl : [Part.stalls] ⊆ L) (n : Nat) (k : Nat) :
    Only L s0 (State.ringDead s n k) := by
  unfold State.ringDead
  refine State.modQueue_only ?_ (List.Subset.trans (by decide) hl) _ _ _
  exact h
theorem State.writeArea_only (h : Only L s0 s) (hl : [Part.hostMem, Part.stalls, Part.hbm, Part.poison, Part.lineSlot, Part.mee, Part.sessions] ⊆ L) (n : Nat) (k : Nat) (q : Queue) (area : Nat) (base : Nat) (pages : Nat) (o : Nat) (bs : List Byte) (page : List Byte) :
    Only L s0 (State.writeArea s n k q area base pages o bs page) := by
  unfold State.writeArea
  refine Only.ite ?_ ?_
  · extract_lets +onlyGivenNames x1
    have hx1 : Only L s0 x1.2 := by
      unfold x1
      refine State.writeRunF_only ?_ (List.Subset.trans (by decide) hl) _ _ _ _ _ _
      exact h
    clear_value x1
    refine Only.ite ?_ ?_
    · exact hx1
    · refine State.ringDead_only ?_ (List.Subset.trans (by decide) hl) _ _
      exact hx1
  · refine Only.ite ?_ ?_
    · split
      · refine State.hostWrite_only ?_ (List.Subset.trans (by decide) hl) _ _ _ (by assumption)
        exact h
      · refine State.ringDead_only ?_ (List.Subset.trans (by decide) hl) _ _
        exact h
    · split
      · refine State.sealPage_only ?_ (List.Subset.trans (by decide) hl) _ _ _ _ _ _ _ _ _ (by assumption)
        exact h
      · refine State.ringDead_only ?_ (List.Subset.trans (by decide) hl) _ _
        exact h
theorem State.writeHeader_only (h : Only L s0 s) (hl : [Part.hostMem, Part.stalls, Part.hbm, Part.poison, Part.lineSlot, Part.mee, Part.sessions] ⊆ L) (n : Nat) (k : Nat) :
    Only L s0 (State.writeHeader s n k) := by
  unfold State.writeHeader
  split
  · exact h
  · refine State.writeArea_only ?_ (List.Subset.trans (by decide) hl) _ _ _ _ _ _ _ _ _
    exact h
theorem State.publish_only (h : Only L s0 s) (hl : [Part.vf, Part.out, Part.hostMem, Part.stalls, Part.hbm, Part.poison, Part.lineSlot, Part.mee, Part.sessions] ⊆ L) (n : StallNo) (k : Nat) (irq : Bool) (f : Queue → Queue) :
    Only L s0 (State.publish s n k irq f) := by
  unfold State.publish
  split
  · exact h
  · extract_lets +onlyGivenNames x1
    extract_lets +onlyGivenNames x2
    extract_lets +onlyGivenNames x3
    have hx3 : Only L s0 x3 := by
      unfold x3
      refine State.writeHeader_only ?_ (List.Subset.trans (by decide) hl) _ _
      refine State.modQueue_only ?_ (List.Subset.trans (by decide) hl) _ _ _
      exact h
    clear_value x3
    refine Only.ite ?_ ?_
    · refine State.queueMsi_only ?_ (List.Subset.trans (by decide) hl) _ _
      exact hx3
    · exact hx3
theorem State.makeVisible_only (h : Only L s0 s) (hl : [Part.vf, Part.out, Part.hostMem, Part.stalls, Part.hbm, Part.poison, Part.lineSlot, Part.mee, Part.sessions] ⊆ L) (n : StallNo) (k : Nat) (e : Entry) :
    Only L s0 (State.makeVisible s n k e) := by
  unfold State.makeVisible
  split
  · exact h
  · extract_lets +onlyGivenNames x1
    extract_lets +onlyGivenNames x2
    extract_lets +onlyGivenNames x3
    have hx3 : Only L s0 x3 := by
      unfold x3
      refine State.modQueue_only ?_ (List.Subset.trans (by decide) hl) _ _ _
      exact h
    clear_value x3
    extract_lets +onlyGivenNames x4
    have hx4 : Only L s0 x4 := by
      unfold x4
      refine Only.ite ?_ ?_
      · exact hx3
      · refine State.writeArea_only ?_ (List.Subset.trans (by decide) hl) _ _ _ _ _ _ _ _ _
        exact hx3
    clear_value x4
    refine State.publish_only ?_ (List.Subset.trans (by decide) hl) _ _ _ _
    exact hx4
theorem State.flushVisible_only (h : Only L s0 s) (hl : [Part.vf, Part.out, Part.hostMem, Part.stalls, Part.hbm, Part.poison, Part.lineSlot, Part.mee, Part.sessions] ⊆ L) (n : StallNo) (k : Nat) (a3 : Nat) :
    Only L s0 (State.flushVisible s n k a3) := by
  induction a3 generalizing s with
  | zero =>
    exact h
  | succ m ih =>
    unfold State.flushVisible
    split
    · exact h
    · refine Only.ite ?_ ?_
      · refine ih ?_
        refine State.makeVisible_only ?_ (List.Subset.trans (by decide) hl) _ _ _
        exact h
      · exact h
theorem State.allVisible_only (h : Only L s0 s) (hl : [Part.vf, Part.out, Part.hostMem, Part.stalls, Part.hbm, Part.poison, Part.lineSlot, Part.mee, Part.sessions] ⊆ L) (n : StallNo) (k : Nat) :
    Only L s0 (State.allVisible s n k) := by
  unfold State.allVisible
  split
  · exact h
  · refine State.flushVisible_only ?_ (List.Subset.trans (by decide) hl) _ _ _
    exact h

end Sys2Proof.Machine
end

