-- ==== Sys2Proof/Laws/AccOps.lean ====
section
/-! SUPPORT. Machine/AccOps.lean: what each of its operations keeps, and the parts it changes. -/

namespace Sys2Proof.Machine

variable {L : List Part} {s0 s : State}

theorem State.packageEvent_only (h : Only L s0 s) (hl : [Part.pf, Part.out, Part.acct] ⊆ L) (e : AccEvent) :
    Only L s0 (State.packageEvent s e) := by
  unfold State.packageEvent
  refine State.pfCause_only ?_ (List.Subset.trans (by decide) hl) _
  refine Only.acct ?_ _ (hl (by decide))
  exact h
theorem State.stallEvent_only (h : Only L s0 s) (hl : [Part.vf, Part.out, Part.stalls] ⊆ L) (n : Nat) (e : AccEvent) :
    Only L s0 (State.stallEvent s n e) := by
  unfold State.stallEvent
  extract_lets +onlyGivenNames x1
  refine onStall_only ?_ _ _ ?_
  · refine State.modStall_only ?_ (List.Subset.trans (by decide) hl) _ _
    exact h
  · intro x2
    intro x3
    intro h4
    refine State.vfCause_only ?_ (List.Subset.trans (by decide) hl) _ _
    exact h4
theorem State.accEvent_only (h : Only L s0 s) (hl : [Part.pf, Part.vf, Part.out, Part.stalls, Part.acct, Part.free] ⊆ L) (kind : Nat) (phase : Nat) (index : Nat) (affected : Nat) (replayed : Nat) (faulted : Nat) (outcome : Nat) (stall : Nat) (era : Nat) (concern : List Nat) :
    Only L s0 (State.accEvent s kind phase index affected replayed faulted outcome stall era concern) := by
  unfold State.accEvent
  extract_lets +onlyGivenNames x1
  refine forAll_only ?_ _ _ ?_
  · refine State.packageEvent_only ?_ (List.Subset.trans (by decide) hl) _
    refine Only.free ?_ _ (hl (by decide))
    exact h
  · intro x2
    intro x3
    intro h4
    refine State.stallEvent_only ?_ (List.Subset.trans (by decide) hl) _ _
    exact h4
theorem State.raiseEra_only (h : Only L s0 s) (hl : [Part.acct] ⊆ L) (n : Nat) :
    Only L s0 (State.raiseEra s n) := by
  unfold State.raiseEra State.eraFloor
  refine Only.acct ?_ _ (hl (by decide)) (fun k => ?_)
  · exact h
  · simp only [Tab.get_set]
    split
    · subst k
      exact Nat.le_succ _
    · exact Nat.le_refl _
theorem State.advanceEra_only (h : Only L s0 s) (hl : [Part.pf, Part.vf, Part.out, Part.stalls, Part.acct, Part.free] ⊆ L) (n : Nat) :
    Only L s0 (State.advanceEra s n) := by
  unfold State.advanceEra
  extract_lets +onlyGivenNames x1
  have hx1 : Only L s0 x1 := by
    unfold x1
    refine State.raiseEra_only ?_ (List.Subset.trans (by decide) hl) _
    exact h
  clear_value x1
  extract_lets +onlyGivenNames x2
  have hx2 : Only L s0 x2 := by
    unfold x2
    refine State.modStall_only ?_ (List.Subset.trans (by decide) hl) _ _
    exact hx1
  clear_value x2
  refine State.accEvent_only ?_ (List.Subset.trans (by decide) hl) _ _ _ _ _ _ _ _ _ _
  exact hx2
theorem State.addJob_only (h : Only L s0 s) (hl : [Part.rg] ⊆ L) (stall : Nat) (bytes : Nat) (k : JobKind) :
    Only L s0 (State.addJob s stall bytes k) := by
  unfold State.addJob
  refine Only.rg ?_ _ (hl (by decide))
  exact h
theorem State.endJob_only (h : Only L s0 s) (hl : [Part.rg] ⊆ L) (stall : Nat) (k : JobKind) :
    Only L s0 (State.endJob s stall k) := by
  unfold State.endJob
  split
  · exact h
  · refine Only.rg ?_ _ (hl (by decide))
    exact h
theorem State.startRebuild_only (h : Only L s0 s) (hl : [Part.stalls, Part.rg] ⊆ L) (n : Nat) :
    Only L s0 (State.startRebuild s n) := by
  unfold State.startRebuild
  split
  · exact h
  · refine Only.ite ?_ ?_
    · exact h
    · split
      · exact h
      · refine State.addJob_only ?_ (List.Subset.trans (by decide) hl) _ _ _
        refine State.modStall_only ?_ (List.Subset.trans (by decide) hl) _ _
        exact h
theorem State.setQuotas_only (h : Only L s0 s) (hl : [Part.stalls] ⊆ L) :
    Only L s0 (State.setQuotas s) := by
  unfold State.setQuotas
  extract_lets +onlyGivenNames x1
  extract_lets +onlyGivenNames x2
  refine Only.stalls ?_ _ (hl (by decide))
  exact h
theorem State.logAppend_only (h : Only L s0 s) (hl : [Part.stalls] ⊆ L) (n : Nat) (kind : Nat) (ctx : Nat) (handle : Nat) (d : BitVec 384) :
    Only L s0 (State.logAppend s n kind ctx handle d) := by
  unfold State.logAppend
  refine State.modStall_only ?_ (List.Subset.trans (by decide) hl) _ _
  exact h
theorem State.setSlot_only (h : Only L s0 s) (hl : [Part.prot] ⊆ L) (k : Nat) (f : SlotLedger → SlotLedger) :
    Only L s0 (State.setSlot s k f) := by
  unfold State.setSlot
  refine Only.prot ?_ _ (hl (by decide))
  exact h
theorem State.grantSlot_only (h : Only L s0 s) (hl : [Part.prot] ⊆ L) (k : Nat) :
    Only L s0 (State.grantSlot s k) := by
  unfold State.grantSlot
  refine State.setSlot_only ?_ (List.Subset.trans (by decide) hl) _ _
  exact h
theorem State.addReach_only (h : Only L s0 s) (hl : [Part.prot] ⊆ L) (a1 : Holdings) (r : RegionRec) :
    Only L s0 (State.addReach s a1 r) := by
  unfold State.addReach
  refine State.setSlot_only ?_ (List.Subset.trans (by decide) hl) _ _
  exact h
theorem State.reachAll_only (h : Only L s0 s) (hl : [Part.prot] ⊆ L) (old : List RegionRec) (a2 : Holdings) :
    Only L s0 (State.reachAll s old a2) := by
  unfold State.reachAll
  refine forAll_only ?_ _ _ ?_
  · exact h
  · intro x1
    intro x2
    intro h3
    refine State.addReach_only ?_ (List.Subset.trans (by decide) hl) _ _
    exact h3
theorem State.releaseSlot_only (h : Only L s0 s) (hl : [Part.prot] ⊆ L) (own : List Nat) (k : Nat) :
    Only L s0 (State.releaseSlot s own k) := by
  unfold State.releaseSlot
  refine State.setSlot_only ?_ (List.Subset.trans (by decide) hl) _ _
  exact h
theorem State.settleBay_only (h : Only L s0 s) (hl : [Part.prot] ⊆ L) (b : Nat) :
    Only L s0 (State.settleBay s b) := by
  unfold State.settleBay
  extract_lets +onlyGivenNames x1
  refine Only.prot ?_ _ (hl (by decide))
  exact h
theorem State.groomInterval_only (h : Only L s0 s) (hl : [Part.hbm, Part.poison, Part.lineSlot] ⊆ L) (i : Interval) :
    Only L s0 (State.groomInterval s i) := by
  unfold State.groomInterval
  extract_lets +onlyGivenNames x1
  extract_lets +onlyGivenNames x2
  refine Only.more (s := (s)) ?_ _ ⟨rfl, rfl, rfl, rfl, Nat.le_refl _, List.prefix_rfl, by first | exact Memory.writeL_wf _ _ | exact Memory.clear_wf _ _ | exact Memory.filter_wf _, id, fun _ => Nat.le_refl _, Nat.le_refl _, id⟩ (fun p hn => by cases p <;> first | rfl | exact ⟨rfl, rfl, rfl⟩ | exact ⟨rfl, rfl⟩ | exact absurd (hl (by decide)) hn)
  exact h
theorem State.clearReach_only (h : Only L s0 s) (hl : [Part.hbm, Part.poison, Part.lineSlot, Part.prot] ⊆ L) (k : Nat) :
    Only L s0 (State.clearReach s k) := by
  unfold State.clearReach
  extract_lets +onlyGivenNames x1
  refine State.setSlot_only ?_ (List.Subset.trans (by decide) hl) _ _
  refine forAll_only ?_ _ _ ?_
  · exact h
  · intro x2
    intro x3
    intro h4
    refine State.groomInterval_only ?_ (List.Subset.trans (by decide) hl) _
    exact h4

end Sys2Proof.Machine
end

