-- ==== Sys2Proof/Laws/DrvOps.lean ====
section
/-! SUPPORT. Machine/DrvOps.lean: what each of its operations keeps, and the parts it changes. -/

namespace Sys2Proof.Machine

variable {L : List Part} {s0 s : State}

theorem State.modDrover_only (h : Only L s0 s) (hl : [Part.stalls] ⊆ L) (n : Nat) (f : Drover → Drover) :
    Only L s0 (State.modDrover s n f) := by
  unfold State.modDrover
  refine State.modStall_only ?_ (List.Subset.trans (by decide) hl) _ _
  exact h
theorem State.outPublish_only (h : Only L s0 s) (hl : [Part.vf, Part.out, Part.hostMem, Part.stalls, Part.hbm, Part.poison, Part.lineSlot, Part.mee, Part.sessions] ⊆ L) (n : StallNo) (k : Nat) (f : OutRing → OutRing) :
    Only L s0 (State.outPublish s n k f) := by
  unfold State.outPublish
  split
  · exact h
  · extract_lets +onlyGivenNames x1
    extract_lets +onlyGivenNames x2
    extract_lets +onlyGivenNames x3
    have hx3 : Only L s0 x3 := by
      unfold x3
      refine State.modDrover_only ?_ (List.Subset.trans (by decide) hl) _ _
      exact h
    clear_value x3
    extract_lets +onlyGivenNames x4
    extract_lets +onlyGivenNames x5
    have hx5 : Only L s0 x5 := by
      unfold x5
      refine Only.ite ?_ ?_
      · refine State.writeArea_only ?_ (List.Subset.trans (by decide) hl) _ _ _ _ _ _ _ _ _
        exact hx3
      · exact hx3
    clear_value x5
    refine Only.ite ?_ ?_
    · refine State.queueMsi_only ?_ (List.Subset.trans (by decide) hl) _ _
      exact hx5
    · exact hx5
theorem State.outRecords_only (h : Only L s0 s) (hl : [Part.vf, Part.out, Part.hostMem, Part.stalls, Part.hbm, Part.poison, Part.lineSlot, Part.mee, Part.sessions] ⊆ L) (n : StallNo) (k : Nat) (recs : List (List Byte)) :
    Only L s0 (State.outRecords s n k recs) := by
  unfold State.outRecords
  split
  · exact h
  · extract_lets +onlyGivenNames x1
    extract_lets +onlyGivenNames x2
    extract_lets +onlyGivenNames x3
    extract_lets +onlyGivenNames x4
    have hx4 : Only L s0 x4 := by
      unfold x4
      refine forAll_only ?_ _ _ ?_
      · exact h
      · intro x5
        intro x6
        intro h7
        extract_lets +onlyGivenNames x8
        extract_lets +onlyGivenNames x9
        extract_lets +onlyGivenNames x10
        have hx10 : Only L s0 x10 := by
          unfold x10
          refine State.modDrover_only ?_ (List.Subset.trans (by decide) hl) _ _
          exact h7
        clear_value x10
        refine Only.ite ?_ ?_
        · refine State.writeArea_only ?_ (List.Subset.trans (by decide) hl) _ _ _ _ _ _ _ _ _
          exact hx10
        · exact hx10
    clear_value x4
    extract_lets +onlyGivenNames x11
    have hx11 : Only L s0 x11 := by
      unfold x11
      refine State.modDrover_only ?_ (List.Subset.trans (by decide) hl) _ _
      exact hx4
    clear_value x11
    refine Only.ite ?_ ?_
    · exact hx11
    · refine State.outPublish_only ?_ (List.Subset.trans (by decide) hl) _ _ _
      exact hx11
theorem State.endSequence_only (h : Only L s0 s) (hl : [Part.vf, Part.out, Part.hostMem, Part.stalls, Part.hbm, Part.poison, Part.lineSlot, Part.mee, Part.sessions] ⊆ L) (n : StallNo) (x : Sequence) (reason : Nat) (keep : Bool) :
    Only L s0 (State.endSequence s n x reason keep) := by
  unfold State.endSequence
  extract_lets +onlyGivenNames x1
  have hx1 : Only L s0 x1 := by
    unfold x1
    refine State.modDrover_only ?_ (List.Subset.trans (by decide) hl) _ _
    exact h
  clear_value x1
  extract_lets +onlyGivenNames x2
  have hx2 : Only L s0 x2 := by
    unfold x2
    refine State.outRecords_only ?_ (List.Subset.trans (by decide) hl) _ _ _
    exact hx1
  clear_value x2
  split
  · exact hx2
  · refine State.outPublish_only ?_ (List.Subset.trans (by decide) hl) _ _ _
    exact hx2
theorem State.drvKill_only (h : Only L s0 s) (hl : [Part.vf, Part.out, Part.hostMem, Part.stalls, Part.hbm, Part.poison, Part.lineSlot, Part.mee, Part.sessions] ⊆ L) (n : StallNo) (c : Nat) :
    Only L s0 (State.drvKill s n c) := by
  unfold State.drvKill
  split
  · exact h
  · refine forAll_only ?_ _ _ ?_
    · exact h
    · intro x1
      intro x2
      intro h3
      refine Only.ite ?_ ?_
      · refine State.modDrover_only ?_ (List.Subset.trans (by decide) hl) _ _
        exact h3
      · refine State.endSequence_only ?_ (List.Subset.trans (by decide) hl) _ _ _ _
        exact h3
theorem State.drvFail_only (h : Only L s0 s) (hl : [Part.vf, Part.out, Part.hostMem, Part.stalls, Part.hbm, Part.poison, Part.lineSlot, Part.mee, Part.sessions] ⊆ L) (n : StallNo) (p : Sequence → Bool) (detail : Byte) :
    Only L s0 (State.drvFail s n p detail) := by
  unfold State.drvFail
  split
  · exact h
  · refine forAll_only ?_ _ _ ?_
    · exact h
    · intro x1
      intro x2
      intro h3
      refine Only.ite ?_ ?_
      · refine State.modDrover_only ?_ (List.Subset.trans (by decide) hl) _ _
        exact h3
      · refine State.finish_only ?_ (List.Subset.trans (by decide) hl) _ _ _ _ _ _
        refine State.endSequence_only ?_ (List.Subset.trans (by decide) hl) _ _ _ _
        exact h3

end Sys2Proof.Machine
end

