-- ==== Sys2Proof/Laws/LinkOps.lean ====
section
/-! SUPPORT. Machine/LinkOps.lean: what each of its operations keeps, and the parts it changes. -/

namespace Sys2Proof.Machine

variable {L : List Part} {s0 s : State}

theorem State.setTlp_only (h : Only L s0 s) (hl : [Part.tl] ⊆ L) (p : Nat) (f : TlPort → TlPort) :
    Only L s0 (State.setTlp s p f) := by
  unfold State.setTlp
  refine Only.tl ?_ _ (hl (by decide))
  exact h
theorem State.tlEvt_only (h : Only L s0 s) (hl : [Part.tl] ⊆ L) (b : Nat) :
    Only L s0 (State.tlEvt s b) := by
  unfold State.tlEvt
  refine Only.tl ?_ _ (hl (by decide))
  exact h
theorem State.emitLink_only (h : Only L s0 s) (hl : [Part.out, Part.tl] ⊆ L) (p : Nat) (x : LinkOut) :
    Only L s0 (State.emitLink s p x) := by
  unfold State.emitLink
  extract_lets +onlyGivenNames x1
  extract_lets +onlyGivenNames x2
  extract_lets +onlyGivenNames x3
  have hx3 : Only L s0 x3 := by
    unfold x3
    refine State.setTlp_only ?_ (List.Subset.trans (by decide) hl) _ _
    exact h
  clear_value x3
  extract_lets +onlyGivenNames x4
  have hx4 : Only L s0 x4 := by
    unfold x4
    refine State.emit_only ?_ (List.Subset.trans (by decide) hl) _
    exact hx3
  clear_value x4
  split
  · exact hx4
  · refine State.emit_only ?_ (List.Subset.trans (by decide) hl) _
    exact hx4
theorem State.pump_only (h : Only L s0 s) (hl : [Part.out, Part.tl] ⊆ L) (p : Nat) :
    Only L s0 (State.pump s p) := by
  unfold State.pump
  extract_lets +onlyGivenNames x1
  extract_lets +onlyGivenNames x2
  have hx2 : Only L s0 x2.1 := by
    unfold x2
    refine foldl_only1 ?_ _ _ ?_
    · dsimp only
      refine State.setTlp_only ?_ (List.Subset.trans (by decide) hl) _ _
      exact h
    · intro x3
      intro x4
      intro h5
      extract_lets +onlyGivenNames x6
      split
      · dsimp only
        exact h5
      · dsimp only
        refine State.emitLink_only ?_ (List.Subset.trans (by decide) hl) _ _
        exact h5
  clear_value x2
  extract_lets +onlyGivenNames x7
  have hx7 : Only L s0 x7 := by
    unfold x7
    refine State.setTlp_only ?_ (List.Subset.trans (by decide) hl) _ _
    exact hx2
  clear_value x7
  extract_lets +onlyGivenNames x8
  refine Only.ite ?_ ?_
  · refine State.emitLink_only ?_ (List.Subset.trans (by decide) hl) _ _
    refine State.setTlp_only ?_ (List.Subset.trans (by decide) hl) _ _
    exact hx7
  · exact hx7
theorem State.sendOut_only (h : Only L s0 s) (hl : [Part.out, Part.tl] ⊆ L) (p : Nat) (x : LinkOut) :
    Only L s0 (State.sendOut s p x) := by
  unfold State.sendOut
  refine Only.ite ?_ ?_
  · exact h
  · refine State.pump_only ?_ (List.Subset.trans (by decide) hl) _
    refine State.setTlp_only ?_ (List.Subset.trans (by decide) hl) _ _
    exact h
theorem State.sendMsg_only (h : Only L s0 s) (hl : [Part.out, Part.tl] ⊆ L) (p : Nat) (op : Nat) (m : LinkMsg) :
    Only L s0 (State.sendMsg s p op m) := by
  unfold State.sendMsg
  refine State.sendOut_only ?_ (List.Subset.trans (by decide) hl) _ _
  exact h
theorem State.sendMgmt_only (h : Only L s0 s) (hl : [Part.out, Part.tl] ⊆ L) (p : Nat) (m : LinkMsg) (b : Mgmt) :
    Only L s0 (State.sendMgmt s p m b) := by
  unfold State.sendMgmt
  refine State.sendOut_only ?_ (List.Subset.trans (by decide) hl) _ _
  exact h
theorem State.deny_only (h : Only L s0 s) (hl : [Part.out, Part.tl] ⊆ L) (p : Nat) (m : LinkMsg) (cause : Nat) :
    Only L s0 (State.deny s p m cause) := by
  unfold State.deny
  refine State.sendMsg_only ?_ (List.Subset.trans (by decide) hl) _ _ _
  exact h
theorem State.forwardMsg_only (h : Only L s0 s) (hl : [Part.out, Part.tl] ⊆ L) (p : Nat) (op : Nat) (m : LinkMsg) (b : Option Mgmt) :
    Only L s0 (State.forwardMsg s p op m b) := by
  unfold State.forwardMsg
  extract_lets +onlyGivenNames x1
  have hx1 : ∀ x1a0, Only L s0 x1a0 → Only L s0 (x1 x1a0) := by
    intro x1a0 hx10
    unfold x1
    refine State.emit_only ?_ (List.Subset.trans (by decide) hl) _
    exact hx10
  clear_value x1
  split
  · refine Only.ite ?_ ?_
    · refine State.deny_only ?_ (List.Subset.trans (by decide) hl) _ _ _
      refine hx1 _ ?_
      exact h
    · refine hx1 _ ?_
      exact h
  · refine State.sendOut_only ?_ (List.Subset.trans (by decide) hl) _ _
    exact h
theorem State.freeRun_only (h : Only L s0 s) (hl : [Part.gtb] ⊆ L) :
    Only L s0 (State.freeRun s) := by
  unfold State.freeRun
  refine Only.ite ?_ ?_
  · refine Only.gtb ?_ _ (hl (by decide))
    exact h
  · exact h
theorem State.chooseMaster_only (h : Only L s0 s) (hl : [Part.gtb, Part.pf, Part.out, Part.tl] ⊆ L) :
    Only L s0 (State.chooseMaster s) := by
  unfold State.chooseMaster
  extract_lets +onlyGivenNames x1
  extract_lets +onlyGivenNames x2
  extract_lets +onlyGivenNames x3
  extract_lets +onlyGivenNames x4
  extract_lets +onlyGivenNames x5
  have hx5 : Only L s0 x5 := by
    unfold x5
    refine Only.tl ?_ _ (hl (by decide))
    exact h
  clear_value x5
  extract_lets +onlyGivenNames x6
  have hx6 : Only L s0 x6 := by
    unfold x6
    refine Only.ite ?_ ?_
    · refine State.tlEvt_only ?_ (List.Subset.trans (by decide) hl) _
      exact hx5
    · exact hx5
  clear_value x6
  extract_lets +onlyGivenNames x7
  have hx7 : Only L s0 x7 := by
    unfold x7
    refine Only.ite ?_ ?_
    · refine State.setTrim_only ?_ (List.Subset.trans (by decide) hl) _
      exact hx6
    · exact hx6
  clear_value x7
  refine State.freeRun_only ?_ (List.Subset.trans (by decide) hl)
  exact hx7
theorem State.retrainPort_only (h : Only L s0 s) (hl : [Part.tl] ⊆ L) (p : Nat) :
    Only L s0 (State.retrainPort s p) := by
  unfold State.retrainPort
  refine Only.ite ?_ ?_
  · exact h
  · refine State.tlEvt_only ?_ (List.Subset.trans (by decide) hl) _
    refine State.setTlp_only ?_ (List.Subset.trans (by decide) hl) _ _
    exact h

end Sys2Proof.Machine
end

