-- ==== Sys2Proof/Laws/Mailbox.lean ====
section
/-! SUPPORT. Machine/Mailbox.lean: what each of its operations keeps, and the parts it changes. -/

namespace Sys2Proof.Machine

variable {L : List Part} {s0 s : State}

theorem State.refuseFree_only (h : Only L s0 s) (hl : [Part.free] ⊆ L) :
    Only L s0 (State.refuseFree s).2 := by
  unfold State.refuseFree
  extract_lets +onlyGivenNames x1
  have hx1 : Only L s0 x1.2 := by
    unfold x1
    refine State.draw_only ?_ (List.Subset.trans (by decide) hl) _
    exact h
  clear_value x1
  dsimp only
  exact hx1
theorem State.setMb_only (h : Only L s0 s) (hl : [Part.pf, Part.vf] ⊆ L) (f : Fn) (g : Mailbox → Mailbox) :
    Only L s0 (State.setMb s f g) := by
  unfold State.setMb
  split
  · refine State.setPf_only ?_ (List.Subset.trans (by decide) hl) _ _
    exact h
  · refine State.setVf_only ?_ (List.Subset.trans (by decide) hl) _ _ _
    exact h
  · exact h
theorem State.mbGo_only (h : Only L s0 s) (hl : [Part.gtb, Part.pf, Part.vf, Part.out, Part.power, Part.side] ⊆ L) (m : Req) (op : Nat) :
    Only L s0 (State.mbGo s m op).1 := by
  unfold State.mbGo
  split
  · dsimp only
    exact h
  · extract_lets +onlyGivenNames x1
    extract_lets +onlyGivenNames x2
    extract_lets +onlyGivenNames x3
    split
    · dsimp only
      exact h
    · split
      · dsimp only
        refine State.setMb_only ?_ (List.Subset.trans (by decide) hl) _ _
        exact h
      · extract_lets +onlyGivenNames x4
        dsimp only
        refine State.setMb_only ?_ (List.Subset.trans (by decide) hl) _ _
        refine State.barWrite_only ?_ (List.Subset.trans (by decide) hl)
        exact h
theorem State.mbAnswer_only (h : Only L s0 s) (hl : [Part.pf, Part.vf, Part.history, Part.out] ⊆ L) (m : Req) (op : Nat) (a : Answer) :
    Only L s0 (State.mbAnswer s m op a) := by
  unfold State.mbAnswer
  extract_lets +onlyGivenNames x1
  refine Only.ite ?_ ?_
  · refine State.emit_only ?_ (List.Subset.trans (by decide) hl) _
    exact h
  · extract_lets +onlyGivenNames x2
    extract_lets +onlyGivenNames x3
    extract_lets +onlyGivenNames x4
    extract_lets +onlyGivenNames x5
    have hx5 : Only L s0 x5 := by
      unfold x5
      refine Only.history ?_ _ (hl (by decide))
      exact h
    clear_value x5
    refine Only.ite ?_ ?_
    · exact hx5
    · extract_lets +onlyGivenNames x6
      have hx6 : Only L s0 x6 := by
        unfold x6
        refine State.setMb_only ?_ (List.Subset.trans (by decide) hl) _ _
        exact hx5
      clear_value x6
      split
      · refine State.pfCauseOn_only ?_ (List.Subset.trans (by decide) hl) _ _
        exact hx6
      · refine State.vfCauseOn_only ?_ (List.Subset.trans (by decide) hl) _ _ _
        exact hx6
      · exact hx6
theorem State.answerAll_only (h : Only L s0 s) (hl : [Part.pf, Part.vf, Part.history, Part.out] ⊆ L) (op : Nat) (rs : List Req) (a : Answer) :
    Only L s0 (State.answerAll s op rs a) := by
  unfold State.answerAll
  refine forAll_only ?_ _ _ ?_
  · exact h
  · intro x1
    intro x2
    intro h3
    refine State.mbAnswer_only ?_ (List.Subset.trans (by decide) hl) _ _ _
    exact h3
theorem State.answerWaiter_only (h : Only L s0 s) (hl : [Part.pf, Part.vf, Part.history, Part.out, Part.side] ⊆ L) (w : Waiter) (op : Nat) (a : Answer) :
    Only L s0 (State.answerWaiter s w op a) := by
  unfold State.answerWaiter
  split
  · refine State.mbAnswer_only ?_ (List.Subset.trans (by decide) hl) _ _ _
    exact h
  · refine Only.ite ?_ ?_
    · refine State.conOk_only ?_ (List.Subset.trans (by decide) hl)
      exact h
    · refine State.conErr_only ?_ (List.Subset.trans (by decide) hl) _
      exact h
  · refine State.mctp_only ?_ (List.Subset.trans (by decide) hl) _ _
    exact h
theorem State.mbServe_only (h : Only L s0 s) (hl : [Part.gtb, Part.pf, Part.vf, Part.history, Part.out, Part.power, Part.side] ⊆ L) (f : MbForm) (m : Req) (body : State → State) (hbody : ∀ t, Only L s0 t → Only L s0 (body t)) :
    Only L s0 (State.mbServe s f m body) := by
  unfold State.mbServe
  extract_lets +onlyGivenNames x1
  have hx1 : Only L s0 x1.1 := by
    unfold x1
    refine State.mbGo_only ?_ (List.Subset.trans (by decide) hl) _ _
    exact h
  clear_value x1
  refine Only.ite ?_ ?_
  · exact hx1
  · split
    · refine State.mbAnswer_only ?_ (List.Subset.trans (by decide) hl) _ _ _
      exact hx1
    · refine hbody _ ?_
      exact hx1
theorem State.mbServeA_only (h : Only L s0 s) (hl : [Part.gtb, Part.pf, Part.vf, Part.history, Part.out, Part.power, Part.side] ⊆ L) (f : MbForm) (m : Req) (body : State → Answer × State) (hbody : ∀ t, Only L s0 t → Only L s0 (body t).2) :
    Only L s0 (State.mbServeA s f m body) := by
  unfold State.mbServeA
  refine State.mbServe_only ?_ (List.Subset.trans (by decide) hl) _ _ _ ?_
  · exact h
  · intro x1
    intro h2
    extract_lets +onlyGivenNames x3
    have hx3 : Only L s0 x3.2 := by
      unfold x3
      refine hbody _ ?_
      exact h2
    clear_value x3
    refine State.mbAnswer_only ?_ (List.Subset.trans (by decide) hl) _ _ _
    exact hx3

end Sys2Proof.Machine
end

