-- ==== Sys2Proof/Laws/RelayOps.lean ====
section
/-! SUPPORT. Machine/RelayOps.lean: what each of its operations keeps, and the parts it changes. -/

namespace Sys2Proof.Machine

variable {L : List Part} {s0 s : State}

theorem State.modRelay_only (h : Only L s0 s) (hl : [Part.stalls] ⊆ L) (n : Nat) (f : Relay → Relay) :
    Only L s0 (State.modRelay s n f) := by
  unfold State.modRelay
  refine State.modStall_only ?_ (List.Subset.trans (by decide) hl) _ _
  exact h
theorem State.relayEnd_only (h : Only L s0 s) (hl : [Part.out, Part.stalls, Part.tl] ⊆ L) (n : Nat) (k : Nat) (pos : U32) (status : Byte) (detail : Byte) :
    Only L s0 (State.relayEnd s n k pos status detail) := by
  unfold State.relayEnd
  extract_lets +onlyGivenNames x1
  extract_lets +onlyGivenNames x2
  have hx2 : Only L s0 x2 := by
    unfold x2
    refine State.finish_only ?_ (List.Subset.trans (by decide) hl) _ _ _ _ _ _
    exact h
  clear_value x2
  split
  · exact hx2
  · refine forAll_only ?_ _ _ ?_
    · exact hx2
    · intro x3
      intro x4
      intro h5
      refine State.sendMsg_only ?_ (List.Subset.trans (by decide) hl) _ _ _
      refine State.modRelay_only ?_ (List.Subset.trans (by decide) hl) _ _
      exact h5
theorem State.startChunk_only (h : Only L s0 s) (hl : [Part.out, Part.stalls, Part.hbm, Part.poison, Part.lineSlot, Part.mee, Part.tl] ⊆ L) (n : Nat) (c : Claim) :
    Only L s0 (State.startChunk s n c) := by
  unfold State.startChunk
  split
  · exact h
  · refine Only.ite ?_ ?_
    · refine forAll_only ?_ _ _ ?_
      · exact h
      · intro x1
        intro x2
        intro h3
        refine State.sendMsg_only ?_ (List.Subset.trans (by decide) hl) _ _ _
        exact h3
    · extract_lets +onlyGivenNames x4
      have hx4 : Only L s0 x4.2 := by
        unfold x4
        refine State.readRun_only ?_ (List.Subset.trans (by decide) hl) _ _ _ _
        exact h
      clear_value x4
      extract_lets +onlyGivenNames x5
      extract_lets +onlyGivenNames x6
      have hx6 : Only L s0 x6 := by
        unfold x6
        refine State.modEntry_only ?_ (List.Subset.trans (by decide) hl) _ _ _ _
        exact hx4
      clear_value x6
      refine Only.ite ?_ ?_
      · refine State.relayEnd_only ?_ (List.Subset.trans (by decide) hl) _ _ _ _ _
        exact hx6
      · refine forAll_only ?_ _ _ ?_
        · refine State.modRelay_only ?_ (List.Subset.trans (by decide) hl) _ _
          exact hx6
        · intro x7
          intro x8
          intro h9
          refine State.sendMsg_only ?_ (List.Subset.trans (by decide) hl) _ _ _
          exact h9
theorem State.commitSlots_only (h : Only L s0 s) (hl : [Part.out, Part.stalls, Part.hbm, Part.poison, Part.lineSlot, Part.mee, Part.tl] ⊆ L) (n : Nat) (a1 : Nat) :
    Only L s0 (State.commitSlots n a1 s) := by
  induction a1 generalizing s with
  | zero =>
    exact h
  | succ m ih =>
    unfold State.commitSlots
    split
    · exact h
    · refine Only.ite ?_ ?_
      · exact h
      · split
        · exact h
        · extract_lets +onlyGivenNames x1
          have hx1 : Only L s0 x1 := by
            unfold x1
            refine State.modRelay_only ?_ (List.Subset.trans (by decide) hl) _ _
            exact h
          clear_value x1
          refine Only.ite ?_ ?_
          · refine ih ?_
            refine State.sendMsg_only ?_ (List.Subset.trans (by decide) hl) _ _ _
            exact hx1
          · refine Only.ite ?_ ?_
            · refine ih ?_
              refine State.startChunk_only ?_ (List.Subset.trans (by decide) hl) _ _
              exact hx1
            · exact h
theorem State.commitAll_only (h : Only L s0 s) (hl : [Part.out, Part.stalls, Part.hbm, Part.poison, Part.lineSlot, Part.mee, Part.tl] ⊆ L) (n : Nat) :
    Only L s0 (State.commitAll s n) := by
  unfold State.commitAll
  split
  · exact h
  · refine State.commitSlots_only ?_ (List.Subset.trans (by decide) hl) _ _
    exact h
theorem State.settleClears_only (h : Only L s0 s) (hl : [Part.pf, Part.vf, Part.history, Part.out, Part.stalls] ⊆ L) (n : Nat) :
    Only L s0 (State.settleClears s n) := by
  unfold State.settleClears
  split
  · exact h
  · refine forAll_only ?_ _ _ ?_
    · exact h
    · intro x1
      intro x2
      intro h3
      refine Only.ite ?_ ?_
      · exact h3
      · refine State.mbAnswer_only ?_ (List.Subset.trans (by decide) hl) _ _ _
        refine State.modRelay_only ?_ (List.Subset.trans (by decide) hl) _ _
        exact h3
theorem State.relayDrop_only (h : Only L s0 s) (hl : [Part.out, Part.stalls, Part.tl] ⊆ L) (n : Nat) :
    Only L s0 (State.relayDrop s n) := by
  unfold State.relayDrop
  split
  · exact h
  · refine forAll_only ?_ _ _ ?_
    · exact h
    · intro x1
      intro x2
      intro h3
      extract_lets +onlyGivenNames x4
      have hx4 : Only L s0 x4 := by
        unfold x4
        refine State.modRelay_only ?_ (List.Subset.trans (by decide) hl) _ _
        exact h3
      clear_value x4
      refine Only.ite ?_ ?_
      · refine State.sendMsg_only ?_ (List.Subset.trans (by decide) hl) _ _ _
        exact hx4
      · exact hx4
theorem State.relaySweep_only (h : Only L s0 s) (hl : [Part.pf, Part.vf, Part.history, Part.out, Part.stalls, Part.hbm, Part.poison, Part.lineSlot, Part.mee, Part.tl] ⊆ L) (n : Nat) :
    Only L s0 (State.relaySweep s n) := by
  unfold State.relaySweep
  split
  · exact h
  · extract_lets +onlyGivenNames x1
    extract_lets +onlyGivenNames x2
    extract_lets +onlyGivenNames x3
    refine Only.ite ?_ ?_
    · exact h
    · extract_lets +onlyGivenNames x4
      have hx4 : Only L s0 x4 := by
        unfold x4
        refine forAll_only ?_ _ _ ?_
        · exact h
        · intro x5
          intro x6
          intro h7
          refine State.sendMsg_only ?_ (List.Subset.trans (by decide) hl) _ _ _
          refine State.modRelay_only ?_ (List.Subset.trans (by decide) hl) _ _
          exact h7
      clear_value x4
      extract_lets +onlyGivenNames x8
      have hx8 : Only L s0 x8 := by
        unfold x8
        refine State.modRelay_only ?_ (List.Subset.trans (by decide) hl) _ _
        exact hx4
      clear_value x8
      refine State.settleClears_only ?_ (List.Subset.trans (by decide) hl) _
      refine State.commitAll_only ?_ (List.Subset.trans (by decide) hl) _
      exact hx8
theorem State.settleExports_only (h : Only L s0 s) (hl : [Part.pf, Part.vf, Part.history, Part.out, Part.stalls] ⊆ L) (n : Nat) :
    Only L s0 (State.settleExports s n) := by
  unfold State.settleExports
  split
  · exact h
  · refine forAll_only ?_ _ _ ?_
    · exact h
    · intro x1
      intro x2
      intro h3
      refine Only.ite ?_ ?_
      · exact h3
      · refine State.mbAnswer_only ?_ (List.Subset.trans (by decide) hl) _ _ _
        refine State.modRelay_only ?_ (List.Subset.trans (by decide) hl) _ _
        exact h3
theorem State.recallLoans_only (h : Only L s0 s) (hl : [Part.out, Part.stalls, Part.tl] ⊆ L) (n : Nat) :
    Only L s0 (State.recallLoans s n) := by
  unfold State.recallLoans
  split
  · exact h
  · extract_lets +onlyGivenNames x1
    have hx1 : Only L s0 x1 := by
      unfold x1
      refine forAll_only ?_ _ _ ?_
      · exact h
      · intro x2
        intro x3
        intro h4
        split
        · exact h4
        · refine State.sendMgmt_only ?_ (List.Subset.trans (by decide) hl) _ _ _
          exact h4
    clear_value x1
    refine State.modStall_only ?_ (List.Subset.trans (by decide) hl) _ _
    exact hx1

end Sys2Proof.Machine
end

