-- ==== Sys2Proof/Laws/StallOps.lean ====
section
/-! SUPPORT. Machine/StallOps.lean: what each of its operations keeps, and the parts it changes. -/

namespace Sys2Proof.Machine

variable {L : List Part} {s0 s : State}

theorem State.setCluster_only (h : Only L s0 s) (hl : [Part.clusters] ⊆ L) (c : Nat) (f : Cluster → Cluster) :
    Only L s0 (State.setCluster s c f) := by
  unfold State.setCluster
  refine Only.clusters ?_ _ (hl (by decide))
  exact h
theorem State.freeCluster_only (h : Only L s0 s) (hl : [Part.clusters, Part.power] ⊆ L) (c : Nat) (clean : Bool) (safe : Bool) :
    Only L s0 (State.freeCluster s c clean safe) := by
  unfold State.freeCluster
  refine State.vacate_only ?_ (List.Subset.trans (by decide) hl) _
  refine State.setCluster_only ?_ (List.Subset.trans (by decide) hl) _ _
  exact h
theorem State.dropLaunches_only (h : Only L s0 s) (hl : [Part.clusters, Part.stalls, Part.power] ⊆ L) (n : Nat) (p : Launch → Bool) (clean : Bool) :
    Only L s0 (State.dropLaunches s n p clean) := by
  unfold State.dropLaunches
  split
  · exact h
  · extract_lets +onlyGivenNames x1
    extract_lets +onlyGivenNames x2
    have hx2 : Only L s0 x2 := by
      unfold x2
      refine State.modStall_only ?_ (List.Subset.trans (by decide) hl) _ _
      exact h
    clear_value x2
    refine forAll_only ?_ _ _ ?_
    · exact hx2
    · intro x3
      intro x4
      intro h5
      refine State.freeCluster_only ?_ (List.Subset.trans (by decide) hl) _ _ _
      exact h5
theorem State.endAll_only (h : Only L s0 s) (hl : [Part.stalls] ⊆ L) (n : Nat) (c : Nat) (f : Nat → Entry → Byte × Byte) :
    Only L s0 (State.endAll s n c f) := by
  unfold State.endAll
  split
  · exact h
  · refine State.setStall_only ?_ (List.Subset.trans (by decide) hl) _ _
    exact h
theorem State.showCtx_only (h : Only L s0 s) (hl : [Part.vf, Part.out, Part.hostMem, Part.stalls, Part.hbm, Part.poison, Part.lineSlot, Part.mee, Part.sessions] ⊆ L) (n : StallNo) (c : Nat) :
    Only L s0 (State.showCtx s n c) := by
  unfold State.showCtx
  split
  · exact h
  · refine forAll_only ?_ _ _ ?_
    · exact h
    · intro x1
      intro x2
      intro h3
      split
      · exact h3
      · refine Only.ite ?_ ?_
        · refine State.allVisible_only ?_ (List.Subset.trans (by decide) hl) _ _
          exact h3
        · exact h3
theorem State.killCtx_only (h : Only L s0 s) (hl : [Part.pf, Part.vf, Part.history, Part.out, Part.hostMem, Part.clusters, Part.stalls, Part.hbm, Part.poison, Part.lineSlot, Part.mee, Part.power, Part.tl, Part.sessions] ⊆ L) (n : StallNo) (c : Nat) (detail : Byte) :
    Only L s0 (State.killCtx s n c detail) := by
  unfold State.killCtx
  extract_lets +onlyGivenNames x1
  have hx1 : Only L s0 x1 := by
    unfold x1
    refine State.endAll_only ?_ (List.Subset.trans (by decide) hl) _ _ _
    exact h
  clear_value x1
  extract_lets +onlyGivenNames x2
  have hx2 : Only L s0 x2 := by
    unfold x2
    refine State.dropLaunches_only ?_ (List.Subset.trans (by decide) hl) _ _ _
    exact hx1
  clear_value x2
  extract_lets +onlyGivenNames x3
  have hx3 : Only L s0 x3 := by
    unfold x3
    refine State.relaySweep_only ?_ (List.Subset.trans (by decide) hl) _
    refine State.drvKill_only ?_ (List.Subset.trans (by decide) hl) _ _
    exact hx2
  clear_value x3
  extract_lets +onlyGivenNames x4
  have hx4 : Only L s0 x4 := by
    unfold x4
    refine State.modCtx_only ?_ (List.Subset.trans (by decide) hl) _ _ _
    exact hx3
  clear_value x4
  refine State.showCtx_only ?_ (List.Subset.trans (by decide) hl) _ _
  exact hx4
theorem State.killAll_only (h : Only L s0 s) (hl : [Part.pf, Part.vf, Part.history, Part.out, Part.hostMem, Part.clusters, Part.stalls, Part.hbm, Part.poison, Part.lineSlot, Part.mee, Part.power, Part.tl, Part.sessions] ⊆ L) (n : StallNo) (detail : Byte) :
    Only L s0 (State.killAll s n detail) := by
  unfold State.killAll
  split
  · exact h
  · refine forAll_only ?_ _ _ ?_
    · exact h
    · intro x1
      intro x2
      intro h3
      refine State.killCtx_only ?_ (List.Subset.trans (by decide) hl) _ _ _
      exact h3
theorem State.refusePreempt_only (h : Only L s0 s) (hl : [Part.pf, Part.vf, Part.history, Part.out, Part.hostMem, Part.clusters, Part.stalls, Part.hbm, Part.poison, Part.lineSlot, Part.mee, Part.power, Part.tl, Part.sessions] ⊆ L) (n : StallNo) (c : Nat) :
    Only L s0 (State.refusePreempt s n c) := by
  unfold State.refusePreempt
  split
  · exact h
  · extract_lets +onlyGivenNames x1
    have hx1 : Only L s0 x1 := by
      unfold x1
      refine State.endAll_only ?_ (List.Subset.trans (by decide) hl) _ _ _
      exact h
    clear_value x1
    extract_lets +onlyGivenNames x2
    have hx2 : Only L s0 x2 := by
      unfold x2
      refine State.dropLaunches_only ?_ (List.Subset.trans (by decide) hl) _ _ _
      exact hx1
    clear_value x2
    extract_lets +onlyGivenNames x3
    have hx3 : Only L s0 x3 := by
      unfold x3
      refine State.relaySweep_only ?_ (List.Subset.trans (by decide) hl) _
      refine State.drvKill_only ?_ (List.Subset.trans (by decide) hl) _ _
      exact hx2
    clear_value x3
    extract_lets +onlyGivenNames x4
    have hx4 : Only L s0 x4 := by
      unfold x4
      refine State.modStall_only ?_ (List.Subset.trans (by decide) hl) _ _
      exact hx3
    clear_value x4
    extract_lets +onlyGivenNames x5
    have hx5 : Only L s0 x5 := by
      unfold x5
      refine State.modCtx_only ?_ (List.Subset.trans (by decide) hl) _ _ _
      exact hx4
    clear_value x5
    refine State.showCtx_only ?_ (List.Subset.trans (by decide) hl) _ _
    exact hx5
theorem State.resumeCluster_only (h : Only L s0 s) (hl : [Part.power] ⊆ L) (c : Nat) :
    Only L s0 (State.resumeCluster s c) := by
  unfold State.resumeCluster
  extract_lets +onlyGivenNames x1
  have hx1 : Only L s0 x1 := by
    unfold x1
    refine State.setSky_only ?_ (List.Subset.trans (by decide) hl) _ _
    exact h
  clear_value x1
  refine Only.ite ?_ ?_
  · refine State.occupy_only ?_ (List.Subset.trans (by decide) hl) _
    exact hx1
  · refine State.beginIdle_only ?_ (List.Subset.trans (by decide) hl) _
    exact hx1
theorem State.endHalts_only (h : Only L s0 s) (hl : [Part.stalls, Part.power] ⊆ L) (n : Nat) :
    Only L s0 (State.endHalts s n) := by
  unfold State.endHalts
  split
  · exact h
  · refine forAll_only ?_ _ _ ?_
    · refine State.setStall_only ?_ (List.Subset.trans (by decide) hl) _ _
      exact h
    · intro x1
      intro x2
      intro h3
      refine State.resumeCluster_only ?_ (List.Subset.trans (by decide) hl) _
      exact h3
theorem State.dropDebug_only (h : Only L s0 s) (hl : [Part.stalls, Part.prot, Part.power] ⊆ L) (n : Nat) :
    Only L s0 (State.dropDebug s n) := by
  unfold State.dropDebug
  refine State.endHalts_only ?_ (List.Subset.trans (by decide) hl) _
  refine Only.prot ?_ _ (hl (by decide))
  exact h
theorem State.endDebug_only (h : Only L s0 s) (hl : [Part.stalls, Part.prot, Part.power] ⊆ L) :
    Only L s0 (State.endDebug s) := by
  unfold State.endDebug
  extract_lets +onlyGivenNames x1
  extract_lets +onlyGivenNames x2
  have hx2 : Only L s0 x2 := by
    unfold x2
    refine Only.prot ?_ _ (hl (by decide))
    exact h
  clear_value x2
  refine forAll_only ?_ _ _ ?_
  · exact hx2
  · intro x3
    intro x4
    intro h5
    refine State.endHalts_only ?_ (List.Subset.trans (by decide) hl) _
    exact h5
theorem State.breakContinuity_only (h : Only L s0 s) (hl : [Part.pf, Part.vf, Part.history, Part.out, Part.clusters, Part.stalls, Part.hbm, Part.poison, Part.lineSlot, Part.mee, Part.power, Part.acct, Part.tl, Part.free] ⊆ L) (n : StallNo) :
    Only L s0 (State.breakContinuity s n) := by
  unfold State.breakContinuity
  split
  · exact h
  · extract_lets +onlyGivenNames x1
    have hx1 : Only L s0 x1 := by
      unfold x1
      refine State.dropLaunches_only ?_ (List.Subset.trans (by decide) hl) _ _ _
      exact h
    clear_value x1
    extract_lets +onlyGivenNames x2
    extract_lets +onlyGivenNames x3
    have hx3 : Only L s0 x3 := by
      unfold x3
      refine Only.ite ?_ ?_
      · exact hx1
      · refine State.raiseEra_only ?_ (List.Subset.trans (by decide) hl) _
        exact hx1
    clear_value x3
    extract_lets +onlyGivenNames x4
    extract_lets +onlyGivenNames x5
    have hx5 : Only L s0 x5 := by
      unfold x5
      refine State.modStall_only ?_ (List.Subset.trans (by decide) hl) _ _
      exact hx3
    clear_value x5
    extract_lets +onlyGivenNames x6
    have hx6 : Only L s0 x6 := by
      unfold x6
      refine State.relaySweep_only ?_ (List.Subset.trans (by decide) hl) _
      exact hx5
    clear_value x6
    extract_lets +onlyGivenNames x7
    have hx7 : Only L s0 x7 := by
      unfold x7
      refine Only.ite ?_ ?_
      · exact hx6
      · refine State.accEvent_only ?_ (List.Subset.trans (by decide) hl) _ _ _ _ _ _ _ _ _ _
        exact hx6
    clear_value x7
    refine State.accEvent_only ?_ (List.Subset.trans (by decide) hl) _ _ _ _ _ _ _ _ _ _
    exact hx7

end Sys2Proof.Machine
end

