-- ==== Sys2Proof/Laws/Time.lean ====
section
/-! SUPPORT. Machine/Time.lean: what each of its operations keeps, and the parts it changes. -/

namespace Sys2Proof.Machine

variable {L : List Part} {s0 s : State}

theorem refClockLost_only (h : Only L s0 s) (hl : [Part.gtb, Part.pf, Part.out] ⊆ L) :
    Only L s0 (refClockLost s) := by
  unfold refClockLost
  refine Only.ite ?_ ?_
  · exact h
  · extract_lets +onlyGivenNames x1
    refine State.pfCause_only ?_ (List.Subset.trans (by decide) hl) _
    refine Only.gtb ?_ _ (hl (by decide))
    exact h
theorem refClockSwitchBack_only (h : Only L s0 s) (hl : [Part.gtb, Part.timers, Part.outs, Part.matrix, Part.pf, Part.out] ⊆ L) :
    Only L s0 (refClockSwitchBack s) := by
  unfold refClockSwitchBack
  refine Only.ite ?_ ?_
  · extract_lets +onlyGivenNames x1
    have hx1 : Only L s0 x1 := by
      unfold x1
      refine State.advanceEdge_only ?_ (List.Subset.trans (by decide) hl) _
      exact h
    clear_value x1
    refine State.pfCause_only ?_ (List.Subset.trans (by decide) hl) _
    refine Only.gtb ?_ _ (hl (by decide))
    exact hx1
  · exact h
theorem gtbCoarseEnd_only (h : Only L s0 s) (hl : [Part.gtb, Part.timers, Part.outs, Part.matrix, Part.pf, Part.out] ⊆ L) :
    Only L s0 (gtbCoarseEnd s) := by
  unfold gtbCoarseEnd
  split
  · exact h
  · extract_lets +onlyGivenNames x1
    have hx1 : Only L s0 x1 := by
      unfold x1
      refine State.advance_only ?_ (List.Subset.trans (by decide) hl) _
      exact h
    clear_value x1
    refine Only.gtb ?_ _ (hl (by decide))
    exact hx1
theorem State.answer_only (h : Only L s0 s) (hl : [Part.out] ⊆ L) (f : Fn) (n : Nat) (v : Nat) :
    Only L s0 (State.answer s f n v) := by
  unfold State.answer
  refine State.emit_only ?_ (List.Subset.trans (by decide) hl) _
  exact h
theorem gtbNowLoRead_only (h : Only L s0 s) (hl : [Part.pf, Part.vf, Part.rtpLat, Part.out] ⊆ L) (f : Fn) :
    Only L s0 (gtbNowLoRead f s) := by
  unfold gtbNowLoRead
  refine State.answer_only ?_ (List.Subset.trans (by decide) hl) _ _ _
  refine State.setLat_only ?_ (List.Subset.trans (by decide) hl) _ _
  exact h
theorem gtbTrimWrite_only (h : Only L s0 s) (hl : [Part.gtb, Part.pf, Part.out] ⊆ L) (v : U32) :
    Only L s0 (gtbTrimWrite v s) := by
  unfold gtbTrimWrite
  refine Only.ite ?_ ?_
  · exact h
  · refine State.setTrim_only ?_ (List.Subset.trans (by decide) hl) _
    exact h
theorem State.landGate_only (h : Only L s0 s) (hl : [Part.gates] ⊆ L) (g : Nat) (w : GateWrite) :
    Only L s0 (State.landGate s g w) := by
  unfold State.landGate
  refine State.setGate_only ?_ (List.Subset.trans (by decide) hl) _ _
  exact h
theorem onGate_only (h : Only L s0 s) (n : Nat) (g : Nat) (f : Nat → State → State) (hf : ∀ x0 t, Only L s0 t → Only L s0 (f x0 t)) :
    Only L s0 (onGate n g f s) := by
  unfold onGate
  split
  · exact h
  · refine hf _ _ ?_
    exact h
theorem State.wakeGate_only (h : Only L s0 s) (hl : [Part.gtb, Part.gates, Part.out, Part.power, Part.side] ⊆ L) (g : Nat) :
    Only L s0 (State.wakeGate s g) := by
  unfold State.wakeGate
  split
  · exact h
  · extract_lets +onlyGivenNames x1
    refine Only.ite ?_ ?_
    · exact h
    · extract_lets +onlyGivenNames x2
      have hx2 : Only L s0 x2 := by
        unfold x2
        refine State.setGate_only ?_ (List.Subset.trans (by decide) hl) _ _
        exact h
      clear_value x2
      refine forAll_only ?_ _ _ ?_
      · refine State.wakePackage_only ?_ (List.Subset.trans (by decide) hl) _ _
        exact hx2
      · intro x3
        intro x4
        intro h5
        refine State.wakeCluster_only ?_ (List.Subset.trans (by decide) hl) _
        exact h5
theorem State.rewakeGates_only (h : Only L s0 s) (hl : [Part.gtb, Part.gates, Part.out, Part.power, Part.side] ⊆ L) :
    Only L s0 (State.rewakeGates s) := by
  unfold State.rewakeGates
  refine forAll_only ?_ _ _ ?_
  · exact h
  · intro x1
    intro x2
    intro h3
    refine Only.ite ?_ ?_
    · refine State.wakeGate_only ?_ (List.Subset.trans (by decide) hl) _
      exact h3
    · exact h3
theorem State.enterWaking_only (h : Only L s0 s) (hl : [Part.gtb, Part.gates, Part.out, Part.stalls, Part.power, Part.side] ⊆ L) (g : Nat) :
    Only L s0 (State.enterWaking s g) := by
  unfold State.enterWaking
  extract_lets +onlyGivenNames x1
  extract_lets +onlyGivenNames x2
  have hx2 : Only L s0 x2 := by
    unfold x2
    refine State.setGate_only ?_ (List.Subset.trans (by decide) hl) _ _
    exact h
  clear_value x2
  split
  · exact hx2
  · split
    · exact hx2
    · refine State.wakeGate_only ?_ (List.Subset.trans (by decide) hl) _
      refine State.setStall_only ?_ (List.Subset.trans (by decide) hl) _ _
      exact hx2
theorem State.fireGate_only (h : Only L s0 s) (hl : [Part.gates, Part.stalls] ⊆ L) (g : Nat) :
    Only L s0 (State.fireGate s g) := by
  unfold State.fireGate
  extract_lets +onlyGivenNames x1
  extract_lets +onlyGivenNames x2
  have hx2 : Only L s0 x2 := by
    unfold x2
    refine State.setGate_only ?_ (List.Subset.trans (by decide) hl) _ _
    exact h
  clear_value x2
  split
  · exact hx2
  · refine State.releaseGate_only ?_ (List.Subset.trans (by decide) hl) _ _ _ _
    exact hx2
theorem State.armGate_only (h : Only L s0 s) (hl : [Part.gtb, Part.gates, Part.out, Part.stalls, Part.power, Part.side] ⊆ L) (g : Nat) :
    Only L s0 (State.armGate s g) := by
  unfold State.armGate
  extract_lets +onlyGivenNames x1
  split
  · extract_lets +onlyGivenNames x2
    have hx2 : Only L s0 x2 := by
      unfold x2
      refine State.setGate_only ?_ (List.Subset.trans (by decide) hl) _ _
      exact h
    clear_value x2
    refine Only.ite ?_ ?_
    · refine State.enterWaking_only ?_ (List.Subset.trans (by decide) hl) _
      exact hx2
    · exact hx2
  · extract_lets +onlyGivenNames x3
    have hx3 : Only L s0 x3 := by
      unfold x3
      refine State.setGate_only ?_ (List.Subset.trans (by decide) hl) _ _
      exact h
    clear_value x3
    refine Only.ite ?_ ?_
    · refine State.enterWaking_only ?_ (List.Subset.trans (by decide) hl) _
      exact hx3
    · exact hx3
  · exact h
theorem State.disarmGate_only (h : Only L s0 s) (hl : [Part.gates, Part.power] ⊆ L) (g : Nat) :
    Only L s0 (State.disarmGate s g) := by
  unfold State.disarmGate
  refine State.setGate_only ?_ (List.Subset.trans (by decide) hl) _ _
  refine State.endHold_only ?_ (List.Subset.trans (by decide) hl) _
  exact h
theorem State.reevalGate_only (h : Only L s0 s) (hl : [Part.gtb, Part.gates, Part.out, Part.stalls, Part.power, Part.side] ⊆ L) (g : Nat) :
    Only L s0 (State.reevalGate s g) := by
  unfold State.reevalGate
  extract_lets +onlyGivenNames x1
  split
  · refine Only.ite ?_ ?_
    · refine State.enterWaking_only ?_ (List.Subset.trans (by decide) hl) _
      exact h
    · exact h
  · refine Only.ite ?_ ?_
    · exact h
    · refine State.setGate_only ?_ (List.Subset.trans (by decide) hl) _ _
      refine State.endHold_only ?_ (List.Subset.trans (by decide) hl) _
      exact h
  · exact h
theorem State.applyGate_only (h : Only L s0 s) (hl : [Part.gtb, Part.gates, Part.out, Part.stalls, Part.power, Part.side] ⊆ L) (g : Nat) (a2 : GateWrite) :
    Only L s0 (State.applyGate s g a2) := by
  unfold State.applyGate
  split
  · refine State.armGate_only ?_ (List.Subset.trans (by decide) hl) _
    exact h
  · refine State.disarmGate_only ?_ (List.Subset.trans (by decide) hl) _
    exact h
  · refine State.armGate_only ?_ (List.Subset.trans (by decide) hl) _
    refine State.disarmGate_only ?_ (List.Subset.trans (by decide) hl) _
    exact h
  · refine State.reevalGate_only ?_ (List.Subset.trans (by decide) hl) _
    refine State.setGate_only ?_ (List.Subset.trans (by decide) hl) _ _
    exact h
  · refine State.reevalGate_only ?_ (List.Subset.trans (by decide) hl) _
    refine State.setGate_only ?_ (List.Subset.trans (by decide) hl) _ _
    exact h
theorem State.fireIfDue_only (h : Only L s0 s) (hl : [Part.gates, Part.stalls] ⊆ L) (g : Nat) :
    Only L s0 (State.fireIfDue s g) := by
  unfold State.fireIfDue
  extract_lets +onlyGivenNames x1
  refine Only.ite ?_ ?_
  · refine State.fireGate_only ?_ (List.Subset.trans (by decide) hl) _
    exact h
  · exact h
theorem gateWriteTakesEffect_only (h : Only L s0 s) (hl : [Part.gtb, Part.gates, Part.timers, Part.outs, Part.matrix, Part.pf, Part.out, Part.stalls, Part.power, Part.side] ⊆ L) (g : GateNo) :
    Only L s0 (gateWriteTakesEffect g s) := by
  unfold gateWriteTakesEffect
  extract_lets +onlyGivenNames x1
  refine Only.ite ?_ ?_
  · exact h
  · extract_lets +onlyGivenNames x2
    have hx2 : Only L s0 x2 := by
      unfold x2
      refine State.advance_only ?_ (List.Subset.trans (by decide) hl) _
      exact h
    clear_value x2
    extract_lets +onlyGivenNames x3
    have hx3 : Only L s0 x3 := by
      unfold x3
      refine State.setGate_only ?_ (List.Subset.trans (by decide) hl) _ _
      exact hx2
    clear_value x3
    refine State.fireIfDue_only ?_ (List.Subset.trans (by decide) hl) _
    refine forAll_only ?_ _ _ ?_
    · exact hx3
    · intro x4
      intro x5
      intro h6
      refine State.applyGate_only ?_ (List.Subset.trans (by decide) hl) _ _
      exact h6
theorem gateWaking_only (h : Only L s0 s) (hl : [Part.gtb, Part.gates, Part.timers, Part.outs, Part.matrix, Part.pf, Part.out, Part.stalls, Part.power, Part.side] ⊆ L) (g : GateNo) :
    Only L s0 (gateWaking g s) := by
  unfold gateWaking
  extract_lets +onlyGivenNames x1
  refine Only.ite ?_ ?_
  · extract_lets +onlyGivenNames x2
    have hx2 : Only L s0 x2 := by
      unfold x2
      refine State.advance_only ?_ (List.Subset.trans (by decide) hl) _
      exact h
    clear_value x2
    refine Only.ite ?_ ?_
    · refine State.enterWaking_only ?_ (List.Subset.trans (by decide) hl) _
      exact hx2
    · exact hx2
  · exact h
theorem gateFire_only (h : Only L s0 s) (hl : [Part.gtb, Part.gates, Part.timers, Part.outs, Part.matrix, Part.pf, Part.out, Part.stalls] ⊆ L) (g : GateNo) :
    Only L s0 (gateFire g s) := by
  unfold gateFire
  extract_lets +onlyGivenNames x1
  refine Only.ite ?_ ?_
  · refine State.fireIfDue_only ?_ (List.Subset.trans (by decide) hl) _
    refine State.advance_only ?_ (List.Subset.trans (by decide) hl) _
    exact h
  · exact h
theorem gateHoldEnd_only (h : Only L s0 s) (hl : [Part.gtb, Part.gates, Part.timers, Part.outs, Part.matrix, Part.pf, Part.out, Part.power] ⊆ L) (g : GateNo) :
    Only L s0 (gateHoldEnd g s) := by
  unfold gateHoldEnd
  split
  · exact h
  · refine State.endHold_only ?_ (List.Subset.trans (by decide) hl) _
    refine State.advance_only ?_ (List.Subset.trans (by decide) hl) _
    exact h
theorem gateCmpLoWrite_only (h : Only L s0 s) (hl : [Part.gates, Part.ticks] ⊆ L) (a0 : CmpReg) (v : U32) :
    Only L s0 (gateCmpLoWrite a0 v s) := by
  unfold gateCmpLoWrite
  split
  · refine onGate_only ?_ _ _ _ ?_
    · exact h
    · intro x1
      intro x2
      intro h3
      refine State.setGate_only ?_ (List.Subset.trans (by decide) hl) _ _
      exact h3
  · refine Only.ite ?_ ?_
    · exact h
    · refine State.setTick_only ?_ (List.Subset.trans (by decide) hl) _ _
      exact h
theorem gateCmpHiWrite_only (h : Only L s0 s) (hl : [Part.gates, Part.ticks, Part.free] ⊆ L) (a0 : CmpReg) (hi : U32) (lo : Option U32) :
    Only L s0 (gateCmpHiWrite a0 hi lo s) := by
  unfold gateCmpHiWrite
  extract_lets +onlyGivenNames x1
  have hx1 : ∀ x1a0 x1a1, Only L s0 x1a1 → Only L s0 (x1 x1a0 x1a1).2 := by
    intro x1a0 x1a1 hx10
    unfold x1
    split
    · dsimp only
      exact hx10
    · dsimp only
      exact hx10
    · extract_lets +onlyGivenNames x2
      have hx2 : Only L s0 x2.2 := by
        unfold x2
        refine State.draw_only ?_ (List.Subset.trans (by decide) hl) _
        exact hx10
      clear_value x2
      dsimp only
      exact hx2
  clear_value x1
  split
  · refine onGate_only ?_ _ _ _ ?_
    · exact h
    · intro x3
      intro x4
      intro h5
      extract_lets +onlyGivenNames x6
      have hx6 : Only L s0 x6.2 := by
        unfold x6
        refine hx1 _ _ ?_
        exact h5
      clear_value x6
      refine State.landGate_only ?_ (List.Subset.trans (by decide) hl) _ _
      refine State.setGate_only ?_ (List.Subset.trans (by decide) hl) _ _
      exact hx6
  · refine Only.ite ?_ ?_
    · exact h
    · extract_lets +onlyGivenNames x7
      have hx7 : Only L s0 x7.2 := by
        unfold x7
        refine hx1 _ _ ?_
        exact h
      clear_value x7
      refine State.setTick_only ?_ (List.Subset.trans (by decide) hl) _ _
      exact hx7
theorem gatePrerollWrite_only (h : Only L s0 s) (hl : [Part.gates] ⊆ L) (n : StallNo) (g : Fin 64) (v : U32) :
    Only L s0 (gatePrerollWrite n g v s) := by
  unfold gatePrerollWrite
  refine onGate_only ?_ _ _ _ ?_
  · exact h
  · intro x1
    intro x2
    intro h3
    refine State.landGate_only ?_ (List.Subset.trans (by decide) hl) _ _
    exact h3
theorem gateCtl_only (h : Only L s0 s) (hl : [Part.gates] ⊆ L) (n : StallNo) (g : Fin 64) (w : GateWrite) :
    Only L s0 (gateCtl n g w s) := by
  unfold gateCtl
  refine onGate_only ?_ _ _ _ ?_
  · exact h
  · intro x1
    intro x2
    intro h3
    refine State.landGate_only ?_ (List.Subset.trans (by decide) hl) _ _
    exact h3
theorem State.tickFires_only (h : Only L s0 s) (hl : [Part.gtb, Part.ticks, Part.outs, Part.matrix, Part.marks, Part.pf, Part.out, Part.power, Part.side] ⊆ L) (n : Nat) :
    Only L s0 (State.tickFires s n) := by
  unfold State.tickFires
  extract_lets +onlyGivenNames x1
  extract_lets +onlyGivenNames x2
  have hx2 : Only L s0 x2 := by
    unfold x2
    refine State.setTick_only ?_ (List.Subset.trans (by decide) hl) _ _
    exact h
  clear_value x2
  extract_lets +onlyGivenNames x3
  extract_lets +onlyGivenNames x4
  have hx4 : Only L s0 x4 := by
    unfold x4
    refine Only.ite ?_ ?_
    · refine Only.ite ?_ ?_
      · refine State.pfVector_only ?_ (List.Subset.trans (by decide) hl) _
        exact hx2
      · refine Only.irqLater ?_ _ (hl (by decide))
        exact hx2
    · exact hx2
  clear_value x4
  extract_lets +onlyGivenNames x5
  have hx5 : Only L s0 x5 := by
    unfold x5
    refine Only.ite ?_ ?_
    · refine State.wakePackage_only ?_ (List.Subset.trans (by decide) hl) _ _
      exact hx4
    · exact hx4
  clear_value x5
  refine State.event_only ?_ (List.Subset.trans (by decide) hl) _
  exact hx5
theorem tickChannelArm_only (h : Only L s0 s) (hl : [Part.ticks] ⊆ L) (byRtp : Bool) (n : Fin 32) :
    Only L s0 (tickChannelArm byRtp n s) := by
  unfold tickChannelArm
  refine Only.ite ?_ ?_
  · exact h
  · refine Only.ite ?_ ?_
    · exact h
    · refine State.setTick_only ?_ (List.Subset.trans (by decide) hl) _ _
      exact h
theorem tickChannelFireCatchup_only (h : Only L s0 s) (hl : [Part.gtb, Part.ticks, Part.timers, Part.outs, Part.matrix, Part.marks, Part.pf, Part.out, Part.power, Part.side] ⊆ L) (n : Fin 32) :
    Only L s0 (tickChannelFireCatchup n s) := by
  unfold tickChannelFireCatchup
  extract_lets +onlyGivenNames x1
  refine Only.ite ?_ ?_
  · extract_lets +onlyGivenNames x2
    have hx2 : Only L s0 x2 := by
      unfold x2
      refine State.advance_only ?_ (List.Subset.trans (by decide) hl) _
      exact h
    clear_value x2
    refine Only.ite ?_ ?_
    · refine State.setTick_only ?_ (List.Subset.trans (by decide) hl) _ _
      refine State.tickFires_only ?_ (List.Subset.trans (by decide) hl) _
      exact hx2
    · exact hx2
  · exact h
theorem tickChannelFireLive_only (h : Only L s0 s) (hl : [Part.gtb, Part.ticks, Part.timers, Part.outs, Part.matrix, Part.marks, Part.pf, Part.out, Part.power, Part.side] ⊆ L) (n : Fin 32) :
    Only L s0 (tickChannelFireLive n s) := by
  unfold tickChannelFireLive
  extract_lets +onlyGivenNames x1
  extract_lets +onlyGivenNames x2
  have hx2 : ∀ x2a0, Only L s0 x2a0 → Only L s0 (x2 x2a0) := by
    intro x2a0 hx20
    unfold x2
    refine State.setTick_only ?_ (List.Subset.trans (by decide) hl) _ _
    exact hx20
  clear_value x2
  refine Only.ite ?_ ?_
  · exact h
  · refine Only.ite ?_ ?_
    · extract_lets +onlyGivenNames x3
      have hx3 : Only L s0 x3 := by
        unfold x3
        refine State.advanceEdge_only ?_ (List.Subset.trans (by decide) hl) _
        exact h
      clear_value x3
      refine Only.ite ?_ ?_
      · refine hx2 _ ?_
        refine State.tickFires_only ?_ (List.Subset.trans (by decide) hl) _
        exact hx3
      · exact hx3
    · refine Only.ite ?_ ?_
      · refine hx2 _ ?_
        refine State.tickFires_only ?_ (List.Subset.trans (by decide) hl) _
        exact h
      · exact h
theorem syncInEdgeAccepted_only (h : Only L s0 s) (hl : [Part.gtb, Part.caps, Part.timers, Part.outs, Part.matrix, Part.pf, Part.out, Part.power, Part.side] ⊆ L) (n : Fin 8) (rising : Bool) (reached : U64) :
    Only L s0 (syncInEdgeAccepted n rising reached s) := by
  unfold syncInEdgeAccepted
  extract_lets +onlyGivenNames x1
  refine Only.ite ?_ ?_
  · exact h
  · extract_lets +onlyGivenNames x2
    extract_lets +onlyGivenNames x3
    have hx3 : Only L s0 x3 := by
      unfold x3
      refine State.advance_only ?_ (List.Subset.trans (by decide) hl) _
      exact h
    clear_value x3
    extract_lets +onlyGivenNames x4
    extract_lets +onlyGivenNames x5
    have hx5 : Only L s0 x5 := by
      unfold x5
      refine State.setCap_only ?_ (List.Subset.trans (by decide) hl) _ _
      exact hx3
    clear_value x5
    extract_lets +onlyGivenNames x6
    have hx6 : Only L s0 x6 := by
      unfold x6
      refine Only.ite ?_ ?_
      · refine State.pfVector_only ?_ (List.Subset.trans (by decide) hl) _
        exact hx5
      · exact hx5
    clear_value x6
    extract_lets +onlyGivenNames x7
    have hx7 : Only L s0 x7 := by
      unfold x7
      refine Only.ite ?_ ?_
      · refine State.wakePackage_only ?_ (List.Subset.trans (by decide) hl) _ _
        exact hx6
      · exact hx6
    clear_value x7
    refine State.event_only ?_ (List.Subset.trans (by decide) hl) _
    exact hx7
theorem capLoRead_only (h : Only L s0 s) (hl : [Part.pf, Part.vf, Part.rtpLat, Part.out] ⊆ L) (f : Fn) (n : Fin 8) (which : CapReg) :
    Only L s0 (capLoRead f n which s) := by
  unfold capLoRead
  extract_lets +onlyGivenNames x1
  split
  · refine State.answer_only ?_ (List.Subset.trans (by decide) hl) _ _ _
    refine State.setLat_only ?_ (List.Subset.trans (by decide) hl) _ _
    exact h
  · refine State.answer_only ?_ (List.Subset.trans (by decide) hl) _ _ _
    refine State.setLat_only ?_ (List.Subset.trans (by decide) hl) _ _
    exact h
  · refine State.answer_only ?_ (List.Subset.trans (by decide) hl) _ _ _
    refine State.setLat_only ?_ (List.Subset.trans (by decide) hl) _ _
    exact h
theorem syncInStuck_only (h : Only L s0 s) (hl : [Part.gtb, Part.caps, Part.timers, Part.outs, Part.matrix, Part.pf, Part.out] ⊆ L) (n : Fin 8) :
    Only L s0 (syncInStuck n s) := by
  unfold syncInStuck
  extract_lets +onlyGivenNames x1
  refine Only.ite ?_ ?_
  · exact h
  · extract_lets +onlyGivenNames x2
    have hx2 : Only L s0 x2 := by
      unfold x2
      refine State.advance_only ?_ (List.Subset.trans (by decide) hl) _
      exact h
    clear_value x2
    extract_lets +onlyGivenNames x3
    have hx3 : Only L s0 x3 := by
      unfold x3
      refine State.setCap_only ?_ (List.Subset.trans (by decide) hl) _ _
      exact hx2
    clear_value x3
    refine Only.ite ?_ ?_
    · refine State.pfVector_only ?_ (List.Subset.trans (by decide) hl) _
      exact hx3
    · exact hx3
theorem capStuckClear_only (h : Only L s0 s) (hl : [Part.caps] ⊆ L) (n : Fin 8) (hi : Bool) (lo : Bool) :
    Only L s0 (capStuckClear n hi lo s) := by
  unfold capStuckClear
  extract_lets +onlyGivenNames x1
  refine Only.ite ?_ ?_
  · refine State.setCap_only ?_ (List.Subset.trans (by decide) hl) _ _
    exact h
  · exact h
theorem relayTimerWrap_only (h : Only L s0 s) (hl : [Part.gtb, Part.timers, Part.outs, Part.matrix, Part.pf, Part.out] ⊆ L) (n : Fin 16) :
    Only L s0 (relayTimerWrap n s) := by
  unfold relayTimerWrap
  extract_lets +onlyGivenNames x1
  refine Only.ite ?_ ?_
  · exact h
  · refine Only.ite ?_ ?_
    · refine State.stepOn_only ?_ (List.Subset.trans (by decide) hl)
      exact h
    · refine State.advance_only ?_ (List.Subset.trans (by decide) hl) _
      exact h
theorem relayTimerMatch_only (h : Only L s0 s) (hl : [Part.gtb, Part.timers, Part.outs, Part.matrix, Part.pf, Part.out] ⊆ L) (n : Fin 16) :
    Only L s0 (relayTimerMatch n s) := by
  unfold relayTimerMatch
  extract_lets +onlyGivenNames x1
  refine Only.ite ?_ ?_
  · exact h
  · refine Only.ite ?_ ?_
    · refine State.stepOn_only ?_ (List.Subset.trans (by decide) hl)
      exact h
    · split
      · exact h
      · refine State.advance_only ?_ (List.Subset.trans (by decide) hl) _
        exact h
theorem relayTimerReset_only (h : Only L s0 s) (hl : [Part.gtb, Part.timers, Part.outs, Part.matrix, Part.pf, Part.out] ⊆ L) (n : Fin 16) :
    Only L s0 (relayTimerReset n s) := by
  unfold relayTimerReset
  extract_lets +onlyGivenNames x1
  refine Only.ite ?_ ?_
  · refine State.stepOn_only ?_ (List.Subset.trans (by decide) hl)
    exact h
  · exact h
theorem rtTrigWrite_only (h : Only L s0 s) (hl : [Part.timers] ⊆ L) (n : Fin 16) (v : U32) :
    Only L s0 (rtTrigWrite n v s) := by
  unfold rtTrigWrite
  extract_lets +onlyGivenNames x1
  refine State.setTimer_only ?_ (List.Subset.trans (by decide) hl) _ _
  exact h
theorem syncOutPulseEnd_only (h : Only L s0 s) (hl : [Part.gtb, Part.timers, Part.outs, Part.matrix, Part.pf, Part.out] ⊆ L) (n : Fin 4) :
    Only L s0 (syncOutPulseEnd n s) := by
  unfold syncOutPulseEnd
  split
  · exact h
  · refine State.setOut_only ?_ (List.Subset.trans (by decide) hl) _ _
    refine State.advance_only ?_ (List.Subset.trans (by decide) hl) _
    exact h

end Sys2Proof.Machine
end

