-- ==== Sys2Proof/Laws/CmdOps.lean ====
section
/-! SUPPORT. Machine/CmdOps.lean: what each of its operations keeps, and the parts it changes. -/

namespace Sys2Proof.Machine

variable {L : List Part} {s0 s : State}

theorem State.begin_only (h : Only L s0 s) (hl : [Part.vf, Part.out, Part.hostMem, Part.stalls, Part.hbm, Part.poison, Part.lineSlot, Part.mee, Part.sessions] ⊆ L) (q : QueueId) (op : Nat) (body : Entry → State → State) (hbody : ∀ x0 t, Only L s0 t → Only L s0 (body x0 t)) :
    Only L s0 (State.begin s q op body) := by
  unfold State.begin
  extract_lets +onlyGivenNames x1
  extract_lets +onlyGivenNames x2
  split
  · exact h
  · refine Only.ite ?_ ?_
    · refine State.finish_only ?_ (List.Subset.trans (by decide) hl) _ _ _ _ _ _
      exact h
    · refine Only.ite ?_ ?_
      · refine State.finish_only ?_ (List.Subset.trans (by decide) hl) _ _ _ _ _ _
        exact h
      · extract_lets +onlyGivenNames x3
        have hx3 : Only L s0 x3 := by
          unfold x3
          refine Only.ite ?_ ?_
          · refine State.publish_only ?_ (List.Subset.trans (by decide) hl) _ _ _ _
            exact h
          · exact h
        clear_value x3
        extract_lets +onlyGivenNames x4
        extract_lets +onlyGivenNames x5
        refine hbody _ _ ?_
        refine State.modEntry_only ?_ (List.Subset.trans (by decide) hl) _ _ _ _
        exact hx3
theorem State.passWait_only (h : Only L s0 s) (hl : [Part.stalls] ⊆ L) (n : Nat) (k : Nat) (pos : U32) (v : U64) (ref : Nat) :
    Only L s0 (State.passWait s n k pos v ref) := by
  unfold State.passWait
  refine State.modQueue_only ?_ (List.Subset.trans (by decide) hl) _ _ _
  refine State.finish_only ?_ (List.Subset.trans (by decide) hl) _ _ _ _ _ _
  exact h
theorem moveRun_only (h : Only L s0 s) (src : Source) (dst : Dest) (fin fuel t : Nat) (m : Moved)
    (hr : ∀ t n u, Only L s0 u → Only L s0 (src.read t n u).2.2) (hw : ∀ t b p u, Only L s0 u → Only L s0 (dst.write t b p u).2) :
    Only L s0 (moveRun src dst fin fuel t m s).2 := by
  induction fuel generalizing t m s with
  | zero => exact h
  | succ fuel ih =>
    unfold moveRun
    split
    · exact h
    · extract_lets n r st
      have h1 : Only L s0 r.2.2 := hr _ _ _ h
      split
      · exact h1
      · split
        · exact hw _ _ _ _ h1
        · exact ih (hw _ _ _ _ h1) _ _
theorem State.settleMove_only (h : Only L s0 s) (hl : [Part.stalls] ⊆ L) (n : StallNo) (k : Nat) (e : Entry) (total : Nat) (m : Moved) :
    Only L s0 (State.settleMove s n k e total m) := by
  unfold State.settleMove
  split
  · exact h
  · extract_lets +onlyGivenNames x1
    extract_lets +onlyGivenNames x2
    extract_lets +onlyGivenNames x3
    refine State.modEntry_only ?_ (List.Subset.trans (by decide) hl) _ _ _ _
    exact h
theorem State.transfer_only (h : Only L s0 s) (hl : [Part.vf, Part.out, Part.hostMem, Part.stalls, Part.hbm, Part.poison, Part.lineSlot, Part.mee, Part.sessions] ⊆ L) (q : QueueId) (op : Nat) (first : Entry → State → Option (Byte × Byte)) (chunk : Entry → State → State) (hchunk : ∀ x0 t, Only L s0 t → Only L s0 (chunk x0 t)) :
    Only L s0 (State.transfer s q op first chunk) := by
  unfold State.transfer
  extract_lets +onlyGivenNames x1
  extract_lets +onlyGivenNames x2
  refine Only.ite ?_ ?_
  · refine State.begin_only ?_ (List.Subset.trans (by decide) hl) _ _ _ ?_
    · exact h
    · intro x3
      intro x4
      intro h5
      split
      · refine State.modEntry_only ?_ (List.Subset.trans (by decide) hl) _ _ _ _
        exact h5
      · refine hchunk _ _ ?_
        exact h5
  · split
    · refine Only.ite ?_ ?_
      · refine hchunk _ _ ?_
        refine State.modEntry_only ?_ (List.Subset.trans (by decide) hl) _ _ _ _
        exact h
      · exact h
    · exact h

end Sys2Proof.Machine
end

