-- ==== Sys2Proof/Laws/Placement.lean ====
section
/-! SUPPORT. Machine/Placement.lean: what each of its operations keeps, and the parts it changes. -/

namespace Sys2Proof.Machine

variable {L : List Part} {s0 s : State}

theorem State.fetch_only (h : Only L s0 s) (hl : [Part.stalls, Part.hbm, Part.poison, Part.lineSlot, Part.mee] ⊆ L) (w : Who) (va : Nat) (n : Nat) (need : Nat) (page : Nat) (acc : Nat) (st : Byte × Byte) :
    Only L s0 (State.fetch s w va n need page acc st).2 := by
  unfold State.fetch
  extract_lets +onlyGivenNames x1
  have hx1 : Only L s0 x1.2 := by
    unfold x1
    refine State.readRunF_only ?_ (List.Subset.trans (by decide) hl) _ _ _ _ _ _ _
    exact h
  clear_value x1
  extract_lets +onlyGivenNames x2
  clear_value x2
  split
  · dsimp only
    exact hx1
  · dsimp only
    exact hx1
theorem State.loadKernel_only (h : Only L s0 s) (hl : [Part.stalls, Part.hbm, Part.poison, Part.lineSlot, Part.mee] ⊆ L) (w : Who) (program : Nat) (args : Nat) (argBytes : Nat) (lrd : Nat) :
    Only L s0 (State.loadKernel s w program args argBytes lrd).2 := by
  unfold State.loadKernel
  split
  · dsimp only
    refine Only.of_snd (by assumption) ?_
    refine State.fetch_only ?_ (List.Subset.trans (by decide) hl) _ _ _ _ _ _ _
    exact h
  · split
    · dsimp only
      refine Only.of_snd (by assumption) ?_
      refine State.fetch_only ?_ (List.Subset.trans (by decide) hl) _ _ _ _ _ _ _
      exact h
    · split
      · dsimp only
        refine Only.of_snd (by assumption) ?_
        refine State.fetch_only ?_ (List.Subset.trans (by decide) hl) _ _ _ _ _ _ _
        refine Only.of_snd (by assumption) ?_
        refine State.fetch_only ?_ (List.Subset.trans (by decide) hl) _ _ _ _ _ _ _
        exact h
      · split
        · dsimp only
          refine Only.of_snd (by assumption) ?_
          refine State.fetch_only ?_ (List.Subset.trans (by decide) hl) _ _ _ _ _ _ _
          refine Only.of_snd (by assumption) ?_
          refine State.fetch_only ?_ (List.Subset.trans (by decide) hl) _ _ _ _ _ _ _
          refine Only.of_snd (by assumption) ?_
          refine State.fetch_only ?_ (List.Subset.trans (by decide) hl) _ _ _ _ _ _ _
          exact h
        · extract_lets +onlyGivenNames x1
          clear_value x1
          split
          · dsimp only
            refine Only.of_snd (by assumption) ?_
            refine State.fetch_only ?_ (List.Subset.trans (by decide) hl) _ _ _ _ _ _ _
            refine Only.of_snd (by assumption) ?_
            refine State.fetch_only ?_ (List.Subset.trans (by decide) hl) _ _ _ _ _ _ _
            refine Only.of_snd (by assumption) ?_
            refine State.fetch_only ?_ (List.Subset.trans (by decide) hl) _ _ _ _ _ _ _
            exact h
          · split
            · dsimp only
              refine Only.of_snd (by assumption) ?_
              refine State.fetch_only ?_ (List.Subset.trans (by decide) hl) _ _ _ _ _ _ _
              refine Only.of_snd (by assumption) ?_
              refine State.fetch_only ?_ (List.Subset.trans (by decide) hl) _ _ _ _ _ _ _
              refine Only.of_snd (by assumption) ?_
              refine State.fetch_only ?_ (List.Subset.trans (by decide) hl) _ _ _ _ _ _ _
              refine Only.of_snd (by assumption) ?_
              refine State.fetch_only ?_ (List.Subset.trans (by decide) hl) _ _ _ _ _ _ _
              exact h
            · split
              · dsimp only
                refine Only.of_snd (by assumption) ?_
                refine State.fetch_only ?_ (List.Subset.trans (by decide) hl) _ _ _ _ _ _ _
                refine Only.of_snd (by assumption) ?_
                refine State.fetch_only ?_ (List.Subset.trans (by decide) hl) _ _ _ _ _ _ _
                refine Only.of_snd (by assumption) ?_
                refine State.fetch_only ?_ (List.Subset.trans (by decide) hl) _ _ _ _ _ _ _
                refine Only.of_snd (by assumption) ?_
                refine State.fetch_only ?_ (List.Subset.trans (by decide) hl) _ _ _ _ _ _ _
                exact h
              · split
                · dsimp only
                  refine Only.of_snd (by assumption) ?_
                  refine State.fetch_only ?_ (List.Subset.trans (by decide) hl) _ _ _ _ _ _ _
                  refine Only.of_snd (by assumption) ?_
                  refine State.fetch_only ?_ (List.Subset.trans (by decide) hl) _ _ _ _ _ _ _
                  refine Only.of_snd (by assumption) ?_
                  refine State.fetch_only ?_ (List.Subset.trans (by decide) hl) _ _ _ _ _ _ _
                  refine Only.of_snd (by assumption) ?_
                  refine State.fetch_only ?_ (List.Subset.trans (by decide) hl) _ _ _ _ _ _ _
                  refine Only.of_snd (by assumption) ?_
                  refine State.fetch_only ?_ (List.Subset.trans (by decide) hl) _ _ _ _ _ _ _
                  exact h
                · split
                  · dsimp only
                    refine Only.of_snd (by assumption) ?_
                    refine State.fetch_only ?_ (List.Subset.trans (by decide) hl) _ _ _ _ _ _ _
                    refine Only.of_snd (by assumption) ?_
                    refine State.fetch_only ?_ (List.Subset.trans (by decide) hl) _ _ _ _ _ _ _
                    refine Only.of_snd (by assumption) ?_
                    refine State.fetch_only ?_ (List.Subset.trans (by decide) hl) _ _ _ _ _ _ _
                    refine Only.of_snd (by assumption) ?_
                    refine State.fetch_only ?_ (List.Subset.trans (by decide) hl) _ _ _ _ _ _ _
                    refine Only.of_snd (by assumption) ?_
                    refine State.fetch_only ?_ (List.Subset.trans (by decide) hl) _ _ _ _ _ _ _
                    exact h
                  · dsimp only
                    refine Only.of_snd (by assumption) ?_
                    refine State.fetch_only ?_ (List.Subset.trans (by decide) hl) _ _ _ _ _ _ _
                    refine Only.of_snd (by assumption) ?_
                    refine State.fetch_only ?_ (List.Subset.trans (by decide) hl) _ _ _ _ _ _ _
                    refine Only.of_snd (by assumption) ?_
                    refine State.fetch_only ?_ (List.Subset.trans (by decide) hl) _ _ _ _ _ _ _
                    refine Only.of_snd (by assumption) ?_
                    refine State.fetch_only ?_ (List.Subset.trans (by decide) hl) _ _ _ _ _ _ _
                    refine Only.of_snd (by assumption) ?_
                    refine State.fetch_only ?_ (List.Subset.trans (by decide) hl) _ _ _ _ _ _ _
                    exact h
theorem State.measureProgram_only (h : Only L s0 s) (hl : [Part.stalls] ⊆ L) (n : Nat) (c : Nat) (d : BitVec 384) :
    Only L s0 (State.measureProgram s n c d) := by
  unfold State.measureProgram
  split
  · exact h
  · refine Only.ite ?_ ?_
    · exact h
    · refine State.logAppend_only ?_ (List.Subset.trans (by decide) hl) _ _ _ _ _
      exact h
theorem State.startLaunch_only (h : Only L s0 s) (hl : [Part.stalls, Part.hbm, Part.poison, Part.lineSlot, Part.mee] ⊆ L) (n : StallNo) (k : Nat) (e : Entry) (x : Nat) (y : Nat) (z : Nat) :
    Only L s0 (State.startLaunch s n k e x y z) := by
  unfold State.startLaunch
  extract_lets +onlyGivenNames x1
  have hx1 : Only L s0 x1.2 := by
    unfold x1
    refine State.loadKernel_only ?_ (List.Subset.trans (by decide) hl) _ _ _ _ _
    exact h
  clear_value x1
  split
  · refine State.modEntry_only ?_ (List.Subset.trans (by decide) hl) _ _ _ _
    exact hx1
  · extract_lets +onlyGivenNames x2
    have hx2 : Only L s0 x2 := by
      unfold x2
      refine State.measureProgram_only ?_ (List.Subset.trans (by decide) hl) _ _ _
      exact hx1
    clear_value x2
    extract_lets +onlyGivenNames x3
    extract_lets +onlyGivenNames x4
    have hx4 : Only L s0 x4 := by
      unfold x4
      refine State.modEntry_only ?_ (List.Subset.trans (by decide) hl) _ _ _ _
      exact hx2
    clear_value x4
    refine State.modStall_only ?_ (List.Subset.trans (by decide) hl) _ _
    exact hx4
theorem launchCmd_only (h : Only L s0 s) (hl : [Part.vf, Part.out, Part.hostMem, Part.stalls, Part.hbm, Part.poison, Part.lineSlot, Part.mee, Part.sessions] ⊆ L) (q : QueueId) :
    Only L s0 (launchCmd q s) := by
  unfold launchCmd
  refine State.begin_only ?_ (List.Subset.trans (by decide) hl) _ _ _ ?_
  · exact h
  · intro x1
    intro x2
    intro h3
    refine State.startLaunch_only ?_ (List.Subset.trans (by decide) hl) _ _ _ _ _ _
    exact h3
theorem launchIndirect_only (h : Only L s0 s) (hl : [Part.vf, Part.out, Part.hostMem, Part.stalls, Part.hbm, Part.poison, Part.lineSlot, Part.mee, Part.sessions] ⊆ L) (q : QueueId) :
    Only L s0 (launchIndirect q s) := by
  unfold launchIndirect
  refine State.begin_only ?_ (List.Subset.trans (by decide) hl) _ _ _ ?_
  · exact h
  · intro x1
    intro x2
    intro h3
    extract_lets +onlyGivenNames x4
    clear_value x4
    extract_lets +onlyGivenNames x5
    clear_value x5
    split
    · refine State.finish_only ?_ (List.Subset.trans (by decide) hl) _ _ _ _ _ _
      refine Only.of_snd (by assumption) ?_
      refine State.fetch_only ?_ (List.Subset.trans (by decide) hl) _ _ _ _ _ _ _
      exact h3
    · refine Only.ite ?_ ?_
      · refine State.modEntry_only ?_ (List.Subset.trans (by decide) hl) _ _ _ _
        refine Only.of_snd (by assumption) ?_
        refine State.fetch_only ?_ (List.Subset.trans (by decide) hl) _ _ _ _ _ _ _
        exact h3
      · refine State.startLaunch_only ?_ (List.Subset.trans (by decide) hl) _ _ _ _ _ _
        refine Only.of_snd (by assumption) ?_
        refine State.fetch_only ?_ (List.Subset.trans (by decide) hl) _ _ _ _ _ _ _
        exact h3
theorem State.restoreTask_only (h : Only L s0 s) (hl : [Part.stalls, Part.hbm, Part.poison, Part.lineSlot, Part.mee] ⊆ L) (l : Launch) (slot : Nat) (pc : U32) (w : Who) :
    Only L s0 (State.restoreTask s l slot pc w).2 := by
  unfold State.restoreTask
  split
  · dsimp only
    exact h
  · extract_lets +onlyGivenNames x1
    extract_lets +onlyGivenNames x2
    have hx2 : Only L s0 x2.2 := by
      unfold x2
      refine State.readRun_only ?_ (List.Subset.trans (by decide) hl) _ _ _ _
      exact h
    clear_value x2
    dsimp only
    exact hx2
theorem State.launchOver_only (h : Only L s0 s) (hl : [Part.stalls] ⊆ L) (n : StallNo) (k : Nat) (pos : U32) :
    Only L s0 (State.launchOver s n k pos) := by
  unfold State.launchOver
  split
  · exact h
  · refine Only.ite ?_ ?_
    · exact h
    · extract_lets +onlyGivenNames x1
      have hx1 : Only L s0 x1 := by
        unfold x1
        refine State.modStall_only ?_ (List.Subset.trans (by decide) hl) _ _
        exact h
      clear_value x1
      refine State.modEntry_only ?_ (List.Subset.trans (by decide) hl) _ _ _ _
      exact hx1
theorem State.stopLaunch_only (h : Only L s0 s) (hl : [Part.stalls] ⊆ L) (n : StallNo) (k : Nat) (pos : U32) (m : Met) (write : Bool) :
    Only L s0 (State.stopLaunch s n k pos m write) := by
  unfold State.stopLaunch
  extract_lets +onlyGivenNames x1
  have hx1 : Only L s0 x1 := by
    unfold x1
    refine State.modEntry_only ?_ (List.Subset.trans (by decide) hl) _ _ _ _
    exact h
  clear_value x1
  refine Only.ite ?_ ?_
  · refine State.modStall_only ?_ (List.Subset.trans (by decide) hl) _ _
    exact hx1
  · exact hx1
theorem State.placeOne_only (h : Only L s0 s) (hl : [Part.clusters, Part.stalls, Part.hbm, Part.poison, Part.lineSlot, Part.mee, Part.power] ⊆ L) (n : StallNo) (a2 : Stall) (k : Nat) (c : Nat) (l : Launch) :
    Only L s0 (State.placeOne s n a2 k c l) := by
  unfold State.placeOne
  split
  · exact h
  · extract_lets +onlyGivenNames x1
    extract_lets +onlyGivenNames x2
    split
    extract_lets +onlyGivenNames x3
    have hx3 : Only L s0 x3 := by
      unfold x3
      refine State.modStall_only ?_ (List.Subset.trans (by decide) hl) _ _
      exact h
    clear_value x3
    extract_lets +onlyGivenNames x4
    have hx4 : Only L s0 x4.2 := by
      unfold x4
      split
      · dsimp only
        exact hx3
      · refine State.restoreTask_only ?_ (List.Subset.trans (by decide) hl) _ _ _ _
        exact hx3
    clear_value x4
    split
    · refine State.launchOver_only ?_ (List.Subset.trans (by decide) hl) _ _ _
      refine State.stopLaunch_only ?_ (List.Subset.trans (by decide) hl) _ _ _ _ _
      exact hx4
    · extract_lets +onlyGivenNames x5
      have hx5 : Only L s0 x5.1 := by
        unfold x5
        refine State.occupy_only ?_ (List.Subset.trans (by decide) hl) _
        exact hx4
      clear_value x5
      extract_lets +onlyGivenNames x6
      have hx6 : Only L s0 x6 := by
        unfold x6
        refine State.setCluster_only ?_ (List.Subset.trans (by decide) hl) _ _
        exact hx5
      clear_value x6
      extract_lets +onlyGivenNames x7
      have hx7 : Only L s0 x7 := by
        unfold x7
        refine State.modStall_only ?_ (List.Subset.trans (by decide) hl) _ _
        exact hx6
      clear_value x7
      refine State.modEntry_only ?_ (List.Subset.trans (by decide) hl) _ _ _ _
      exact hx7
theorem State.placeLoop_only (h : Only L s0 s) (hl : [Part.clusters, Part.stalls, Part.hbm, Part.poison, Part.lineSlot, Part.mee, Part.power] ⊆ L) (n : StallNo) (p : Nat → Bool) (a2 : Nat) (a3 : Bool) :
    Only L s0 (State.placeLoop n p a2 a3 s).2 := by
  induction a2 generalizing s a3 with
  | zero =>
    exact h
  | succ m ih =>
    unfold State.placeLoop
    split
    · dsimp only
      exact h
    · extract_lets +onlyGivenNames x1
      extract_lets +onlyGivenNames x2
      split
      · dsimp only
        exact h
      · split
        · dsimp only
          exact h
        · split
          · refine ih ?_ _
            refine State.modStall_only ?_ (List.Subset.trans (by decide) hl) _ _
            exact h
          · split
            · dsimp only
              exact h
            · split
              · dsimp only
                exact h
              · refine ih ?_ _
                refine State.placeOne_only ?_ (List.Subset.trans (by decide) hl) _ _ _ _ _
                exact h
theorem State.noteWaits_only (h : Only L s0 s) (hl : [Part.stalls] ⊆ L) (n : StallNo) :
    Only L s0 (State.noteWaits s n) := by
  unfold State.noteWaits
  split
  · exact h
  · extract_lets +onlyGivenNames x1
    extract_lets +onlyGivenNames x2
    extract_lets +onlyGivenNames x3
    refine State.setStall_only ?_ (List.Subset.trans (by decide) hl) _ _
    exact h
theorem taskPlace_only (h : Only L s0 s) (hl : [Part.clusters, Part.stalls, Part.hbm, Part.poison, Part.lineSlot, Part.mee, Part.power] ⊆ L) (n : StallNo) :
    Only L s0 (taskPlace n s) := by
  unfold taskPlace
  refine State.noteWaits_only ?_ (List.Subset.trans (by decide) hl) _
  refine State.placeLoop_only ?_ (List.Subset.trans (by decide) hl) _ _ _ _
  exact h
theorem State.taskWrites_only (h : Only L s0 s) (hl : [Part.stalls, Part.hbm, Part.poison, Part.lineSlot, Part.mee] ⊆ L) (n : StallNo) (k : Nat) (e : Entry) (poisoned : Bool) (a5 : List (Nat × List Byte)) :
    Only L s0 (State.taskWrites s n k e poisoned a5) := by
  induction a5 generalizing s with
  | nil =>
    exact h
  | cons y ys ih =>
    unfold State.taskWrites
    extract_lets +onlyGivenNames x1
    have hx1 : Only L s0 x1.2 := by
      unfold x1
      refine State.writeRun_only ?_ (List.Subset.trans (by decide) hl) _ _ _ _ _
      exact h
    clear_value x1
    extract_lets +onlyGivenNames x2
    have hx2 : Only L s0 x2 := by
      unfold x2
      refine foldl_only ?_ _ _ ?_
      · exact hx1
      · intro x3
        intro x4
        intro h5
        refine State.stopLaunch_only ?_ (List.Subset.trans (by decide) hl) _ _ _ _ _
        exact h5
    clear_value x2
    refine Only.ite ?_ ?_
    · exact hx2
    · refine ih ?_
      exact hx2
theorem taskEnd_only (h : Only L s0 s) (hl : [Part.gtb, Part.timers, Part.outs, Part.matrix, Part.pf, Part.out, Part.clusters, Part.stalls, Part.hbm, Part.poison, Part.lineSlot, Part.mee, Part.power] ⊆ L) (c : Fin 512) (writes : List (Nat × List Byte)) (how : TaskEnd) :
    Only L s0 (taskEnd c writes how s) := by
  unfold taskEnd
  split
  · exact h
  · split
    · exact h
    · extract_lets +onlyGivenNames x1
      have hx1 : Only L s0 x1 := by
        unfold x1
        refine State.advance_only ?_ (List.Subset.trans (by decide) hl) _
        exact h
      clear_value x1
      extract_lets +onlyGivenNames x2
      extract_lets +onlyGivenNames x3
      have hx3 : Only L s0 x3 := by
        unfold x3
        refine Only.ite ?_ ?_
        · exact hx1
        · refine State.modEntry_only ?_ (List.Subset.trans (by decide) hl) _ _ _ _
          exact hx1
      clear_value x3
      extract_lets +onlyGivenNames x4
      have hx4 : Only L s0 x4 := by
        unfold x4
        refine State.taskWrites_only ?_ (List.Subset.trans (by decide) hl) _ _ _ _ _
        exact hx3
      clear_value x4
      extract_lets +onlyGivenNames x5
      extract_lets +onlyGivenNames x6
      have hx6 : Only L s0 x6 := by
        unfold x6
        split
        · exact hx4
        · refine State.stopLaunch_only ?_ (List.Subset.trans (by decide) hl) _ _ _ _ _
          exact hx4
        · refine State.stopLaunch_only ?_ (List.Subset.trans (by decide) hl) _ _ _ _ _
          exact hx4
        · refine State.stopLaunch_only ?_ (List.Subset.trans (by decide) hl) _ _ _ _ _
          exact hx4
      clear_value x6
      extract_lets +onlyGivenNames x7
      extract_lets +onlyGivenNames x8
      have hx8 : Only L s0 x8 := by
        unfold x8
        refine State.modStall_only ?_ (List.Subset.trans (by decide) hl) _ _
        exact hx6
      clear_value x8
      refine State.noteWaits_only ?_ (List.Subset.trans (by decide) hl) _
      refine State.launchOver_only ?_ (List.Subset.trans (by decide) hl) _ _ _
      refine State.freeCluster_only ?_ (List.Subset.trans (by decide) hl) _ _ _
      exact hx8
theorem State.unplace_only (h : Only L s0 s) (hl : [Part.clusters, Part.stalls, Part.power] ⊆ L) (n : StallNo) (l : Launch) (r : RunTask) :
    Only L s0 (State.unplace s n l r) := by
  unfold State.unplace
  extract_lets +onlyGivenNames x1
  have hx1 : Only L s0 x1 := by
    unfold x1
    refine State.modStall_only ?_ (List.Subset.trans (by decide) hl) _ _
    exact h
  clear_value x1
  extract_lets +onlyGivenNames x2
  extract_lets +onlyGivenNames x3
  have hx3 : Only L s0 x3 := by
    unfold x3
    refine State.modEntry_only ?_ (List.Subset.trans (by decide) hl) _ _ _ _
    exact hx1
  clear_value x3
  refine State.launchOver_only ?_ (List.Subset.trans (by decide) hl) _ _ _
  refine State.freeCluster_only ?_ (List.Subset.trans (by decide) hl) _ _ _
  exact hx3
theorem taskSafePointStop_only (h : Only L s0 s) (hl : [Part.clusters, Part.stalls, Part.hbm, Part.poison, Part.lineSlot, Part.mee, Part.power] ⊆ L) (c : Fin 512) (pc : U32) (core : List Byte) (ranges : List Byte) :
    Only L s0 (taskSafePointStop c pc core ranges s) := by
  unfold taskSafePointStop
  split
  · exact h
  · refine Only.ite ?_ ?_
    · exact h
    · refine Only.ite ?_ ?_
      · exact State.unplace_only h (List.Subset.trans (by decide) hl) _ _ _
      · split
        · split
          · exact h
          · extract_lets +onlyGivenNames x1
            extract_lets +onlyGivenNames x2
            extract_lets +onlyGivenNames x3
            extract_lets +onlyGivenNames x4
            extract_lets +onlyGivenNames x5
            extract_lets +onlyGivenNames x6
            have hx6 : Only L s0 x6 := by
              unfold x6
              refine State.modEntry_only ?_ (List.Subset.trans (by decide) hl) _ _ _ _
              exact h
            clear_value x6
            extract_lets +onlyGivenNames x7
            have hx7 : Only L s0 x7 := by
              unfold x7
              refine State.taskWrites_only ?_ (List.Subset.trans (by decide) hl) _ _ _ _ _
              exact hx6
            clear_value x7
            extract_lets +onlyGivenNames x8
            have hx8 : Only L s0 x8 := by
              unfold x8
              refine State.modStall_only ?_ (List.Subset.trans (by decide) hl) _ _
              exact hx7
            clear_value x8
            refine State.launchOver_only ?_ (List.Subset.trans (by decide) hl) _ _ _
            refine State.freeCluster_only ?_ (List.Subset.trans (by decide) hl) _ _ _
            exact hx8
        · exact h
theorem safeHint_only (h : Only L s0 s) (hl : [Part.vf, Part.out, Part.hostMem, Part.clusters, Part.stalls, Part.hbm, Part.poison, Part.lineSlot, Part.mee, Part.power, Part.sessions] ⊆ L) (q : QueueId) :
    Only L s0 (safeHint q s) := by
  unfold safeHint
  extract_lets +onlyGivenNames x1
  clear_value x1
  extract_lets +onlyGivenNames x2
  clear_value x2
  extract_lets +onlyGivenNames x3
  clear_value x3
  extract_lets +onlyGivenNames x4
  clear_value x4
  extract_lets +onlyGivenNames x5
  have hx5 : ∀ x5a0 x5a1, Only L s0 x5a1 → Only L s0 (x5 x5a0 x5a1) := by
    intro x5a0 x5a1 hx50
    unfold x5
    refine State.modCtx_only ?_ (List.Subset.trans (by decide) hl) _ _ _
    exact hx50
  clear_value x5
  extract_lets +onlyGivenNames x6
  clear_value x6
  extract_lets +onlyGivenNames x7
  have hx7 : Only L s0 x7 := by
    unfold x7
    refine hx5 _ _ ?_
    exact h
  clear_value x7
  extract_lets +onlyGivenNames x8
  have hx8 : Only L s0 x8 := by
    unfold x8
    refine State.begin_only ?_ (List.Subset.trans (by decide) hl) _ _ _ ?_
    · exact hx7
    · intro x9
      intro x10
      intro h11
      extract_lets +onlyGivenNames x12
      have hx12 : Only L s0 x12.2 := by
        unfold x12
        split
        · refine State.placeLoop_only ?_ (List.Subset.trans (by decide) hl) _ _ _ _
          exact h11
        · dsimp only
          exact h11
      clear_value x12
      refine State.finish_only ?_ (List.Subset.trans (by decide) hl) _ _ _ _ _ _
      exact hx12
  clear_value x8
  split
  · exact hx8
  · refine State.modCtx_only ?_ (List.Subset.trans (by decide) hl) _ _ _
    exact hx8
theorem contextStopped_only (h : Only L s0 s) (hl : [Part.stalls] ⊆ L) (c : CtxId) :
    Only L s0 (contextStopped c s) := by
  unfold contextStopped
  split
  · exact h
  · extract_lets +onlyGivenNames x1
    refine Only.ite ?_ ?_
    · refine State.modCtx_only ?_ (List.Subset.trans (by decide) hl) _ _ _
      exact h
    · exact h
theorem preemptLimitExpiry_only (h : Only L s0 s) (hl : [Part.gtb, Part.timers, Part.outs, Part.matrix, Part.pf, Part.vf, Part.history, Part.out, Part.hostMem, Part.clusters, Part.stalls, Part.hbm, Part.poison, Part.lineSlot, Part.mee, Part.power, Part.tl, Part.sessions] ⊆ L) (c : CtxId) :
    Only L s0 (preemptLimitExpiry c s) := by
  unfold preemptLimitExpiry
  split
  · exact h
  · split
    · exact h
    · refine Only.ite ?_ ?_
      · exact h
      · extract_lets +onlyGivenNames x1
        have hx1 : Only L s0 x1 := by
          unfold x1
          refine State.advance_only ?_ (List.Subset.trans (by decide) hl) _
          exact h
        clear_value x1
        refine State.modCtx_only ?_ (List.Subset.trans (by decide) hl) _ _ _
        refine State.refusePreempt_only ?_ (List.Subset.trans (by decide) hl) _ _
        exact hx1
theorem ctxSliceExpiry_only (h : Only L s0 s) (hl : [Part.gtb, Part.timers, Part.outs, Part.matrix, Part.pf, Part.out, Part.stalls] ⊆ L) (n : StallNo) :
    Only L s0 (ctxSliceExpiry n s) := by
  unfold ctxSliceExpiry
  split
  · exact h
  · extract_lets +onlyGivenNames x1
    clear_value x1
    extract_lets +onlyGivenNames x2
    clear_value x2
    split
    · exact h
    · refine Only.ite ?_ ?_
      · exact h
      · extract_lets +onlyGivenNames x3
        have hx3 : Only L s0 x3 := by
          unfold x3
          refine State.advance_only ?_ (List.Subset.trans (by decide) hl) _
          exact h
        clear_value x3
        extract_lets +onlyGivenNames x4
        clear_value x4
        extract_lets +onlyGivenNames x5
        clear_value x5
        split
        · exact hx3
        · extract_lets +onlyGivenNames x6
          clear_value x6
          refine State.modCtx_only ?_ (List.Subset.trans (by decide) hl) _ _ _
          exact hx3
theorem rotSliceExpiry_only (h : Only L s0 s) (hl : [Part.gtb, Part.timers, Part.outs, Part.matrix, Part.pf, Part.out, Part.stalls] ⊆ L) (n : StallNo) :
    Only L s0 (rotSliceExpiry n s) := by
  unfold rotSliceExpiry
  split
  · exact h
  · refine Only.ite ?_ ?_
    · exact h
    · split
      · split
        · exact h
        · refine State.setStall_only ?_ (List.Subset.trans (by decide) hl) _ _
          exact h
      · split
        · exact h
        · refine Only.ite ?_ ?_
          · exact h
          · extract_lets +onlyGivenNames x1
            have hx1 : Only L s0 x1 := by
              unfold x1
              refine Only.ite ?_ ?_
              · exact h
              · refine State.advance_only ?_ (List.Subset.trans (by decide) hl) _
                exact h
            clear_value x1
            refine State.modStall_only ?_ (List.Subset.trans (by decide) hl) _ _
            exact hx1
theorem tenantResident_only (h : Only L s0 s) (hl : [Part.stalls] ⊆ L) (n : StallNo) :
    Only L s0 (tenantResident n s) := by
  unfold tenantResident
  split
  · exact h
  · split
    · refine Only.ite ?_ ?_
      · exact h
      · extract_lets +onlyGivenNames x1
        refine State.setStall_only ?_ (List.Subset.trans (by decide) hl) _ _
        exact h
    · exact h
theorem schedSet_only (h : Only L s0 s) (hl : [Part.gtb, Part.pf, Part.vf, Part.history, Part.out, Part.stalls, Part.power, Part.side] ⊆ L) (m : Req) :
    Only L s0 (schedSet m s) := by
  unfold schedSet
  extract_lets +onlyGivenNames x1
  extract_lets +onlyGivenNames x2
  refine State.mbServeA_only ?_ (List.Subset.trans (by decide) hl) _ _ _ ?_
  · exact h
  · intro x3
    intro h4
    split
    · dsimp only
      exact h4
    · extract_lets +onlyGivenNames x6
      extract_lets +onlyGivenNames x7
      dsimp only
      refine State.setStall_only ?_ (List.Subset.trans (by decide) hl) _ _
      exact h4
theorem schedStat_only (h : Only L s0 s) (hl : [Part.gtb, Part.pf, Part.vf, Part.history, Part.out, Part.power, Part.side] ⊆ L) (m : Req) :
    Only L s0 (schedStat m s) := by
  unfold schedStat
  extract_lets +onlyGivenNames x1
  clear_value x1
  refine State.mbServeA_only ?_ (List.Subset.trans (by decide) hl) _ _ _ ?_
  · exact h
  · intro x2
    intro h3
    split
    · dsimp only
      exact h3
    · extract_lets +onlyGivenNames x4
      clear_value x4
      dsimp only
      exact h3
theorem State.holdQueues_only (h : Only L s0 s) (hl : [Part.vf, Part.out, Part.hostMem, Part.stalls, Part.hbm, Part.poison, Part.lineSlot, Part.mee, Part.sessions] ⊆ L) (n : StallNo) (c : Nat) (a3 : Bool) :
    Only L s0 (State.holdQueues s n c a3) := by
  unfold State.holdQueues
  split
  · exact h
  · refine forAll_only ?_ _ _ ?_
    · exact h
    · intro x1
      intro x2
      intro h3
      split
      · exact h3
      · refine Only.ite ?_ ?_
        · refine State.publish_only ?_ (List.Subset.trans (by decide) hl) _ _ _ _
          exact h3
        · refine State.modQueue_only ?_ (List.Subset.trans (by decide) hl) _ _ _
          exact h3
theorem ctxKill_only (h : Only L s0 s) (hl : [Part.gtb, Part.pf, Part.vf, Part.history, Part.out, Part.hostMem, Part.clusters, Part.stalls, Part.hbm, Part.poison, Part.lineSlot, Part.mee, Part.power, Part.tl, Part.side, Part.sessions] ⊆ L) (m : Req) :
    Only L s0 (ctxKill m s) := by
  unfold ctxKill
  extract_lets +onlyGivenNames x1
  clear_value x1
  refine State.mbServe_only ?_ (List.Subset.trans (by decide) hl) _ _ _ ?_
  · exact h
  · intro x2
    intro h3
    extract_lets +onlyGivenNames x4
    clear_value x4
    extract_lets +onlyGivenNames x5
    clear_value x5
    refine Only.dite ?_ ?_
    · intro x6
      split
      · refine State.mbAnswer_only ?_ (List.Subset.trans (by decide) hl) _ _ _
        exact h3
      · split
        · refine State.modStall_only ?_ (List.Subset.trans (by decide) hl) _ _
          exact h3
        · extract_lets +onlyGivenNames x7
          have hx7 : Only L s0 x7 := by
            unfold x7
            refine State.modStall_only ?_ (List.Subset.trans (by decide) hl) _ _
            exact h3
          clear_value x7
          extract_lets +onlyGivenNames x8
          have hx8 : Only L s0 x8 := by
            unfold x8
            refine State.modCtx_only ?_ (List.Subset.trans (by decide) hl) _ _ _
            exact hx7
          clear_value x8
          extract_lets +onlyGivenNames x9
          have hx9 : Only L s0 x9 := by
            unfold x9
            refine State.holdQueues_only ?_ (List.Subset.trans (by decide) hl) _ _ _
            exact hx8
          clear_value x9
          refine State.modStall_only ?_ (List.Subset.trans (by decide) hl) _ _
          refine State.killCtx_only ?_ (List.Subset.trans (by decide) hl) _ _ _
          exact hx9
    · intro x10
      refine State.mbAnswer_only ?_ (List.Subset.trans (by decide) hl) _ _ _
      exact h3
theorem memClear_only (h : Only L s0 s) (hl : [Part.gtb, Part.pf, Part.vf, Part.history, Part.out, Part.stalls, Part.power, Part.side] ⊆ L) (m : Req) :
    Only L s0 (memClear m s) := by
  unfold memClear
  extract_lets +onlyGivenNames x1
  clear_value x1
  refine State.mbServe_only ?_ (List.Subset.trans (by decide) hl) _ _ _ ?_
  · exact h
  · intro x2
    intro h3
    extract_lets +onlyGivenNames x4
    clear_value x4
    extract_lets +onlyGivenNames x5
    clear_value x5
    split
    · refine State.mbAnswer_only ?_ (List.Subset.trans (by decide) hl) _ _ _
      exact h3
    · refine Only.ite ?_ ?_
      · refine State.mbAnswer_only ?_ (List.Subset.trans (by decide) hl) _ _ _
        exact h3
      · refine Only.ite ?_ ?_
        · refine State.mbAnswer_only ?_ (List.Subset.trans (by decide) hl) _ _ _
          exact h3
        · refine Only.ite ?_ ?_
          · refine State.mbAnswer_only ?_ (List.Subset.trans (by decide) hl) _ _ _
            exact h3
          · refine State.setStall_only ?_ (List.Subset.trans (by decide) hl) _ _
            exact h3
theorem State.clearLine_only (h : Only L s0 s) (hl : [Part.stalls, Part.hbm, Part.poison, Part.lineSlot, Part.mee] ⊆ L) (n : Nat) (a2 : Stall) (key : Nat) (o : Nat) :
    Only L s0 (State.clearLine s n a2 key o).2 := by
  unfold State.clearLine
  split
  · extract_lets +onlyGivenNames x1
    have hx1 : Only L s0 x1 := by
      unfold x1
      refine Only.ite ?_ ?_
      · refine State.countMulti_only ?_ (List.Subset.trans (by decide) hl) _ _
        exact h
      · exact h
    clear_value x1
    split
    · dsimp only
      refine State.lineWrite_only ?_ (List.Subset.trans (by decide) hl) _ _ _ _
      exact hx1
    · dsimp only
      exact hx1
  · dsimp only
    exact h
theorem memClearDone_only (h : Only L s0 s) (hl : [Part.pf, Part.vf, Part.history, Part.out, Part.stalls, Part.hbm, Part.poison, Part.lineSlot, Part.mee] ⊆ L) (n : StallNo) :
    Only L s0 (memClearDone n s) := by
  unfold memClearDone
  split
  · exact h
  · split
    · exact h
    · extract_lets +onlyGivenNames x1
      have hx1 : ∀ x1a0 x1a1, Only L s0 x1a0.2 → Only L s0 (x1 x1a0 x1a1).2 := by
        intro x1a0 x1a1 hx10
        unfold x1
        extract_lets +onlyGivenNames x2
        have hx2 : Only L s0 x2.2 := by
          unfold x2
          refine State.clearLine_only ?_ (List.Subset.trans (by decide) hl) _ _ _ _
          exact hx10
        clear_value x2
        dsimp only
        exact hx2
      clear_value x1
      extract_lets +onlyGivenNames x3
      have hx3 : Only L s0 x3.2 := by
        unfold x3
        refine foldl_only2 ?_ _ _ ?_
        · dsimp only
          exact h
        · intro x4
          intro x5
          intro h6
          refine hx1 _ _ ?_
          exact h6
      clear_value x3
      refine State.mbAnswer_only ?_ (List.Subset.trans (by decide) hl) _ _ _
      refine State.modStall_only ?_ (List.Subset.trans (by decide) hl) _ _
      exact hx3

end Sys2Proof.Machine
end

