-- ==== Sys2Proof/Laws/PlanFmt.lean ====
section
/-! SUPPORT. Machine/PlanFmt.lean: what each of its operations keeps, and the parts it changes. -/

namespace Sys2Proof.Machine

variable {L : List Part} {s0 s : State}

theorem State.markShort_only (h : Only L s0 s) (hl : [Part.rg] ⊆ L) :
    Only L s0 (State.markShort s) := by
  unfold State.markShort
  refine Only.rg ?_ _ (hl (by decide))
  exact h
theorem State.clearShort_only (h : Only L s0 s) (hl : [Part.rg] ⊆ L) :
    Only L s0 (State.clearShort s) := by
  unfold State.clearShort
  refine Only.ite ?_ ?_
  · refine Only.rg ?_ _ (hl (by decide))
    exact h
  · exact h

end Sys2Proof.Machine
end

