-- ==== Sys2Proof/Laws/RecoveryOps.lean ====
section
/-! SUPPORT. Machine/RecoveryOps.lean: what each of its operations keeps, and the parts it changes. -/

namespace Sys2Proof.Machine

variable {L : List Part} {s0 s : State}

theorem State.lapseBorrow_only (h : Only L s0 s) (hl : [Part.vf, Part.out, Part.hostMem, Part.stalls, Part.hbm, Part.poison, Part.lineSlot, Part.mee, Part.sessions] ⊆ L) (n : StallNo) (b : Nat) :
    Only L s0 (State.lapseBorrow s n b) := by
  unfold State.lapseBorrow
  extract_lets +onlyGivenNames x1
  have hx1 : Only L s0 x1 := by
    unfold x1
    refine State.drvFail_only ?_ (List.Subset.trans (by decide) hl) _ _ _
    exact h
  clear_value x1
  refine State.modDrover_only ?_ (List.Subset.trans (by decide) hl) _ _
  exact hx1
theorem State.loseLink_only (h : Only L s0 s) (hl : [Part.pf, Part.vf, Part.history, Part.out, Part.hostMem, Part.stalls, Part.hbm, Part.poison, Part.lineSlot, Part.mee, Part.tl, Part.sessions] ⊆ L) (n : StallNo) (p : Nat) :
    Only L s0 (State.loseLink s n p) := by
  unfold State.loseLink
  split
  · exact h
  · extract_lets +onlyGivenNames x1
    have hx1 : Only L s0 x1 := by
      unfold x1
      refine forAll_only ?_ _ _ ?_
      · exact h
      · intro x2
        intro x3
        intro h4
        refine State.relayEnd_only ?_ (List.Subset.trans (by decide) hl) _ _ _ _ _
        exact h4
    clear_value x1
    extract_lets +onlyGivenNames x5
    have hx5 : Only L s0 x5 := by
      unfold x5
      refine State.modRelay_only ?_ (List.Subset.trans (by decide) hl) _ _
      exact hx1
    clear_value x5
    extract_lets +onlyGivenNames x6
    have hx6 : Only L s0 x6 := by
      unfold x6
      refine forAll_only ?_ _ _ ?_
      · exact hx5
      · intro x7
        intro x8
        intro h9
        refine State.lapseBorrow_only ?_ (List.Subset.trans (by decide) hl) _ _
        exact h9
    clear_value x6
    extract_lets +onlyGivenNames x10
    have hx10 : Only L s0 x10 := by
      unfold x10
      refine forAll_only ?_ _ _ ?_
      · exact hx6
      · intro x11
        intro x12
        intro h13
        refine State.mbAnswer_only ?_ (List.Subset.trans (by decide) hl) _ _ _
        exact h13
    clear_value x10
    extract_lets +onlyGivenNames x14
    have hx14 : Only L s0 x14 := by
      unfold x14
      refine State.modDrover_only ?_ (List.Subset.trans (by decide) hl) _ _
      exact hx10
    clear_value x14
    refine State.settleExports_only ?_ (List.Subset.trans (by decide) hl) _
    refine State.commitAll_only ?_ (List.Subset.trans (by decide) hl) _
    exact hx14
theorem State.shutPort_only (h : Only L s0 s) (hl : [Part.gtb, Part.pf, Part.vf, Part.history, Part.out, Part.hostMem, Part.stalls, Part.hbm, Part.poison, Part.lineSlot, Part.mee, Part.tl, Part.sessions] ⊆ L) (p : Nat) :
    Only L s0 (State.shutPort s p) := by
  unfold State.shutPort
  refine Only.ite ?_ ?_
  · exact h
  · extract_lets +onlyGivenNames x1
    have hx1 : Only L s0 x1 := by
      unfold x1
      refine State.tlEvt_only ?_ (List.Subset.trans (by decide) hl) _
      refine State.setTlp_only ?_ (List.Subset.trans (by decide) hl) _ _
      exact h
    clear_value x1
    refine State.chooseMaster_only ?_ (List.Subset.trans (by decide) hl)
    refine forAll_only ?_ _ _ ?_
    · exact hx1
    · intro x2
      intro x3
      intro h4
      refine State.loseLink_only ?_ (List.Subset.trans (by decide) hl) _ _
      exact h4
theorem State.retireComponent_only (h : Only L s0 s) (hl : [Part.pkg, Part.gtb, Part.pf, Part.vf, Part.history, Part.out, Part.hostMem, Part.stalls, Part.hbm, Part.poison, Part.lineSlot, Part.mee, Part.prot, Part.power, Part.rg, Part.tl, Part.sessions, Part.free] ⊆ L) (c : Component) :
    Only L s0 (State.retireComponent s c) := by
  unfold State.retireComponent
  extract_lets +onlyGivenNames x1
  extract_lets +onlyGivenNames x2
  have hx2 : Only L s0 x2 := by
    unfold x2
    refine Only.pkg ?_ _ ?_ ?_ (hl (by decide))
    · exact h
    · simp
    · simp
  clear_value x2
  extract_lets +onlyGivenNames x3
  extract_lets +onlyGivenNames x4
  have hx4 : Only L s0 x4 := by
    unfold x4
    refine forAll_only ?_ _ _ ?_
    · exact hx2
    · intro x5
      intro x6
      intro h7
      refine State.settleBay_only ?_ (List.Subset.trans (by decide) hl) _
      refine forAll_only ?_ _ _ ?_
      · exact h7
      · intro x8
        intro x9
        intro h10
        refine State.darken_only ?_ (List.Subset.trans (by decide) hl) _
        exact h10
  clear_value x4
  extract_lets +onlyGivenNames x11
  have hx11 : Only L s0 x11 := by
    unfold x11
    refine forAll_only ?_ _ _ ?_
    · exact hx4
    · intro x12
      intro x13
      intro h14
      split
      · exact h14
      · extract_lets +onlyGivenNames x15
        refine Only.ite ?_ ?_
        · exact h14
        · refine State.reissue_only ?_ (List.Subset.trans (by decide) hl) _
          refine State.setStall_only ?_ (List.Subset.trans (by decide) hl) _ _
          exact h14
  clear_value x11
  extract_lets +onlyGivenNames x16
  have hx16 : Only L s0 x16 := by
    unfold x16
    refine State.markShort_only ?_ (List.Subset.trans (by decide) hl)
    refine forAll_only ?_ _ _ ?_
    · exact hx11
    · intro x17
      intro x18
      intro h19
      refine State.shutPort_only ?_ (List.Subset.trans (by decide) hl) _
      exact h19
  clear_value x16
  refine Only.ite ?_ ?_
  · refine State.pfCause_only ?_ (List.Subset.trans (by decide) hl) _
    exact hx16
  · exact hx16
theorem State.stopCommands_only (h : Only L s0 s) (hl : [Part.clusters, Part.stalls, Part.power] ⊆ L) (n : StallNo) (p : Nat → Entry → Bool) :
    Only L s0 (State.stopCommands s n p).1 := by
  unfold State.stopCommands
  split
  · dsimp only
    exact h
  · extract_lets +onlyGivenNames x1
    extract_lets +onlyGivenNames x2
    extract_lets +onlyGivenNames x3
    extract_lets +onlyGivenNames x4
    extract_lets +onlyGivenNames x5
    have hx5 : Only L s0 x5 := by
      unfold x5
      refine State.setStall_only ?_ (List.Subset.trans (by decide) hl) _ _
      exact h
    clear_value x5
    dsimp only
    refine forAll_only ?_ _ _ ?_
    · exact hx5
    · intro x6
      intro x7
      intro h8
      refine State.freeCluster_only ?_ (List.Subset.trans (by decide) hl) _ _ _
      exact h8
theorem State.dropStep_only (h : Only L s0 s) (hl : [Part.stalls] ⊆ L) (n : Nat) :
    Only L s0 (State.dropStep s n) := by
  unfold State.dropStep
  refine State.modDrover_only ?_ (List.Subset.trans (by decide) hl) _ _
  exact h
theorem State.decideOne_only (h : Only L s0 s) (hl : [Part.vf, Part.out, Part.hostMem, Part.clusters, Part.stalls, Part.hbm, Part.poison, Part.lineSlot, Part.mee, Part.power, Part.sessions] ⊆ L) (a : CmdAt) (fp : List (Nat × Nat)) :
    Only L s0 (State.decideOne s a fp).1 := by
  unfold State.decideOne
  split
  · dsimp only
    exact h
  · split
    · dsimp only
      exact h
    · split
      · dsimp only
        exact h
      · extract_lets +onlyGivenNames x1
        extract_lets +onlyGivenNames x2
        extract_lets +onlyGivenNames x3
        extract_lets +onlyGivenNames x4
        have hx4 : ∀ x4a0, Only L s0 (x4 x4a0) := by
          intro x4a0
          unfold x4
          extract_lets +onlyGivenNames x5
          have hx5 : Only L s0 x5 := by
            unfold x5
            refine State.modEntry_only ?_ (List.Subset.trans (by decide) hl) _ _ _ _
            exact h
          clear_value x5
          extract_lets +onlyGivenNames x6
          have hx6 : Only L s0 x6 := by
            unfold x6
            refine State.dropLaunches_only ?_ (List.Subset.trans (by decide) hl) _ _ _
            exact hx5
          clear_value x6
          refine State.drvFail_only ?_ (List.Subset.trans (by decide) hl) _ _ _
          exact hx6
        clear_value x4
        split
        · dsimp only
          refine hx4 _
        · split
          · extract_lets +onlyGivenNames x7
            have hx7 : Only L s0 x7 := by
              unfold x7
              refine State.dropLaunches_only ?_ (List.Subset.trans (by decide) hl) _ _ _
              exact h
            clear_value x7
            dsimp only
            refine State.modEntry_only ?_ (List.Subset.trans (by decide) hl) _ _ _ _
            exact hx7
          · split
            · dsimp only
              refine hx4 _
            · split
              · extract_lets +onlyGivenNames x8
                dsimp only
                refine State.modEntry_only ?_ (List.Subset.trans (by decide) hl) _ _ _ _
                exact h
              · extract_lets +onlyGivenNames x9
                dsimp only
                refine hx4 _
theorem State.decideAll_only (h : Only L s0 s) (hl : [Part.pf, Part.vf, Part.history, Part.out, Part.hostMem, Part.clusters, Part.stalls, Part.hbm, Part.poison, Part.lineSlot, Part.mee, Part.power, Part.tl, Part.sessions] ⊆ L) (r : Recovery) :
    Only L s0 (State.decideAll s r).1 := by
  unfold State.decideAll
  refine forAll_only1 ?_ _ _ ?_
  · dsimp only
    exact h
  · intro x1
    intro x2
    intro h3
    extract_lets +onlyGivenNames x4
    have hx4 : Only L s0 x4.1 := by
      unfold x4
      refine State.decideOne_only ?_ (List.Subset.trans (by decide) hl) _ _
      exact h3
    clear_value x4
    dsimp only
    refine State.relaySweep_only ?_ (List.Subset.trans (by decide) hl) _
    exact hx4
theorem State.detected_only (h : Only L s0 s) (hl : [Part.pf, Part.vf, Part.out, Part.stalls, Part.acct, Part.free] ⊆ L) (r : Recovery) :
    Only L s0 (State.detected s r) := by
  unfold State.detected
  extract_lets +onlyGivenNames x1
  have hx1 : Only L s0 x1 := by
    unfold x1
    refine State.accEvent_only ?_ (List.Subset.trans (by decide) hl) _ _ _ _ _ _ _ _ _ _
    exact h
  clear_value x1
  refine Only.acct ?_ _ (hl (by decide))
  exact hx1
theorem State.closeOne_only (h : Only L s0 s) (hl : [Part.pf, Part.vf, Part.out, Part.stalls, Part.acct] ⊆ L) (r : Recovery) :
    Only L s0 (State.closeOne s r) := by
  unfold State.closeOne
  extract_lets +onlyGivenNames x1
  extract_lets +onlyGivenNames x2
  extract_lets +onlyGivenNames x3
  have hx3 : Only L s0 x3 := by
    unfold x3
    refine forAll_only ?_ _ _ ?_
    · exact h
    · intro x4
      intro x5
      intro h6
      refine State.stallEvent_only ?_ (List.Subset.trans (by decide) hl) _ _
      exact h6
  clear_value x3
  refine Only.ite ?_ ?_
  · extract_lets +onlyGivenNames x7
    have hx7 : Only L s0 x7 := by
      unfold x7
      refine State.packageEvent_only ?_ (List.Subset.trans (by decide) hl) _
      exact hx3
    clear_value x7
    refine Only.acct ?_ _ (hl (by decide))
    exact hx7
  · refine Only.acct ?_ _ (hl (by decide))
    exact hx3
theorem State.closeRecoveries_only (h : Only L s0 s) (hl : [Part.pf, Part.vf, Part.history, Part.out, Part.hostMem, Part.clusters, Part.stalls, Part.hbm, Part.poison, Part.lineSlot, Part.mee, Part.power, Part.acct, Part.tl, Part.sessions] ⊆ L) :
    Only L s0 (State.closeRecoveries s) := by
  unfold State.closeRecoveries
  refine forAll_only ?_ _ _ ?_
  · refine Only.acct ?_ _ (hl (by decide))
    exact h
  · intro x1
    intro x2
    intro h3
    extract_lets +onlyGivenNames x4
    have hx4 : Only L s0 x4.1 := by
      unfold x4
      refine State.decideAll_only ?_ (List.Subset.trans (by decide) hl) _
      exact h3
    clear_value x4
    refine State.closeOne_only ?_ (List.Subset.trans (by decide) hl) _
    exact hx4
theorem State.loseCopies_only (h : Only L s0 s) (hl : [Part.pf, Part.vf, Part.history, Part.out, Part.clusters, Part.stalls, Part.hbm, Part.poison, Part.lineSlot, Part.mee, Part.power, Part.acct, Part.rg, Part.tl, Part.free] ⊆ L) (n : StallNo) (bays : List Nat) :
    Only L s0 (State.loseCopies s n bays) := by
  unfold State.loseCopies
  split
  · exact h
  · extract_lets +onlyGivenNames x1
    extract_lets +onlyGivenNames x2
    refine Only.ite ?_ ?_
    · exact h
    · extract_lets +onlyGivenNames x3
      extract_lets +onlyGivenNames x4
      extract_lets +onlyGivenNames x5
      have hx5 : Only L s0 x5 := by
        unfold x5
        refine Only.ite ?_ ?_
        · refine State.endJob_only ?_ (List.Subset.trans (by decide) hl) _ _
          exact h
        · exact h
      clear_value x5
      extract_lets +onlyGivenNames x6
      have hx6 : Only L s0 x6 := by
        unfold x6
        refine State.setStall_only ?_ (List.Subset.trans (by decide) hl) _ _
        exact hx5
      clear_value x6
      refine Only.ite ?_ ?_
      · refine State.breakContinuity_only ?_ (List.Subset.trans (by decide) hl) _
        exact hx6
      · refine State.startRebuild_only ?_ (List.Subset.trans (by decide) hl) _
        exact hx6
theorem State.zeroiseProgress_only (h : Only L s0 s) (hl : [Part.pf, Part.vf, Part.history, Part.out, Part.prot, Part.side] ⊆ L) :
    Only L s0 (State.zeroiseProgress s) := by
  unfold State.zeroiseProgress
  refine Only.ite ?_ ?_
  · refine forAll_only ?_ _ _ ?_
    · refine Only.prot ?_ _ (hl (by decide))
      exact h
    · intro x1
      intro x2
      intro h3
      refine State.answerWaiter_only ?_ (List.Subset.trans (by decide) hl) _ _ _
      exact h3
  · exact h
theorem State.stopAll_only (h : Only L s0 s) (hl : [Part.clusters, Part.stalls, Part.power] ⊆ L) :
    Only L s0 (State.stopAll s).1 := by
  unfold State.stopAll
  refine forAll_only1 ?_ _ _ ?_
  · dsimp only
    exact h
  · intro x1
    intro x2
    intro h3
    extract_lets +onlyGivenNames x4
    have hx4 : Only L s0 x4.1 := by
      unfold x4
      refine State.stopCommands_only ?_ (List.Subset.trans (by decide) hl) _ _
      exact h3
    clear_value x4
    dsimp only
    refine State.dropStep_only ?_ (List.Subset.trans (by decide) hl) _
    exact hx4
theorem State.darkenAll_only (h : Only L s0 s) (hl : [Part.clusters, Part.power] ⊆ L) :
    Only L s0 (State.darkenAll s) := by
  unfold State.darkenAll
  refine Only.more (s := (s)) ?_ _ ⟨rfl, rfl, rfl, rfl, Nat.le_refl _, List.prefix_rfl, id, id, fun _ => Nat.le_refl _, Nat.le_refl _, id⟩ (fun p hn => by cases p <;> first | rfl | exact ⟨rfl, rfl, rfl⟩ | exact ⟨rfl, rfl⟩ | exact absurd (hl (by decide)) hn)
  exact h
theorem State.showAll_only (h : Only L s0 s) (hl : [Part.vf, Part.out, Part.hostMem, Part.stalls, Part.hbm, Part.poison, Part.lineSlot, Part.mee, Part.sessions] ⊆ L) :
    Only L s0 (State.showAll s) := by
  unfold State.showAll
  refine forAll_only ?_ _ _ ?_
  · exact h
  · intro x1
    intro x2
    intro h3
    refine forAll_only ?_ _ _ ?_
    · exact h3
    · intro x4
      intro x5
      intro h6
      refine State.showCtx_only ?_ (List.Subset.trans (by decide) hl) _ _
      exact h6
theorem State.beginWarm_only (h : Only L s0 s) (hl : [Part.pf, Part.vf, Part.out, Part.clusters, Part.stalls, Part.prot, Part.power, Part.acct, Part.tl, Part.free] ⊆ L) (reqs : List Waiter) :
    Only L s0 (State.beginWarm s reqs) := by
  unfold State.beginWarm
  extract_lets +onlyGivenNames x1
  extract_lets +onlyGivenNames x2
  have hx2 : Only L s0 x2 := by
    unfold x2
    refine Only.power ?_ _ (hl (by decide))
    exact h
  clear_value x2
  extract_lets +onlyGivenNames x3
  have hx3 : Only L s0 x3.1 := by
    unfold x3
    refine State.stopAll_only ?_ (List.Subset.trans (by decide) hl)
    refine State.endDebug_only ?_ (List.Subset.trans (by decide) hl)
    exact hx2
  clear_value x3
  extract_lets +onlyGivenNames x4
  have hx4 : Only L s0 x4 := by
    unfold x4
    refine State.detected_only ?_ (List.Subset.trans (by decide) hl) _
    refine State.darkenAll_only ?_ (List.Subset.trans (by decide) hl)
    refine forAll_only ?_ _ _ ?_
    · exact hx3
    · intro x5
      intro x6
      intro h7
      refine State.relayDrop_only ?_ (List.Subset.trans (by decide) hl) _
      exact h7
  clear_value x4
  refine Only.power ?_ _ (hl (by decide))
  exact hx4

end Sys2Proof.Machine
end

