-- ==== Sys2Proof/Laws/Yard.lean ====
section
/-! SUPPORT. Machine/Yard.lean: what each of its operations keeps, and the parts it changes. -/

namespace Sys2Proof.Machine

variable {L : List Part} {s0 s : State}

theorem State.rejectPlan_only (h : Only L s0 s) (hl : [Part.yard, Part.pf, Part.vf, Part.history, Part.out] ⊆ L) (r : Rej) (epoch : Nat) :
    Only L s0 (State.rejectPlan s r epoch) := by
  unfold State.rejectPlan
  extract_lets +onlyGivenNames x1
  extract_lets +onlyGivenNames x2
  have hx2 : Only L s0 x2 := by
    unfold x2
    refine Only.yard ?_ _ (hl (by decide))
    exact h
  clear_value x2
  extract_lets +onlyGivenNames x3
  have hx3 : Only L s0 x3 := by
    unfold x3
    split
    · exact hx2
    · refine State.mbAnswer_only ?_ (List.Subset.trans (by decide) hl) _ _ _
      exact hx2
  clear_value x3
  refine State.pfCause_only ?_ (List.Subset.trans (by decide) hl) _
  exact hx3
theorem State.discardPlan_only (h : Only L s0 s) (hl : [Part.yard, Part.pf, Part.vf, Part.history, Part.out] ⊆ L) (reason : Nat) :
    Only L s0 (State.discardPlan s reason) := by
  unfold State.discardPlan
  split
  · refine State.rejectPlan_only ?_ (List.Subset.trans (by decide) hl) _ _
    exact h
  · refine State.rejectPlan_only ?_ (List.Subset.trans (by decide) hl) _ _
    exact h
  · refine State.rejectPlan_only ?_ (List.Subset.trans (by decide) hl) _ _
    exact h
  · refine State.rejectPlan_only ?_ (List.Subset.trans (by decide) hl) _ _
    exact h
  · exact h
theorem State.startWrite_only (h : Only L s0 s) (hl : [Part.yard] ⊆ L) (x : StoreSlot) :
    Only L s0 (State.startWrite s x) := by
  unfold State.startWrite
  extract_lets +onlyGivenNames x1
  extract_lets +onlyGivenNames x2
  extract_lets +onlyGivenNames x3
  refine Only.yard ?_ _ (hl (by decide))
  exact h
theorem State.storePlan_only (h : Only L s0 s) (hl : [Part.yard] ⊆ L) (p : Plan) (bytes : List Byte) (fromStore : Bool) :
    Only L s0 (State.storePlan s p bytes fromStore) := by
  unfold State.storePlan
  refine Only.ite ?_ ?_
  · exact h
  · extract_lets +onlyGivenNames x1
    refine Only.ite ?_ ?_
    · refine Only.yard ?_ _ (hl (by decide))
      exact h
    · refine State.startWrite_only ?_ (List.Subset.trans (by decide) hl) _
      exact h
theorem planStoreDone_only (h : Only L s0 s) (hl : [Part.yard] ⊆ L) :
    Only L s0 (planStoreDone s) := by
  unfold planStoreDone
  split
  · exact h
  · extract_lets +onlyGivenNames x1
    extract_lets +onlyGivenNames x2
    have hx2 : Only L s0 x2 := by
      unfold x2
      refine Only.yard ?_ _ (hl (by decide))
      exact h
    clear_value x2
    split
    · exact hx2
    · refine State.startWrite_only ?_ (List.Subset.trans (by decide) hl) _
      refine Only.yard ?_ _ (hl (by decide))
      exact hx2
theorem State.breakWrite_only (h : Only L s0 s) (hl : [Part.yard] ⊆ L) :
    Only L s0 (State.breakWrite s) := by
  unfold State.breakWrite
  refine Only.ite ?_ ?_
  · exact h
  · refine Only.yard ?_ _ (hl (by decide))
    exact h
theorem State.setOwners_only (h : Only L s0 s) (hl : [Part.yard] ⊆ L) :
    Only L s0 (State.setOwners s) := by
  unfold State.setOwners
  extract_lets +onlyGivenNames x1
  refine Only.yard ?_ _ (hl (by decide))
  exact h
theorem State.resetGates_only (h : Only L s0 s) (hl : [Part.gates, Part.power] ⊆ L) (l : List Nat) :
    Only L s0 (State.resetGates s l) := by
  unfold State.resetGates
  refine forAll_only ?_ _ _ ?_
  · exact h
  · intro x1
    intro x2
    intro h3
    refine State.setGate_only ?_ (List.Subset.trans (by decide) hl) _ _
    refine State.endHold_only ?_ (List.Subset.trans (by decide) hl) _
    exact h3
theorem State.defineStall_only (h : Only L s0 s) (hl : [Part.gates, Part.pf, Part.vf, Part.out, Part.stalls, Part.prot, Part.power, Part.acct, Part.free] ⊆ L) (n : Nat) (a2 : Holdings) (p : Plan) :
    Only L s0 (State.defineStall s n a2 p) := by
  unfold State.defineStall
  extract_lets +onlyGivenNames x1
  extract_lets +onlyGivenNames x2
  have hx2 : Only L s0 x2 := by
    unfold x2
    refine State.raiseEra_only ?_ (List.Subset.trans (by decide) hl) _
    exact h
  clear_value x2
  extract_lets +onlyGivenNames x3
  extract_lets +onlyGivenNames x4
  extract_lets +onlyGivenNames x5
  extract_lets +onlyGivenNames x6
  have hx6 : Only L s0 x6 := by
    unfold x6
    refine State.setStall_only ?_ (List.Subset.trans (by decide) hl) _ _
    refine State.signed_only ?_ (List.Subset.trans (by decide) hl)
    exact hx2
  have e6 : x6.acct = x2.acct := rfl
  clear_value x6
  extract_lets +onlyGivenNames x7
  extract_lets +onlyGivenNames x8
  have hx8 : Only L s0 x8 := by
    unfold x8
    refine Only.acct ?_ _ (hl (by decide)) (fun k => (congrArg (fun a : Acct => Tab.get 0 a.eraFloor k) e6).le)
    exact hx6
  clear_value x8
  extract_lets +onlyGivenNames x9
  have hx9 : Only L s0 x9 := by
    unfold x9
    refine forAll_only ?_ _ _ ?_
    · exact hx8
    · intro x10
      intro x11
      intro h12
      refine State.grantSlot_only ?_ (List.Subset.trans (by decide) hl) _
      exact h12
  clear_value x9
  extract_lets +onlyGivenNames x13
  have hx13 : Only L s0 x13 := by
    unfold x13
    refine State.reachAll_only ?_ (List.Subset.trans (by decide) hl) _ _
    refine State.resetGates_only ?_ (List.Subset.trans (by decide) hl) _
    exact hx9
  clear_value x13
  refine State.accEvent_only ?_ (List.Subset.trans (by decide) hl) _ _ _ _ _ _ _ _ _ _
  refine State.setQuotas_only ?_ (List.Subset.trans (by decide) hl)
  exact hx13
theorem State.leaveBays_only (h : Only L s0 s) (hl : [Part.clusters, Part.power] ⊆ L) (bays : List Nat) :
    Only L s0 (State.leaveBays s bays) := by
  unfold State.leaveBays
  refine forAll_only ?_ _ _ ?_
  · exact h
  · intro x1
    intro x2
    intro h3
    refine forAll_only ?_ _ _ ?_
    · exact h3
    · intro x4
      intro x5
      intro h6
      refine State.darken_only ?_ (List.Subset.trans (by decide) hl) _
      refine State.setCluster_only ?_ (List.Subset.trans (by decide) hl) _ _
      exact h6
theorem State.drvShed_only (h : Only L s0 s) (hl : [Part.vf, Part.out, Part.hostMem, Part.stalls, Part.hbm, Part.poison, Part.lineSlot, Part.mee, Part.sessions] ⊆ L) (n : StallNo) (ok : Stall → Bool) (a2 : Nat) :
    Only L s0 (State.drvShed n ok a2 s) := by
  induction a2 generalizing s with
  | zero =>
    exact h
  | succ m ih =>
    unfold State.drvShed
    split
    · exact h
    · refine Only.ite ?_ ?_
      · exact h
      · split
        · exact h
        · refine ih ?_
          refine State.drvFail_only ?_ (List.Subset.trans (by decide) hl) _ _ _
          exact h
theorem State.drvFit_only (h : Only L s0 s) (hl : [Part.vf, Part.out, Part.hostMem, Part.stalls, Part.hbm, Part.poison, Part.lineSlot, Part.mee, Part.sessions] ⊆ L) (n : StallNo) :
    Only L s0 (State.drvFit s n) := by
  unfold State.drvFit
  split
  · exact h
  · split
    · exact h
    · extract_lets +onlyGivenNames x1
      extract_lets +onlyGivenNames x2
      extract_lets +onlyGivenNames x3
      have hx3 : Only L s0 x3 := by
        unfold x3
        refine Only.ite ?_ ?_
        · refine State.modDrover_only ?_ (List.Subset.trans (by decide) hl) _ _
          refine State.drvFail_only ?_ (List.Subset.trans (by decide) hl) _ _ _
          exact h
        · exact h
      clear_value x3
      refine State.drvShed_only ?_ (List.Subset.trans (by decide) hl) _ _ _
      exact hx3
theorem State.rehold_only (h : Only L s0 s) (hl : [Part.gates, Part.vf, Part.out, Part.hostMem, Part.clusters, Part.stalls, Part.hbm, Part.poison, Part.lineSlot, Part.mee, Part.prot, Part.power, Part.sessions, Part.free] ⊆ L) (n : StallNo) (a2 : Holdings) (f : Manifest → Manifest) :
    Only L s0 (State.rehold s n a2 f) := by
  unfold State.rehold
  split
  · exact h
  · extract_lets +onlyGivenNames x1
    extract_lets +onlyGivenNames x2
    extract_lets +onlyGivenNames x3
    extract_lets +onlyGivenNames x4
    extract_lets +onlyGivenNames x5
    have hx5 : Only L s0 x5 := by
      unfold x5
      refine Only.ite ?_ ?_
      · refine State.dropDebug_only ?_ (List.Subset.trans (by decide) hl) _
        exact h
      · exact h
    clear_value x5
    extract_lets +onlyGivenNames x6
    have hx6 : Only L s0 x6 := by
      unfold x6
      refine State.leaveBays_only ?_ (List.Subset.trans (by decide) hl) _
      exact hx5
    clear_value x6
    extract_lets +onlyGivenNames x7
    have hx7 : Only L s0 x7 := by
      unfold x7
      refine forAll_only ?_ _ _ ?_
      · exact hx6
      · intro x8
        intro x9
        intro h10
        refine State.gateReleased_only ?_ (List.Subset.trans (by decide) hl) _ _
        exact h10
    clear_value x7
    extract_lets +onlyGivenNames x11
    have hx11 : Only L s0 x11 := by
      unfold x11
      refine State.resetGates_only ?_ (List.Subset.trans (by decide) hl) _
      exact hx7
    clear_value x11
    extract_lets +onlyGivenNames x12
    have hx12 : Only L s0 x12 := by
      unfold x12
      refine State.modStall_only ?_ (List.Subset.trans (by decide) hl) _ _
      exact hx11
    clear_value x12
    refine State.reissue_only ?_ (List.Subset.trans (by decide) hl) _
    refine State.drvFit_only ?_ (List.Subset.trans (by decide) hl) _
    refine State.reachAll_only ?_ (List.Subset.trans (by decide) hl) _ _
    exact hx12
theorem planSubmit_only (h : Only L s0 s) (hl : [Part.gtb, Part.yard, Part.pf, Part.vf, Part.history, Part.out, Part.power, Part.side] ⊆ L) (m : Req) :
    Only L s0 (planSubmit m s) := by
  unfold planSubmit
  extract_lets +onlyGivenNames x1
  refine State.mbServe_only ?_ (List.Subset.trans (by decide) hl) _ _ _ ?_
  · exact h
  · intro x2
    intro h3
    refine Only.ite ?_ ?_
    · extract_lets +onlyGivenNames x4
      extract_lets +onlyGivenNames x5
      have hx5 : Only L s0 x5 := by
        unfold x5
        refine Only.yard ?_ _ (hl (by decide))
        exact h3
      clear_value x5
      refine State.pfCause_only ?_ (List.Subset.trans (by decide) hl) _
      refine State.mbAnswer_only ?_ (List.Subset.trans (by decide) hl) _ _ _
      exact hx5
    · split
      · refine State.mbAnswer_only ?_ (List.Subset.trans (by decide) hl) _ _ _
        exact h3
      · refine Only.yard ?_ _ (hl (by decide))
        exact h3
theorem State.armPlan_only (h : Only L s0 s) (hl : [Part.yard] ⊆ L) (p : Plan) :
    Only L s0 (State.armPlan s p) := by
  unfold State.armPlan
  refine Only.yard ?_ _ (hl (by decide))
  exact h
theorem State.takeFull_only (h : Only L s0 s) (hl : [Part.yard] ⊆ L) (p : Plan) (bs : List Byte) (slot : Option Nat) :
    Only L s0 (State.takeFull s p bs slot) := by
  unfold State.takeFull
  extract_lets +onlyGivenNames x1
  extract_lets +onlyGivenNames x2
  extract_lets +onlyGivenNames x3
  extract_lets +onlyGivenNames x4
  have hx4 : Only L s0 x4 := by
    unfold x4
    refine Only.yard ?_ _ (hl (by decide))
    exact h
  clear_value x4
  refine Only.ite ?_ ?_
  · refine State.armPlan_only ?_ (List.Subset.trans (by decide) hl) _
    exact hx4
  · refine Only.yard ?_ _ (hl (by decide))
    exact hx4
theorem State.groomProgress_only (h : Only L s0 s) (hl : [Part.yard] ⊆ L) :
    Only L s0 (State.groomProgress s) := by
  unfold State.groomProgress
  split
  · extract_lets +onlyGivenNames x1
    extract_lets +onlyGivenNames x2
    extract_lets +onlyGivenNames x3
    extract_lets +onlyGivenNames x4
    have hx4 : Only L s0 x4 := by
      unfold x4
      refine Only.yard ?_ _ (hl (by decide))
      exact h
    clear_value x4
    refine Only.ite ?_ ?_
    · refine State.armPlan_only ?_ (List.Subset.trans (by decide) hl) _
      exact hx4
    · exact hx4
  · exact h
theorem State.commit_only (h : Only L s0 s) (hl : [Part.gates, Part.yard, Part.pf, Part.vf, Part.out, Part.stalls, Part.prot, Part.power, Part.acct, Part.rsv, Part.rg, Part.free] ⊆ L) (p : Plan) (bytes : List Byte) (slot : Option Nat) :
    Only L s0 (State.commit s p bytes slot) := by
  unfold State.commit
  extract_lets +onlyGivenNames x1
  have hx1 : Only L s0 x1 := by
    unfold x1
    refine forAll_only ?_ _ _ ?_
    · exact h
    · intro x2
      intro x3
      intro h4
      refine State.defineStall_only ?_ (List.Subset.trans (by decide) hl) _ _ _
      exact h4
  clear_value x1
  extract_lets +onlyGivenNames x5
  extract_lets +onlyGivenNames x6
  extract_lets +onlyGivenNames x7
  extract_lets +onlyGivenNames x8
  extract_lets +onlyGivenNames x9
  extract_lets +onlyGivenNames x10
  have hx10 : Only L s0 x10 := by
    unfold x10
    refine Only.more (s := (x1)) ?_ _ ⟨rfl, rfl, rfl, rfl, Nat.le_refl _, List.prefix_rfl, id, id, fun _ => Nat.le_refl _, Nat.le_refl _, id⟩ (fun p hn => by cases p <;> first | rfl | exact ⟨rfl, rfl, rfl⟩ | exact ⟨rfl, rfl⟩ | exact absurd (hl (by decide)) hn)
    exact hx1
  clear_value x10
  refine State.storePlan_only ?_ (List.Subset.trans (by decide) hl) _ _ _
  refine State.pfCause_only ?_ (List.Subset.trans (by decide) hl) _
  refine State.clearShort_only ?_ (List.Subset.trans (by decide) hl)
  refine State.setOwners_only ?_ (List.Subset.trans (by decide) hl)
  exact hx10
theorem planCommit_only (h : Only L s0 s) (hl : [Part.gtb, Part.gates, Part.timers, Part.outs, Part.matrix, Part.yard, Part.pf, Part.vf, Part.history, Part.out, Part.stalls, Part.prot, Part.power, Part.acct, Part.rsv, Part.rg, Part.free] ⊆ L) :
    Only L s0 (planCommit s) := by
  unfold planCommit
  split
  · refine Only.ite ?_ ?_
    · exact h
    · extract_lets +onlyGivenNames x1
      have hx1 : Only L s0 x1 := by
        unfold x1
        refine State.advance_only ?_ (List.Subset.trans (by decide) hl) _
        exact h
      clear_value x1
      extract_lets +onlyGivenNames x2
      split
      · refine State.rejectPlan_only ?_ (List.Subset.trans (by decide) hl) _ _
        exact hx1
      · refine State.commit_only ?_ (List.Subset.trans (by decide) hl) _ _ _
        exact hx1
  · exact h
theorem enrol_only (h : Only L s0 s) (hl : [Part.gtb, Part.yard, Part.pf, Part.vf, Part.history, Part.out, Part.power, Part.side] ⊆ L) (m : Req) :
    Only L s0 (enrol m s) := by
  unfold enrol
  refine State.mbServeA_only ?_ (List.Subset.trans (by decide) hl) _ _ _ ?_
  · exact h
  · intro x1
    intro h2
    split
    · dsimp only
      exact h2
    · split
      · dsimp only
        exact h2
      · dsimp only
        refine Only.yard ?_ _ (hl (by decide))
        exact h2
theorem State.confirmEnrol_only (h : Only L s0 s) (hl : [Part.yard] ⊆ L) :
    Only L s0 (State.confirmEnrol s).2 := by
  unfold State.confirmEnrol
  split
  · dsimp only
    refine Only.yard ?_ _ (hl (by decide))
    exact h
  · dsimp only
    exact h
theorem enrolWindowExpiry_only (h : Only L s0 s) (hl : [Part.gtb, Part.timers, Part.outs, Part.matrix, Part.yard, Part.pf, Part.out] ⊆ L) :
    Only L s0 (enrolWindowExpiry s) := by
  unfold enrolWindowExpiry
  refine Only.ite ?_ ?_
  · exact h
  · extract_lets +onlyGivenNames x1
    have hx1 : Only L s0 x1 := by
      unfold x1
      refine State.advance_only ?_ (List.Subset.trans (by decide) hl) _
      exact h
    clear_value x1
    refine Only.yard ?_ _ (hl (by decide))
    exact hx1
theorem rotate_only (h : Only L s0 s) (hl : [Part.gtb, Part.yard, Part.pf, Part.vf, Part.history, Part.out, Part.power, Part.side] ⊆ L) (m : Req) :
    Only L s0 (rotate m s) := by
  unfold rotate
  refine State.mbServeA_only ?_ (List.Subset.trans (by decide) hl) _ _ _ ?_
  · exact h
  · intro x1
    intro h2
    extract_lets +onlyGivenNames x3
    extract_lets +onlyGivenNames x4
    extract_lets +onlyGivenNames x5
    split
    · dsimp only
      exact h2
    · split
      · dsimp only
        exact h2
      · split
        · dsimp only
          exact h2
        · split
          · dsimp only
            exact h2
          · split
            · dsimp only
              exact h2
            · dsimp only
              refine Only.yard ?_ _ (hl (by decide))
              exact h2

end Sys2Proof.Machine
end

