-- ==== Sys2Proof/Laws/Manifest.lean ====
section
/-! SUPPORT. Machine/Manifest.lean: what each of its operations keeps, and the parts it changes. -/

namespace Sys2Proof.Machine

variable {L : List Part} {s0 s : State}

theorem State.answerManifest_only (h : Only L s0 s) (hl : [Part.pf, Part.vf, Part.history, Part.out, Part.free] ⊆ L) (n : Nat) (m : Req) :
    Only L s0 (State.answerManifest s n m) := by
  unfold State.answerManifest
  split
  · refine State.mbAnswer_only ?_ (List.Subset.trans (by decide) hl) _ _ _
    exact h
  · refine State.mbAnswer_only ?_ (List.Subset.trans (by decide) hl) _ _ _
    refine State.signed_only ?_ (List.Subset.trans (by decide) hl)
    exact h
theorem State.answerManifests_only (h : Only L s0 s) (hl : [Part.pf, Part.vf, Part.history, Part.out, Part.stalls, Part.free] ⊆ L) (n : Nat) :
    Only L s0 (State.answerManifests s n) := by
  unfold State.answerManifests
  split
  · exact h
  · refine forAll_only ?_ _ _ ?_
    · refine State.setStall_only ?_ (List.Subset.trans (by decide) hl) _ _
      exact h
    · intro x1
      intro x2
      intro h3
      refine State.answerManifest_only ?_ (List.Subset.trans (by decide) hl) _ _
      exact h3
theorem manifestReq_only (h : Only L s0 s) (hl : [Part.gtb, Part.pf, Part.vf, Part.history, Part.out, Part.stalls, Part.power, Part.side, Part.free] ⊆ L) (m : Req) :
    Only L s0 (manifestReq m s) := by
  unfold manifestReq
  extract_lets +onlyGivenNames x1
  extract_lets +onlyGivenNames x2
  refine State.mbServe_only ?_ (List.Subset.trans (by decide) hl) _ _ _ ?_
  · exact h
  · intro x3
    intro h4
    extract_lets +onlyGivenNames x5
    split
    · refine State.mbAnswer_only ?_ (List.Subset.trans (by decide) hl) _ _ _
      exact h4
    · refine Only.ite ?_ ?_
      · refine State.setStall_only ?_ (List.Subset.trans (by decide) hl) _ _
        exact h4
      · refine State.answerManifest_only ?_ (List.Subset.trans (by decide) hl) _ _
        exact h4
theorem version_only (h : Only L s0 s) (hl : [Part.gtb, Part.pf, Part.vf, Part.history, Part.out, Part.power, Part.side] ⊆ L) (m : Req) :
    Only L s0 (version m s) := by
  unfold version
  extract_lets +onlyGivenNames x1
  clear_value x1
  refine State.mbServeA_only ?_ (List.Subset.trans (by decide) hl) _ _ _ ?_
  · exact h
  · intro x2
    intro h3
    dsimp only
    exact h3
theorem resultQuery_only (h : Only L s0 s) (hl : [Part.gtb, Part.pf, Part.vf, Part.history, Part.out, Part.power, Part.side] ⊆ L) (m : Req) :
    Only L s0 (resultQuery m s) := by
  unfold resultQuery
  extract_lets +onlyGivenNames x1
  clear_value x1
  refine State.mbServeA_only ?_ (List.Subset.trans (by decide) hl) _ _ _ ?_
  · exact h
  · intro x2
    intro h3
    split
    · dsimp only
      exact h3
    · dsimp only
      exact h3
end Sys2Proof.Machine
end

