-- ==== Sys2Proof/Laws/Queues.lean ====
section
/-! SUPPORT. Machine/Queues.lean: what each of its operations keeps, and the parts it changes. -/

namespace Sys2Proof.Machine

variable {L : List Part} {s0 s : State}

theorem queueCreate_only (h : Only L s0 s) (hl : [Part.gtb, Part.pf, Part.vf, Part.history, Part.out, Part.hostMem, Part.stalls, Part.hbm, Part.poison, Part.lineSlot, Part.mee, Part.power, Part.side, Part.sessions] ⊆ L) (m : Req) :
    Only L s0 (queueCreate m s) := by
  unfold queueCreate
  extract_lets +onlyGivenNames x1
  clear_value x1
  extract_lets +onlyGivenNames x2
  clear_value x2
  refine State.mbServeA_only ?_ (List.Subset.trans (by decide) hl) _ _ _ ?_
  · exact h
  · intro x3
    intro h4
    split
    · dsimp only
      exact h4
    · split
      · dsimp only
        exact h4
      · extract_lets +onlyGivenNames x5
        clear_value x5
        split
        · dsimp only
          exact h4
        · extract_lets +onlyGivenNames x6
          clear_value x6
          extract_lets +onlyGivenNames x7
          clear_value x7
          extract_lets +onlyGivenNames x8
          clear_value x8
          extract_lets +onlyGivenNames x9
          clear_value x9
          extract_lets +onlyGivenNames x10
          clear_value x10
          extract_lets +onlyGivenNames x11
          clear_value x11
          extract_lets +onlyGivenNames x12
          clear_value x12
          extract_lets +onlyGivenNames x13
          have hx13 : Only L s0 x13 := by
            unfold x13
            refine State.modStall_only ?_ (List.Subset.trans (by decide) hl) _ _
            exact h4
          clear_value x13
          extract_lets +onlyGivenNames x14
          have hx14 : Only L s0 x14 := by
            unfold x14
            refine Only.ite ?_ ?_
            · refine State.writeHeader_only ?_ (List.Subset.trans (by decide) hl) _ _
              exact hx13
            · exact hx13
          clear_value x14
          dsimp only
          exact hx14
theorem queueDestroy_only (h : Only L s0 s) (hl : [Part.gtb, Part.pf, Part.vf, Part.history, Part.out, Part.stalls, Part.power, Part.side] ⊆ L) (m : Req) :
    Only L s0 (queueDestroy m s) := by
  unfold queueDestroy
  extract_lets +onlyGivenNames x1
  clear_value x1
  refine State.mbServeA_only ?_ (List.Subset.trans (by decide) hl) _ _ _ ?_
  · exact h
  · intro x2
    intro h3
    split
    · dsimp only
      exact h3
    · extract_lets +onlyGivenNames x4
      clear_value x4
      split
      · dsimp only
        exact h3
      · split
        · dsimp only
          refine State.modStall_only ?_ (List.Subset.trans (by decide) hl) _ _
          exact h3
        · dsimp only
          exact h3
theorem State.checkOne_only (h : Only L s0 s) (hl : [Part.stalls, Part.hbm, Part.poison, Part.lineSlot, Part.mee, Part.sessions] ⊆ L) (n : StallNo) (k : Nat) (fresh : List Entry) (p : U32) :
    Only L s0 (State.checkOne s n k fresh p).2 := by
  unfold State.checkOne
  split
  · split
    · dsimp only
      exact h
    · split
      · dsimp only
        exact h
      · split
        · dsimp only
          exact h
        · extract_lets +onlyGivenNames x1
          have hx1 : Only L s0 x1.2 := by
            unfold x1
            refine State.readSlot_only ?_ (List.Subset.trans (by decide) hl) _ _ _ _
            exact h
          clear_value x1
          split
          · dsimp only
            refine State.ringDead_only ?_ (List.Subset.trans (by decide) hl) _ _
            exact hx1
          · dsimp only
            exact hx1
          · extract_lets +onlyGivenNames x2
            split
            · dsimp only
              exact hx1
            · split
              · dsimp only
                exact hx1
              · split
                · split
                  · dsimp only
                    exact hx1
                  · dsimp only
                    exact hx1
                · dsimp only
                  exact hx1
  · dsimp only
    exact h
theorem State.journalOne_only (h : Only L s0 s) (hl : [Part.pf, Part.vf, Part.history, Part.out, Part.clusters, Part.stalls, Part.hbm, Part.poison, Part.lineSlot, Part.mee, Part.power, Part.acct, Part.tl, Part.free] ⊆ L) (n : StallNo) (k : Nat) (p : U32) (b : List Byte) :
    Only L s0 (State.journalOne s n k p b).2 := by
  unfold State.journalOne
  split
  · dsimp only
    exact h
  · extract_lets +onlyGivenNames x1
    split
    · dsimp only
      refine State.breakContinuity_only ?_ (List.Subset.trans (by decide) hl) _
      exact h
    · extract_lets +onlyGivenNames x2
      have hx2 : Only L s0 x2 := by
        unfold x2
        refine Only.ite ?_ ?_
        · refine State.advanceEra_only ?_ (List.Subset.trans (by decide) hl) _
          exact h
        · exact h
      clear_value x2
      extract_lets +onlyGivenNames x3
      extract_lets +onlyGivenNames x4
      extract_lets +onlyGivenNames x5
      extract_lets +onlyGivenNames x6
      have hx6 : Only L s0 x6 := by
        unfold x6
        refine State.modStall_only ?_ (List.Subset.trans (by decide) hl) _ _
        exact hx2
      clear_value x6
      dsimp only
      exact hx6
theorem State.checkFrom_only (h : Only L s0 s) (hl : [Part.pf, Part.vf, Part.history, Part.out, Part.clusters, Part.stalls, Part.hbm, Part.poison, Part.lineSlot, Part.mee, Part.power, Part.acct, Part.tl, Part.sessions, Part.free] ⊆ L) (n : StallNo) (k : Nat) (a2 : Nat) (a3 : U32) (a4 : List Entry) :
    Only L s0 (State.checkFrom n k a2 a3 a4 s).2 := by
  induction a2 generalizing s a3 a4 with
  | zero =>
    exact h
  | succ m ih =>
    unfold State.checkFrom
    extract_lets +onlyGivenNames x1
    have hx1 : Only L s0 x1.2 := by
      unfold x1
      refine State.checkOne_only ?_ (List.Subset.trans (by decide) hl) _ _ _ _
      exact h
    clear_value x1
    split
    · dsimp only
      exact hx1
    · dsimp only
      exact hx1
    · extract_lets +onlyGivenNames x2
      have hx2 : Only L s0 x2.2 := by
        unfold x2
        refine State.journalOne_only ?_ (List.Subset.trans (by decide) hl) _ _ _ _
        exact hx1
      clear_value x2
      split
      · dsimp only
        exact hx2
      · refine ih ?_ _ _
        exact hx2
theorem State.ring_only (h : Only L s0 s) (hl : [Part.pf, Part.vf, Part.history, Part.out, Part.clusters, Part.stalls, Part.hbm, Part.poison, Part.lineSlot, Part.mee, Part.power, Part.acct, Part.tl, Part.sessions, Part.free] ⊆ L) (n : StallNo) (k : Nat) (tail : U32) (port : Nat) :
    Only L s0 (State.ring s n k tail port) := by
  unfold State.ring
  split
  · exact h
  · extract_lets +onlyGivenNames x1
    refine Only.ite ?_ ?_
    · exact h
    · refine Only.ite ?_ ?_
      · refine State.modQueue_only ?_ (List.Subset.trans (by decide) hl) _ _ _
        exact h
      · extract_lets +onlyGivenNames x2
        have hx2 : Only L s0 x2.2 := by
          unfold x2
          refine State.checkFrom_only ?_ (List.Subset.trans (by decide) hl) _ _ _ _ _
          exact h
        clear_value x2
        refine State.modQueue_only ?_ (List.Subset.trans (by decide) hl) _ _ _
        exact hx2
theorem State.runWaiting_only (h : Only L s0 s) (hl : [Part.pf, Part.vf, Part.history, Part.out, Part.clusters, Part.stalls, Part.hbm, Part.poison, Part.lineSlot, Part.mee, Part.power, Part.acct, Part.tl, Part.sessions, Part.free] ⊆ L) (n : StallNo) (k : Nat) (fuel : Nat) :
    Only L s0 (State.runWaiting n k fuel s) := by
  induction fuel generalizing s with
  | zero =>
    exact h
  | succ m ih =>
    unfold State.runWaiting
    split
    · exact h
    · split
      · exact h
      · refine Only.ite ?_ ?_
        · exact h
        · refine ih ?_
          refine State.ring_only ?_ (List.Subset.trans (by decide) hl) _ _ _ _
          refine State.modQueue_only ?_ (List.Subset.trans (by decide) hl) _ _ _
          exact h
theorem State.wakeQueue_only (h : Only L s0 s) (hl : [Part.pf, Part.vf, Part.history, Part.out, Part.clusters, Part.stalls, Part.hbm, Part.poison, Part.lineSlot, Part.mee, Part.power, Part.acct, Part.tl, Part.sessions, Part.free] ⊆ L) (n : StallNo) (k : Nat) :
    Only L s0 (State.wakeQueue s n k) := by
  unfold State.wakeQueue
  split
  · exact h
  · refine State.runWaiting_only ?_ (List.Subset.trans (by decide) hl) _ _ _
    exact h
theorem State.wakeQueues_only (h : Only L s0 s) (hl : [Part.pf, Part.vf, Part.history, Part.out, Part.clusters, Part.stalls, Part.hbm, Part.poison, Part.lineSlot, Part.mee, Part.power, Part.acct, Part.tl, Part.sessions, Part.free] ⊆ L) (p : Nat → Nat → Bool) :
    Only L s0 (State.wakeQueues s p) := by
  unfold State.wakeQueues
  refine forAll_only ?_ _ _ ?_
  · exact h
  · intro x1
    intro x2
    intro h3
    refine Only.dite ?_ ?_
    · intro x4
      refine forAll_only ?_ _ _ ?_
      · exact h3
      · intro x5
        intro x6
        intro h7
        refine State.wakeQueue_only ?_ (List.Subset.trans (by decide) hl) _ _
        exact h7
    · intro x8
      exact h3
theorem doorbell_only (h : Only L s0 s) (hl : [Part.gtb, Part.pf, Part.vf, Part.history, Part.out, Part.clusters, Part.stalls, Part.hbm, Part.poison, Part.lineSlot, Part.mee, Part.power, Part.acct, Part.tl, Part.side, Part.sessions, Part.free] ⊆ L) (p : HostPort) (q : QueueId) (tail : U32) :
    Only L s0 (doorbell p q tail s) := by
  unfold doorbell
  extract_lets +onlyGivenNames x1
  extract_lets +onlyGivenNames x2
  refine Only.ite ?_ ?_
  · exact h
  · split
    · exact h
    · extract_lets +onlyGivenNames x3
      have hx3 : Only L s0 x3 := by
        unfold x3
        refine State.wakePackage_only ?_ (List.Subset.trans (by decide) hl) _ _
        exact h
      clear_value x3
      refine Only.ite ?_ ?_
      · refine State.modQueue_only ?_ (List.Subset.trans (by decide) hl) _ _ _
        exact hx3
      · refine State.ring_only ?_ (List.Subset.trans (by decide) hl) _ _ _ _
        exact hx3
theorem State.discard_only (h : Only L s0 s) (hl : [Part.stalls] ⊆ L) (n : StallNo) (k : Nat) (l : List Entry) :
    Only L s0 (State.discard s n k l) := by
  unfold State.discard
  refine State.modStall_only ?_ (List.Subset.trans (by decide) hl) _ _
  exact h
theorem State.publishDrover_only (h : Only L s0 s) (hl : [Part.vf, Part.out, Part.hostMem, Part.stalls, Part.hbm, Part.poison, Part.lineSlot, Part.mee, Part.sessions] ⊆ L) (n : StallNo) (k : Nat) (busy : Nat) :
    Only L s0 (State.publishDrover s n k busy) := by
  unfold State.publishDrover
  split
  · exact h
  · refine Only.ite ?_ ?_
    · exact h
    · extract_lets +onlyGivenNames x1
      have hx1 : Only L s0 x1 := by
        unfold x1
        refine State.modDrover_only ?_ (List.Subset.trans (by decide) hl) _ _
        exact h
      clear_value x1
      refine State.outPublish_only ?_ (List.Subset.trans (by decide) hl) _ _ _
      exact hx1
theorem State.publishCheck_only (h : Only L s0 s) (hl : [Part.vf, Part.out, Part.hostMem, Part.stalls, Part.hbm, Part.poison, Part.lineSlot, Part.mee, Part.sessions] ⊆ L) (n : StallNo) (k : Nat) (c : Check) :
    Only L s0 (State.publishCheck s n k c) := by
  unfold State.publishCheck
  split
  · extract_lets +onlyGivenNames x1
    extract_lets +onlyGivenNames x2
    extract_lets +onlyGivenNames x3
    extract_lets +onlyGivenNames x4
    have hx4 : Only L s0 x4 := by
      unfold x4
      refine Only.ite ?_ ?_
      · exact h
      · refine State.discard_only ?_ (List.Subset.trans (by decide) hl) _ _ _
        exact h
    clear_value x4
    extract_lets +onlyGivenNames x5
    extract_lets +onlyGivenNames x6
    extract_lets +onlyGivenNames x7
    extract_lets +onlyGivenNames x8
    extract_lets +onlyGivenNames x9
    extract_lets +onlyGivenNames x10
    have hx10 : Only L s0 x10 := by
      unfold x10
      refine State.modDrover_only ?_ (List.Subset.trans (by decide) hl) _ _
      exact hx4
    clear_value x10
    extract_lets +onlyGivenNames x11
    have hx11 : Only L s0 x11 := by
      unfold x11
      refine State.publish_only ?_ (List.Subset.trans (by decide) hl) _ _ _ _
      exact hx10
    clear_value x11
    refine Only.ite ?_ ?_
    · refine State.publishDrover_only ?_ (List.Subset.trans (by decide) hl) _ _ _
      exact hx11
    · exact hx11
  · exact h
theorem acceptancePublish_only (h : Only L s0 s) (hl : [Part.pf, Part.vf, Part.history, Part.out, Part.hostMem, Part.clusters, Part.stalls, Part.hbm, Part.poison, Part.lineSlot, Part.mee, Part.power, Part.acct, Part.tl, Part.sessions, Part.free] ⊆ L) (q : QueueId) :
    Only L s0 (acceptancePublish q s) := by
  unfold acceptancePublish
  extract_lets +onlyGivenNames x1
  extract_lets +onlyGivenNames x2
  split
  · exact h
  · refine State.wakeQueue_only ?_ (List.Subset.trans (by decide) hl) _ _
    refine State.publishCheck_only ?_ (List.Subset.trans (by decide) hl) _ _ _
    exact h
theorem consumedWrite_only (h : Only L s0 s) (hl : [Part.vf, Part.out, Part.hostMem, Part.stalls, Part.hbm, Part.poison, Part.lineSlot, Part.mee, Part.sessions] ⊆ L) (q : QueueId) (v : U32) :
    Only L s0 (consumedWrite q v s) := by
  unfold consumedWrite
  extract_lets +onlyGivenNames x1
  extract_lets +onlyGivenNames x2
  split
  · exact h
  · refine Only.ite ?_ ?_
    · refine State.modQueue_only ?_ (List.Subset.trans (by decide) hl) _ _ _
      exact h
    · extract_lets +onlyGivenNames x3
      extract_lets +onlyGivenNames x4
      extract_lets +onlyGivenNames x5
      have hx5 : Only L s0 x5 := by
        unfold x5
        refine State.modQueue_only ?_ (List.Subset.trans (by decide) hl) _ _ _
        exact h
      clear_value x5
      refine Only.ite ?_ ?_
      · refine State.publish_only ?_ (List.Subset.trans (by decide) hl) _ _ _ _
        exact hx5
      · exact hx5
theorem qdbAsnLoRead_only (h : Only L s0 s) (hl : [Part.pf, Part.vf, Part.rtpLat, Part.out] ⊆ L) (p : HostPort) (q : QueueId) :
    Only L s0 (qdbAsnLoRead p q s) := by
  unfold qdbAsnLoRead
  extract_lets +onlyGivenNames x1
  extract_lets +onlyGivenNames x2
  refine Only.ite ?_ ?_
  · exact h
  · refine State.emit_only ?_ (List.Subset.trans (by decide) hl) _
    refine State.setLat_only ?_ (List.Subset.trans (by decide) hl) _ _
    exact h
theorem State.dropImage_only (h : Only L s0 s) (hl : [Part.pf, Part.vf, Part.history, Part.out, Part.stalls] ⊆ L) (n : Nat) (m : Req) :
    Only L s0 (State.dropImage s n m) := by
  unfold State.dropImage
  extract_lets +onlyGivenNames x1
  split
  · refine State.mbAnswer_only ?_ (List.Subset.trans (by decide) hl) _ _ _
    exact h
  · extract_lets +onlyGivenNames x2
    have hx2 : Only L s0 x2 := by
      unfold x2
      refine State.modStall_only ?_ (List.Subset.trans (by decide) hl) _ _
      exact h
    clear_value x2
    refine State.mbAnswer_only ?_ (List.Subset.trans (by decide) hl) _ _ _
    refine State.logAppend_only ?_ (List.Subset.trans (by decide) hl) _ _ _ _ _
    exact hx2
theorem State.finishDrops_only (h : Only L s0 s) (hl : [Part.pf, Part.vf, Part.history, Part.out, Part.stalls] ⊆ L) (n : Nat) :
    Only L s0 (State.finishDrops s n) := by
  unfold State.finishDrops
  split
  · exact h
  · extract_lets +onlyGivenNames x1
    refine Only.ite ?_ ?_
    · exact h
    · extract_lets +onlyGivenNames x2
      extract_lets +onlyGivenNames x3
      have hx3 : Only L s0 x3 := by
        unfold x3
        refine State.setStall_only ?_ (List.Subset.trans (by decide) hl) _ _
        exact h
      clear_value x3
      refine forAll_only ?_ _ _ ?_
      · exact hx3
      · intro x4
        intro x5
        intro h6
        refine State.dropImage_only ?_ (List.Subset.trans (by decide) hl) _ _
        exact h6
theorem commandEnd_only (h : Only L s0 s) (hl : [Part.pf, Part.vf, Part.history, Part.out, Part.stalls] ⊆ L) (q : QueueId) (pos : U32) :
    Only L s0 (commandEnd q pos s) := by
  unfold commandEnd
  refine State.finishDrops_only ?_ (List.Subset.trans (by decide) hl) _
  refine State.modEntry_only ?_ (List.Subset.trans (by decide) hl) _ _ _ _
  exact h
theorem State.passWaitQueue_only (h : Only L s0 s) (hl : [Part.stalls] ⊆ L) (n : Nat) (k : Nat) :
    Only L s0 (State.passWaitQueue s n k) := by
  unfold State.passWaitQueue
  split
  · exact h
  · refine State.modStall_only ?_ (List.Subset.trans (by decide) hl) _ _
    exact h
theorem completionVisible_only (h : Only L s0 s) (hl : [Part.pf, Part.vf, Part.history, Part.out, Part.hostMem, Part.stalls, Part.hbm, Part.poison, Part.lineSlot, Part.mee, Part.sessions] ⊆ L) (q : QueueId) :
    Only L s0 (completionVisible q s) := by
  unfold completionVisible
  extract_lets +onlyGivenNames x1
  extract_lets +onlyGivenNames x2
  split
  · exact h
  · split
    · exact h
    · refine Only.ite ?_ ?_
      · refine State.finishDrops_only ?_ (List.Subset.trans (by decide) hl) _
        refine State.passWaitQueue_only ?_ (List.Subset.trans (by decide) hl) _ _
        refine State.makeVisible_only ?_ (List.Subset.trans (by decide) hl) _ _ _
        exact h
      · exact h
theorem queueRebind_only (h : Only L s0 s) (hl : [Part.gtb, Part.pf, Part.vf, Part.history, Part.out, Part.hostMem, Part.clusters, Part.stalls, Part.hbm, Part.poison, Part.lineSlot, Part.mee, Part.power, Part.acct, Part.tl, Part.side, Part.sessions, Part.free] ⊆ L) (m : Req) :
    Only L s0 (queueRebind m s) := by
  unfold queueRebind
  extract_lets +onlyGivenNames x1
  clear_value x1
  refine State.mbServeA_only ?_ (List.Subset.trans (by decide) hl) _ _ _ ?_
  · exact h
  · intro x2
    intro h3
    split
    · extract_lets +onlyGivenNames x4
      clear_value x4
      split
      · refine State.refuseFree_only ?_ (List.Subset.trans (by decide) hl)
        exact h3
      · split
        · refine State.refuseFree_only ?_ (List.Subset.trans (by decide) hl)
          exact h3
        · extract_lets +onlyGivenNames x5
          have hx5 : Only L s0 x5 := by
            unfold x5
            refine State.setCounter_only ?_ (List.Subset.trans (by decide) hl) _ _ _ _
            refine State.setCounter_only ?_ (List.Subset.trans (by decide) hl) _ _ _ _
            exact h3
          clear_value x5
          extract_lets +onlyGivenNames x6
          have hx6 : Only L s0 x6 := by
            unfold x6
            refine State.modQueue_only ?_ (List.Subset.trans (by decide) hl) _ _ _
            exact hx5
          clear_value x6
          extract_lets +onlyGivenNames x7
          have hx7 : Only L s0 x7 := by
            unfold x7
            refine State.writeHeader_only ?_ (List.Subset.trans (by decide) hl) _ _
            exact hx6
          clear_value x7
          extract_lets +onlyGivenNames x8
          have hx8 : Only L s0 x8 := by
            unfold x8
            refine forAll_only ?_ _ _ ?_
            · exact hx7
            · intro x9
              intro x10
              intro h11
              refine Only.getD (fun t ht => ?_) ?_
              · refine State.sealPage_only ?_ (List.Subset.trans (by decide) hl) _ _ _ _ _ _ _ _ _ (by assumption)
                exact h11
              · refine State.ringDead_only ?_ (List.Subset.trans (by decide) hl) _ _
                exact h11
          clear_value x8
          dsimp only
          refine State.wakeQueue_only ?_ (List.Subset.trans (by decide) hl) _ _
          exact hx8
    · refine State.refuseFree_only ?_ (List.Subset.trans (by decide) hl)
      exact h3
end Sys2Proof.Machine
end

