-- ==== Sys2Proof/Laws/Replan.lean ====
section
/-! SUPPORT. Machine/Replan.lean: what each of its operations keeps, and the parts it changes. -/

namespace Sys2Proof.Machine

variable {L : List Part} {s0 s : State}

theorem State.modChg_only (h : Only L s0 s) (hl : [Part.yard] ⊆ L) (f : Change → Change) :
    Only L s0 (State.modChg s f) := by
  unfold State.modChg
  refine Only.yard ?_ _ (hl (by decide))
  exact h
theorem State.checkClean_only (h : Only L s0 s) (hl : [Part.yard] ⊆ L) :
    Only L s0 (State.checkClean s) := by
  unfold State.checkClean
  split
  · exact h
  · extract_lets +onlyGivenNames x1
    refine Only.ite ?_ ?_
    · refine State.modChg_only ?_ (List.Subset.trans (by decide) hl) _
      exact h
    · exact h
theorem State.clearArea_only (h : Only L s0 s) (hl : [Part.yard, Part.rg] ⊆ L) (n : Nat) (b : Nat) (mibs : Nat) :
    Only L s0 (State.clearArea s n b mibs) := by
  unfold State.clearArea
  refine Only.ite ?_ ?_
  · exact h
  · refine State.modChg_only ?_ (List.Subset.trans (by decide) hl) _
    refine State.addJob_only ?_ (List.Subset.trans (by decide) hl) _ _ _
    exact h
theorem State.closeAbort_only (h : Only L s0 s) (hl : [Part.yard, Part.rg] ⊆ L) :
    Only L s0 (State.closeAbort s) := by
  unfold State.closeAbort
  split
  · exact h
  · refine Only.ite ?_ ?_
    · exact h
    · extract_lets +onlyGivenNames x1
      have hx1 : Only L s0 x1 := by
        unfold x1
        refine State.modChg_only ?_ (List.Subset.trans (by decide) hl) _
        exact h
      clear_value x1
      refine forAll_only ?_ _ _ ?_
      · exact hx1
      · intro x2
        intro x3
        intro h4
        refine State.clearArea_only ?_ (List.Subset.trans (by decide) hl) _ _ _
        exact h4
theorem State.startGroom_only (h : Only L s0 s) (hl : [Part.yard, Part.prot, Part.rg] ⊆ L) :
    Only L s0 (State.startGroom s) := by
  unfold State.startGroom
  split
  · exact h
  · extract_lets +onlyGivenNames x1
    extract_lets +onlyGivenNames x2
    extract_lets +onlyGivenNames x3
    extract_lets +onlyGivenNames x4
    have hx4 : Only L s0 x4 := by
      unfold x4
      refine Only.ite ?_ ?_
      · refine State.closeAbort_only ?_ (List.Subset.trans (by decide) hl)
        exact h
      · exact h
    clear_value x4
    extract_lets +onlyGivenNames x5
    extract_lets +onlyGivenNames x6
    have hx6 : Only L s0 x6 := by
      unfold x6
      refine Only.prot ?_ _ (hl (by decide))
      exact hx4
    clear_value x6
    refine State.checkClean_only ?_ (List.Subset.trans (by decide) hl)
    refine State.modChg_only ?_ (List.Subset.trans (by decide) hl) _
    exact hx6
theorem groomBayCleared_only (h : Only L s0 s) (hl : [Part.yard, Part.pf, Part.vf, Part.history, Part.out, Part.hbm, Part.poison, Part.lineSlot, Part.prot, Part.rg, Part.side] ⊆ L) (b : Fin 128) :
    Only L s0 (groomBayCleared b s) := by
  unfold groomBayCleared
  refine Only.ite ?_ ?_
  · extract_lets +onlyGivenNames x1
    have hx1 : Only L s0 x1 := by
      unfold x1
      refine State.groomBay_only ?_ (List.Subset.trans (by decide) hl) _
      exact h
    have e1 : x1.prot = s.prot := (State.groomBay_only (Only.refl _ s) (List.Subset.refl _) _).rest .prot (by decide)
    clear_value x1
    extract_lets +onlyGivenNames x2
    extract_lets +onlyGivenNames x3
    have hx3 : Only L s0 x3 := by
      unfold x3
      refine State.settleBay_only ?_ (List.Subset.trans (by decide) hl) _
      refine Only.prot ?_ _ (hl (by decide)) (congrArg (fun p : Prot => p.bank.toNat) e1).le (fun c => by rw [e1] at c; exact c)
      exact hx1
    clear_value x3
    extract_lets +onlyGivenNames x4
    have hx4 : Only L s0 x4 := by
      unfold x4
      refine State.modChg_only ?_ (List.Subset.trans (by decide) hl) _
      exact hx3
    clear_value x4
    refine State.zeroiseProgress_only ?_ (List.Subset.trans (by decide) hl)
    refine State.groomProgress_only ?_ (List.Subset.trans (by decide) hl)
    refine State.checkClean_only ?_ (List.Subset.trans (by decide) hl)
    refine Only.ite ?_ ?_
    · refine State.setOwners_only ?_ (List.Subset.trans (by decide) hl)
      exact hx4
    · exact hx4
  · split
    · exact h
    · refine State.checkClean_only ?_ (List.Subset.trans (by decide) hl)
      refine State.modChg_only ?_ (List.Subset.trans (by decide) hl) _
      refine State.endJob_only ?_ (List.Subset.trans (by decide) hl) _ _
      exact h
theorem slotClean_only (h : Only L s0 s) (hl : [Part.yard, Part.hbm, Part.poison, Part.lineSlot, Part.prot] ⊆ L) (k : Fin 1024) :
    Only L s0 (slotClean k s) := by
  unfold slotClean
  refine Only.ite ?_ ?_
  · exact h
  · extract_lets +onlyGivenNames x1
    have hx1 : Only L s0 x1 := by
      unfold x1
      refine State.clearReach_only ?_ (List.Subset.trans (by decide) hl) _
      exact h
    clear_value x1
    refine Only.ite ?_ ?_
    · exact hx1
    · refine State.groomProgress_only ?_ (List.Subset.trans (by decide) hl)
      refine State.checkClean_only ?_ (List.Subset.trans (by decide) hl)
      refine Only.ite ?_ ?_
      · refine State.setOwners_only ?_ (List.Subset.trans (by decide) hl)
        exact hx1
      · exact hx1
theorem State.quarantine_only (h : Only L s0 s) (hl : [Part.yard, Part.prot] ⊆ L) (n : Nat) :
    Only L s0 (State.quarantine s n) := by
  unfold State.quarantine
  split
  · exact h
  · extract_lets +onlyGivenNames x1
    extract_lets +onlyGivenNames x2
    extract_lets +onlyGivenNames x2b
    extract_lets +onlyGivenNames x3
    have hx3 : Only L s0 x3 := by
      unfold x3
      refine State.modChg_only ?_ (List.Subset.trans (by decide) hl) _
      exact h
    clear_value x3
    refine forAll_only ?_ _ _ ?_
    · exact hx3
    · intro x4
      intro x5
      intro h6
      refine State.releaseSlot_only ?_ (List.Subset.trans (by decide) hl) _ _
      exact h6
theorem State.settled_only (h : Only L s0 s) (hl : [Part.yard] ⊆ L) (n : Nat) :
    Only L s0 (State.settled s n) := by
  unfold State.settled
  refine State.modChg_only ?_ (List.Subset.trans (by decide) hl) _
  exact h
theorem State.resumeStall_only (h : Only L s0 s) (hl : [Part.stalls] ⊆ L) (n : Nat) :
    Only L s0 (State.resumeStall s n) := by
  unfold State.resumeStall
  refine State.modStall_only ?_ (List.Subset.trans (by decide) hl) _ _
  exact h
theorem State.endHoldRec_only (h : Only L s0 s) (hl : [Part.yard] ⊆ L) (action : Nat) :
    Only L s0 (State.endHoldRec s action) := by
  unfold State.endHoldRec
  split
  · exact h
  · extract_lets +onlyGivenNames x1
    extract_lets +onlyGivenNames x2
    have hx2 : Only L s0 x2 := by
      unfold x2
      refine State.modChg_only ?_ (List.Subset.trans (by decide) hl) _
      exact h
    clear_value x2
    extract_lets +onlyGivenNames x3
    refine Only.yard ?_ _ (hl (by decide))
    exact hx2
theorem State.afterRelease_only (h : Only L s0 s) (hl : [Part.yard, Part.prot, Part.rg] ⊆ L) (n : Nat) :
    Only L s0 (State.afterRelease s n) := by
  unfold State.afterRelease
  extract_lets +onlyGivenNames x1
  have hx1 : Only L s0 x1 := by
    unfold x1
    refine State.setOwners_only ?_ (List.Subset.trans (by decide) hl)
    refine State.modChg_only ?_ (List.Subset.trans (by decide) hl) _
    exact h
  clear_value x1
  split
  · exact hx1
  · extract_lets +onlyGivenNames x2
    have hx2 : Only L s0 x2 := by
      unfold x2
      refine Only.ite ?_ ?_
      · refine State.modChg_only ?_ (List.Subset.trans (by decide) hl) _
        refine State.endHoldRec_only ?_ (List.Subset.trans (by decide) hl) _
        exact hx1
      · exact hx1
    clear_value x2
    refine Only.ite ?_ ?_
    · refine State.startGroom_only ?_ (List.Subset.trans (by decide) hl)
      exact hx2
    · exact hx2
theorem State.releaseStall_only (h : Only L s0 s) (hl : [Part.gates, Part.yard, Part.pf, Part.vf, Part.history, Part.out, Part.hostMem, Part.clusters, Part.stalls, Part.hbm, Part.poison, Part.lineSlot, Part.mee, Part.prot, Part.power, Part.rg, Part.tl, Part.sessions, Part.free] ⊆ L) (n : StallNo) :
    Only L s0 (State.releaseStall n s) := by
  unfold State.releaseStall
  split
  · split
    · extract_lets +onlyGivenNames x1
      extract_lets +onlyGivenNames x2
      have hx2 : Only L s0 x2 := by
        unfold x2
        refine State.quarantine_only ?_ (List.Subset.trans (by decide) hl) _
        exact h
      clear_value x2
      extract_lets +onlyGivenNames x3
      extract_lets +onlyGivenNames x4
      extract_lets +onlyGivenNames x5
      have hx5 : Only L s0 x5 := by
        unfold x5
        refine State.modStall_only ?_ (List.Subset.trans (by decide) hl) _ _
        exact hx2
      clear_value x5
      extract_lets +onlyGivenNames x6
      have hx6 : Only L s0 x6 := by
        unfold x6
        refine forAll_only ?_ _ _ ?_
        · exact hx5
        · intro x7
          intro x8
          intro h9
          refine State.modStall_only ?_ (List.Subset.trans (by decide) hl) _ _
          refine State.killCtx_only ?_ (List.Subset.trans (by decide) hl) _ _ _
          exact h9
      clear_value x6
      extract_lets +onlyGivenNames x10
      extract_lets +onlyGivenNames x11
      have hx11 : Only L s0 x11 := by
        unfold x11
        refine Only.ite ?_ ?_
        · refine State.settled_only ?_ (List.Subset.trans (by decide) hl) _
          refine State.rehold_only ?_ (List.Subset.trans (by decide) hl) _ _ _
          exact hx6
        · refine State.rehold_only ?_ (List.Subset.trans (by decide) hl) _ _ _
          exact hx6
      clear_value x11
      refine State.afterRelease_only ?_ (List.Subset.trans (by decide) hl) _
      refine State.answerManifests_only ?_ (List.Subset.trans (by decide) hl) _
      refine State.resumeStall_only ?_ (List.Subset.trans (by decide) hl) _
      exact hx11
    · exact h
  · exact h
theorem State.answerWaitingOf_only (h : Only L s0 s) (hl : [Part.pf, Part.vf, Part.history, Part.out] ⊆ L) (a1 : Stall) :
    Only L s0 (State.answerWaitingOf s a1) := by
  unfold State.answerWaitingOf
  extract_lets +onlyGivenNames x1
  have hx1 : ∀ x1a0 x1a1 x1a2, Only L s0 x1a2 → Only L s0 (x1 x1a0 x1a1 x1a2) := by
    intro x1a0 x1a1 x1a2 hx10
    unfold x1
    refine forAll_only ?_ _ _ ?_
    · exact hx10
    · intro x2
      intro x3
      intro h4
      refine State.mbAnswer_only ?_ (List.Subset.trans (by decide) hl) _ _ _
      exact h4
  clear_value x1
  extract_lets +onlyGivenNames x5
  have hx5 : Only L s0 x5 := by
    unfold x5
    refine State.answerAll_only ?_ (List.Subset.trans (by decide) hl) _ _ _
    refine hx1 _ _ _ ?_
    refine hx1 _ _ _ ?_
    exact h
  clear_value x5
  refine hx1 _ _ _ ?_
  refine hx1 _ _ _ ?_
  refine hx1 _ _ _ ?_
  refine hx1 _ _ _ ?_
  exact hx5
theorem State.endSessions_only (h : Only L s0 s) (hl : [Part.side, Part.sessions] ⊆ L) (n : Nat) :
    Only L s0 (State.endSessions s n) := by
  unfold State.endSessions
  refine Only.more (s := (s)) ?_ _ ⟨rfl, rfl, rfl, rfl, Nat.le_refl _, List.prefix_rfl, id, id, fun _ => Nat.le_refl _, Nat.le_refl _, id⟩ (fun p hn => by cases p <;> first | rfl | exact ⟨rfl, rfl, rfl⟩ | exact ⟨rfl, rfl⟩ | exact absurd (hl (by decide)) hn)
  exact h
theorem State.deleteStall_only (h : Only L s0 s) (hl : [Part.gates, Part.yard, Part.pf, Part.vf, Part.unreach, Part.history, Part.out, Part.hostMem, Part.clusters, Part.stalls, Part.hbm, Part.poison, Part.lineSlot, Part.mee, Part.prot, Part.power, Part.acct, Part.rg, Part.tl, Part.side, Part.sessions, Part.free] ⊆ L) (n : StallNo) :
    Only L s0 (State.deleteStall n s) := by
  unfold State.deleteStall
  extract_lets +onlyGivenNames x1
  have hx1 : Only L s0 x1 := by
    unfold x1
    refine State.wakeQueues_only ?_ (List.Subset.trans (by decide) hl) _
    exact h
  clear_value x1
  extract_lets +onlyGivenNames x2
  have hx2 : Only L s0 x2 := by
    unfold x2
    refine State.recallLoans_only ?_ (List.Subset.trans (by decide) hl) _
    refine State.killAll_only ?_ (List.Subset.trans (by decide) hl) _ _
    exact hx1
  clear_value x2
  split
  · extract_lets +onlyGivenNames x3
    have hx3 : Only L s0 x3 := by
      unfold x3
      refine State.endSessions_only ?_ (List.Subset.trans (by decide) hl) _
      refine State.answerWaitingOf_only ?_ (List.Subset.trans (by decide) hl) _
      exact hx2
    clear_value x3
    extract_lets +onlyGivenNames x4
    extract_lets +onlyGivenNames x5
    extract_lets +onlyGivenNames x6
    have hx6 : Only L s0 x6 := by
      unfold x6
      refine Only.yard ?_ _ (hl (by decide))
      exact hx3
    clear_value x6
    extract_lets +onlyGivenNames x7
    have hx7 : Only L s0 x7 := by
      unfold x7
      refine State.leaveBays_only ?_ (List.Subset.trans (by decide) hl) _
      refine State.quarantine_only ?_ (List.Subset.trans (by decide) hl) _
      refine State.dropDebug_only ?_ (List.Subset.trans (by decide) hl) _
      exact hx6
    clear_value x7
    extract_lets +onlyGivenNames x8
    have hx8 : Only L s0 x8 := by
      unfold x8
      refine State.resetGates_only ?_ (List.Subset.trans (by decide) hl) _
      exact hx7
    clear_value x8
    extract_lets +onlyGivenNames x9
    have hx9 : Only L s0 x9 := by
      unfold x9
      refine forAll_only ?_ _ _ ?_
      · exact hx8
      · intro x10
        intro x11
        intro h12
        refine State.clearArea_only ?_ (List.Subset.trans (by decide) hl) _ _ _
        exact h12
    clear_value x9
    extract_lets +onlyGivenNames x13
    extract_lets +onlyGivenNames x14
    have hx14 : Only L s0 x14 := by
      unfold x14
      refine Only.more (s := (x9)) ?_ _ ⟨rfl, rfl, rfl, rfl, Nat.le_refl _, List.prefix_rfl, id, id, fun _ => Nat.le_refl _, Nat.le_refl _, id⟩ (fun p hn => by cases p <;> first | rfl | exact ⟨rfl, rfl, rfl⟩ | exact ⟨rfl, rfl⟩ | exact absurd (hl (by decide)) hn)
      exact hx9
    clear_value x14
    extract_lets +onlyGivenNames x15
    have hx15 : Only L s0 x15 := by
      unfold x15
      refine State.setQuotas_only ?_ (List.Subset.trans (by decide) hl)
      exact hx14
    clear_value x15
    refine State.afterRelease_only ?_ (List.Subset.trans (by decide) hl) _
    refine State.modChg_only ?_ (List.Subset.trans (by decide) hl) _
    refine State.settled_only ?_ (List.Subset.trans (by decide) hl) _
    refine State.pfCause_only ?_ (List.Subset.trans (by decide) hl) _
    exact hx15
  · exact hx2
theorem State.beginPhase_only (h : Only L s0 s) (hl : [Part.gates, Part.yard, Part.pf, Part.vf, Part.unreach, Part.history, Part.out, Part.hostMem, Part.clusters, Part.stalls, Part.hbm, Part.poison, Part.lineSlot, Part.mee, Part.prot, Part.power, Part.acct, Part.rg, Part.tl, Part.side, Part.sessions, Part.free] ⊆ L) (k : Nat) :
    Only L s0 (State.beginPhase s k) := by
  unfold State.beginPhase
  extract_lets +onlyGivenNames x1
  have hx1 : Only L s0 x1 := by
    unfold x1
    refine State.modChg_only ?_ (List.Subset.trans (by decide) hl) _
    exact h
  clear_value x1
  split
  · exact hx1
  · extract_lets +onlyGivenNames x2
    extract_lets +onlyGivenNames x3
    have hx3 : Only L s0 x3 := by
      unfold x3
      refine forAll_only ?_ _ _ ?_
      · exact hx1
      · intro x4
        intro x5
        intro h6
        refine State.modStall_only ?_ (List.Subset.trans (by decide) hl) _ _
        exact h6
    clear_value x3
    refine forAll_only ?_ _ _ ?_
    · exact hx3
    · intro x7
      intro x8
      intro h9
      refine onStall_only ?_ _ _ ?_
      · exact h9
      · intro x10
        intro x11
        intro h12
        refine State.deleteStall_only ?_ (List.Subset.trans (by decide) hl) _
        exact h12
theorem State.endChange_only (h : Only L s0 s) (hl : [Part.yard, Part.stalls] ⊆ L) (outcome : Nat) :
    Only L s0 (State.endChange s outcome) := by
  unfold State.endChange
  split
  · exact h
  · extract_lets +onlyGivenNames x1
    refine Only.more (s := (s)) ?_ _ ⟨rfl, rfl, rfl, rfl, Nat.le_refl _, List.prefix_rfl, id, id, fun _ => Nat.le_refl _, Nat.le_refl _, id⟩ (fun p hn => by cases p <;> first | rfl | exact ⟨rfl, rfl, rfl⟩ | exact ⟨rfl, rfl⟩ | exact absurd (hl (by decide)) hn)
    exact h
theorem State.completeChange_only (h : Only L s0 s) (hl : [Part.yard, Part.pf, Part.out, Part.stalls, Part.rsv, Part.rg] ⊆ L) :
    Only L s0 (State.completeChange s) := by
  unfold State.completeChange
  split
  · exact h
  · extract_lets +onlyGivenNames x1
    extract_lets +onlyGivenNames x2
    have hx2 : Only L s0 x2 := by
      unfold x2
      refine State.endChange_only ?_ (List.Subset.trans (by decide) hl) _
      exact h
    clear_value x2
    extract_lets +onlyGivenNames x3
    extract_lets +onlyGivenNames x4
    extract_lets +onlyGivenNames x5
    have hx5 : Only L s0 x5 := by
      unfold x5
      refine Only.more (s := (x2)) ?_ _ ⟨rfl, rfl, rfl, rfl, Nat.le_refl _, List.prefix_rfl, id, id, fun _ => Nat.le_refl _, Nat.le_refl _, id⟩ (fun p hn => by cases p <;> first | rfl | exact ⟨rfl, rfl, rfl⟩ | exact ⟨rfl, rfl⟩ | exact absurd (hl (by decide)) hn)
      exact hx2
    clear_value x5
    refine State.storePlan_only ?_ (List.Subset.trans (by decide) hl) _ _ _
    refine State.pfCause_only ?_ (List.Subset.trans (by decide) hl) _
    refine State.clearShort_only ?_ (List.Subset.trans (by decide) hl)
    refine State.setOwners_only ?_ (List.Subset.trans (by decide) hl)
    exact hx5
theorem State.grantStall_only (h : Only L s0 s) (hl : [Part.gates, Part.yard, Part.pf, Part.vf, Part.history, Part.out, Part.hostMem, Part.clusters, Part.stalls, Part.hbm, Part.poison, Part.lineSlot, Part.mee, Part.prot, Part.power, Part.acct, Part.sessions, Part.free] ⊆ L) (n : Nat) :
    Only L s0 (State.grantStall s n) := by
  unfold State.grantStall
  split
  · exact h
  · split
    · exact h
    · extract_lets +onlyGivenNames x1
      refine Only.ite ?_ ?_
      · refine State.settled_only ?_ (List.Subset.trans (by decide) hl) _
        refine State.defineStall_only ?_ (List.Subset.trans (by decide) hl) _ _ _
        exact h
      · extract_lets +onlyGivenNames x2
        have hx2 : Only L s0 x2 := by
          unfold x2
          refine forAll_only ?_ _ _ ?_
          · exact h
          · intro x3
            intro x4
            intro h5
            refine State.grantSlot_only ?_ (List.Subset.trans (by decide) hl) _
            exact h5
        clear_value x2
        refine onStall_only ?_ _ _ ?_
        · exact hx2
        · intro x6
          intro x7
          intro h8
          refine State.answerManifests_only ?_ (List.Subset.trans (by decide) hl) _
          refine State.settled_only ?_ (List.Subset.trans (by decide) hl) _
          refine State.rehold_only ?_ (List.Subset.trans (by decide) hl) _ _ _
          exact h8
theorem State.doGrants_only (h : Only L s0 s) (hl : [Part.gates, Part.yard, Part.pf, Part.vf, Part.history, Part.out, Part.hostMem, Part.clusters, Part.stalls, Part.hbm, Part.poison, Part.lineSlot, Part.mee, Part.prot, Part.power, Part.acct, Part.rsv, Part.rg, Part.tl, Part.sessions, Part.free] ⊆ L) :
    Only L s0 (State.doGrants s) := by
  unfold State.doGrants
  split
  · exact h
  · extract_lets +onlyGivenNames x1
    have hx1 : Only L s0 x1 := by
      unfold x1
      refine forAll_only ?_ _ _ ?_
      · exact h
      · intro x2
        intro x3
        intro h4
        refine State.grantStall_only ?_ (List.Subset.trans (by decide) hl) _
        exact h4
    clear_value x1
    extract_lets +onlyGivenNames x5
    have hx5 : Only L s0 x5 := by
      unfold x5
      refine State.setOwners_only ?_ (List.Subset.trans (by decide) hl)
      refine State.modChg_only ?_ (List.Subset.trans (by decide) hl) _
      exact hx1
    clear_value x5
    extract_lets +onlyGivenNames x6
    have hx6 : Only L s0 x6 := by
      unfold x6
      refine Only.ite ?_ ?_
      · refine State.completeChange_only ?_ (List.Subset.trans (by decide) hl)
        exact hx5
      · refine State.modChg_only ?_ (List.Subset.trans (by decide) hl) _
        exact hx5
    clear_value x6
    refine Only.ite ?_ ?_
    · refine State.beginWarm_only ?_ (List.Subset.trans (by decide) hl) _
      exact hx6
    · exact hx6
theorem State.enterHold_only (h : Only L s0 s) (hl : [Part.yard, Part.pf, Part.out] ⊆ L) (l : List Nat) (atGrant : Bool) :
    Only L s0 (State.enterHold s l atGrant) := by
  unfold State.enterHold
  refine State.pfCause_only ?_ (List.Subset.trans (by decide) hl) _
  refine State.modChg_only ?_ (List.Subset.trans (by decide) hl) _
  exact h
theorem State.grantTick_only (h : Only L s0 s) (hl : [Part.gates, Part.yard, Part.pf, Part.vf, Part.history, Part.out, Part.hostMem, Part.clusters, Part.stalls, Part.hbm, Part.poison, Part.lineSlot, Part.mee, Part.prot, Part.power, Part.acct, Part.rsv, Part.rg, Part.tl, Part.sessions, Part.free] ⊆ L) :
    Only L s0 (State.grantTick s) := by
  unfold State.grantTick
  split
  · exact h
  · extract_lets +onlyGivenNames x1
    extract_lets +onlyGivenNames x2
    extract_lets +onlyGivenNames x3
    refine Only.ite ?_ ?_
    · refine State.enterHold_only ?_ (List.Subset.trans (by decide) hl) _ _
      exact h
    · refine Only.ite ?_ ?_
      · refine State.modChg_only ?_ (List.Subset.trans (by decide) hl) _
        exact h
      · refine State.doGrants_only ?_ (List.Subset.trans (by decide) hl)
        exact h
theorem State.firstTick_only (h : Only L s0 s) (hl : [Part.gates, Part.yard, Part.pf, Part.vf, Part.history, Part.out, Part.hostMem, Part.clusters, Part.stalls, Part.hbm, Part.poison, Part.lineSlot, Part.mee, Part.prot, Part.power, Part.sessions, Part.free] ⊆ L) :
    Only L s0 (State.firstTick s) := by
  unfold State.firstTick
  split
  · exact h
  · extract_lets +onlyGivenNames x1
    extract_lets +onlyGivenNames x2
    have hx2 : Only L s0 x2 := by
      unfold x2
      refine Only.yard ?_ _ (hl (by decide))
      exact h
    clear_value x2
    extract_lets +onlyGivenNames x3
    have hx3 : Only L s0 x3 := by
      unfold x3
      refine forAll_only ?_ _ _ ?_
      · exact hx2
      · intro x4
        intro x5
        intro h6
        refine State.modStall_only ?_ (List.Subset.trans (by decide) hl) _ _
        exact h6
    clear_value x3
    extract_lets +onlyGivenNames x7
    have hx7 : Only L s0 x7 := by
      unfold x7
      refine forAll_only ?_ _ _ ?_
      · exact hx3
      · intro x8
        intro x9
        intro h10
        split
        · refine Only.ite ?_ ?_
          · refine State.reissue_only ?_ (List.Subset.trans (by decide) hl) _
            refine State.modStall_only ?_ (List.Subset.trans (by decide) hl) _ _
            exact h10
          · refine Only.ite ?_ ?_
            · refine State.rehold_only ?_ (List.Subset.trans (by decide) hl) _ _ _
              exact h10
            · refine State.answerManifests_only ?_ (List.Subset.trans (by decide) hl) _
              refine State.rehold_only ?_ (List.Subset.trans (by decide) hl) _ _ _
              exact h10
        · refine State.reissue_only ?_ (List.Subset.trans (by decide) hl) _
          refine State.modStall_only ?_ (List.Subset.trans (by decide) hl) _ _
          exact h10
        · exact h10
    clear_value x7
    refine State.setOwners_only ?_ (List.Subset.trans (by decide) hl)
    exact hx7
theorem changePhaseTick_only (h : Only L s0 s) (hl : [Part.gtb, Part.gates, Part.timers, Part.outs, Part.matrix, Part.yard, Part.pf, Part.vf, Part.unreach, Part.history, Part.out, Part.hostMem, Part.clusters, Part.stalls, Part.hbm, Part.poison, Part.lineSlot, Part.mee, Part.prot, Part.power, Part.acct, Part.rsv, Part.rg, Part.tl, Part.side, Part.sessions, Part.free] ⊆ L) :
    Only L s0 (changePhaseTick s) := by
  unfold changePhaseTick
  split
  · exact h
  · refine Only.ite ?_ ?_
    · exact h
    · extract_lets +onlyGivenNames x1
      have hx1 : Only L s0 x1 := by
        unfold x1
        refine State.advance_only ?_ (List.Subset.trans (by decide) hl) _
        exact h
      clear_value x1
      refine Only.ite ?_ ?_
      · refine State.beginPhase_only ?_ (List.Subset.trans (by decide) hl) _
        exact hx1
      · extract_lets +onlyGivenNames x2
        have hx2 : Only L s0 x2 := by
          unfold x2
          refine State.firstTick_only ?_ (List.Subset.trans (by decide) hl)
          exact hx1
        clear_value x2
        refine Only.ite ?_ ?_
        · refine State.beginPhase_only ?_ (List.Subset.trans (by decide) hl) _
          exact hx2
        · extract_lets +onlyGivenNames x3
          have hx3 : Only L s0 x3 := by
            unfold x3
            refine State.closeAbort_only ?_ (List.Subset.trans (by decide) hl)
            refine State.modChg_only ?_ (List.Subset.trans (by decide) hl) _
            exact hx2
          clear_value x3
          extract_lets +onlyGivenNames x4
          have hx4 : Only L s0 x4 := by
            unfold x4
            refine State.checkClean_only ?_ (List.Subset.trans (by decide) hl)
            exact hx3
          clear_value x4
          refine Only.ite ?_ ?_
          · refine State.grantTick_only ?_ (List.Subset.trans (by decide) hl)
            exact hx4
          · exact hx4
theorem stallPaused_only (h : Only L s0 s) (hl : [Part.gates, Part.yard, Part.pf, Part.vf, Part.history, Part.out, Part.hostMem, Part.clusters, Part.stalls, Part.hbm, Part.poison, Part.lineSlot, Part.mee, Part.prot, Part.power, Part.rg, Part.tl, Part.sessions, Part.free] ⊆ L) (n : StallNo) :
    Only L s0 (stallPaused n s) := by
  unfold stallPaused
  split
  · refine Only.ite ?_ ?_
    · refine State.releaseStall_only ?_ (List.Subset.trans (by decide) hl) _
      exact h
    · exact h
  · exact h
theorem changeHold_only (h : Only L s0 s) (hl : [Part.gtb, Part.timers, Part.outs, Part.matrix, Part.yard, Part.pf, Part.out] ⊆ L) (n : StallNo) :
    Only L s0 (changeHold n s) := by
  unfold changeHold
  split
  · refine Only.ite ?_ ?_
    · refine State.enterHold_only ?_ (List.Subset.trans (by decide) hl) _ _
      refine State.advance_only ?_ (List.Subset.trans (by decide) hl) _
      exact h
    · exact h
  · exact h
theorem changeGrantTick_only (h : Only L s0 s) (hl : [Part.gtb, Part.gates, Part.timers, Part.outs, Part.matrix, Part.yard, Part.pf, Part.vf, Part.history, Part.out, Part.hostMem, Part.clusters, Part.stalls, Part.hbm, Part.poison, Part.lineSlot, Part.mee, Part.prot, Part.power, Part.acct, Part.rsv, Part.rg, Part.tl, Part.sessions, Part.free] ⊆ L) :
    Only L s0 (changeGrantTick s) := by
  unfold changeGrantTick
  split
  · exact h
  · refine Only.ite ?_ ?_
    · refine State.grantTick_only ?_ (List.Subset.trans (by decide) hl)
      refine State.advance_only ?_ (List.Subset.trans (by decide) hl) _
      exact h
    · exact h
theorem State.forceHold_only (h : Only L s0 s) (hl : [Part.gates, Part.yard, Part.pf, Part.vf, Part.history, Part.out, Part.hostMem, Part.clusters, Part.stalls, Part.hbm, Part.poison, Part.lineSlot, Part.mee, Part.prot, Part.power, Part.acct, Part.rsv, Part.rg, Part.tl, Part.sessions, Part.free] ⊆ L) (action : Nat) :
    Only L s0 (State.forceHold s action) := by
  unfold State.forceHold
  split
  · exact h
  · extract_lets +onlyGivenNames x1
    have hx1 : Only L s0 x1 := by
      unfold x1
      refine State.modChg_only ?_ (List.Subset.trans (by decide) hl) _
      exact h
    clear_value x1
    refine Only.ite ?_ ?_
    · refine State.doGrants_only ?_ (List.Subset.trans (by decide) hl)
      refine State.modChg_only ?_ (List.Subset.trans (by decide) hl) _
      refine State.endHoldRec_only ?_ (List.Subset.trans (by decide) hl) _
      exact hx1
    · refine forAll_only ?_ _ _ ?_
      · exact hx1
      · intro x2
        intro x3
        intro h4
        refine onStall_only ?_ _ _ ?_
        · exact h4
        · intro x5
          intro x6
          intro h7
          split
          · exact h7
          · extract_lets +onlyGivenNames x8
            extract_lets +onlyGivenNames x9
            have hx9 : Only L s0 x9 := by
              unfold x9
              refine forAll_only ?_ _ _ ?_
              · exact h7
              · intro x10
                intro x11
                intro h12
                refine State.killCtx_only ?_ (List.Subset.trans (by decide) hl) _ _ _
                exact h12
            clear_value x9
            extract_lets +onlyGivenNames x13
            have hx13 : Only L s0 x13 := by
              unfold x13
              refine State.dropStep_only ?_ (List.Subset.trans (by decide) hl) _
              exact hx9
            clear_value x13
            refine State.releaseStall_only ?_ (List.Subset.trans (by decide) hl) _
            refine State.modChg_only ?_ (List.Subset.trans (by decide) hl) _
            exact hx13
theorem State.abortChange_only (h : Only L s0 s) (hl : [Part.gates, Part.yard, Part.pf, Part.vf, Part.history, Part.out, Part.hostMem, Part.clusters, Part.stalls, Part.hbm, Part.poison, Part.lineSlot, Part.mee, Part.prot, Part.power, Part.rg, Part.sessions, Part.free] ⊆ L) (sub : Nat) :
    Only L s0 (State.abortChange s sub) := by
  unfold State.abortChange
  split
  · exact h
  · extract_lets +onlyGivenNames x1
    have hx1 : Only L s0 x1 := by
      unfold x1
      refine Only.ite ?_ ?_
      · exact h
      · refine State.endHoldRec_only ?_ (List.Subset.trans (by decide) hl) _
        exact h
    clear_value x1
    extract_lets +onlyGivenNames x2
    extract_lets +onlyGivenNames x3
    have hx3 : Only L s0 x3 := by
      unfold x3
      refine Only.yard ?_ _ (hl (by decide))
      exact hx1
    clear_value x3
    extract_lets +onlyGivenNames x4
    extract_lets +onlyGivenNames x5
    have hx5 : Only L s0 x5 := by
      unfold x5
      refine forAll_only ?_ _ _ ?_
      · exact hx3
      · intro x6
        intro x7
        intro h8
        split
        · exact h8
        · split
          · exact h8
          · extract_lets +onlyGivenNames x9
            have hx9 : Only L s0 x9 := by
              unfold x9
              refine forAll_only ?_ _ _ ?_
              · exact h8
              · intro x10
                intro x11
                intro h12
                refine State.setSlot_only ?_ (List.Subset.trans (by decide) hl) _ _
                exact h12
            clear_value x9
            extract_lets +onlyGivenNames x13
            have hx13 : Only L s0 x13 := by
              unfold x13
              refine State.modStall_only ?_ (List.Subset.trans (by decide) hl) _ _
              exact hx9
            clear_value x13
            extract_lets +onlyGivenNames x14
            have hx14 : Only L s0 x14 := by
              unfold x14
              refine State.rehold_only ?_ (List.Subset.trans (by decide) hl) _ _ _
              exact hx13
            clear_value x14
            refine State.answerManifests_only ?_ (List.Subset.trans (by decide) hl) _
            refine State.resumeStall_only ?_ (List.Subset.trans (by decide) hl) _
            exact hx14
    clear_value x5
    extract_lets +onlyGivenNames x15
    extract_lets +onlyGivenNames x16
    extract_lets +onlyGivenNames x17
    have hx17 : Only L s0 x17 := by
      unfold x17
      refine Only.ite ?_ ?_
      · refine forAll_only ?_ _ _ ?_
        · exact hx1
        · intro x18
          intro x19
          intro h20
          refine Only.ite ?_ ?_
          · refine State.endJob_only ?_ (List.Subset.trans (by decide) hl) _ _
            exact h20
          · exact h20
      · refine Only.prot ?_ _ (hl (by decide))
        exact hx5
    clear_value x17
    extract_lets +onlyGivenNames x21
    have hx21 : Only L s0 x21 := by
      unfold x21
      refine State.endChange_only ?_ (List.Subset.trans (by decide) hl) _
      exact hx17
    clear_value x21
    extract_lets +onlyGivenNames x22
    extract_lets +onlyGivenNames x23
    have hx23 : Only L s0 x23 := by
      unfold x23
      refine Only.yard ?_ _ (hl (by decide))
      exact hx21
    clear_value x23
    refine State.pfCause_only ?_ (List.Subset.trans (by decide) hl) _
    refine State.setOwners_only ?_ (List.Subset.trans (by decide) hl)
    exact hx23
theorem planCancel_only (h : Only L s0 s) (hl : [Part.gtb, Part.gates, Part.yard, Part.pf, Part.vf, Part.history, Part.out, Part.hostMem, Part.clusters, Part.stalls, Part.hbm, Part.poison, Part.lineSlot, Part.mee, Part.prot, Part.power, Part.rg, Part.side, Part.sessions, Part.free] ⊆ L) (m : Req) :
    Only L s0 (planCancel m s) := by
  unfold planCancel
  refine State.mbServeA_only ?_ (List.Subset.trans (by decide) hl) _ _ _ ?_
  · exact h
  · intro x1
    intro h2
    split
    · dsimp only
      exact h2
    · split
      · dsimp only
        refine State.abortChange_only ?_ (List.Subset.trans (by decide) hl) _
        exact h2
      · dsimp only
        exact h2
    · dsimp only
      refine State.discardPlan_only ?_ (List.Subset.trans (by decide) hl) _
      exact h2
theorem changeForce_only (h : Only L s0 s) (hl : [Part.gtb, Part.gates, Part.yard, Part.pf, Part.vf, Part.history, Part.out, Part.hostMem, Part.clusters, Part.stalls, Part.hbm, Part.poison, Part.lineSlot, Part.mee, Part.prot, Part.power, Part.acct, Part.rsv, Part.rg, Part.tl, Part.side, Part.sessions, Part.free] ⊆ L) (m : Req) :
    Only L s0 (changeForce m s) := by
  unfold changeForce
  refine State.mbServeA_only ?_ (List.Subset.trans (by decide) hl) _ _ _ ?_
  · exact h
  · intro x1
    intro h2
    split
    · split
      · dsimp only
        refine State.forceHold_only ?_ (List.Subset.trans (by decide) hl) _
        exact h2
      · dsimp only
        exact h2
    · dsimp only
      exact h2
theorem holdActionExpiry_only (h : Only L s0 s) (hl : [Part.gtb, Part.gates, Part.timers, Part.outs, Part.matrix, Part.yard, Part.pf, Part.vf, Part.history, Part.out, Part.hostMem, Part.clusters, Part.stalls, Part.hbm, Part.poison, Part.lineSlot, Part.mee, Part.prot, Part.power, Part.acct, Part.rsv, Part.rg, Part.tl, Part.sessions, Part.free] ⊆ L) :
    Only L s0 (holdActionExpiry s) := by
  unfold holdActionExpiry
  split
  · exact h
  · refine Only.ite ?_ ?_
    · exact h
    · extract_lets +onlyGivenNames x1
      have hx1 : Only L s0 x1 := by
        unfold x1
        refine State.advance_only ?_ (List.Subset.trans (by decide) hl) _
        exact h
      clear_value x1
      refine Only.ite ?_ ?_
      · refine State.forceHold_only ?_ (List.Subset.trans (by decide) hl) _
        exact hx1
      · refine Only.ite ?_ ?_
        · refine State.abortChange_only ?_ (List.Subset.trans (by decide) hl) _
          exact hx1
        · exact hx1
theorem State.placeFirst_only (h : Only L s0 s) (hl : [Part.yard] ⊆ L) :
    Only L s0 (State.placeFirst s) := by
  unfold State.placeFirst
  refine State.modChg_only ?_ (List.Subset.trans (by decide) hl) _
  exact h
theorem State.takeChange_only (h : Only L s0 s) (hl : [Part.yard, Part.rg] ⊆ L) (p : Plan) (bs : List Byte) :
    Only L s0 (State.takeChange s p bs) := by
  unfold State.takeChange
  extract_lets +onlyGivenNames x1
  extract_lets +onlyGivenNames x2
  extract_lets +onlyGivenNames x3
  extract_lets +onlyGivenNames x4
  extract_lets +onlyGivenNames x5
  have hx5 : Only L s0 x5 := by
    unfold x5
    refine Only.yard ?_ _ (hl (by decide))
    exact h
  clear_value x5
  extract_lets +onlyGivenNames x6
  have hx6 : Only L s0 x6 := by
    unfold x6
    refine forAll_only ?_ _ _ ?_
    · exact hx5
    · intro x7
      intro x8
      intro h9
      split
      · exact h9
      · refine State.addJob_only ?_ (List.Subset.trans (by decide) hl) _ _ _
        exact h9
  clear_value x6
  refine Only.ite ?_ ?_
  · refine State.placeFirst_only ?_ (List.Subset.trans (by decide) hl)
    exact hx6
  · exact hx6
theorem mirrorPrepareDone_only (h : Only L s0 s) (hl : [Part.yard, Part.rg] ⊆ L) :
    Only L s0 (mirrorPrepareDone s) := by
  unfold mirrorPrepareDone
  split
  · exact h
  · refine Only.ite ?_ ?_
    · exact h
    · refine State.placeFirst_only ?_ (List.Subset.trans (by decide) hl)
      refine State.modChg_only ?_ (List.Subset.trans (by decide) hl) _
      refine forAll_only ?_ _ _ ?_
      · exact h
      · intro x1
        intro x2
        intro h3
        refine State.endJob_only ?_ (List.Subset.trans (by decide) hl) _ _
        exact h3
theorem planValidated_only (h : Only L s0 s) (hl : [Part.yard, Part.pf, Part.vf, Part.history, Part.out, Part.rg] ⊆ L) :
    Only L s0 (planValidated s) := by
  unfold planValidated
  split
  · extract_lets +onlyGivenNames x1
    clear_value x1
    split
    · refine State.rejectPlan_only ?_ (List.Subset.trans (by decide) hl) _ _
      exact h
    · extract_lets +onlyGivenNames x2
      clear_value x2
      extract_lets +onlyGivenNames x3
      clear_value x3
      extract_lets +onlyGivenNames x4
      clear_value x4
      extract_lets +onlyGivenNames x5
      have hx5 : Only L s0 x5 := by
        unfold x5
        refine Only.yard ?_ _ (hl (by decide))
        exact h
      clear_value x5
      extract_lets +onlyGivenNames x6
      have hx6 : Only L s0 x6 := by
        unfold x6
        refine Only.ite ?_ ?_
        · refine State.takeChange_only ?_ (List.Subset.trans (by decide) hl) _ _
          exact hx5
        · refine State.takeFull_only ?_ (List.Subset.trans (by decide) hl) _ _ _
          exact hx5
      clear_value x6
      split
      · exact hx6
      · refine State.mbAnswer_only ?_ (List.Subset.trans (by decide) hl) _ _ _
        exact hx6
  · exact h
theorem changeReport_only (h : Only L s0 s) (hl : [Part.gtb, Part.pf, Part.vf, Part.history, Part.out, Part.power, Part.side, Part.free] ⊆ L) (m : Req) :
    Only L s0 (changeReport m s) := by
  unfold changeReport
  refine State.mbServeA_only ?_ (List.Subset.trans (by decide) hl) _ _ _ ?_
  · exact h
  · intro x1
    intro h2
    split
    · refine State.refuseFree_only ?_ (List.Subset.trans (by decide) hl)
      exact h2
    · dsimp only
      exact h2

end Sys2Proof.Machine
end

