-- ==== Sys2Proof/Laws/Attestation.lean ====
section
/-! SUPPORT. Machine/Attestation.lean: what each of its operations keeps, and the parts it changes. -/

namespace Sys2Proof.Machine

variable {L : List Part} {s0 s : State}

theorem attestReport_only (h : Only L s0 s) (hl : [Part.gtb, Part.pf, Part.vf, Part.history, Part.out, Part.power, Part.side, Part.free] ⊆ L) (m : Req) :
    Only L s0 (attestReport m s) := by
  unfold attestReport
  extract_lets +onlyGivenNames x1
  clear_value x1
  extract_lets +onlyGivenNames x2
  clear_value x2
  refine State.mbServeA_only ?_ (List.Subset.trans (by decide) hl) _ _ _ ?_
  · exact h
  · intro x3
    intro h4
    extract_lets +onlyGivenNames x5
    clear_value x5
    extract_lets +onlyGivenNames x6
    clear_value x6
    split
    · dsimp only
      refine State.signed_only ?_ (List.Subset.trans (by decide) hl)
      exact h4
    · split
      · dsimp only
        exact h4
      · dsimp only
        refine State.signed_only ?_ (List.Subset.trans (by decide) hl)
        exact h4
theorem attestLog_only (h : Only L s0 s) (hl : [Part.gtb, Part.pf, Part.vf, Part.history, Part.out, Part.power, Part.side] ⊆ L) (m : Req) :
    Only L s0 (attestLog m s) := by
  unfold attestLog
  extract_lets +onlyGivenNames x1
  clear_value x1
  refine State.mbServeA_only ?_ (List.Subset.trans (by decide) hl) _ _ _ ?_
  · exact h
  · intro x2
    intro h3
    split
    · dsimp only
      exact h3
    · extract_lets +onlyGivenNames x4
      clear_value x4
      dsimp only
      exact h3
theorem measureImage_only (h : Only L s0 s) (hl : [Part.gtb, Part.pf, Part.vf, Part.history, Part.out, Part.stalls, Part.power, Part.side] ⊆ L) (m : Req) :
    Only L s0 (measureImage m s) := by
  unfold measureImage
  extract_lets +onlyGivenNames x1
  clear_value x1
  extract_lets +onlyGivenNames x2
  clear_value x2
  refine State.mbServe_only ?_ (List.Subset.trans (by decide) hl) _ _ _ ?_
  · exact h
  · intro x3
    intro h4
    refine State.wakePackage_only ?_ (List.Subset.trans (by decide) hl) _ _
    refine State.modStall_only ?_ (List.Subset.trans (by decide) hl) _ _
    exact h4
theorem measureImageDone_only (h : Only L s0 s) (hl : [Part.pf, Part.vf, Part.history, Part.out, Part.stalls, Part.hbm, Part.poison, Part.lineSlot, Part.mee] ⊆ L) (n : StallNo) :
    Only L s0 (measureImageDone n s) := by
  unfold measureImageDone
  split
  · exact h
  · split
    · exact h
    · refine Only.ite ?_ ?_
      · exact h
      · extract_lets +onlyGivenNames x1
        have hx1 : Only L s0 x1 := by
          unfold x1
          refine State.setStall_only ?_ (List.Subset.trans (by decide) hl) _ _
          exact h
        clear_value x1
        extract_lets +onlyGivenNames x2
        extract_lets +onlyGivenNames x3
        have hx3 : Only L s0 x3.2 := by
          unfold x3
          refine State.readRun_only ?_ (List.Subset.trans (by decide) hl) _ _ _ _
          exact hx1
        clear_value x3
        refine Only.ite ?_ ?_
        · refine State.mbAnswer_only ?_ (List.Subset.trans (by decide) hl) _ _ _
          exact hx1
        · refine Only.ite ?_ ?_
          · refine State.mbAnswer_only ?_ (List.Subset.trans (by decide) hl) _ _ _
            exact hx3
          · extract_lets +onlyGivenNames x4
            refine State.mbAnswer_only ?_ (List.Subset.trans (by decide) hl) _ _ _
            refine State.logAppend_only ?_ (List.Subset.trans (by decide) hl) _ _ _ _ _
            exact hx3
theorem State.serveSeal_only (h : Only L s0 s) (hl : [Part.gtb, Part.pf, Part.vf, Part.history, Part.out, Part.power, Part.side] ⊆ L) (op : Nat) (len : Nat) (m : Req) (body : Nat → Stall → State → State) (hbody : ∀ x0 x1 t, Only L s0 t → Only L s0 (body x0 x1 t)) :
    Only L s0 (State.serveSeal s op len m body) := by
  unfold State.serveSeal
  extract_lets +onlyGivenNames x1
  refine Only.ite ?_ ?_
  · refine State.mbServeA_only ?_ (List.Subset.trans (by decide) hl) _ _ _ ?_
    · exact h
    · intro x2
      intro h3
      dsimp only
      exact h3
  · refine State.mbServe_only ?_ (List.Subset.trans (by decide) hl) _ _ _ ?_
    · exact h
    · intro x4
      intro h5
      extract_lets +onlyGivenNames x6
      split
      · refine State.mbAnswer_only ?_ (List.Subset.trans (by decide) hl) _ _ _
        exact h5
      · refine hbody _ _ _ ?_
        exact h5
theorem sealKeygen_only (h : Only L s0 s) (hl : [Part.gtb, Part.pf, Part.vf, Part.history, Part.out, Part.stalls, Part.power, Part.side, Part.free] ⊆ L) (m : Req) :
    Only L s0 (sealKeygen m s) := by
  unfold sealKeygen
  refine State.serveSeal_only ?_ (List.Subset.trans (by decide) hl) _ _ _ _ ?_
  · exact h
  · intro x1
    intro x2
    intro x3
    intro h4
    extract_lets +onlyGivenNames x5
    refine Only.ite ?_ ?_
    · refine State.mbAnswer_only ?_ (List.Subset.trans (by decide) hl) _ _ _
      exact h4
    · extract_lets +onlyGivenNames x6
      have hx6 : Only L s0 x6.2 := by
        unfold x6
        refine State.drawBytes_only ?_ (List.Subset.trans (by decide) hl) _
        exact h4
      clear_value x6
      extract_lets +onlyGivenNames x7
      extract_lets +onlyGivenNames x8
      extract_lets +onlyGivenNames x9
      have hx9 : Only L s0 x9 := by
        unfold x9
        refine State.setStall_only ?_ (List.Subset.trans (by decide) hl) _ _
        exact hx6
      clear_value x9
      extract_lets +onlyGivenNames x10
      split
      · exact hx9
      · refine State.mbAnswer_only ?_ (List.Subset.trans (by decide) hl) _ _ _
        refine State.signed_only ?_ (List.Subset.trans (by decide) hl)
        exact hx9
theorem sealInstall_only (h : Only L s0 s) (hl : [Part.gtb, Part.pf, Part.vf, Part.history, Part.out, Part.stalls, Part.power, Part.side] ⊆ L) (m : Req) :
    Only L s0 (sealInstall m s) := by
  unfold sealInstall
  refine State.serveSeal_only ?_ (List.Subset.trans (by decide) hl) _ _ _ _ ?_
  · exact h
  · intro x1
    intro x2
    intro x3
    intro h4
    extract_lets +onlyGivenNames x5
    extract_lets +onlyGivenNames x6
    extract_lets +onlyGivenNames x7
    extract_lets +onlyGivenNames x8
    have hx8 : Only L s0 x8 := by
      unfold x8
      refine State.setStall_only ?_ (List.Subset.trans (by decide) hl) _ _
      exact h4
    clear_value x8
    extract_lets +onlyGivenNames x9
    have hx9 : ∀ x9a0, Only L s0 (x9 x9a0) := by
      intro x9a0
      unfold x9
      refine State.mbAnswer_only ?_ (List.Subset.trans (by decide) hl) _ _ _
      exact hx8
    clear_value x9
    refine Only.ite ?_ ?_
    · refine hx9 _
    · split
      · refine hx9 _
      · refine Only.ite ?_ ?_
        · refine hx9 _
        · extract_lets +onlyGivenNames x10
          split
          · refine hx9 _
          · extract_lets +onlyGivenNames x11
            extract_lets +onlyGivenNames x12
            have hx12 : Only L s0 x12 := by
              unfold x12
              refine State.modStall_only ?_ (List.Subset.trans (by decide) hl) _ _
              exact hx8
            clear_value x12
            refine State.mbAnswer_only ?_ (List.Subset.trans (by decide) hl) _ _ _
            refine State.logAppend_only ?_ (List.Subset.trans (by decide) hl) _ _ _ _ _
            exact hx12
theorem sealDrop_only (h : Only L s0 s) (hl : [Part.gtb, Part.pf, Part.vf, Part.history, Part.out, Part.stalls, Part.power, Part.side] ⊆ L) (m : Req) :
    Only L s0 (sealDrop m s) := by
  unfold sealDrop
  refine State.serveSeal_only ?_ (List.Subset.trans (by decide) hl) _ _ _ _ ?_
  · exact h
  · intro x1
    intro x2
    intro x3
    intro h4
    extract_lets +onlyGivenNames x5
    refine Only.ite ?_ ?_
    · refine State.mbAnswer_only ?_ (List.Subset.trans (by decide) hl) _ _ _
      exact h4
    · refine Only.ite ?_ ?_
      · refine State.setStall_only ?_ (List.Subset.trans (by decide) hl) _ _
        exact h4
      · refine State.dropImage_only ?_ (List.Subset.trans (by decide) hl) _ _
        exact h4

end Sys2Proof.Machine
end

