-- ==== Sys2Proof/Laws/HostOps.lean ====
section
/-! SUPPORT. Machine/HostOps.lean: what each of its operations keeps, and the parts it changes. -/

namespace Sys2Proof.Machine

variable {L : List Part} {s0 s : State}

theorem State.setPort_only (h : Only L s0 s) (hl : [Part.ports] ⊆ L) (p : Nat) (f : HostPortSt → HostPortSt) :
    Only L s0 (State.setPort s p f) := by
  unfold State.setPort
  refine Only.ports ?_ _ (hl (by decide))
  exact h
theorem State.tellStalls_only (h : Only L s0 s) (hl : [Part.vf, Part.out] ⊆ L) (p : HostPort) :
    Only L s0 (State.tellStalls s p) := by
  unfold State.tellStalls
  refine forAll_only ?_ _ _ ?_
  · exact h
  · intro x1
    intro x2
    intro h3
    refine Only.ite ?_ ?_
    · refine State.vfCause_only ?_ (List.Subset.trans (by decide) hl) _ _
      exact h3
    · exact h3
theorem State.resetPort_only (h : Only L s0 s) (hl : [Part.pf, Part.vf] ⊆ L) (p : HostPort) :
    Only L s0 (State.resetPort s p) := by
  unfold State.resetPort
  refine Only.more (s := (s)) ?_ _ ⟨rfl, rfl, rfl, rfl, Nat.le_refl _, List.prefix_rfl, id, id, fun _ => Nat.le_refl _, Nat.le_refl _, id⟩ (fun p hn => by cases p <;> first | rfl | exact ⟨rfl, rfl, rfl⟩ | exact ⟨rfl, rfl⟩ | exact absurd (hl (by decide)) hn)
  exact h
theorem State.losePort_only (h : Only L s0 s) (hl : [Part.pf, Part.vf, Part.ports, Part.unreach, Part.out, Part.rg] ⊆ L) (p : HostPort) :
    Only L s0 (State.losePort s p) := by
  unfold State.losePort
  extract_lets +onlyGivenNames x1
  extract_lets +onlyGivenNames x2
  have hx2 : Only L s0 x2 := by
    unfold x2
    refine State.setPort_only ?_ (List.Subset.trans (by decide) hl) _ _
    refine State.resetPort_only ?_ (List.Subset.trans (by decide) hl) _
    exact h
  clear_value x2
  refine Only.ite ?_ ?_
  · exact hx2
  · extract_lets +onlyGivenNames x3
    have hx3 : Only L s0 x3 := by
      unfold x3
      refine State.markShort_only ?_ (List.Subset.trans (by decide) hl)
      exact hx2
    clear_value x3
    extract_lets +onlyGivenNames x4
    extract_lets +onlyGivenNames x5
    extract_lets +onlyGivenNames x6
    have hx6 : Only L s0 x6 := by
      unfold x6
      refine Only.unreach ?_ _ (hl (by decide))
      exact hx3
    clear_value x6
    extract_lets +onlyGivenNames x7
    have hx7 : Only L s0 x7 := by
      unfold x7
      refine State.hostEvt_only ?_ (List.Subset.trans (by decide) hl) _
      exact hx6
    clear_value x7
    refine State.tellStalls_only ?_ (List.Subset.trans (by decide) hl) _
    exact hx7

end Sys2Proof.Machine
end

