-- ==== Sys2Proof/Laws/Links.lean ====
section
/-! SUPPORT. Machine/Links.lean: what each of its operations keeps, and the parts it changes. -/

namespace Sys2Proof.Machine

variable {L : List Part} {s0 s : State}

theorem State.retireLink_only (h : Only L s0 s) (hl : [Part.pkg, Part.gtb, Part.pf, Part.vf, Part.history, Part.out, Part.hostMem, Part.stalls, Part.hbm, Part.poison, Part.lineSlot, Part.mee, Part.prot, Part.power, Part.rg, Part.tl, Part.sessions, Part.free] ⊆ L) (p : LinkPort) :
    Only L s0 (State.retireLink s p) := by
  unfold State.retireLink
  refine State.retireComponent_only ?_ (List.Subset.trans (by decide) hl) _
  exact h
theorem State.retrainLink_only (h : Only L s0 s) (hl : [Part.pkg, Part.gtb, Part.pf, Part.vf, Part.history, Part.out, Part.hostMem, Part.stalls, Part.hbm, Part.poison, Part.lineSlot, Part.mee, Part.prot, Part.power, Part.rg, Part.tl, Part.sessions, Part.free] ⊆ L) (p : LinkPort) :
    Only L s0 (State.retrainLink s p) := by
  unfold State.retrainLink
  extract_lets +onlyGivenNames x1
  have hx1 : Only L s0 x1 := by
    unfold x1
    refine State.retrainPort_only ?_ (List.Subset.trans (by decide) hl) _
    refine State.setTlp_only ?_ (List.Subset.trans (by decide) hl) _ _
    exact h
  clear_value x1
  refine Only.ite ?_ ?_
  · refine State.retireLink_only ?_ (List.Subset.trans (by decide) hl) _
    exact hx1
  · exact hx1
theorem State.failStep_only (h : Only L s0 s) (hl : [Part.pkg, Part.gtb, Part.pf, Part.vf, Part.history, Part.out, Part.hostMem, Part.stalls, Part.hbm, Part.poison, Part.lineSlot, Part.mee, Part.prot, Part.power, Part.rg, Part.tl, Part.sessions, Part.free] ⊆ L) (p : LinkPort) :
    Only L s0 (State.failStep s p) := by
  unfold State.failStep
  extract_lets +onlyGivenNames x1
  have hx1 : Only L s0 x1 := by
    unfold x1
    refine State.setTlp_only ?_ (List.Subset.trans (by decide) hl) _ _
    exact h
  clear_value x1
  refine Only.ite ?_ ?_
  · refine State.retireLink_only ?_ (List.Subset.trans (by decide) hl) _
    exact hx1
  · exact hx1
theorem tlPCtlWrite_only (h : Only L s0 s) (hl : [Part.pkg, Part.gtb, Part.pf, Part.vf, Part.history, Part.out, Part.hostMem, Part.stalls, Part.hbm, Part.poison, Part.lineSlot, Part.mee, Part.prot, Part.power, Part.rg, Part.tl, Part.sessions, Part.free] ⊆ L) (p : LinkPort) (v : U32) :
    Only L s0 (tlPCtlWrite p v s) := by
  unfold tlPCtlWrite
  extract_lets +onlyGivenNames x1
  extract_lets +onlyGivenNames x2
  extract_lets +onlyGivenNames x3
  have hx3 : Only L s0 x3 := by
    unfold x3
    refine State.setTlp_only ?_ (List.Subset.trans (by decide) hl) _ _
    exact h
  clear_value x3
  extract_lets +onlyGivenNames x4
  have hx4 : Only L s0 x4 := by
    unfold x4
    refine Only.ite ?_ ?_
    · exact hx3
    · refine Only.ite ?_ ?_
      · refine State.chooseMaster_only ?_ (List.Subset.trans (by decide) hl)
        refine State.setTlp_only ?_ (List.Subset.trans (by decide) hl) _ _
        exact hx3
      · refine Only.ite ?_ ?_
        · refine State.setTlp_only ?_ (List.Subset.trans (by decide) hl) _ _
          exact hx3
        · exact hx3
  clear_value x4
  refine Only.ite ?_ ?_
  · refine State.retrainLink_only ?_ (List.Subset.trans (by decide) hl) _
    exact hx4
  · exact hx4
theorem retrain_only (h : Only L s0 s) (hl : [Part.pkg, Part.gtb, Part.pf, Part.vf, Part.history, Part.out, Part.hostMem, Part.stalls, Part.hbm, Part.poison, Part.lineSlot, Part.mee, Part.prot, Part.power, Part.rg, Part.tl, Part.sessions, Part.free] ⊆ L) (p : LinkPort) :
    Only L s0 (retrain p s) := by
  unfold retrain
  refine Only.ite ?_ ?_
  · refine State.retrainLink_only ?_ (List.Subset.trans (by decide) hl) _
    exact h
  · exact h
theorem tlPAsymWrite_only (h : Only L s0 s) (hl : [Part.tl] ⊆ L) (p : LinkPort) (v : U32) :
    Only L s0 (tlPAsymWrite p v s) := by
  unfold tlPAsymWrite
  refine State.setTlp_only ?_ (List.Subset.trans (by decide) hl) _ _
  exact h
theorem portPeerDetect_only (h : Only L s0 s) (hl : [Part.tl] ⊆ L) (p : LinkPort) (peer : LinkPort) :
    Only L s0 (portPeerDetect p peer s) := by
  unfold portPeerDetect
  refine Only.ite ?_ ?_
  · exact h
  · refine State.setTlp_only ?_ (List.Subset.trans (by decide) hl) _ _
    exact h
theorem State.hello_only (h : Only L s0 s) (hl : [Part.out, Part.tl, Part.free] ⊆ L) (p : LinkPort) :
    Only L s0 (State.hello s p) := by
  unfold State.hello
  extract_lets +onlyGivenNames x1
  have hx1 : Only L s0 x1.2 := by
    unfold x1
    refine State.drawBytes_only ?_ (List.Subset.trans (by decide) hl) _
    exact h
  clear_value x1
  extract_lets +onlyGivenNames x2
  have hx2 : Only L s0 x2.2 := by
    unfold x2
    refine State.drawBytes_only ?_ (List.Subset.trans (by decide) hl) _
    exact hx1
  clear_value x2
  extract_lets +onlyGivenNames x3
  extract_lets +onlyGivenNames x4
  have hx4 : Only L s0 x4 := by
    unfold x4
    refine State.setTlp_only ?_ (List.Subset.trans (by decide) hl) _ _
    exact hx2
  clear_value x4
  refine State.sendMsg_only ?_ (List.Subset.trans (by decide) hl) _ _ _
  exact hx4
theorem portTrained_only (h : Only L s0 s) (hl : [Part.out, Part.tl, Part.free] ⊆ L) (p : LinkPort) :
    Only L s0 (portTrained p s) := by
  unfold portTrained
  refine Only.ite ?_ ?_
  · exact h
  · refine State.hello_only ?_ (List.Subset.trans (by decide) hl) _
    refine State.setTlp_only ?_ (List.Subset.trans (by decide) hl) _ _
    exact h
theorem portStepTimeout_only (h : Only L s0 s) (hl : [Part.pkg, Part.gtb, Part.timers, Part.outs, Part.matrix, Part.pf, Part.vf, Part.history, Part.out, Part.hostMem, Part.stalls, Part.hbm, Part.poison, Part.lineSlot, Part.mee, Part.prot, Part.power, Part.rg, Part.tl, Part.sessions, Part.free] ⊆ L) (p : LinkPort) :
    Only L s0 (portStepTimeout p s) := by
  unfold portStepTimeout
  extract_lets +onlyGivenNames x1
  split
  · refine State.failStep_only ?_ (List.Subset.trans (by decide) hl) _
    refine State.advance_only ?_ (List.Subset.trans (by decide) hl) _
    exact h
  · refine State.failStep_only ?_ (List.Subset.trans (by decide) hl) _
    refine State.advance_only ?_ (List.Subset.trans (by decide) hl) _
    exact h
  · exact h
theorem keyxHello_only (h : Only L s0 s) (hl : [Part.pkg, Part.gtb, Part.pf, Part.vf, Part.history, Part.out, Part.hostMem, Part.stalls, Part.hbm, Part.poison, Part.lineSlot, Part.mee, Part.prot, Part.power, Part.rg, Part.tl, Part.sessions, Part.free] ⊆ L) (p : LinkPort) (rnd : List Byte) (pub : List Byte) (chain : List Byte) :
    Only L s0 (keyxHello p rnd pub chain s) := by
  unfold keyxHello
  extract_lets +onlyGivenNames x1
  refine Only.ite ?_ ?_
  · exact h
  · split
    · refine Only.ite ?_ ?_
      · refine State.failStep_only ?_ (List.Subset.trans (by decide) hl) _
        exact h
      · exact h
    · extract_lets +onlyGivenNames x2
      have hx2 : Only L s0 x2 := by
        unfold x2
        refine Only.ite ?_ ?_
        · refine State.hello_only ?_ (List.Subset.trans (by decide) hl) _
          exact h
        · exact h
      clear_value x2
      extract_lets +onlyGivenNames x3
      have hx3 : Only L s0 x3 := by
        unfold x3
        refine State.setTlp_only ?_ (List.Subset.trans (by decide) hl) _ _
        exact hx2
      clear_value x3
      extract_lets +onlyGivenNames x4
      split
      · exact hx3
      · extract_lets +onlyGivenNames x5
        refine State.sendMsg_only ?_ (List.Subset.trans (by decide) hl) _ _ _
        refine State.signed_only ?_ (List.Subset.trans (by decide) hl)
        exact hx3
theorem State.resendKept_only (h : Only L s0 s) (hl : [Part.out, Part.tl] ⊆ L) (p : LinkPort) :
    Only L s0 (State.resendKept s p) := by
  unfold State.resendKept
  extract_lets +onlyGivenNames x1
  extract_lets +onlyGivenNames x2
  have hx2 : Only L s0 x2 := by
    unfold x2
    refine State.setTlp_only ?_ (List.Subset.trans (by decide) hl) _ _
    exact h
  clear_value x2
  refine State.pump_only ?_ (List.Subset.trans (by decide) hl) _
  exact hx2
theorem keyxFinish_only (h : Only L s0 s) (hl : [Part.pkg, Part.gtb, Part.pf, Part.vf, Part.history, Part.out, Part.hostMem, Part.stalls, Part.hbm, Part.poison, Part.lineSlot, Part.mee, Part.prot, Part.power, Part.rg, Part.tl, Part.sessions, Part.free] ⊆ L) (p : LinkPort) (sig : List Byte) :
    Only L s0 (keyxFinish p sig s) := by
  unfold keyxFinish
  extract_lets +onlyGivenNames x1
  split
  · exact h
  · extract_lets +onlyGivenNames x2
    refine Only.ite ?_ ?_
    · refine Only.ite ?_ ?_
      · refine State.failStep_only ?_ (List.Subset.trans (by decide) hl) _
        exact h
      · exact h
    · refine Only.ite ?_ ?_
      · refine State.resendKept_only ?_ (List.Subset.trans (by decide) hl) _
        refine State.setTlp_only ?_ (List.Subset.trans (by decide) hl) _ _
        exact h
      · refine Only.ite ?_ ?_
        · extract_lets +onlyGivenNames x3
          have hx3 : Only L s0 x3 := by
            unfold x3
            refine State.setTlp_only ?_ (List.Subset.trans (by decide) hl) _ _
            exact h
          clear_value x3
          refine State.sendMsg_only ?_ (List.Subset.trans (by decide) hl) _ _ _
          exact hx3
        · exact h
theorem rekeyStart_only (h : Only L s0 s) (hl : [Part.gtb, Part.timers, Part.outs, Part.matrix, Part.pf, Part.out, Part.tl, Part.free] ⊆ L) (p : LinkPort) :
    Only L s0 (rekeyStart p s) := by
  unfold rekeyStart
  extract_lets +onlyGivenNames x1
  refine Only.ite ?_ ?_
  · exact h
  · extract_lets +onlyGivenNames x2
    have hx2 : Only L s0 x2 := by
      unfold x2
      refine State.advance_only ?_ (List.Subset.trans (by decide) hl) _
      exact h
    clear_value x2
    refine State.hello_only ?_ (List.Subset.trans (by decide) hl) _
    refine State.setTlp_only ?_ (List.Subset.trans (by decide) hl) _ _
    exact hx2
theorem keyxSwitch_only (h : Only L s0 s) (hl : [Part.tl] ⊆ L) (p : LinkPort) (last : U32) :
    Only L s0 (keyxSwitch p last s) := by
  unfold keyxSwitch
  refine Only.ite ?_ ?_
  · exact h
  · refine State.setTlp_only ?_ (List.Subset.trans (by decide) hl) _ _
    exact h
theorem rekeyDeadline_only (h : Only L s0 s) (hl : [Part.pkg, Part.gtb, Part.timers, Part.outs, Part.matrix, Part.pf, Part.vf, Part.history, Part.out, Part.hostMem, Part.stalls, Part.hbm, Part.poison, Part.lineSlot, Part.mee, Part.prot, Part.power, Part.rg, Part.tl, Part.sessions, Part.free] ⊆ L) (p : LinkPort) :
    Only L s0 (rekeyDeadline p s) := by
  unfold rekeyDeadline
  extract_lets +onlyGivenNames x1
  refine Only.ite ?_ ?_
  · exact h
  · refine State.retrainLink_only ?_ (List.Subset.trans (by decide) hl) _
    refine State.tlEvt_only ?_ (List.Subset.trans (by decide) hl) _
    refine State.advance_only ?_ (List.Subset.trans (by decide) hl) _
    exact h
theorem State.badFrame_only (h : Only L s0 s) (hl : [Part.pkg, Part.gtb, Part.pf, Part.vf, Part.history, Part.out, Part.hostMem, Part.stalls, Part.hbm, Part.poison, Part.lineSlot, Part.mee, Part.prot, Part.power, Part.rg, Part.tl, Part.sessions, Part.free] ⊆ L) (p : LinkPort) :
    Only L s0 (State.badFrame s p) := by
  unfold State.badFrame
  extract_lets +onlyGivenNames x1
  have hx1 : Only L s0 x1 := by
    unfold x1
    refine State.setTlp_only ?_ (List.Subset.trans (by decide) hl) _ _
    exact h
  clear_value x1
  extract_lets +onlyGivenNames x2
  have hx2 : Only L s0 x2 := by
    unfold x2
    refine State.sendMsg_only ?_ (List.Subset.trans (by decide) hl) _ _ _
    exact hx1
  clear_value x2
  refine Only.ite ?_ ?_
  · refine State.retrainLink_only ?_ (List.Subset.trans (by decide) hl) _
    exact hx2
  · exact hx2
theorem linkFrameReceived_only (h : Only L s0 s) (hl : [Part.pkg, Part.gtb, Part.pf, Part.vf, Part.history, Part.out, Part.hostMem, Part.stalls, Part.hbm, Part.poison, Part.lineSlot, Part.mee, Part.prot, Part.power, Part.rg, Part.tl, Part.sessions, Part.free] ⊆ L) (p : LinkPort) (n : U32) (check : FrameCheck) (credits : List (Fin 4 × Fin 4 × Nat)) (flits : Nat) (strange : Nat) :
    Only L s0 (linkFrameReceived p n check credits flits strange s) := by
  unfold linkFrameReceived
  refine Only.ite ?_ ?_
  · exact h
  · split
    · refine State.badFrame_only ?_ (List.Subset.trans (by decide) hl) _
      exact h
    · extract_lets +onlyGivenNames x1
      extract_lets +onlyGivenNames x2
      have hx2 : Only L s0 x2 := by
        unfold x2
        refine State.setTlp_only ?_ (List.Subset.trans (by decide) hl) _ _
        exact h
      clear_value x2
      extract_lets +onlyGivenNames x3
      have hx3 : Only L s0 x3 := by
        unfold x3
        refine State.badFrame_only ?_ (List.Subset.trans (by decide) hl) _
        exact hx2
      clear_value x3
      refine Only.ite ?_ ?_
      · refine State.retrainLink_only ?_ (List.Subset.trans (by decide) hl) _
        exact hx3
      · exact hx3
    · extract_lets +onlyGivenNames x4
      have hx4 : Only L s0 x4 := by
        unfold x4
        refine State.setTlp_only ?_ (List.Subset.trans (by decide) hl) _ _
        exact h
      clear_value x4
      extract_lets +onlyGivenNames x5
      have hx5 : Only L s0 x5 := by
        unfold x5
        refine Only.ite ?_ ?_
        · refine State.sendMsg_only ?_ (List.Subset.trans (by decide) hl) _ _ _
          exact hx4
        · exact hx4
      clear_value x5
      refine State.pump_only ?_ (List.Subset.trans (by decide) hl) _
      exact hx5
theorem linkAck_only (h : Only L s0 s) (hl : [Part.tl] ⊆ L) (p : LinkPort) (n : U32) :
    Only L s0 (linkAck p n s) := by
  unfold linkAck
  refine State.setTlp_only ?_ (List.Subset.trans (by decide) hl) _ _
  exact h
theorem linkNak_only (h : Only L s0 s) (hl : [Part.pkg, Part.gtb, Part.pf, Part.vf, Part.history, Part.out, Part.hostMem, Part.stalls, Part.hbm, Part.poison, Part.lineSlot, Part.mee, Part.prot, Part.power, Part.rg, Part.tl, Part.sessions, Part.free] ⊆ L) (p : LinkPort) (n : U32) :
    Only L s0 (linkNak p n s) := by
  unfold linkNak
  extract_lets +onlyGivenNames x1
  refine Only.ite ?_ ?_
  · exact h
  · extract_lets +onlyGivenNames x2
    refine Only.ite ?_ ?_
    · refine State.retrainLink_only ?_ (List.Subset.trans (by decide) hl) _
      exact h
    · extract_lets +onlyGivenNames x3
      have hx3 : Only L s0 x3 := by
        unfold x3
        refine State.setTlp_only ?_ (List.Subset.trans (by decide) hl) _ _
        refine linkAck_only ?_ (List.Subset.trans (by decide) hl) _ _
        exact h
      clear_value x3
      refine forAll_only ?_ _ _ ?_
      · exact hx3
      · intro x4
        intro x5
        intro h6
        refine State.emit_only ?_ (List.Subset.trans (by decide) hl) _
        exact h6
theorem laneLockLost_only (h : Only L s0 s) (hl : [Part.pkg, Part.gtb, Part.pf, Part.vf, Part.history, Part.out, Part.hostMem, Part.stalls, Part.hbm, Part.poison, Part.lineSlot, Part.mee, Part.prot, Part.power, Part.rg, Part.tl, Part.sessions, Part.free] ⊆ L) (p : LinkPort) :
    Only L s0 (laneLockLost p s) := by
  unfold laneLockLost
  split
  · refine State.retrainLink_only ?_ (List.Subset.trans (by decide) hl) _
    exact h
  · refine State.retrainLink_only ?_ (List.Subset.trans (by decide) hl) _
    exact h
  · refine State.failStep_only ?_ (List.Subset.trans (by decide) hl) _
    exact h
  · refine State.failStep_only ?_ (List.Subset.trans (by decide) hl) _
    exact h
  · exact h
theorem State.lanesUp_only (h : Only L s0 s) (hl : [Part.out, Part.tl] ⊆ L) (p : LinkPort) :
    Only L s0 (State.lanesUp s p) := by
  unfold State.lanesUp
  refine State.pump_only ?_ (List.Subset.trans (by decide) hl) _
  refine State.setTlp_only ?_ (List.Subset.trans (by decide) hl) _ _
  exact h
theorem wake_only (h : Only L s0 s) (hl : [Part.gtb, Part.out, Part.power, Part.tl, Part.side] ⊆ L) (p : LinkPort) :
    Only L s0 (wake p s) := by
  unfold wake
  refine Only.ite ?_ ?_
  · refine State.wakePackage_only ?_ (List.Subset.trans (by decide) hl) _ _
    refine State.lanesUp_only ?_ (List.Subset.trans (by decide) hl) _
    exact h
  · refine Only.ite ?_ ?_
    · refine State.wakePackage_only ?_ (List.Subset.trans (by decide) hl) _ _
      exact h
    · exact h
theorem portLowpowerExit_only (h : Only L s0 s) (hl : [Part.out, Part.tl] ⊆ L) (p : LinkPort) :
    Only L s0 (portLowpowerExit p s) := by
  unfold portLowpowerExit
  refine Only.ite ?_ ?_
  · refine State.lanesUp_only ?_ (List.Subset.trans (by decide) hl) _
    exact h
  · exact h
theorem timeSend_only (h : Only L s0 s) (hl : [Part.gtb, Part.timers, Part.outs, Part.matrix, Part.pf, Part.out, Part.tl] ⊆ L) (stamps : List (LinkPort × U64 × U64)) :
    Only L s0 (timeSend stamps s) := by
  unfold timeSend
  extract_lets +onlyGivenNames x1
  extract_lets +onlyGivenNames x2
  extract_lets +onlyGivenNames x3
  have hx3 : Only L s0 x3 := by
    unfold x3
    refine State.advance_only ?_ (List.Subset.trans (by decide) hl) _
    exact h
  clear_value x3
  extract_lets +onlyGivenNames x4
  extract_lets +onlyGivenNames x5
  have hx5 : Only L s0 x5 := by
    unfold x5
    refine Only.tl ?_ _ (hl (by decide))
    exact hx3
  clear_value x5
  refine forAll_only ?_ _ _ ?_
  · exact hx5
  · intro x6
    intro x7
    intro h8
    refine Only.ite ?_ ?_
    · exact h8
    · extract_lets +onlyGivenNames x9
      extract_lets +onlyGivenNames x10
      have hx10 : Only L s0 x10 := by
        unfold x10
        refine State.setTlp_only ?_ (List.Subset.trans (by decide) hl) _ _
        exact h8
      clear_value x10
      refine State.sendMsg_only ?_ (List.Subset.trans (by decide) hl) _ _ _
      exact hx10
theorem State.takeEstimate_only (h : Only L s0 s) (hl : [Part.gtb, Part.pf, Part.out, Part.tl] ⊆ L) (e : Int) :
    Only L s0 (State.takeEstimate s e) := by
  unfold State.takeEstimate
  extract_lets +onlyGivenNames x1
  extract_lets +onlyGivenNames x2
  extract_lets +onlyGivenNames x3
  extract_lets +onlyGivenNames x4
  extract_lets +onlyGivenNames x5
  extract_lets +onlyGivenNames x6
  have hx6 : Only L s0 x6 := by
    unfold x6
    refine Only.more (s := (s)) ?_ _ ⟨rfl, rfl, rfl, rfl, Nat.le_refl _, List.prefix_rfl, id, id, fun _ => Nat.le_refl _, Nat.le_refl _, id⟩ (fun p hn => by cases p <;> first | rfl | exact ⟨rfl, rfl, rfl⟩ | exact ⟨rfl, rfl⟩ | exact absurd (hl (by decide)) hn)
    exact h
  clear_value x6
  extract_lets +onlyGivenNames x7
  have hx7 : Only L s0 x7 := by
    unfold x7
    refine Only.ite ?_ ?_
    · refine State.pfCause_only ?_ (List.Subset.trans (by decide) hl) _
      exact hx6
    · exact hx6
  clear_value x7
  refine Only.ite ?_ ?_
  · refine State.tlEvt_only ?_ (List.Subset.trans (by decide) hl) _
    exact hx7
  · exact hx7
theorem State.servo_only (h : Only L s0 s) (hl : [Part.gtb, Part.pf, Part.out, Part.tl] ⊆ L) (th : Int) :
    Only L s0 (State.servo s th) := by
  unfold State.servo
  extract_lets +onlyGivenNames x1
  extract_lets +onlyGivenNames x2
  extract_lets +onlyGivenNames x3
  have hx3 : Only L s0 x3 := by
    unfold x3
    refine Only.tl ?_ _ (hl (by decide))
    exact h
  clear_value x3
  refine Only.ite ?_ ?_
  · refine State.setTrim_only ?_ (List.Subset.trans (by decide) hl) _
    exact hx3
  · exact hx3
theorem time_only (h : Only L s0 s) (hl : [Part.gtb, Part.pf, Part.out, Part.tl] ⊆ L) (p : LinkPort) (m : LinkMsg) :
    Only L s0 (time p m s) := by
  unfold time
  refine Only.ite ?_ ?_
  · exact h
  · extract_lets +onlyGivenNames x1
    clear_value x1
    extract_lets +onlyGivenNames x2
    have hx2 : Only L s0 x2 := by
      unfold x2
      refine State.setTlp_only ?_ (List.Subset.trans (by decide) hl) _ _
      exact h
    clear_value x2
    extract_lets +onlyGivenNames x3
    clear_value x3
    extract_lets +onlyGivenNames x4
    clear_value x4
    extract_lets +onlyGivenNames x5
    have hx5 : Only L s0 x5 := by
      unfold x5
      refine State.setTlp_only ?_ (List.Subset.trans (by decide) hl) _ _
      exact hx2
    clear_value x5
    extract_lets +onlyGivenNames x6
    have hx6 : Only L s0 x6 := by
      unfold x6
      refine Only.ite ?_ ?_
      · refine State.tlEvt_only ?_ (List.Subset.trans (by decide) hl) _
        exact hx5
      · exact hx5
    clear_value x6
    extract_lets +onlyGivenNames x7
    clear_value x7
    extract_lets +onlyGivenNames x8
    clear_value x8
    extract_lets +onlyGivenNames x9
    clear_value x9
    extract_lets +onlyGivenNames x10
    clear_value x10
    extract_lets +onlyGivenNames x11
    clear_value x11
    extract_lets +onlyGivenNames x12
    have hx12 : Only L s0 x12 := by
      unfold x12
      split
      · exact hx6
      · refine State.setTlp_only ?_ (List.Subset.trans (by decide) hl) _ _
        exact hx6
    clear_value x12
    extract_lets +onlyGivenNames x13
    clear_value x13
    extract_lets +onlyGivenNames x14
    have hx14 : Only L s0 x14 := by
      unfold x14
      refine State.chooseMaster_only ?_ (List.Subset.trans (by decide) hl)
      refine State.setTlp_only ?_ (List.Subset.trans (by decide) hl) _ _
      exact hx12
    clear_value x14
    split
    · refine Only.ite ?_ ?_
      · refine State.servo_only ?_ (List.Subset.trans (by decide) hl) _
        refine State.takeEstimate_only ?_ (List.Subset.trans (by decide) hl) _
        exact hx14
      · exact hx14
    · exact hx14
theorem masterAdvertExpiry_only (h : Only L s0 s) (hl : [Part.gtb, Part.timers, Part.outs, Part.matrix, Part.pf, Part.out, Part.tl] ⊆ L) (p : LinkPort) :
    Only L s0 (masterAdvertExpiry p s) := by
  unfold masterAdvertExpiry
  split
  · exact h
  · refine State.chooseMaster_only ?_ (List.Subset.trans (by decide) hl)
    refine State.setTlp_only ?_ (List.Subset.trans (by decide) hl) _ _
    refine State.advance_only ?_ (List.Subset.trans (by decide) hl) _
    exact h
theorem timeAlignment_only (h : Only L s0 s) (hl : [Part.gtb, Part.timers, Part.outs, Part.matrix, Part.pf, Part.out] ⊆ L) :
    Only L s0 (timeAlignment s) := by
  unfold timeAlignment
  refine Only.ite ?_ ?_
  · exact h
  · extract_lets +onlyGivenNames x1
    have hx1 : Only L s0 x1 := by
      unfold x1
      refine Only.ite ?_ ?_
      · exact h
      · refine State.advance_only ?_ (List.Subset.trans (by decide) hl) _
        exact h
    clear_value x1
    extract_lets +onlyGivenNames x2
    refine State.freeRun_only ?_ (List.Subset.trans (by decide) hl)
    refine Only.gtb ?_ _ (hl (by decide))
    exact hx1
theorem servoAutoWrite_only (h : Only L s0 s) (hl : [Part.gtb] ⊆ L) (v : Bool) :
    Only L s0 (servoAutoWrite v s) := by
  unfold servoAutoWrite
  refine Only.ite ?_ ?_
  · exact h
  · refine Only.gtb ?_ _ (hl (by decide))
    exact h

end Sys2Proof.Machine
end

