-- ==== Sys2Proof/Laws/Relay.lean ====
section
/-! SUPPORT. Machine/Relay.lean: what each of its operations keeps, and the parts it changes. -/

namespace Sys2Proof.Machine

variable {L : List Part} {s0 s : State}

theorem State.arrive_only (h : Only L s0 s) (hl : [Part.out, Part.tl] ⊆ L) (p : LinkPort) (op : Nat) (m : LinkMsg) (b : Option Mgmt) (body : State → State) (hbody : ∀ t, Only L s0 t → Only L s0 (body t)) :
    Only L s0 (State.arrive s p op m b body) := by
  unfold State.arrive
  refine Only.ite ?_ ?_
  · exact h
  · refine Only.ite ?_ ?_
    · refine State.forwardMsg_only ?_ (List.Subset.trans (by decide) hl) _ _ _ _
      exact h
    · refine Only.ite ?_ ?_
      · refine State.setTlp_only ?_ (List.Subset.trans (by decide) hl) _ _
        exact h
      · refine hbody _ ?_
        refine State.emit_only ?_ (List.Subset.trans (by decide) hl) _
        exact h
theorem State.claimMore_only (h : Only L s0 s) (hl : [Part.out, Part.stalls, Part.tl] ⊆ L) (n : StallNo) (k : Nat) (pos : U32) (a3 : Nat) :
    Only L s0 (State.claimMore n k pos a3 s) := by
  induction a3 generalizing s with
  | zero =>
    exact h
  | succ m ih =>
    unfold State.claimMore
    split
    · extract_lets +onlyGivenNames x1
      extract_lets +onlyGivenNames x2
      extract_lets +onlyGivenNames x3
      refine Only.ite ?_ ?_
      · exact h
      · split
        · exact h
        · extract_lets +onlyGivenNames x4
          extract_lets +onlyGivenNames x5
          extract_lets +onlyGivenNames x6
          extract_lets +onlyGivenNames x7
          have hx7 : Only L s0 x7 := by
            unfold x7
            refine State.modEntry_only ?_ (List.Subset.trans (by decide) hl) _ _ _ _
            exact h
          clear_value x7
          extract_lets +onlyGivenNames x8
          have hx8 : Only L s0 x8 := by
            unfold x8
            refine State.modRelay_only ?_ (List.Subset.trans (by decide) hl) _ _
            exact hx7
          clear_value x8
          refine ih ?_
          refine State.sendMsg_only ?_ (List.Subset.trans (by decide) hl) _ _ _
          exact hx8
    · exact h
theorem State.restRemote_only (h : Only L s0 s) (hl : [Part.stalls] ⊆ L) (n : StallNo) (k : Nat) (pos : U32) :
    Only L s0 (State.restRemote s n k pos) := by
  unfold State.restRemote
  split
  · exact h
  · refine Only.ite ?_ ?_
    · refine State.modEntry_only ?_ (List.Subset.trans (by decide) hl) _ _ _ _
      exact h
    · exact h
theorem State.remote_only (h : Only L s0 s) (hl : [Part.vf, Part.out, Part.hostMem, Part.stalls, Part.hbm, Part.poison, Part.lineSlot, Part.mee, Part.tl, Part.sessions] ⊆ L) (q : QueueId) (op : Nat) :
    Only L s0 (State.remote s q op) := by
  unfold State.remote
  refine State.transfer_only ?_ (List.Subset.trans (by decide) hl) _ _ _ _ ?_
  · exact h
  · intro x1
    intro x2
    intro h3
    refine State.restRemote_only ?_ (List.Subset.trans (by decide) hl) _ _ _
    refine State.commitAll_only ?_ (List.Subset.trans (by decide) hl) _
    refine State.claimMore_only ?_ (List.Subset.trans (by decide) hl) _ _ _ _
    exact h3
theorem remoteWrite_only (h : Only L s0 s) (hl : [Part.vf, Part.out, Part.hostMem, Part.stalls, Part.hbm, Part.poison, Part.lineSlot, Part.mee, Part.tl, Part.sessions] ⊆ L) (q : QueueId) :
    Only L s0 (remoteWrite q s) := by
  unfold remoteWrite
  refine State.remote_only ?_ (List.Subset.trans (by decide) hl) _ _
  exact h
theorem remoteRead_only (h : Only L s0 s) (hl : [Part.vf, Part.out, Part.hostMem, Part.stalls, Part.hbm, Part.poison, Part.lineSlot, Part.mee, Part.tl, Part.sessions] ⊆ L) (q : QueueId) :
    Only L s0 (remoteRead q s) := by
  unfold remoteRead
  refine State.remote_only ?_ (List.Subset.trans (by decide) hl) _ _
  exact h
theorem State.chunkDone_only (h : Only L s0 s) (hl : [Part.out, Part.stalls, Part.hbm, Part.poison, Part.lineSlot, Part.mee, Part.tl] ⊆ L) (n : StallNo) (c : Claim) :
    Only L s0 (State.chunkDone s n c) := by
  unfold State.chunkDone
  extract_lets +onlyGivenNames x1
  have hx1 : Only L s0 x1 := by
    unfold x1
    refine State.sendMsg_only ?_ (List.Subset.trans (by decide) hl) _ _ _
    refine State.modRelay_only ?_ (List.Subset.trans (by decide) hl) _ _
    exact h
  clear_value x1
  split
  · extract_lets +onlyGivenNames x2
    extract_lets +onlyGivenNames x3
    extract_lets +onlyGivenNames x4
    have hx4 : Only L s0 x4 := by
      unfold x4
      refine State.modEntry_only ?_ (List.Subset.trans (by decide) hl) _ _ _ _
      exact hx1
    clear_value x4
    refine State.restRemote_only ?_ (List.Subset.trans (by decide) hl) _ _ _
    refine State.commitAll_only ?_ (List.Subset.trans (by decide) hl) _
    refine State.claimMore_only ?_ (List.Subset.trans (by decide) hl) _ _ _ _
    exact hx4
  · refine State.commitAll_only ?_ (List.Subset.trans (by decide) hl) _
    exact hx1
theorem tkReqBody_only (h : Only L s0 s) (hl : [Part.out, Part.stalls, Part.hbm, Part.poison, Part.lineSlot, Part.mee, Part.tl] ⊆ L) (p : LinkPort) (m : LinkMsg) :
    Only L s0 (tkReqBody p m s) := by
  unfold tkReqBody
  split
  · refine State.deny_only ?_ (List.Subset.trans (by decide) hl) _ _ _
    exact h
  · extract_lets +onlyGivenNames x1
    refine State.commitAll_only ?_ (List.Subset.trans (by decide) hl) _
    refine State.modRelay_only ?_ (List.Subset.trans (by decide) hl) _ _
    exact h
theorem tkGrantBody_only (h : Only L s0 s) (hl : [Part.out, Part.stalls, Part.hbm, Part.poison, Part.lineSlot, Part.mee, Part.tl] ⊆ L) (m : LinkMsg) :
    Only L s0 (tkGrantBody m s) := by
  unfold tkGrantBody
  split
  · exact h
  · refine State.commitAll_only ?_ (List.Subset.trans (by decide) hl) _
    refine State.modRelay_only ?_ (List.Subset.trans (by decide) hl) _ _
    exact h
theorem tkDenyBody_only (h : Only L s0 s) (hl : [Part.out, Part.stalls, Part.hbm, Part.poison, Part.lineSlot, Part.mee, Part.tl] ⊆ L) (m : LinkMsg) :
    Only L s0 (tkDenyBody m s) := by
  unfold tkDenyBody
  split
  · exact h
  · refine State.commitAll_only ?_ (List.Subset.trans (by decide) hl) _
    refine State.relayEnd_only ?_ (List.Subset.trans (by decide) hl) _ _ _ _ _
    refine State.modRelay_only ?_ (List.Subset.trans (by decide) hl) _ _
    exact h
theorem tkDoneBody_only (h : Only L s0 s) (hl : [Part.pf, Part.vf, Part.history, Part.out, Part.stalls, Part.hbm, Part.poison, Part.lineSlot, Part.mee, Part.tl] ⊆ L) (m : LinkMsg) :
    Only L s0 (tkDoneBody m s) := by
  unfold tkDoneBody
  split
  · exact h
  · refine State.settleExports_only ?_ (List.Subset.trans (by decide) hl) _
    refine State.commitAll_only ?_ (List.Subset.trans (by decide) hl) _
    refine State.modRelay_only ?_ (List.Subset.trans (by decide) hl) _ _
    exact h
theorem wrBody_only (h : Only L s0 s) (hl : [Part.out, Part.stalls, Part.hbm, Part.poison, Part.lineSlot, Part.mee, Part.tl] ⊆ L) (p : LinkPort) (m : LinkMsg) :
    Only L s0 (wrBody p m s) := by
  unfold wrBody
  split
  · refine State.deny_only ?_ (List.Subset.trans (by decide) hl) _ _ _
    exact h
  · extract_lets +onlyGivenNames x1
    have hx1 : Only L s0 x1.2 := by
      unfold x1
      refine State.writeRun_only ?_ (List.Subset.trans (by decide) hl) _ _ _ _ _
      exact h
    clear_value x1
    refine State.sendMsg_only ?_ (List.Subset.trans (by decide) hl) _ _ _
    exact hx1
theorem rdBody_only (h : Only L s0 s) (hl : [Part.out, Part.stalls, Part.hbm, Part.poison, Part.lineSlot, Part.mee, Part.tl] ⊆ L) (p : LinkPort) (m : LinkMsg) :
    Only L s0 (rdBody p m s) := by
  unfold rdBody
  split
  · refine State.deny_only ?_ (List.Subset.trans (by decide) hl) _ _ _
    exact h
  · extract_lets +onlyGivenNames x1
    have hx1 : Only L s0 x1.2 := by
      unfold x1
      refine State.readRun_only ?_ (List.Subset.trans (by decide) hl) _ _ _ _
      exact h
    clear_value x1
    refine State.sendMsg_only ?_ (List.Subset.trans (by decide) hl) _ _ _
    exact hx1
theorem State.progressed_only (h : Only L s0 s) (hl : [Part.out, Part.stalls, Part.hbm, Part.poison, Part.lineSlot, Part.mee, Part.tl] ⊆ L) (n : StallNo) (c : Claim) (done : Nat) (data : List Byte) :
    Only L s0 (State.progressed s n c done data) := by
  unfold State.progressed
  extract_lets +onlyGivenNames x1
  extract_lets +onlyGivenNames x2
  have hx2 : Only L s0 x2 := by
    unfold x2
    refine State.modRelay_only ?_ (List.Subset.trans (by decide) hl) _ _
    exact h
  clear_value x2
  refine Only.ite ?_ ?_
  · refine State.chunkDone_only ?_ (List.Subset.trans (by decide) hl) _ _
    exact hx2
  · exact hx2
theorem wrAckBody_only (h : Only L s0 s) (hl : [Part.out, Part.stalls, Part.hbm, Part.poison, Part.lineSlot, Part.mee, Part.tl] ⊆ L) (m : LinkMsg) :
    Only L s0 (wrAckBody m s) := by
  unfold wrAckBody
  refine onStall_only ?_ _ _ ?_
  · exact h
  · intro x1
    intro x2
    intro h3
    split
    · exact h3
    · refine Only.ite ?_ ?_
      · exact h3
      · refine Only.ite ?_ ?_
        · refine State.commitAll_only ?_ (List.Subset.trans (by decide) hl) _
          refine State.relayEnd_only ?_ (List.Subset.trans (by decide) hl) _ _ _ _ _
          exact h3
        · refine State.progressed_only ?_ (List.Subset.trans (by decide) hl) _ _ _ _
          exact h3
theorem rdDataBody_only (h : Only L s0 s) (hl : [Part.out, Part.stalls, Part.hbm, Part.poison, Part.lineSlot, Part.mee, Part.tl] ⊆ L) (m : LinkMsg) :
    Only L s0 (rdDataBody m s) := by
  unfold rdDataBody
  refine onStall_only ?_ _ _ ?_
  · exact h
  · intro x1
    intro x2
    intro h3
    split
    · exact h3
    · split
      · exact h3
      · refine Only.ite ?_ ?_
        · exact h3
        · refine Only.ite ?_ ?_
          · refine State.commitAll_only ?_ (List.Subset.trans (by decide) hl) _
            refine State.relayEnd_only ?_ (List.Subset.trans (by decide) hl) _ _ _ _ _
            exact h3
          · extract_lets +onlyGivenNames x4
            have hx4 : Only L s0 x4.2 := by
              unfold x4
              refine State.writeRun_only ?_ (List.Subset.trans (by decide) hl) _ _ _ _ _
              exact h3
            clear_value x4
            extract_lets +onlyGivenNames x5
            extract_lets +onlyGivenNames x6
            have hx6 : Only L s0 x6 := by
              unfold x6
              refine State.modEntry_only ?_ (List.Subset.trans (by decide) hl) _ _ _ _
              exact hx4
            clear_value x6
            refine Only.ite ?_ ?_
            · refine State.commitAll_only ?_ (List.Subset.trans (by decide) hl) _
              refine State.relayEnd_only ?_ (List.Subset.trans (by decide) hl) _ _ _ _ _
              exact hx6
            · refine State.progressed_only ?_ (List.Subset.trans (by decide) hl) _ _ _ _
              exact hx6
theorem remoteExport_only (h : Only L s0 s) (hl : [Part.gtb, Part.pf, Part.vf, Part.history, Part.out, Part.stalls, Part.hbm, Part.poison, Part.lineSlot, Part.mee, Part.power, Part.tl, Part.side] ⊆ L) (m : Req) :
    Only L s0 (remoteExport m s) := by
  unfold remoteExport
  extract_lets +onlyGivenNames x1
  clear_value x1
  refine State.mbServe_only ?_ (List.Subset.trans (by decide) hl) _ _ _ ?_
  · exact h
  · intro x2
    intro h3
    extract_lets +onlyGivenNames x4
    clear_value x4
    extract_lets +onlyGivenNames x5
    clear_value x5
    split
    · refine State.mbAnswer_only ?_ (List.Subset.trans (by decide) hl) _ _ _
      exact h3
    · refine Only.ite ?_ ?_
      · refine State.mbAnswer_only ?_ (List.Subset.trans (by decide) hl) _ _ _
        exact h3
      · extract_lets +onlyGivenNames x6
        clear_value x6
        extract_lets +onlyGivenNames x7
        clear_value x7
        extract_lets +onlyGivenNames x8
        have hx8 : Only L s0 x8 := by
          unfold x8
          refine State.modRelay_only ?_ (List.Subset.trans (by decide) hl) _ _
          exact h3
        clear_value x8
        extract_lets +onlyGivenNames x9
        clear_value x9
        extract_lets +onlyGivenNames x10
        have hx10 : Only L s0 x10 := by
          unfold x10
          refine forAll_only ?_ _ _ ?_
          · exact hx8
          · intro x11
            intro x12
            intro h13
            refine State.sendMsg_only ?_ (List.Subset.trans (by decide) hl) _ _ _
            refine State.modRelay_only ?_ (List.Subset.trans (by decide) hl) _ _
            exact h13
        clear_value x10
        refine State.settleExports_only ?_ (List.Subset.trans (by decide) hl) _
        refine State.commitAll_only ?_ (List.Subset.trans (by decide) hl) _
        exact hx10
theorem drvBorrow_only (h : Only L s0 s) (hl : [Part.gtb, Part.pf, Part.vf, Part.history, Part.out, Part.stalls, Part.power, Part.tl, Part.side] ⊆ L) (m : Req) :
    Only L s0 (drvBorrow m s) := by
  unfold drvBorrow
  extract_lets +onlyGivenNames x1
  clear_value x1
  extract_lets +onlyGivenNames x2
  clear_value x2
  refine State.mbServe_only ?_ (List.Subset.trans (by decide) hl) _ _ _ ?_
  · exact h
  · intro x3
    intro h4
    extract_lets +onlyGivenNames x5
    clear_value x5
    extract_lets +onlyGivenNames x6
    clear_value x6
    extract_lets +onlyGivenNames x7
    clear_value x7
    extract_lets +onlyGivenNames x8
    clear_value x8
    extract_lets +onlyGivenNames x9
    clear_value x9
    extract_lets +onlyGivenNames x10
    have hx10 : ∀ x10a0 x10a1, Only L s0 x10a0 → Only L s0 (x10 x10a0 x10a1) := by
      intro x10a0 x10a1 hx100
      unfold x10
      refine State.mbAnswer_only ?_ (List.Subset.trans (by decide) hl) _ _ _
      exact hx100
    clear_value x10
    split
    · refine hx10 _ _ ?_
      exact h4
    · extract_lets +onlyGivenNames x11
      clear_value x11
      extract_lets +onlyGivenNames x12
      clear_value x12
      extract_lets +onlyGivenNames x13
      have hx13 : ∀ x13a0 x13a1, Only L s0 (x13 x13a0 x13a1) := by
        intro x13a0 x13a1
        unfold x13
        extract_lets +onlyGivenNames x14
        clear_value x14
        refine State.sendMgmt_only ?_ (List.Subset.trans (by decide) hl) _ _ _
        refine State.modDrover_only ?_ (List.Subset.trans (by decide) hl) _ _
        exact h4
      clear_value x13
      split
      · refine hx10 _ _ ?_
        exact h4
      · refine Only.ite ?_ ?_
        · refine Only.ite ?_ ?_
          · refine hx10 _ _ ?_
            exact h4
          · refine Only.ite ?_ ?_
            · refine hx10 _ _ ?_
              exact h4
            · refine hx13 _ _
        · split
          · refine hx10 _ _ ?_
            exact h4
          · refine Only.ite ?_ ?_
            · refine hx10 _ _ ?_
              exact h4
            · refine hx13 _ _
theorem mgmtBody_only (h : Only L s0 s) (hl : [Part.pf, Part.vf, Part.history, Part.out, Part.hostMem, Part.stalls, Part.hbm, Part.poison, Part.lineSlot, Part.mee, Part.tl, Part.sessions, Part.free] ⊆ L) (p : LinkPort) (m : LinkMsg) (b : Mgmt) :
    Only L s0 (mgmtBody p m b s) := by
  unfold mgmtBody
  refine onStall_only ?_ _ _ ?_
  · exact h
  · intro x1
    intro x2
    intro h3
    split
    · split
      · refine State.sendMgmt_only ?_ (List.Subset.trans (by decide) hl) _ _ _
        exact h3
      · refine State.sendMgmt_only ?_ (List.Subset.trans (by decide) hl) _ _ _
        exact h3
      · exact h3
    · extract_lets +onlyGivenNames x4
      split
      · extract_lets +onlyGivenNames x5
        extract_lets +onlyGivenNames x6
        have hx6 : Only L s0 x6 := by
          unfold x6
          refine Only.ite ?_ ?_
          · refine State.modDrover_only ?_ (List.Subset.trans (by decide) hl) _ _
            exact h3
          · exact h3
        clear_value x6
        refine State.sendMgmt_only ?_ (List.Subset.trans (by decide) hl) _ _ _
        exact hx6
      · split
        · exact h3
        · extract_lets +onlyGivenNames x7
          have hx7 : Only L s0 x7 := by
            unfold x7
            refine State.modDrover_only ?_ (List.Subset.trans (by decide) hl) _ _
            exact h3
          clear_value x7
          refine Only.ite ?_ ?_
          · refine State.mbAnswer_only ?_ (List.Subset.trans (by decide) hl) _ _ _
            exact hx7
          · extract_lets +onlyGivenNames x8
            have hx8 : Only L s0 x8.2 := by
              unfold x8
              refine State.drawBytes_only ?_ (List.Subset.trans (by decide) hl) _
              exact hx7
            clear_value x8
            extract_lets +onlyGivenNames x9
            extract_lets +onlyGivenNames x10
            refine State.mbAnswer_only ?_ (List.Subset.trans (by decide) hl) _ _ _
            refine State.modDrover_only ?_ (List.Subset.trans (by decide) hl) _ _
            exact hx8
      · refine State.sendMgmt_only ?_ (List.Subset.trans (by decide) hl) _ _ _
        split
        · exact h3
        · refine State.modDrover_only ?_ (List.Subset.trans (by decide) hl) _ _
          exact h3
      · split
        · exact h3
        · extract_lets +onlyGivenNames x11
          extract_lets +onlyGivenNames x12
          have hx12 : Only L s0 x12 := by
            unfold x12
            refine State.modDrover_only ?_ (List.Subset.trans (by decide) hl) _ _
            exact h3
          clear_value x12
          refine State.mbAnswer_only ?_ (List.Subset.trans (by decide) hl) _ _ _
          exact hx12
      · refine forAll_only ?_ _ _ ?_
        · exact h3
        · intro x13
          intro x14
          intro h15
          refine State.lapseBorrow_only ?_ (List.Subset.trans (by decide) hl) _ _
          exact h15
      · refine State.sendMgmt_only ?_ (List.Subset.trans (by decide) hl) _ _ _
        exact h3
      · exact h3

end Sys2Proof.Machine
end

