-- ==== Sys2Proof/Laws/Collective.lean ====
section
/-! SUPPORT. Machine/Collective.lean: what each of its operations keeps, and the parts it changes. -/

namespace Sys2Proof.Machine

variable {L : List Part} {s0 s : State}

theorem State.sendMember_only (h : Only L s0 s) (hl : [Part.out, Part.tl] ⊆ L) (n : Nat) (a2 : Holdings) (g : Group) (j : Nat) (op : Nat) (f : LinkMsg → LinkMsg) :
    Only L s0 (State.sendMember s n a2 g j op f) := by
  unfold State.sendMember
  split
  · exact h
  · split
    · exact h
    · refine State.sendMsg_only ?_ (List.Subset.trans (by decide) hl) _ _ _
      exact h
theorem State.collSend_only (h : Only L s0 s) (hl : [Part.out, Part.stalls, Part.tl] ⊆ L) (n : Nat) (gid : Nat) (a2 : Nat) :
    Only L s0 (State.collSend n gid a2 s) := by
  induction a2 generalizing s with
  | zero =>
    exact h
  | succ m ih =>
    unfold State.collSend
    split
    · exact h
    · split
      · refine Only.ite ?_ ?_
        · exact h
        · extract_lets +onlyGivenNames x1
          split
          · exact h
          · extract_lets +onlyGivenNames x2
            extract_lets +onlyGivenNames x3
            extract_lets +onlyGivenNames x4
            have hx4 : Only L s0 x4 := by
              unfold x4
              refine State.modRelay_only ?_ (List.Subset.trans (by decide) hl) _ _
              exact h
            clear_value x4
            refine ih ?_
            refine State.sendMember_only ?_ (List.Subset.trans (by decide) hl) _ _ _ _ _ _
            exact hx4
      · exact h
theorem State.collEnd_only (h : Only L s0 s) (hl : [Part.pf, Part.vf, Part.history, Part.out, Part.stalls] ⊆ L) (n : Nat) (c : Coll) (st : Byte × Byte) (value : Nat) :
    Only L s0 (State.collEnd s n c st value) := by
  unfold State.collEnd
  extract_lets +onlyGivenNames x1
  have hx1 : Only L s0 x1 := by
    unfold x1
    refine State.finish_only ?_ (List.Subset.trans (by decide) hl) _ _ _ _ _ _
    exact h
  clear_value x1
  refine State.settleClears_only ?_ (List.Subset.trans (by decide) hl) _
  refine State.modRelay_only ?_ (List.Subset.trans (by decide) hl) _ _
  exact hx1
theorem State.collFinish_only (h : Only L s0 s) (hl : [Part.pf, Part.vf, Part.history, Part.out, Part.stalls, Part.hbm, Part.poison, Part.lineSlot, Part.mee, Part.free] ⊆ L) (n : Nat) (gid : Nat) :
    Only L s0 (State.collFinish s n gid) := by
  unfold State.collFinish
  split
  · exact h
  · split
    · split
      · exact h
      · extract_lets +onlyGivenNames x1
        refine Only.ite ?_ ?_
        · exact h
        · extract_lets +onlyGivenNames x2
          extract_lets +onlyGivenNames x3
          extract_lets +onlyGivenNames x4
          extract_lets +onlyGivenNames x5
          extract_lets +onlyGivenNames x6
          extract_lets +onlyGivenNames x7
          have hx7 : Only L s0 x7 := by
            unfold x7
            refine Only.ite ?_ ?_
            · refine Only.free ?_ _ (hl (by decide))
              exact h
            · exact h
          clear_value x7
          extract_lets +onlyGivenNames x8
          have hx8 : Only L s0 x8.2 := by
            unfold x8
            refine State.writeRun_only ?_ (List.Subset.trans (by decide) hl) _ _ _ _ _
            exact hx7
          clear_value x8
          extract_lets +onlyGivenNames x9
          refine State.collEnd_only ?_ (List.Subset.trans (by decide) hl) _ _ _ _
          exact hx8
    · exact h
theorem State.collTake_only (h : Only L s0 s) (hl : [Part.out, Part.stalls, Part.tl] ⊆ L) (n : Nat) (gid : Nat) :
    Only L s0 (State.collTake s n gid) := by
  unfold State.collTake
  split
  · exact h
  · split
    · split
      · exact h
      · refine forAll_only ?_ _ _ ?_
        · exact h
        · intro x1
          intro x2
          intro h3
          extract_lets +onlyGivenNames x4
          extract_lets +onlyGivenNames x5
          extract_lets +onlyGivenNames x6
          extract_lets +onlyGivenNames x7
          refine Only.ite ?_ ?_
          · exact h3
          · extract_lets +onlyGivenNames x8
            extract_lets +onlyGivenNames x9
            have hx9 : Only L s0 x9 := by
              unfold x9
              refine State.modRelay_only ?_ (List.Subset.trans (by decide) hl) _ _
              exact h3
            clear_value x9
            refine State.sendMember_only ?_ (List.Subset.trans (by decide) hl) _ _ _ _ _ _
            exact hx9
    · exact h
theorem State.collMove_only (h : Only L s0 s) (hl : [Part.pf, Part.vf, Part.history, Part.out, Part.stalls, Part.hbm, Part.poison, Part.lineSlot, Part.mee, Part.tl, Part.free] ⊆ L) (n : Nat) (gid : Nat) :
    Only L s0 (State.collMove s n gid) := by
  unfold State.collMove
  extract_lets +onlyGivenNames x1
  have hx1 : Only L s0 x1 := by
    unfold x1
    refine State.collTake_only ?_ (List.Subset.trans (by decide) hl) _ _
    exact h
  clear_value x1
  extract_lets +onlyGivenNames x2
  refine State.collFinish_only ?_ (List.Subset.trans (by decide) hl) _ _
  refine State.collSend_only ?_ (List.Subset.trans (by decide) hl) _ _ _
  exact hx1
theorem State.collBegin_only (h : Only L s0 s) (hl : [Part.pf, Part.vf, Part.history, Part.out, Part.stalls, Part.hbm, Part.poison, Part.lineSlot, Part.mee, Part.tl, Part.free] ⊆ L) (n : Nat) (gid : Nat) :
    Only L s0 (State.collBegin s n gid) := by
  unfold State.collBegin
  split
  · exact h
  · split
    · split
      · exact h
      · extract_lets +onlyGivenNames x1
        extract_lets +onlyGivenNames x2
        extract_lets +onlyGivenNames x3
        have hx3 : Only L s0 x3.2 := by
          unfold x3
          refine State.readRun_only ?_ (List.Subset.trans (by decide) hl) _ _ _ _
          exact h
        clear_value x3
        extract_lets +onlyGivenNames x4
        refine Only.ite ?_ ?_
        · refine State.collEnd_only ?_ (List.Subset.trans (by decide) hl) _ _ _ _
          exact hx3
        · extract_lets +onlyGivenNames x5
          have hx5 : Only L s0 x5 := by
            unfold x5
            refine State.modEntry_only ?_ (List.Subset.trans (by decide) hl) _ _ _ _
            exact hx3
          clear_value x5
          extract_lets +onlyGivenNames x6
          extract_lets +onlyGivenNames x7
          have hx7 : Only L s0 x7 := by
            unfold x7
            refine State.modRelay_only ?_ (List.Subset.trans (by decide) hl) _ _
            exact hx5
          clear_value x7
          refine State.collMove_only ?_ (List.Subset.trans (by decide) hl) _ _
          exact hx7
    · exact h
theorem State.collReadyCheck_only (h : Only L s0 s) (hl : [Part.pf, Part.vf, Part.history, Part.out, Part.stalls, Part.hbm, Part.poison, Part.lineSlot, Part.mee, Part.tl, Part.free] ⊆ L) (n : Nat) (gid : Nat) :
    Only L s0 (State.collReadyCheck s n gid) := by
  unfold State.collReadyCheck
  split
  · exact h
  · split
    · refine Only.ite ?_ ?_
      · refine State.collBegin_only ?_ (List.Subset.trans (by decide) hl) _ _
        refine State.modRelay_only ?_ (List.Subset.trans (by decide) hl) _ _
        exact h
      · exact h
    · exact h
theorem collective_only (h : Only L s0 s) (hl : [Part.pf, Part.vf, Part.history, Part.out, Part.hostMem, Part.stalls, Part.hbm, Part.poison, Part.lineSlot, Part.mee, Part.tl, Part.sessions, Part.free] ⊆ L) (q : QueueId) :
    Only L s0 (collective q s) := by
  unfold collective
  extract_lets +onlyGivenNames x1
  clear_value x1
  extract_lets +onlyGivenNames x2
  clear_value x2
  split
  · exact h
  · refine Only.ite ?_ ?_
    · exact h
    · refine State.begin_only ?_ (List.Subset.trans (by decide) hl) _ _ _ ?_
      · exact h
      · intro x3
        intro x4
        intro h5
        extract_lets +onlyGivenNames x6
        clear_value x6
        extract_lets +onlyGivenNames x7
        clear_value x7
        extract_lets +onlyGivenNames x8
        clear_value x8
        split
        · refine State.modEntry_only ?_ (List.Subset.trans (by decide) hl) _ _ _ _
          exact h5
        · refine Only.ite ?_ ?_
          · refine State.modEntry_only ?_ (List.Subset.trans (by decide) hl) _ _ _ _
            exact h5
          · extract_lets +onlyGivenNames x9
            clear_value x9
            extract_lets +onlyGivenNames x10
            clear_value x10
            extract_lets +onlyGivenNames x11
            have hx11 : Only L s0 x11 := by
              unfold x11
              refine State.modRelay_only ?_ (List.Subset.trans (by decide) hl) _ _
              refine State.modEntry_only ?_ (List.Subset.trans (by decide) hl) _ _ _ _
              exact h5
            clear_value x11
            refine Only.ite ?_ ?_
            · refine State.collReadyCheck_only ?_ (List.Subset.trans (by decide) hl) _ _
              refine forAll_only ?_ _ _ ?_
              · exact hx11
              · intro x12
                intro x13
                intro h14
                refine State.sendMember_only ?_ (List.Subset.trans (by decide) hl) _ _ _ _ _ _
                exact h14
            · exact hx11
theorem collectiveLaunch_only (h : Only L s0 s) (hl : [Part.gtb, Part.timers, Part.outs, Part.matrix, Part.pf, Part.vf, Part.history, Part.out, Part.stalls, Part.hbm, Part.poison, Part.lineSlot, Part.mee, Part.tl, Part.free] ⊆ L) (q : QueueId) (pos : U32) :
    Only L s0 (collectiveLaunch q pos s) := by
  unfold collectiveLaunch
  split
  · exact h
  · refine Only.ite ?_ ?_
    · exact h
    · split
      · exact h
      · extract_lets +onlyGivenNames x1
        have hx1 : Only L s0 x1 := by
          unfold x1
          refine State.advance_only ?_ (List.Subset.trans (by decide) hl) _
          exact h
        clear_value x1
        refine State.collBegin_only ?_ (List.Subset.trans (by decide) hl) _ _
        refine State.modRelay_only ?_ (List.Subset.trans (by decide) hl) _ _
        exact hx1
theorem collectiveTimeout_only (h : Only L s0 s) (hl : [Part.gtb, Part.timers, Part.outs, Part.matrix, Part.pf, Part.vf, Part.history, Part.out, Part.stalls] ⊆ L) (q : QueueId) (pos : U32) :
    Only L s0 (collectiveTimeout q pos s) := by
  unfold collectiveTimeout
  split
  · split
    · exact h
    · extract_lets +onlyGivenNames x1
      split
      · refine State.collEnd_only ?_ (List.Subset.trans (by decide) hl) _ _ _ _
        refine State.advance_only ?_ (List.Subset.trans (by decide) hl) _
        exact h
      · exact h
  · exact h
theorem collBody_only (h : Only L s0 s) (hl : [Part.pf, Part.vf, Part.history, Part.out, Part.stalls, Part.hbm, Part.poison, Part.lineSlot, Part.mee, Part.tl, Part.free] ⊆ L) (m : LinkMsg) :
    Only L s0 (collBody m s) := by
  unfold collBody
  split
  · exact h
  · split
    · exact h
    · refine Only.ite ?_ ?_
      · refine State.collMove_only ?_ (List.Subset.trans (by decide) hl) _ _
        refine State.modRelay_only ?_ (List.Subset.trans (by decide) hl) _ _
        exact h
      · extract_lets +onlyGivenNames x1
        clear_value x1
        extract_lets +onlyGivenNames x2
        clear_value x2
        extract_lets +onlyGivenNames x3
        have hx3 : ∀ x3a0 x3a1 x3a2, Only L s0 x3a2.2 → Only L s0 (x3 x3a0 x3a1 x3a2).2 := by
          intro x3a0 x3a1 x3a2 hx30
          unfold x3
          extract_lets +onlyGivenNames x4
          have hx4 : Only L s0 x4.2 := by
            unfold x4
            refine State.writeRun_only ?_ (List.Subset.trans (by decide) hl) _ _ _ _ _
            exact hx30
          clear_value x4
          dsimp only
          exact hx4
        clear_value x3
        extract_lets +onlyGivenNames x5
        have hx5 : Only L s0 x5.2 := by
          unfold x5
          refine hx3 _ _ _ ?_
          refine hx3 _ _ _ ?_
          dsimp only
          exact h
        clear_value x5
        refine Only.ite ?_ ?_
        · exact hx5
        · refine State.collMove_only ?_ (List.Subset.trans (by decide) hl) _ _
          refine State.modRelay_only ?_ (List.Subset.trans (by decide) hl) _ _
          exact hx5
theorem collReadyBody_only (h : Only L s0 s) (hl : [Part.pf, Part.vf, Part.history, Part.out, Part.stalls, Part.hbm, Part.poison, Part.lineSlot, Part.mee, Part.tl, Part.free] ⊆ L) (m : LinkMsg) :
    Only L s0 (collReadyBody m s) := by
  unfold collReadyBody
  split
  · exact h
  · split
    · exact h
    · refine State.collReadyCheck_only ?_ (List.Subset.trans (by decide) hl) _ _
      refine State.modRelay_only ?_ (List.Subset.trans (by decide) hl) _ _
      exact h
theorem linkBody_only (h : Only L s0 s) (hl : [Part.pf, Part.vf, Part.history, Part.out, Part.stalls, Part.hbm, Part.poison, Part.lineSlot, Part.mee, Part.tl, Part.free] ⊆ L) (p : LinkPort) (op : Nat) (m : LinkMsg) : Only L s0 (linkBody p op m s) := by
  unfold linkBody
  split
  · exact wrBody_only h (List.Subset.trans (by decide) hl) _ _
  · exact wrAckBody_only h (List.Subset.trans (by decide) hl) _
  · exact rdBody_only h (List.Subset.trans (by decide) hl) _ _
  · exact rdDataBody_only h (List.Subset.trans (by decide) hl) _
  · exact collBody_only h (List.Subset.trans (by decide) hl) _
  · exact h
theorem State.takeInbox_only (h : Only L s0 s) (hl : [Part.pf, Part.vf, Part.history, Part.out, Part.stalls, Part.hbm, Part.poison, Part.lineSlot, Part.mee, Part.tl, Part.free] ⊆ L) (p : LinkPort) :
    Only L s0 (State.takeInbox s p) := by
  unfold State.takeInbox
  refine forAll_only (State.setTlp_only h (List.Subset.trans (by decide) hl) _ _) _ _ (fun x u hu => ?_)
  exact State.arrive_only hu (List.Subset.trans (by decide) hl) _ _ _ _ _ (fun t ht => linkBody_only ht (List.Subset.trans (by decide) hl) _ _ _)
theorem groupSet_only (h : Only L s0 s) (hl : [Part.gtb, Part.pf, Part.vf, Part.history, Part.out, Part.stalls, Part.power, Part.side, Part.free] ⊆ L) (m : Req) :
    Only L s0 (groupSet m s) := by
  unfold groupSet
  extract_lets +onlyGivenNames x1
  clear_value x1
  refine State.mbServeA_only ?_ (List.Subset.trans (by decide) hl) _ _ _ ?_
  · exact h
  · intro x2
    intro h3
    extract_lets +onlyGivenNames x4
    clear_value x4
    extract_lets +onlyGivenNames x5
    clear_value x5
    split
    · dsimp only
      exact h3
    · extract_lets +onlyGivenNames x6
      clear_value x6
      extract_lets +onlyGivenNames x7
      clear_value x7
      split
      · refine State.refuseFree_only ?_ (List.Subset.trans (by decide) hl)
        exact h3
      · extract_lets +onlyGivenNames x8
        clear_value x8
        dsimp only
        refine State.modRelay_only ?_ (List.Subset.trans (by decide) hl) _ _
        exact h3
theorem groupClear_only (h : Only L s0 s) (hl : [Part.gtb, Part.pf, Part.vf, Part.history, Part.out, Part.stalls, Part.power, Part.side, Part.free] ⊆ L) (m : Req) :
    Only L s0 (groupClear m s) := by
  unfold groupClear
  extract_lets +onlyGivenNames x1
  refine State.mbServe_only ?_ (List.Subset.trans (by decide) hl) _ _ _ ?_
  · exact h
  · intro x2
    intro h3
    extract_lets +onlyGivenNames x4
    split
    · extract_lets +onlyGivenNames x5
      have hx5 : Only L s0 x5.2 := by
        unfold x5
        refine State.refuseFree_only ?_ (List.Subset.trans (by decide) hl)
        exact h3
      clear_value x5
      refine State.mbAnswer_only ?_ (List.Subset.trans (by decide) hl) _ _ _
      exact hx5
    · refine State.settleClears_only ?_ (List.Subset.trans (by decide) hl) _
      refine State.modRelay_only ?_ (List.Subset.trans (by decide) hl) _ _
      exact h3

end Sys2Proof.Machine
end

