-- ==== Sys2Proof/Laws/Commands.lean ====
section
/-! SUPPORT. Machine/Commands.lean: what each of its operations keeps, and the parts it changes. -/

namespace Sys2Proof.Machine

variable {L : List Part} {s0 s : State}

theorem nopCmd_only (h : Only L s0 s) (hl : [Part.vf, Part.out, Part.hostMem, Part.stalls, Part.hbm, Part.poison, Part.lineSlot, Part.mee, Part.sessions] ⊆ L) (q : QueueId) :
    Only L s0 (nopCmd q s) := by
  unfold nopCmd
  refine State.begin_only ?_ (List.Subset.trans (by decide) hl) _ _ _ ?_
  · exact h
  · intro x1
    intro x2
    intro h3
    refine State.finish_only ?_ (List.Subset.trans (by decide) hl) _ _ _ _ _ _
    exact h3
theorem waitAt_only (h : Only L s0 s) (hl : [Part.vf, Part.out, Part.hostMem, Part.stalls, Part.hbm, Part.poison, Part.lineSlot, Part.mee, Part.sessions] ⊆ L) (q : QueueId) :
    Only L s0 (waitAt q s) := by
  unfold waitAt
  refine State.begin_only ?_ (List.Subset.trans (by decide) hl) _ _ _ ?_
  · exact h
  · intro x1
    intro x2
    intro h3
    refine Only.ite ?_ ?_
    · refine State.passWait_only ?_ (List.Subset.trans (by decide) hl) _ _ _ _ _
      exact h3
    · exact h3
theorem waitAtPass_only (h : Only L s0 s) (hl : [Part.gtb, Part.timers, Part.outs, Part.matrix, Part.pf, Part.out, Part.stalls] ⊆ L) (q : QueueId) (pos : U32) :
    Only L s0 (waitAtPass q pos s) := by
  unfold waitAtPass
  split
  · exact h
  · refine Only.ite ?_ ?_
    · exact h
    · extract_lets +onlyGivenNames x1
      have hx1 : Only L s0 x1 := by
        unfold x1
        refine State.advance_only ?_ (List.Subset.trans (by decide) hl) _
        exact h
      clear_value x1
      refine Only.ite ?_ ?_
      · refine State.passWait_only ?_ (List.Subset.trans (by decide) hl) _ _ _ _ _
        exact hx1
      · exact hx1
theorem waitGate_only (h : Only L s0 s) (hl : [Part.vf, Part.out, Part.hostMem, Part.stalls, Part.hbm, Part.poison, Part.lineSlot, Part.mee, Part.sessions] ⊆ L) (q : QueueId) :
    Only L s0 (waitGate q s) := by
  unfold waitGate
  refine State.begin_only ?_ (List.Subset.trans (by decide) hl) _ _ _ ?_
  · exact h
  · intro x1
    intro x2
    intro h3
    split
    · exact h3
    · extract_lets +onlyGivenNames x4
      refine Only.ite ?_ ?_
      · refine State.passWait_only ?_ (List.Subset.trans (by decide) hl) _ _ _ _ _
        exact h3
      · exact h3
theorem gateArm_only (h : Only L s0 s) (hl : [Part.gtb, Part.gates, Part.timers, Part.outs, Part.matrix, Part.pf, Part.vf, Part.out, Part.hostMem, Part.stalls, Part.hbm, Part.poison, Part.lineSlot, Part.mee, Part.power, Part.side, Part.sessions] ⊆ L) (q : QueueId) :
    Only L s0 (gateArm q s) := by
  unfold gateArm
  refine State.begin_only ?_ (List.Subset.trans (by decide) hl) _ _ _ ?_
  · exact h
  · intro x1
    intro x2
    intro h3
    split
    · exact h3
    · extract_lets +onlyGivenNames x4
      have hx4 : Only L s0 x4 := by
        unfold x4
        refine State.modEntry_only ?_ (List.Subset.trans (by decide) hl) _ _ _ _
        exact h3
      clear_value x4
      extract_lets +onlyGivenNames x5
      have hx5 : Only L s0 x5 := by
        unfold x5
        refine State.setGate_only ?_ (List.Subset.trans (by decide) hl) _ _
        exact hx4
      clear_value x5
      extract_lets +onlyGivenNames x6
      have hx6 : Only L s0 x6 := by
        unfold x6
        refine State.landGate_only ?_ (List.Subset.trans (by decide) hl) _ _
        refine State.landGate_only ?_ (List.Subset.trans (by decide) hl) _ _
        refine State.landGate_only ?_ (List.Subset.trans (by decide) hl) _ _
        exact hx5
      clear_value x6
      extract_lets +onlyGivenNames x7
      have hx7 : Only L s0 x7 := by
        unfold x7
        refine Only.dite ?_ ?_
        · intro x8
          refine gateWriteTakesEffect_only ?_ (List.Subset.trans (by decide) hl) _
          exact hx6
        · intro x9
          exact hx6
      clear_value x7
      refine State.finish_only ?_ (List.Subset.trans (by decide) hl) _ _ _ _ _ _
      exact hx7
theorem gateDisarm_only (h : Only L s0 s) (hl : [Part.gates, Part.vf, Part.out, Part.hostMem, Part.stalls, Part.hbm, Part.poison, Part.lineSlot, Part.mee, Part.sessions] ⊆ L) (q : QueueId) :
    Only L s0 (gateDisarm q s) := by
  unfold gateDisarm
  refine State.begin_only ?_ (List.Subset.trans (by decide) hl) _ _ _ ?_
  · exact h
  · intro x1
    intro x2
    intro h3
    split
    · exact h3
    · extract_lets +onlyGivenNames x4
      have hx4 : Only L s0 x4 := by
        unfold x4
        refine State.modEntry_only ?_ (List.Subset.trans (by decide) hl) _ _ _ _
        exact h3
      clear_value x4
      refine State.finish_only ?_ (List.Subset.trans (by decide) hl) _ _ _ _ _ _
      refine State.landGate_only ?_ (List.Subset.trans (by decide) hl) _ _
      exact hx4
theorem State.writeFor_only (h : Only L s0 s) (hl : [Part.stalls, Part.hbm, Part.poison, Part.lineSlot, Part.mee] ⊆ L) (n : Nat) (k : Nat) (e : Entry) (va : Nat) (bs : List Byte) (v : U64) :
    Only L s0 (State.writeFor s n k e va bs v) := by
  unfold State.writeFor
  extract_lets +onlyGivenNames x1
  have hx1 : Only L s0 x1.2 := by
    unfold x1
    refine State.writeRun_only ?_ (List.Subset.trans (by decide) hl) _ _ _ _ _
    exact h
  clear_value x1
  extract_lets +onlyGivenNames x2
  refine State.finish_only ?_ (List.Subset.trans (by decide) hl) _ _ _ _ _ _
  exact hx1
theorem timestamp_only (h : Only L s0 s) (hl : [Part.vf, Part.out, Part.hostMem, Part.stalls, Part.hbm, Part.poison, Part.lineSlot, Part.mee, Part.sessions] ⊆ L) (q : QueueId) :
    Only L s0 (timestamp q s) := by
  unfold timestamp
  refine State.begin_only ?_ (List.Subset.trans (by decide) hl) _ _ _ ?_
  · exact h
  · intro x1
    intro x2
    intro h3
    refine State.writeFor_only ?_ (List.Subset.trans (by decide) hl) _ _ _ _ _ _
    exact h3
theorem semSignal_only (h : Only L s0 s) (hl : [Part.vf, Part.out, Part.hostMem, Part.stalls, Part.hbm, Part.poison, Part.lineSlot, Part.mee, Part.sessions] ⊆ L) (q : QueueId) :
    Only L s0 (semSignal q s) := by
  unfold semSignal
  refine State.begin_only ?_ (List.Subset.trans (by decide) hl) _ _ _ ?_
  · exact h
  · intro x1
    intro x2
    intro h3
    extract_lets +onlyGivenNames x4
    extract_lets +onlyGivenNames x5
    extract_lets +onlyGivenNames x6
    have hx6 : Only L s0 x6 := by
      unfold x6
      refine State.modEntry_only ?_ (List.Subset.trans (by decide) hl) _ _ _ _
      exact h3
    clear_value x6
    extract_lets +onlyGivenNames x7
    extract_lets +onlyGivenNames x8
    have hx8 : Only L s0 x8.2.2 := by
      unfold x8
      refine State.atomic_only ?_ (List.Subset.trans (by decide) hl) _ _ _ _ _
      exact hx6
    clear_value x8
    extract_lets +onlyGivenNames x9
    refine State.finish_only ?_ (List.Subset.trans (by decide) hl) _ _ _ _ _ _
    exact hx8
theorem State.semRead_only (h : Only L s0 s) (hl : [Part.stalls, Part.hbm, Part.poison, Part.lineSlot, Part.mee] ⊆ L) (n : Nat) (k : Nat) (e : Entry) (p : Option Byte) :
    Only L s0 (State.semRead s n k e p) := by
  unfold State.semRead
  extract_lets +onlyGivenNames x1 x2 x3 x4
  have hx1 : Only L s0 x1.2.2 := by
    unfold x1
    refine State.readPiece_only ?_ (List.Subset.trans (by decide) hl) _ _ _ _ _ _
    exact h
  have hw : ∀ p v, Only L s0 (x3 p v) := fun p v => State.modEntry_only hx1 (List.Subset.trans (by decide) hl) _ _ _ _
  have hf : ∀ a b v, Only L s0 (x1.2.2.finish n k e.pos a b v) := fun a b v => State.finish_only hx1 (List.Subset.trans (by decide) hl) _ _ _ _ _ _
  clear_value x1 x2 x3 x4
  split
  · exact Only.ite (hf _ _ _) (hw _ _)
  · exact hw _ _
  · exact hw _ _
  · exact hf _ _ _
  · exact hf _ _ _
theorem semWait_only (h : Only L s0 s) (hl : [Part.vf, Part.out, Part.hostMem, Part.stalls, Part.hbm, Part.poison, Part.lineSlot, Part.mee, Part.sessions] ⊆ L) (q : QueueId) :
    Only L s0 (semWait q s) := by
  unfold semWait
  refine State.begin_only ?_ (List.Subset.trans (by decide) hl) _ _ _ ?_
  · exact h
  · intro x1
    intro x2
    intro h3
    refine State.semRead_only ?_ (List.Subset.trans (by decide) hl) _ _ _ _
    exact h3
theorem semWaitPass_only (h : Only L s0 s) (hl : [Part.stalls, Part.hbm, Part.poison, Part.lineSlot, Part.mee] ⊆ L) (q : QueueId) (pos : U32) :
    Only L s0 (semWaitPass q pos s) := by
  unfold semWaitPass
  split
  · exact h
  · refine Only.ite ?_ ?_
    · refine State.semRead_only ?_ (List.Subset.trans (by decide) hl) _ _ _ _
      exact h
    · exact h
theorem semWaitTimeout_only (h : Only L s0 s) (hl : [Part.gtb, Part.timers, Part.outs, Part.matrix, Part.pf, Part.out, Part.stalls, Part.free] ⊆ L) (q : QueueId) (pos : U32) :
    Only L s0 (semWaitTimeout q pos s) := by
  unfold semWaitTimeout
  split
  · exact h
  · refine Only.ite ?_ ?_
    · have ha := State.advance_only h (List.Subset.trans (by decide) hl)
      split
      · exact State.finish_only (ha _) (List.Subset.trans (by decide) hl) _ _ _ _ _ _
      · exact State.finish_only (State.draw_only (ha _) (List.Subset.trans (by decide) hl) _) (List.Subset.trans (by decide) hl) _ _ _ _ _ _
    · exact h
theorem waitQueue_only (h : Only L s0 s) (hl : [Part.vf, Part.out, Part.hostMem, Part.stalls, Part.hbm, Part.poison, Part.lineSlot, Part.mee, Part.sessions] ⊆ L) (q : QueueId) :
    Only L s0 (waitQueue q s) := by
  unfold waitQueue
  refine State.begin_only ?_ (List.Subset.trans (by decide) hl) _ _ _ ?_
  · exact h
  · intro x1
    intro x2
    intro h3
    extract_lets +onlyGivenNames x4
    refine Only.ite ?_ ?_
    · refine State.finish_only ?_ (List.Subset.trans (by decide) hl) _ _ _ _ _ _
      exact h3
    · exact h3
theorem waitQueueTimeout_only (h : Only L s0 s) (hl : [Part.gtb, Part.timers, Part.outs, Part.matrix, Part.pf, Part.out, Part.stalls] ⊆ L) (q : QueueId) (pos : U32) :
    Only L s0 (waitQueueTimeout q pos s) := by
  unfold waitQueueTimeout
  split
  · exact h
  · refine Only.ite ?_ ?_
    · extract_lets +onlyGivenNames x1
      have hx1 : Only L s0 x1 := by
        unfold x1
        refine State.advance_only ?_ (List.Subset.trans (by decide) hl) _
        exact h
      clear_value x1
      refine State.finish_only ?_ (List.Subset.trans (by decide) hl) _ _ _ _ _ _
      exact hx1
    · exact h
theorem fence_only (h : Only L s0 s) (hl : [Part.vf, Part.out, Part.hostMem, Part.stalls, Part.hbm, Part.poison, Part.lineSlot, Part.mee, Part.sessions] ⊆ L) (q : QueueId) :
    Only L s0 (fence q s) := by
  unfold fence
  refine State.begin_only ?_ (List.Subset.trans (by decide) hl) _ _ _ ?_
  · exact h
  · intro x1
    intro x2
    intro h3
    refine State.finish_only ?_ (List.Subset.trans (by decide) hl) _ _ _ _ _ _
    exact h3
theorem receipt_only (h : Only L s0 s) (hl : [Part.vf, Part.out, Part.hostMem, Part.stalls, Part.hbm, Part.poison, Part.lineSlot, Part.mee, Part.sessions, Part.free] ⊆ L) (q : QueueId) :
    Only L s0 (receipt q s) := by
  unfold receipt
  refine State.begin_only ?_ (List.Subset.trans (by decide) hl) _ _ _ ?_
  · exact h
  · intro x1
    intro x2
    intro h3
    extract_lets +onlyGivenNames x4
    extract_lets +onlyGivenNames x5
    split
    · extract_lets +onlyGivenNames x6
      extract_lets +onlyGivenNames x7
      extract_lets +onlyGivenNames x8
      extract_lets +onlyGivenNames x9
      have hx9 : Only L s0 x9 := by
        unfold x9
        refine Only.free ?_ _ (hl (by decide))
        exact h3
      clear_value x9
      extract_lets +onlyGivenNames x10
      have hx10 : Only L s0 x10 := by
        unfold x10
        refine State.modEntry_only ?_ (List.Subset.trans (by decide) hl) _ _ _ _
        exact hx9
      clear_value x10
      refine State.writeFor_only ?_ (List.Subset.trans (by decide) hl) _ _ _ _ _ _
      exact hx10
    · exact h3
theorem State.moveChunk_only (h : Only L s0 s) (hl : [Part.stalls] ⊆ L) (n : StallNo) (k : Nat) (e : Entry) (total : Nat) (src : Source) (dst : Dest)
    (hr : ∀ t n u, Only L s0 u → Only L s0 (src.read t n u).2.2) (hw : ∀ t b p u, Only L s0 u → Only L s0 (dst.write t b p u).2) :
    Only L s0 (State.moveChunk s n k e total src dst) := by
  unfold State.moveChunk
  exact State.settleMove_only (moveRun_only h _ _ _ _ _ _ hr hw) (List.Subset.trans (by decide) hl) _ _ _ _ _
theorem stallSource_only (hl : [Part.stalls, Part.hbm, Part.poison, Part.lineSlot, Part.mee] ⊆ L) (w : Who) (dma : Bool) (a room : Nat → Nat) (t n : Nat) (u : State)
    (h : Only L s0 u) : Only L s0 ((stallSource w dma a room).read t n u).2.2 := by
  unfold stallSource
  exact State.readPiece_only h (List.Subset.trans (by decide) hl) _ _ _ _ _ _
theorem stallDest_only (hl : [Part.stalls, Part.hbm, Part.poison, Part.lineSlot, Part.mee] ⊆ L) (w : Who) (dma : Bool) (a room : Nat → Nat) (t : Nat) (b : List Byte) (p : Bool) (u : State)
    (h : Only L s0 u) : Only L s0 ((stallDest w dma a room).write t b p u).2 := by
  unfold stallDest
  exact State.writePiece_only h (List.Subset.trans (by decide) hl) _ _ _ _ _
theorem sideSource_only (hl : [Part.stalls, Part.hbm, Part.poison, Part.lineSlot, Part.mee] ⊆ L) (n : Nat) (w : Who) (kind other : Nat) (a room : Nat → Nat) (t len : Nat) (u : State)
    (h : Only L s0 u) : Only L s0 ((sideSource n w kind other a room).read t len u).2.2 := by
  unfold sideSource
  split
  · unfold hostSource
    dsimp only
    split <;> exact h
  · exact stallSource_only hl _ _ _ _ _ _ _ h
theorem sideDest_only (hl : [Part.hostMem, Part.stalls, Part.hbm, Part.poison, Part.lineSlot, Part.mee] ⊆ L) (n : Nat) (w : Who) (kind other : Nat) (a room : Nat → Nat) (t : Nat)
    (b : List Byte) (p : Bool) (u : State) (h : Only L s0 u) : Only L s0 ((sideDest n w kind other a room).write t b p u).2 := by
  unfold sideDest
  split
  · unfold hostDest
    dsimp only
    split
    · rename_i e
      split at e
      · exact State.hostWrite_only h (List.Subset.trans (by decide) hl) _ _ _ e
      · cases e
    · exact h
  · exact stallDest_only (List.Subset.trans (by decide) hl) _ _ _ _ _ _ _ _ h
theorem bouncePages_only (h : Only L s0 s) (hl : [Part.hostMem, Part.stalls, Part.hbm, Part.poison, Part.lineSlot, Part.mee, Part.sessions] ⊆ L) (n : StallNo) (k : Nat) (pos : U32) (toHost : Bool) (w : Who) (id : Nat) (src : Nat) (dst : Nat) (total : Nat) (fin : Nat) (a10 : Nat) (a11 : Moved) :
    Only L s0 (bouncePages n k pos toHost w id src dst total fin a10 a11 s).2 := by
  induction a10 generalizing s a11 with
  | zero =>
    exact h
  | succ m ih =>
    unfold bouncePages
    split
    · dsimp only
      exact h
    · extract_lets +onlyGivenNames x1
      clear_value x1
      split
      · extract_lets +onlyGivenNames x2
        have hx2 : Only L s0 x2.2 := by
          unfold x2
          refine State.readRun_only ?_ (List.Subset.trans (by decide) hl) _ _ _ _
          exact h
        clear_value x2
        extract_lets +onlyGivenNames x3
        clear_value x3
        split
        · dsimp only
          exact hx2
        · split
          · dsimp only
            exact hx2
          · refine ih ?_ _
            refine State.sealPage_only ?_ (List.Subset.trans (by decide) hl) _ _ _ _ _ _ _ _ _ (by assumption)
            exact hx2
      · split
        · split
          · dsimp only
            exact h
          · extract_lets +onlyGivenNames x4
            have hx4 : Only L s0 x4 := by
              unfold x4
              refine State.setCounter_only ?_ (List.Subset.trans (by decide) hl) _ _ _ _
              exact h
            clear_value x4
            extract_lets +onlyGivenNames x5
            have hx5 : Only L s0 x5 := by
              unfold x5
              refine State.modEntry_only ?_ (List.Subset.trans (by decide) hl) _ _ _ _
              exact hx4
            clear_value x5
            extract_lets +onlyGivenNames x6
            have hx6 : Only L s0 x6.2 := by
              unfold x6
              refine State.writeRun_only ?_ (List.Subset.trans (by decide) hl) _ _ _ _ _
              exact hx5
            clear_value x6
            extract_lets +onlyGivenNames x7
            clear_value x7
            split
            · dsimp only
              exact hx6
            · refine ih ?_ _
              exact hx6
        · dsimp only
          exact h
theorem State.copyChunk_only (h : Only L s0 s) (hl : [Part.hostMem, Part.stalls, Part.hbm, Part.poison, Part.lineSlot, Part.mee, Part.sessions] ⊆ L) (n : StallNo) (k : Nat) (e : Entry) :
    Only L s0 (State.copyChunk s n k e) := by
  unfold State.copyChunk
  extract_lets w total sk dk
  split
  · exact State.settleMove_only (bouncePages_only h (List.Subset.trans (by decide) hl) _ _ _ _ _ _ _ _ _ _ _ _) (List.Subset.trans (by decide) hl) _ _ _ _ _
  · exact State.moveChunk_only h (List.Subset.trans (by decide) hl) _ _ _ _ _ _ (fun _ _ _ hu => sideSource_only (List.Subset.trans (by decide) hl) _ _ _ _ _ _ _ _ _ hu)
      (fun _ _ _ _ hu => sideDest_only (List.Subset.trans (by decide) hl) _ _ _ _ _ _ _ _ _ _ hu)
theorem copy_only (h : Only L s0 s) (hl : [Part.vf, Part.out, Part.hostMem, Part.stalls, Part.hbm, Part.poison, Part.lineSlot, Part.mee, Part.sessions] ⊆ L) (q : QueueId) :
    Only L s0 (copy q s) := by
  unfold copy
  refine State.transfer_only ?_ (List.Subset.trans (by decide) hl) _ _ _ _ ?_
  · exact h
  · intro x1
    intro x2
    intro h3
    refine State.copyChunk_only ?_ (List.Subset.trans (by decide) hl) _ _ _
    exact h3
theorem copyStrided_only (h : Only L s0 s) (hl : [Part.vf, Part.out, Part.hostMem, Part.stalls, Part.hbm, Part.poison, Part.lineSlot, Part.mee, Part.sessions] ⊆ L) (q : QueueId) :
    Only L s0 (copyStrided q s) := by
  unfold copyStrided
  refine State.transfer_only h (List.Subset.trans (by decide) hl) _ _ _ _ (fun e t ht => ?_)
  exact State.moveChunk_only ht (List.Subset.trans (by decide) hl) _ _ _ _ _ _ (fun _ _ _ hu => sideSource_only (List.Subset.trans (by decide) hl) _ _ _ _ _ _ _ _ _ hu)
    (fun _ _ _ _ hu => sideDest_only (List.Subset.trans (by decide) hl) _ _ _ _ _ _ _ _ _ _ hu)
theorem fill_only (h : Only L s0 s) (hl : [Part.vf, Part.out, Part.hostMem, Part.stalls, Part.hbm, Part.poison, Part.lineSlot, Part.mee, Part.sessions] ⊆ L) (q : QueueId) :
    Only L s0 (fill q s) := by
  unfold fill
  refine State.transfer_only h (List.Subset.trans (by decide) hl) _ _ _ _ (fun e t ht => ?_)
  exact State.moveChunk_only ht (List.Subset.trans (by decide) hl) _ _ _ _ _ _ (fun _ _ _ hu => hu) (fun _ _ _ _ hu => stallDest_only (List.Subset.trans (by decide) hl) _ _ _ _ _ _ _ _ hu)
theorem sealedPages_only (h : Only L s0 s) (hl : [Part.stalls, Part.hbm, Part.poison, Part.lineSlot, Part.mee] ⊆ L) (w : Who) (im : SealedImage) (src : Nat) (dst : Nat) (first : Nat) (fin : Nat) (a6 : Nat) (a7 : Moved) :
    Only L s0 (sealedPages w im src dst first fin a6 a7 s).2 := by
  induction a6 generalizing s a7 with
  | zero =>
    exact h
  | succ m ih =>
    unfold sealedPages
    split
    · dsimp only
      exact h
    · extract_lets +onlyGivenNames x1
      clear_value x1
      extract_lets +onlyGivenNames x2
      clear_value x2
      extract_lets +onlyGivenNames x3
      have hx3 : Only L s0 x3.2 := by
        unfold x3
        refine State.readRun_only ?_ (List.Subset.trans (by decide) hl) _ _ _ _
        exact h
      clear_value x3
      extract_lets +onlyGivenNames x4
      clear_value x4
      split
      · dsimp only
        exact hx3
      · extract_lets +onlyGivenNames x5
        clear_value x5
        split
        · extract_lets +onlyGivenNames x6
          have hx6 : Only L s0 x6.2 := by
            unfold x6
            refine State.writeRun_only ?_ (List.Subset.trans (by decide) hl) _ _ _ _ _
            exact hx3
          clear_value x6
          dsimp only
          exact hx6
        · extract_lets +onlyGivenNames x7
          have hx7 : Only L s0 x7.2 := by
            unfold x7
            refine State.writeRun_only ?_ (List.Subset.trans (by decide) hl) _ _ _ _ _
            exact hx3
          clear_value x7
          extract_lets +onlyGivenNames x8
          clear_value x8
          split
          · dsimp only
            exact hx7
          · refine ih ?_ _
            exact hx7
theorem sealedLoad_only (h : Only L s0 s) (hl : [Part.vf, Part.out, Part.hostMem, Part.stalls, Part.hbm, Part.poison, Part.lineSlot, Part.mee, Part.sessions] ⊆ L) (q : QueueId) :
    Only L s0 (sealedLoad q s) := by
  unfold sealedLoad
  extract_lets +onlyGivenNames x1
  extract_lets +onlyGivenNames x2
  refine State.transfer_only ?_ (List.Subset.trans (by decide) hl) _ _ _ _ ?_
  · exact h
  · intro x3
    intro x4
    intro h5
    split
    · refine State.finish_only ?_ (List.Subset.trans (by decide) hl) _ _ _ _ _ _
      exact h5
    · extract_lets +onlyGivenNames x6
      extract_lets +onlyGivenNames x7
      have hx7 : Only L s0 x7.2 := by
        unfold x7
        refine sealedPages_only ?_ (List.Subset.trans (by decide) hl) _ _ _ _ _ _ _ _
        exact h5
      clear_value x7
      refine State.modEntry_only ?_ (List.Subset.trans (by decide) hl) _ _ _ _
      refine State.settleMove_only ?_ (List.Subset.trans (by decide) hl) _ _ _ _ _
      exact hx7

end Sys2Proof.Machine
end

