-- ==== Sys2Proof/Laws/Host.lean ====
section
/-! SUPPORT. Machine/Host.lean: what each of its operations keeps, and the parts it changes. -/

namespace Sys2Proof.Machine

variable {L : List Part} {s0 s : State}

theorem hostPortLoss_only (h : Only L s0 s) (hl : [Part.pf, Part.vf, Part.ports, Part.unreach, Part.out, Part.rg] ⊆ L) (p : HostPort) (why : PortLoss) :
    Only L s0 (hostPortLoss p why s) := by
  unfold hostPortLoss
  extract_lets +onlyGivenNames x1
  have hx1 : Only L s0 x1 := by
    unfold x1
    refine Only.ite ?_ ?_
    · refine State.setPort_only ?_ (List.Subset.trans (by decide) hl) _ _
      exact h
    · exact h
  clear_value x1
  refine Only.ite ?_ ?_
  · refine State.losePort_only ?_ (List.Subset.trans (by decide) hl) _
    exact hx1
  · refine State.resetPort_only ?_ (List.Subset.trans (by decide) hl) _
    exact hx1
theorem hostPortLinkUp_only (h : Only L s0 s) (hl : [Part.pf, Part.vf, Part.ports, Part.unreach, Part.out] ⊆ L) (p : HostPort) :
    Only L s0 (hostPortLinkUp p s) := by
  unfold hostPortLinkUp
  refine Only.ite ?_ ?_
  · exact h
  · extract_lets +onlyGivenNames x1
    extract_lets +onlyGivenNames x2
    have hx2 : Only L s0 x2 := by
      unfold x2
      refine State.setPort_only ?_ (List.Subset.trans (by decide) hl) _ _
      exact h
    clear_value x2
    refine Only.ite ?_ ?_
    · exact hx2
    · extract_lets +onlyGivenNames x3
      extract_lets +onlyGivenNames x4
      have hx4 : Only L s0 x4 := by
        unfold x4
        refine Only.unreach ?_ _ (hl (by decide))
        exact hx2
      clear_value x4
      refine State.tellStalls_only ?_ (List.Subset.trans (by decide) hl) _
      refine State.hostEvt_only ?_ (List.Subset.trans (by decide) hl) _
      exact hx4
theorem flr_only (h : Only L s0 s) (hl : [Part.pf, Part.vf] ⊆ L) (f : Fn) :
    Only L s0 (flr f s) := by
  unfold flr
  split
  · refine State.setPf_only ?_ (List.Subset.trans (by decide) hl) _ _
    exact h
  · refine State.setVf_only ?_ (List.Subset.trans (by decide) hl) _ _ _
    exact h
  · exact h
theorem sriovConfigWrite_only (h : Only L s0 s) (hl : [Part.pf] ⊆ L) (p : HostPort) (enable : Bool) (num : U16) :
    Only L s0 (sriovConfigWrite p enable num s) := by
  unfold sriovConfigWrite
  refine State.setPf_only ?_ (List.Subset.trans (by decide) hl) _ _
  exact h
theorem causeEnableWrite_only (h : Only L s0 s) (hl : [Part.pf, Part.vf, Part.out] ⊆ L) (f : Fn) (v : U32) :
    Only L s0 (causeEnableWrite f v s) := by
  unfold causeEnableWrite
  split
  · extract_lets +onlyGivenNames x1
    extract_lets +onlyGivenNames x2
    refine forAll_only ?_ _ _ ?_
    · refine State.setPf_only ?_ (List.Subset.trans (by decide) hl) _ _
      exact h
    · intro x3
      intro x4
      intro h5
      refine State.msiPf_only ?_ (List.Subset.trans (by decide) hl) _ _
      exact h5
  · refine Only.ite ?_ ?_
    · exact h
    · extract_lets +onlyGivenNames x6
      extract_lets +onlyGivenNames x7
      refine forAll_only ?_ _ _ ?_
      · refine State.setVf_only ?_ (List.Subset.trans (by decide) hl) _ _ _
        exact h
      · intro x8
        intro x9
        intro h10
        refine State.msiVf_only ?_ (List.Subset.trans (by decide) hl) _ _ _
        exact h10
  · exact h
theorem State.bar2Count_only (h : Only L s0 s) (hl : [Part.stalls] ⊆ L) (n : Nat) (f : MemStats → MemStats) :
    Only L s0 (State.bar2Count s n f) := by
  unfold State.bar2Count
  refine State.modStall_only ?_ (List.Subset.trans (by decide) hl) _ _
  exact h
theorem State.bar2Deny_only (h : Only L s0 s) (hl : [Part.stalls] ⊆ L) (n : Nat) :
    Only L s0 (State.bar2Deny s n) := by
  unfold State.bar2Deny
  refine State.modStall_only ?_ (List.Subset.trans (by decide) hl) _ _
  exact h
theorem State.bar2Aim_only (h : Only L s0 s) (hl : [Part.stalls, Part.mee] ⊆ L) (n : Nat) (o : Nat) (need : Nat) :
    Only L s0 (State.bar2Aim s n o need).2 := by
  unfold State.bar2Aim
  split
  · dsimp only
    exact h
  · split
    · dsimp only
      refine State.bar2Deny_only ?_ (List.Subset.trans (by decide) hl) _
      exact h
    · extract_lets +onlyGivenNames x1
      have hx1 : ∀ x1a0, Only L s0 x1a0 → Only L s0 (x1 x1a0) := by
        intro x1a0 hx10
        unfold x1
        refine State.bar2Count_only ?_ (List.Subset.trans (by decide) hl) _ _
        refine State.bar2Deny_only ?_ (List.Subset.trans (by decide) hl) _
        exact hx10
      clear_value x1
      split
      · dsimp only
        refine hx1 _ ?_
        exact h
      · extract_lets +onlyGivenNames x2
        have hx2 : Only L s0 x2 := by
          unfold x2
          refine Only.ite ?_ ?_
          · refine State.countMulti_only ?_ (List.Subset.trans (by decide) hl) _ _
            exact h
          · exact h
        clear_value x2
        split
        · dsimp only
          refine hx1 _ ?_
          exact hx2
        · split
          · dsimp only
            refine State.meeErr_only ?_ (List.Subset.trans (by decide) hl) _ _ _
            refine State.bar2Count_only ?_ (List.Subset.trans (by decide) hl) _ _
            refine State.bar2Deny_only ?_ (List.Subset.trans (by decide) hl) _
            exact hx2
          · split
            · dsimp only
              refine hx1 _ ?_
              exact hx2
            · extract_lets +onlyGivenNames x3
              extract_lets +onlyGivenNames x4
              split
              · dsimp only
                refine State.meeErr_only ?_ (List.Subset.trans (by decide) hl) _ _ _
                exact hx2
              · dsimp only
                exact hx2
theorem State.bar2ReadF_only (h : Only L s0 s) (hl : [Part.stalls, Part.mee] ⊆ L) (n : Nat) (a1 : Nat) (a2 : Nat) (a3 : Nat) :
    Only L s0 (State.bar2ReadF n a1 a2 a3 s).2.2 := by
  induction a1 generalizing s a2 a3 with
  | zero =>
    exact h
  | succ m ih =>
    unfold State.bar2ReadF
    split
    · dsimp only
      exact h
    · extract_lets +onlyGivenNames x1
      extract_lets +onlyGivenNames x2
      have hx2 : Only L s0 x2.2 := by
        unfold x2
        refine State.bar2Aim_only ?_ (List.Subset.trans (by decide) hl) _ _ _
        exact h
      clear_value x2
      extract_lets +onlyGivenNames x3
      have hx3 : Only L s0 x3.2.2 := by
        unfold x3
        split
        · dsimp only
          exact hx2
        · dsimp only
          exact hx2
        · refine State.lineRead_only ?_ (List.Subset.trans (by decide) hl) _ _ _
          exact hx2
      clear_value x3
      extract_lets +onlyGivenNames x4
      have hx4 : Only L s0 x4.2.2 := by
        unfold x4
        refine ih ?_ _ _
        exact hx3
      clear_value x4
      dsimp only
      exact hx4
theorem State.bar2WriteF_only (h : Only L s0 s) (hl : [Part.stalls, Part.hbm, Part.poison, Part.lineSlot, Part.mee] ⊆ L) (n : Nat) (a1 : Nat) (a2 : Nat) (a3 : List Byte) :
    Only L s0 (State.bar2WriteF n a1 a2 a3 s) := by
  induction a1 generalizing s a2 a3 with
  | zero =>
    exact h
  | succ m ih =>
    unfold State.bar2WriteF
    refine Only.ite ?_ ?_
    · exact h
    · extract_lets +onlyGivenNames x1
      extract_lets +onlyGivenNames x2
      have hx2 : Only L s0 x2.2 := by
        unfold x2
        refine State.bar2Aim_only ?_ (List.Subset.trans (by decide) hl) _ _ _
        exact h
      clear_value x2
      extract_lets +onlyGivenNames x3
      have hx3 : Only L s0 x3 := by
        unfold x3
        split
        · refine State.lineWrite_only ?_ (List.Subset.trans (by decide) hl) _ _ _ _
          exact hx2
        · exact hx2
      clear_value x3
      refine ih ?_ _ _
      exact hx3
theorem bar2Read_only (h : Only L s0 s) (hl : [Part.out, Part.stalls, Part.mee] ⊆ L) (p : HostPort) (n : StallNo) (ofs : Nat) (bytes : Nat) :
    Only L s0 (bar2Read p n ofs bytes s) := by
  unfold bar2Read
  refine Only.ite ?_ ?_
  · exact h
  · extract_lets +onlyGivenNames x1
    have hx1 : Only L s0 x1.2.2 := by
      unfold x1
      refine State.bar2ReadF_only ?_ (List.Subset.trans (by decide) hl) _ _ _ _
      exact h
    clear_value x1
    refine State.emit_only ?_ (List.Subset.trans (by decide) hl) _
    exact hx1
theorem bar2Write_only (h : Only L s0 s) (hl : [Part.stalls, Part.hbm, Part.poison, Part.lineSlot, Part.mee] ⊆ L) (p : HostPort) (n : StallNo) (ofs : Nat) (data : List Byte) :
    Only L s0 (bar2Write p n ofs data s) := by
  unfold bar2Write
  refine Only.ite ?_ ?_
  · exact h
  · refine State.bar2WriteF_only ?_ (List.Subset.trans (by decide) hl) _ _ _ _
    exact h
theorem State.setStream_only (h : Only L s0 s) (hl : [Part.ports] ⊆ L) (p : HostPort) (k : Nat) (f : IdeStream → IdeStream) :
    Only L s0 (State.setStream s p k f) := by
  unfold State.setStream
  refine State.setPort_only ?_ (List.Subset.trans (by decide) hl) _ _
  exact h
theorem ideTlpCheckFail_only (h : Only L s0 s) (hl : [Part.ports] ⊆ L) (p : HostPort) (k : Fin 8) :
    Only L s0 (ideTlpCheckFail p k s) := by
  unfold ideTlpCheckFail
  refine State.setStream_only ?_ (List.Subset.trans (by decide) hl) _ _ _
  exact h
theorem ideKmRequest_only (h : Only L s0 s) (hl : [Part.ports] ⊆ L) (p : HostPort) (k : Fin 8) (op : IdeKm) (session : U32) :
    Only L s0 (ideKmRequest p k op session s) := by
  unfold ideKmRequest
  refine Only.ite ?_ ?_
  · exact h
  · split
    · exact h
    · refine State.setStream_only ?_ (List.Subset.trans (by decide) hl) _ _ _
      exact h
    · refine State.setStream_only ?_ (List.Subset.trans (by decide) hl) _ _ _
      exact h
    · refine State.setStream_only ?_ (List.Subset.trans (by decide) hl) _ _ _
      exact h

end Sys2Proof.Machine
end

