-- ==== Sys2Proof/Laws/Recovery.lean ====
section
/-! SUPPORT. Machine/Recovery.lean: what each of its operations keeps, and the parts it changes. -/

namespace Sys2Proof.Machine

variable {L : List Part} {s0 s : State}

theorem State.countFault_only (h : Only L s0 s) (hl : [Part.acct] ⊆ L) (c : Component) :
    Only L s0 (State.countFault s c).2 := by
  unfold State.countFault
  split
  · dsimp only
    exact h
  · extract_lets +onlyGivenNames x1
    dsimp only
    refine Only.acct ?_ _ (hl (by decide))
    exact h
theorem State.strand_only (h : Only L s0 s) (hl : [Part.vf, Part.out, Part.hostMem, Part.stalls, Part.hbm, Part.poison, Part.lineSlot, Part.mee, Part.sessions] ⊆ L) (n : StallNo) :
    Only L s0 (State.strand s n) := by
  unfold State.strand
  split
  · exact h
  · refine forAll_only ?_ _ _ ?_
    · exact h
    · intro x1
      intro x2
      intro h3
      extract_lets +onlyGivenNames x4
      refine Only.ite ?_ ?_
      · exact h3
      · refine Only.ite ?_ ?_
        · refine State.publish_only ?_ (List.Subset.trans (by decide) hl) _ _ _ _
          exact h3
        · exact h3
theorem State.dropGroom_only (h : Only L s0 s) (hl : [Part.yard, Part.pf, Part.vf, Part.history, Part.out, Part.prot, Part.rg, Part.side] ⊆ L) :
    Only L s0 (State.dropGroom s) := by
  unfold State.dropGroom
  extract_lets +onlyGivenNames x1
  extract_lets +onlyGivenNames x2
  refine Only.ite ?_ ?_
  · exact h
  · extract_lets +onlyGivenNames x3
    extract_lets +onlyGivenNames x4
    have hx4 : Only L s0 x4 := by
      unfold x4
      refine Only.prot ?_ _ (hl (by decide))
      exact h
    clear_value x4
    extract_lets +onlyGivenNames x5
    have hx5 : Only L s0 x5 := by
      unfold x5
      refine forAll_only ?_ _ _ ?_
      · exact hx4
      · intro x6
        intro x7
        intro h8
        refine State.endJob_only ?_ (List.Subset.trans (by decide) hl) _ _
        exact h8
    clear_value x5
    extract_lets +onlyGivenNames x9
    have hx9 : Only L s0 x9 := by
      unfold x9
      refine State.modChg_only ?_ (List.Subset.trans (by decide) hl) _
      exact hx5
    clear_value x9
    refine State.zeroiseProgress_only ?_ (List.Subset.trans (by decide) hl)
    refine State.groomProgress_only ?_ (List.Subset.trans (by decide) hl)
    refine State.checkClean_only ?_ (List.Subset.trans (by decide) hl)
    refine Only.ite ?_ ?_
    · refine State.setOwners_only ?_ (List.Subset.trans (by decide) hl)
      exact hx9
    · exact hx9
theorem State.loseRtp_only (h : Only L s0 s) (hl : [Part.pkg, Part.yard, Part.pf, Part.vf, Part.history, Part.out, Part.prot, Part.side] ⊆ L) (i : Nat) :
    Only L s0 (State.loseRtp s i) := by
  unfold State.loseRtp
  refine Only.ite ?_ ?_
  · extract_lets +onlyGivenNames x1
    have hx1 : Only L s0 x1 := by
      unfold x1
      refine State.setCon_only ?_ (List.Subset.trans (by decide) hl) _
      exact h
    clear_value x1
    refine State.breakWrite_only ?_ (List.Subset.trans (by decide) hl)
    refine State.discardPlan_only ?_ (List.Subset.trans (by decide) hl) _
    refine Only.more (s := (x1)) ?_ _ ⟨rfl, rfl, rfl, rfl, Nat.le_refl _, List.prefix_rfl, id, id, fun _ => Nat.le_refl _, Nat.le_refl _, id⟩ (fun p hn => by cases p <;> first | rfl | exact ⟨rfl, rfl, rfl⟩ | exact ⟨rfl, rfl⟩ | exact absurd (hl (by decide)) hn)
    exact hx1
  · refine Only.ite ?_ ?_
    · refine Only.more (s := (s)) ?_ _ ⟨rfl, rfl, rfl, rfl, Nat.le_refl _, List.prefix_rfl, id, id, fun _ => Nat.le_refl _, Nat.le_refl _, id⟩ (fun p hn => by cases p <;> first | rfl | exact ⟨rfl, rfl, rfl⟩ | exact ⟨rfl, rfl⟩ | exact absurd (hl (by decide)) hn)
      exact h
    · exact h
theorem State.componentFault_only (h : Only L s0 s) (hl : [Part.pkg, Part.gtb, Part.yard, Part.pf, Part.vf, Part.ports, Part.unreach, Part.history, Part.out, Part.hostMem, Part.clusters, Part.stalls, Part.hbm, Part.poison, Part.lineSlot, Part.mee, Part.prot, Part.power, Part.acct, Part.rg, Part.tl, Part.side, Part.sessions, Part.free] ⊆ L) (c : Component) (say : Bool) (lines : List Nat) (hit : List (Nat × Nat × U32)) :
    Only L s0 (State.componentFault s c say lines hit) := by
  unfold State.componentFault
  refine Only.ite ?_ ?_
  · exact h
  · extract_lets +onlyGivenNames x1
    have hx1 : Only L s0 x1.2 := by
      unfold x1
      refine State.countFault_only ?_ (List.Subset.trans (by decide) hl) _
      exact h
    clear_value x1
    extract_lets +onlyGivenNames x2
    have hx2 : Only L s0 x2 := by
      unfold x2
      exact hx1
    clear_value x2
    extract_lets +onlyGivenNames x3
    clear_value x3
    extract_lets +onlyGivenNames x4
    have hx4 : Only L s0 x4 := by
      unfold x4
      refine Only.poison ?_ _ (hl (by decide))
      exact hx2
    clear_value x4
    extract_lets +onlyGivenNames x5
    clear_value x5
    extract_lets +onlyGivenNames x6
    clear_value x6
    extract_lets +onlyGivenNames x7
    have hx7 : Only L s0 x7.1 := by
      unfold x7
      refine forAll_only1 ?_ _ _ ?_
      · dsimp only
        exact hx4
      · intro x8
        intro x9
        intro h10
        split
        · exact h10
        · extract_lets +onlyGivenNames x11
          extract_lets +onlyGivenNames x12
          have hx12 : Only L s0 x12.1 := by
            unfold x12
            refine State.stopCommands_only ?_ (List.Subset.trans (by decide) hl) _ _
            exact h10
          clear_value x12
          extract_lets +onlyGivenNames x13
          clear_value x13
          dsimp only
          refine Only.ite ?_ ?_
          · refine State.dropStep_only ?_ (List.Subset.trans (by decide) hl) _
            exact hx12
          · exact hx12
    clear_value x7
    extract_lets +onlyGivenNames x14
    have hx14 : Only L s0 x14 := by
      unfold x14
      refine Only.ite ?_ ?_
      · refine State.retireComponent_only ?_ (List.Subset.trans (by decide) hl) _
        exact hx7
      · exact hx7
    clear_value x14
    extract_lets +onlyGivenNames x15
    have hx15 : Only L s0 x15 := by
      unfold x15
      split
      · refine State.retrainPort_only ?_ (List.Subset.trans (by decide) hl) _
        exact hx14
      · exact hx14
    clear_value x15
    extract_lets +onlyGivenNames x16
    clear_value x16
    extract_lets +onlyGivenNames x17
    clear_value x17
    extract_lets +onlyGivenNames x18
    clear_value x18
    extract_lets +onlyGivenNames x19
    clear_value x19
    extract_lets +onlyGivenNames x20
    have hx20 : Only L s0 x20 := by
      unfold x20
      refine State.detected_only ?_ (List.Subset.trans (by decide) hl) _
      exact hx15
    clear_value x20
    extract_lets +onlyGivenNames x21
    have hx21 : Only L s0 x21 := by
      unfold x21
      refine forAll_only ?_ _ _ ?_
      · exact hx20
      · intro x22
        intro x23
        intro h24
        refine State.loseCopies_only ?_ (List.Subset.trans (by decide) hl) _ _
        exact h24
    clear_value x21
    extract_lets +onlyGivenNames x25
    have hx25 : Only L s0 x25 := by
      unfold x25
      refine Only.ite ?_ ?_
      · exact hx21
      · refine forAll_only ?_ _ _ ?_
        · exact hx21
        · intro x26
          intro x27
          intro h28
          refine State.strand_only ?_ (List.Subset.trans (by decide) hl) _
          exact h28
    clear_value x25
    extract_lets +onlyGivenNames x29
    have hx29 : Only L s0 x29 := by
      unfold x29
      refine Only.ite ?_ ?_
      · exact hx25
      · refine State.dropGroom_only ?_ (List.Subset.trans (by decide) hl)
        exact hx25
    clear_value x29
    split
    · exact hx29
    · refine State.loseRtp_only ?_ (List.Subset.trans (by decide) hl) _
      refine Only.dite ?_ ?_
      · intro x30
        refine State.losePort_only ?_ (List.Subset.trans (by decide) hl) _
        exact hx29
      · intro x31
        exact hx29
theorem ueEcc_only (h : Only L s0 s) (hl : [Part.pkg, Part.gtb, Part.yard, Part.pf, Part.vf, Part.ports, Part.unreach, Part.history, Part.out, Part.hostMem, Part.clusters, Part.stalls, Part.hbm, Part.poison, Part.lineSlot, Part.mee, Part.prot, Part.power, Part.acct, Part.rg, Part.tl, Part.side, Part.sessions, Part.free] ⊆ L) (p : Fin 768) (a : Nat) :
    Only L s0 (ueEcc p a s) := by
  unfold ueEcc
  extract_lets +onlyGivenNames x1
  extract_lets +onlyGivenNames x2
  have hx2 : Only L s0 x2 := by
    unfold x2
    refine State.meeErr_only ?_ (List.Subset.trans (by decide) hl) _ _ _
    refine Only.mee ?_ _ (hl (by decide))
    exact h
  clear_value x2
  extract_lets +onlyGivenNames x3
  have hx3 : Only L s0 x3 := by
    unfold x3
    refine Only.poison ?_ _ (hl (by decide))
    exact hx2
  clear_value x3
  extract_lets +onlyGivenNames x4
  extract_lets +onlyGivenNames x5
  extract_lets +onlyGivenNames x6
  have hx6 : Only L s0 x6 := by
    unfold x6
    refine Only.prot ?_ _ (hl (by decide))
    exact hx3
  clear_value x6
  refine Only.ite ?_ ?_
  · refine State.componentFault_only ?_ (List.Subset.trans (by decide) hl) _ _ _ _
    exact hx6
  · exact hx6
theorem journalRebuildDone_only (h : Only L s0 s) (hl : [Part.pf, Part.vf, Part.history, Part.out, Part.hostMem, Part.clusters, Part.stalls, Part.hbm, Part.poison, Part.lineSlot, Part.mee, Part.power, Part.acct, Part.rg, Part.tl, Part.sessions] ⊆ L) (n : StallNo) :
    Only L s0 (journalRebuildDone n s) := by
  unfold journalRebuildDone
  split
  · exact h
  · split
    · exact h
    · refine Only.ite ?_ ?_
      · exact h
      · extract_lets +onlyGivenNames x1
        extract_lets +onlyGivenNames x2
        have hx2 : Only L s0 x2 := by
          unfold x2
          refine State.setStall_only ?_ (List.Subset.trans (by decide) hl) _ _
          exact h
        clear_value x2
        refine State.closeRecoveries_only ?_ (List.Subset.trans (by decide) hl)
        refine State.endJob_only ?_ (List.Subset.trans (by decide) hl) _ _
        exact hx2
theorem accEvents_only (h : Only L s0 s) (hl : [Part.gtb, Part.pf, Part.vf, Part.history, Part.out, Part.power, Part.side] ⊆ L) (m : Req) :
    Only L s0 (accEvents m s) := by
  unfold accEvents
  refine State.mbServeA_only ?_ (List.Subset.trans (by decide) hl) _ _ _ ?_
  · exact h
  · intro x1
    intro h2
    extract_lets +onlyGivenNames x3
    clear_value x3
    extract_lets +onlyGivenNames x4
    clear_value x4
    split
    · dsimp only
      exact h2
    · extract_lets +onlyGivenNames x5
      clear_value x5
      dsimp only
      exact h2
theorem accRecords_only (h : Only L s0 s) (hl : [Part.gtb, Part.pf, Part.vf, Part.history, Part.out, Part.power, Part.side] ⊆ L) (m : Req) :
    Only L s0 (accRecords m s) := by
  unfold accRecords
  extract_lets +onlyGivenNames x1
  extract_lets +onlyGivenNames x2
  refine State.mbServeA_only ?_ (List.Subset.trans (by decide) hl) _ _ _ ?_
  · exact h
  · intro x3
    intro h4
    extract_lets +onlyGivenNames x5
    extract_lets +onlyGivenNames x6
    extract_lets +onlyGivenNames x7
    split
    · split
      · dsimp only
        exact h4
      · extract_lets +onlyGivenNames x8
        dsimp only
        exact h4
    · split
      · dsimp only
        exact h4
      · extract_lets +onlyGivenNames x9
        split
        · dsimp only
          exact h4
        · extract_lets +onlyGivenNames x10
          extract_lets +onlyGivenNames x11
          extract_lets +onlyGivenNames x12
          dsimp only
          exact h4
theorem orphanClear_only (h : Only L s0 s) (hl : [Part.gtb, Part.pf, Part.vf, Part.history, Part.out, Part.stalls, Part.power, Part.acct, Part.side] ⊆ L) (m : Req) :
    Only L s0 (orphanClear m s) := by
  unfold orphanClear
  refine State.mbServeA_only ?_ (List.Subset.trans (by decide) hl) _ _ _ ?_
  · exact h
  · intro x1
    intro h2
    split
    · dsimp only
      exact h2
    · dsimp only
      refine State.setQuotas_only ?_ (List.Subset.trans (by decide) hl)
      refine Only.acct ?_ _ (hl (by decide))
      exact h2

end Sys2Proof.Machine
end

