-- ==== Sys2Proof/Laws/RideOps.lean ====
section
/-! SUPPORT. Machine/RideOps.lean: what each of its operations keeps, and the parts it changes. -/

namespace Sys2Proof.Machine

variable {L : List Part} {s0 s : State}

theorem State.rsvEvt_only (h : Only L s0 s) (hl : [Part.pf, Part.out, Part.rsv] ⊆ L) (b : BitVec 7) :
    Only L s0 (State.rsvEvt s b) := by
  unfold State.rsvEvt
  extract_lets +onlyGivenNames x1
  extract_lets +onlyGivenNames x2
  extract_lets +onlyGivenNames x3
  have hx3 : Only L s0 x3 := by
    unfold x3
    refine Only.rsv ?_ _ (hl (by decide))
    exact h
  clear_value x3
  refine Only.ite ?_ ?_
  · exact hx3
  · refine State.pfCause_only ?_ (List.Subset.trans (by decide) hl) _
    exact hx3
theorem State.rsvTo_only (h : Only L s0 s) (hl : [Part.pf, Part.vf, Part.out, Part.rsv, Part.side] ⊆ L) (st : RsvSt) :
    Only L s0 (State.rsvTo s st) := by
  unfold State.rsvTo
  extract_lets +onlyGivenNames x1
  extract_lets +onlyGivenNames x2
  extract_lets +onlyGivenNames x3
  have hx3 : Only L s0 x3 := by
    unfold x3
    refine State.platform_only ?_ (List.Subset.trans (by decide) hl)
    refine Only.rsv ?_ _ (hl (by decide))
    exact h
  clear_value x3
  refine Only.ite ?_ ?_
  · exact hx3
  · refine forAll_only ?_ _ _ ?_
    · refine State.rsvEvt_only ?_ (List.Subset.trans (by decide) hl) _
      exact hx3
    · intro x4
      intro x5
      intro h6
      refine State.vfCause_only ?_ (List.Subset.trans (by decide) hl) _ _
      exact h6
theorem State.beginFlush_only (h : Only L s0 s) (hl : [Part.out, Part.rsv, Part.side] ⊆ L) (cause : Nat) :
    Only L s0 (State.beginFlush s cause) := by
  unfold State.beginFlush
  extract_lets +onlyGivenNames x1
  refine State.platform_only ?_ (List.Subset.trans (by decide) hl)
  refine Only.rsv ?_ _ (hl (by decide))
  exact h
theorem State.portsAway_only (h : Only L s0 s) (hl : [Part.gtb, Part.pf, Part.out, Part.tl] ⊆ L) :
    Only L s0 (State.portsAway s) := by
  unfold State.portsAway
  refine State.chooseMaster_only ?_ (List.Subset.trans (by decide) hl)
  refine forAll_only ?_ _ _ ?_
  · exact h
  · intro x1
    intro x2
    intro h3
    split
    · exact h3
    · exact h3
    · exact h3
    · extract_lets +onlyGivenNames x4
      extract_lets +onlyGivenNames x5
      have hx5 : Only L s0 x5 := by
        unfold x5
        refine State.setTlp_only ?_ (List.Subset.trans (by decide) hl) _ _
        exact h3
      clear_value x5
      refine Only.ite ?_ ?_
      · refine State.tlEvt_only ?_ (List.Subset.trans (by decide) hl) _
        exact hx5
      · exact hx5
theorem State.stopPart_only (h : Only L s0 s) (hl : [Part.gtb, Part.yard, Part.pf, Part.vf, Part.ports, Part.unreach, Part.history, Part.out, Part.clusters, Part.stalls, Part.power, Part.rsv, Part.rg, Part.tl, Part.side, Part.free] ⊆ L) :
    Only L s0 (State.stopPart s) := by
  unfold State.stopPart
  extract_lets +onlyGivenNames x1
  extract_lets +onlyGivenNames x2
  extract_lets +onlyGivenNames x3
  have hx3 : Only L s0 x3 := by
    unfold x3
    refine State.darkenAll_only ?_ (List.Subset.trans (by decide) hl)
    refine State.stopAll_only ?_ (List.Subset.trans (by decide) hl)
    exact h
  clear_value x3
  extract_lets +onlyGivenNames x4
  have hx4 : Only L s0 x4 := by
    unfold x4
    refine forAll_only ?_ _ _ ?_
    · exact hx3
    · intro x5
      intro x6
      intro h7
      refine Only.ite ?_ ?_
      · refine State.losePort_only ?_ (List.Subset.trans (by decide) hl) _
        exact h7
      · exact h7
  clear_value x4
  extract_lets +onlyGivenNames x8
  have hx8 : Only L s0 x8 := by
    unfold x8
    refine State.portsAway_only ?_ (List.Subset.trans (by decide) hl)
    exact hx4
  clear_value x8
  extract_lets +onlyGivenNames x9
  extract_lets +onlyGivenNames x10
  have hx10 : Only L s0 x10 := by
    unfold x10
    refine State.modChg_only ?_ (List.Subset.trans (by decide) hl) _
    exact hx8
  clear_value x10
  extract_lets +onlyGivenNames x11
  extract_lets +onlyGivenNames x12
  extract_lets +onlyGivenNames x13
  extract_lets +onlyGivenNames x14
  have hx14 : Only L s0 x14 := by
    unfold x14
    refine State.platform_only ?_ (List.Subset.trans (by decide) hl)
    refine Only.more (s := (x10)) ?_ _ ⟨rfl, rfl, rfl, rfl, Nat.le_refl _, List.prefix_rfl, id, id, fun _ => Nat.le_refl _, Nat.le_refl _, id⟩ (fun p hn => by cases p <;> first | rfl | exact ⟨rfl, rfl, rfl⟩ | exact ⟨rfl, rfl⟩ | exact absurd (hl (by decide)) hn)
    exact hx10
  clear_value x14
  refine forAll_only ?_ _ _ ?_
  · exact hx14
  · intro x15
    intro x16
    intro h17
    extract_lets +onlyGivenNames x18
    have hx18 : Only L s0 x18.2 := by
      unfold x18
      refine State.refuseFree_only ?_ (List.Subset.trans (by decide) hl)
      exact h17
    clear_value x18
    refine State.answerWaiter_only ?_ (List.Subset.trans (by decide) hl) _ _ _
    exact hx18
theorem State.portsBack_only (h : Only L s0 s) (hl : [Part.pf, Part.vf, Part.ports, Part.unreach, Part.out, Part.rsv] ⊆ L) :
    Only L s0 (State.portsBack s) := by
  unfold State.portsBack
  extract_lets +onlyGivenNames x1
  extract_lets +onlyGivenNames x2
  have hx2 : Only L s0 x2 := by
    unfold x2
    refine forAll_only ?_ _ _ ?_
    · exact h
    · intro x3
      intro x4
      intro h5
      refine State.setPort_only ?_ (List.Subset.trans (by decide) hl) _ _
      exact h5
  clear_value x2
  extract_lets +onlyGivenNames x6
  extract_lets +onlyGivenNames x7
  extract_lets +onlyGivenNames x8
  have hx8 : Only L s0 x8 := by
    unfold x8
    refine Only.more (s := (x2)) ?_ _ ⟨rfl, rfl, rfl, rfl, Nat.le_refl _, List.prefix_rfl, id, id, fun _ => Nat.le_refl _, Nat.le_refl _, id⟩ (fun p hn => by cases p <;> first | rfl | exact ⟨rfl, rfl, rfl⟩ | exact ⟨rfl, rfl⟩ | exact absurd (hl (by decide)) hn)
    exact hx2
  clear_value x8
  extract_lets +onlyGivenNames x9
  have hx9 : Only L s0 x9 := by
    unfold x9
    refine Only.ite ?_ ?_
    · exact hx8
    · refine State.hostEvt_only ?_ (List.Subset.trans (by decide) hl) _
      exact hx8
  clear_value x9
  refine forAll_only ?_ _ _ ?_
  · exact hx9
  · intro x10
    intro x11
    intro h12
    refine State.tellStalls_only ?_ (List.Subset.trans (by decide) hl) _
    exact h12
theorem State.thawChange_only (h : Only L s0 s) (hl : [Part.yard] ⊆ L) :
    Only L s0 (State.thawChange s) := by
  unfold State.thawChange
  refine Only.ite ?_ ?_
  · exact h
  · refine State.modChg_only ?_ (List.Subset.trans (by decide) hl) _
    exact h
theorem State.lateIrqs_only (h : Only L s0 s) (hl : [Part.marks, Part.pf, Part.out] ⊆ L) :
    Only L s0 (State.lateIrqs s) := by
  unfold State.lateIrqs
  refine forAll_only ?_ _ _ ?_
  · refine Only.irqLater ?_ _ (hl (by decide))
    exact h
  · intro x1
    intro x2
    intro h3
    refine State.pfVector_only ?_ (List.Subset.trans (by decide) hl) _
    exact h3
theorem State.warmReturn_only (h : Only L s0 s) (hl : [Part.gtb, Part.gates, Part.marks, Part.yard, Part.pf, Part.vf, Part.ports, Part.unreach, Part.history, Part.out, Part.hostMem, Part.clusters, Part.stalls, Part.hbm, Part.poison, Part.lineSlot, Part.mee, Part.power, Part.acct, Part.rsv, Part.tl, Part.side, Part.sessions, Part.free] ⊆ L) :
    Only L s0 (State.warmReturn s) := by
  unfold State.warmReturn
  extract_lets +onlyGivenNames x1
  extract_lets +onlyGivenNames x2
  extract_lets +onlyGivenNames x3
  extract_lets +onlyGivenNames x4
  extract_lets +onlyGivenNames x5
  have hx5 : Only L s0 x5 := by
    unfold x5
    refine State.platform_only ?_ (List.Subset.trans (by decide) hl)
    refine Only.more (s := (s)) ?_ _ ⟨rfl, rfl, rfl, rfl, Nat.le_refl _, List.prefix_rfl, id, id, fun _ => Nat.le_refl _, Nat.le_refl _, id⟩ (fun p hn => by cases p <;> first | rfl | exact ⟨rfl, rfl, rfl⟩ | exact ⟨rfl, rfl⟩ | exact absurd (hl (by decide)) hn)
    exact h
  clear_value x5
  extract_lets +onlyGivenNames x6
  have hx6 : Only L s0 x6 := by
    unfold x6
    refine State.detected_only ?_ (List.Subset.trans (by decide) hl) _
    exact hx5
  clear_value x6
  extract_lets +onlyGivenNames x7
  have hx7 : Only L s0 x7 := by
    unfold x7
    refine State.portsBack_only ?_ (List.Subset.trans (by decide) hl)
    exact hx6
  clear_value x7
  extract_lets +onlyGivenNames x8
  have hx8 : Only L s0 x8 := by
    unfold x8
    refine State.rsvEvt_only ?_ (List.Subset.trans (by decide) hl) _
    refine State.rsvTo_only ?_ (List.Subset.trans (by decide) hl) _
    exact hx7
  clear_value x8
  extract_lets +onlyGivenNames x9
  have hx9 : Only L s0 x9 := by
    unfold x9
    refine State.thawChange_only ?_ (List.Subset.trans (by decide) hl)
    refine State.closeRecoveries_only ?_ (List.Subset.trans (by decide) hl)
    refine State.showAll_only ?_ (List.Subset.trans (by decide) hl)
    exact hx8
  clear_value x9
  extract_lets +onlyGivenNames x10
  have hx10 : Only L s0 x10 := by
    unfold x10
    refine State.rewakeGates_only ?_ (List.Subset.trans (by decide) hl)
    refine State.lateIrqs_only ?_ (List.Subset.trans (by decide) hl)
    exact hx9
  clear_value x10
  refine State.wakeQueues_only ?_ (List.Subset.trans (by decide) hl) _
  exact hx10
theorem State.tryReturn_only (h : Only L s0 s) (hl : [Part.gtb, Part.gates, Part.marks, Part.yard, Part.pf, Part.vf, Part.ports, Part.unreach, Part.history, Part.out, Part.hostMem, Part.clusters, Part.stalls, Part.hbm, Part.poison, Part.lineSlot, Part.mee, Part.power, Part.acct, Part.rsv, Part.tl, Part.side, Part.sessions, Part.free] ⊆ L) :
    Only L s0 (State.tryReturn s) := by
  unfold State.tryReturn
  refine Only.ite ?_ ?_
  · refine State.warmReturn_only ?_ (List.Subset.trans (by decide) hl)
    exact h
  · exact h

end Sys2Proof.Machine
end

