-- ==== Sys2Proof/Laws/Regulation.lean ====
section
/-! SUPPORT. Machine/Regulation.lean: what each of its operations keeps, and the parts it changes. -/

namespace Sys2Proof.Machine

variable {L : List Part} {s0 s : State}

theorem State.modDlv_only (h : Only L s0 s) (hl : [Part.stalls] ⊆ L) (n : Nat) (f : Delivery → Delivery) :
    Only L s0 (State.modDlv s n f) := by
  unfold State.modDlv
  refine State.modStall_only ?_ (List.Subset.trans (by decide) hl) _ _
  exact h
theorem State.modReg_only (h : Only L s0 s) (hl : [Part.stalls] ⊆ L) (n : Nat) (k : Nat) (f : Regulator → Regulator) :
    Only L s0 (State.modReg s n k f) := by
  unfold State.modReg
  refine State.modDlv_only ?_ (List.Subset.trans (by decide) hl) _ _
  exact h
theorem State.testReq_only (h : Only L s0 s) (hl : [Part.stalls] ⊆ L) (n : Nat) (k : Nat) (r : PortReq) :
    Only L s0 (State.testReq s n k r) := by
  unfold State.testReq
  split
  · exact h
  · extract_lets +onlyGivenNames x1
    clear_value x1
    extract_lets +onlyGivenNames x2
    clear_value x2
    extract_lets +onlyGivenNames x3
    refine Only.ite ?_ ?_
    · refine State.modReg_only ?_ (List.Subset.trans (by decide) hl) _ _ _
      exact h
    · split
      · refine State.modReg_only ?_ (List.Subset.trans (by decide) hl) _ _ _
        exact h
      · refine State.modDlv_only ?_ (List.Subset.trans (by decide) hl) _ _
        exact h
theorem requestIssue_only (h : Only L s0 s) (hl : [Part.stalls, Part.rg] ⊆ L) (n : StallNo) (k : Fin 5) (size : Fin 257) (drains : Option (Bool × LinkPort)) (link : Option (Nat × Bool)) :
    Only L s0 (requestIssue n k size drains link s) := by
  unfold requestIssue
  refine Only.ite ?_ ?_
  · exact h
  · extract_lets +onlyGivenNames x1
    extract_lets +onlyGivenNames x2
    refine State.testReq_only ?_ (List.Subset.trans (by decide) hl) _ _ _
    refine Only.rg ?_ _ (hl (by decide))
    exact h
theorem requestComplete_only (h : Only L s0 s) (hl : [Part.stalls] ⊆ L) (n : StallNo) (k : Fin 5) (id : Nat) :
    Only L s0 (requestComplete n k id s) := by
  unfold requestComplete
  split
  · exact h
  · split
    · exact h
    · extract_lets +onlyGivenNames x1
      refine State.modReg_only ?_ (List.Subset.trans (by decide) hl) _ _ _
      exact h
theorem rgDutyWrite_only (h : Only L s0 s) (hl : [Part.stalls] ⊆ L) (n : StallNo) (k : Fin 5) (v : U32) :
    Only L s0 (rgDutyWrite n k v s) := by
  unfold rgDutyWrite
  extract_lets +onlyGivenNames x1
  extract_lets +onlyGivenNames x2
  refine State.modReg_only ?_ (List.Subset.trans (by decide) hl) _ _ _
  exact h
theorem dutyGateChange_only (h : Only L s0 s) (hl : [Part.gtb, Part.timers, Part.outs, Part.matrix, Part.pf, Part.out, Part.stalls] ⊆ L) (n : StallNo) (k : Fin 5) :
    Only L s0 (dutyGateChange n k s) := by
  unfold dutyGateChange
  split
  · exact h
  · extract_lets +onlyGivenNames x1
    refine Only.ite ?_ ?_
    · exact h
    · refine State.modReg_only ?_ (List.Subset.trans (by decide) hl) _ _ _
      refine State.stepOn_only ?_ (List.Subset.trans (by decide) hl)
      exact h
theorem urgencyAssert_only (h : Only L s0 s) (hl : [Part.rg] ⊆ L) (host : Bool) (p : LinkPort) :
    Only L s0 (urgencyAssert host p s) := by
  unfold urgencyAssert
  refine Only.ite ?_ ?_
  · refine Only.ite ?_ ?_
    · exact h
    · refine Only.rg ?_ _ (hl (by decide))
      exact h
  · refine Only.ite ?_ ?_
    · exact h
    · refine Only.rg ?_ _ (hl (by decide))
      exact h
theorem urgencyWithdraw_only (h : Only L s0 s) (hl : [Part.rg] ⊆ L) (host : Bool) (p : LinkPort) :
    Only L s0 (urgencyWithdraw host p s) := by
  unfold urgencyWithdraw
  refine Only.ite ?_ ?_
  · refine Only.rg ?_ _ (hl (by decide))
    exact h
  · refine Only.rg ?_ _ (hl (by decide))
    exact h
theorem rgUrgWrite_only (h : Only L s0 s) (hl : [Part.rg] ⊆ L) (host : Bool) (v : U32) :
    Only L s0 (rgUrgWrite host v s) := by
  unfold rgUrgWrite
  extract_lets +onlyGivenNames x1
  extract_lets +onlyGivenNames x2
  refine Only.ite ?_ ?_
  · exact h
  · refine Only.ite ?_ ?_
    · refine Only.rg ?_ _ (hl (by decide))
      exact h
    · refine Only.rg ?_ _ (hl (by decide))
      exact h
theorem State.retest_only (h : Only L s0 s) (hl : [Part.stalls] ⊆ L) (n : Nat) (k : Nat) :
    Only L s0 (State.retest s n k) := by
  unfold State.retest
  split
  · exact h
  · refine forAll_only ?_ _ _ ?_
    · refine State.modReg_only ?_ (List.Subset.trans (by decide) hl) _ _ _
      exact h
    · intro x1
      intro x2
      intro h3
      refine State.testReq_only ?_ (List.Subset.trans (by decide) hl) _ _ _
      exact h3
theorem State.setTherm_only (h : Only L s0 s) (hl : [Part.power] ⊆ L) (d : Nat) (f : Therm → Therm) :
    Only L s0 (State.setTherm s d f) := by
  unfold State.setTherm
  refine Only.power ?_ _ (hl (by decide))
  exact h
theorem State.setLevel_only (h : Only L s0 s) (hl : [Part.pf, Part.out, Part.power] ⊆ L) (d : Nat) (l : BitVec 3) :
    Only L s0 (State.setLevel s d l) := by
  unfold State.setLevel
  extract_lets +onlyGivenNames x1
  refine Only.ite ?_ ?_
  · exact h
  · extract_lets +onlyGivenNames x2
    have hx2 : Only L s0 x2 := by
      unfold x2
      refine State.setTherm_only ?_ (List.Subset.trans (by decide) hl) _ _
      exact h
    clear_value x2
    extract_lets +onlyGivenNames x3
    have hx3 : Only L s0 x3 := by
      unfold x3
      refine Only.ite ?_ ?_
      · refine State.pwrEvt_only ?_ (List.Subset.trans (by decide) hl) _
        exact hx2
      · exact hx2
    clear_value x3
    refine Only.ite ?_ ?_
    · refine State.pwrEvt_only ?_ (List.Subset.trans (by decide) hl) _
      exact hx3
    · exact hx3
theorem State.sampleDie_only (h : Only L s0 s) (hl : [Part.pf, Part.out, Part.power, Part.side] ⊆ L) (d : Nat) (a2 : Nat) :
    Only L s0 (State.sampleDie s d a2) := by
  unfold State.sampleDie
  refine Only.ite ?_ ?_
  · exact h
  · extract_lets +onlyGivenNames x1
    extract_lets +onlyGivenNames x2
    extract_lets +onlyGivenNames x3
    extract_lets +onlyGivenNames x4
    have hx4 : ∀ x4a0 x4a1, Only L s0 x4a1 → Only L s0 (x4 x4a0 x4a1) := by
      intro x4a0 x4a1 hx40
      unfold x4
      refine Only.ite ?_ ?_
      · refine State.platEvent_only ?_ (List.Subset.trans (by decide) hl) _
        exact hx40
      · refine Only.ite ?_ ?_
        · refine State.platEvent_only ?_ (List.Subset.trans (by decide) hl) _
          exact hx40
        · exact hx40
    clear_value x4
    extract_lets +onlyGivenNames x5
    have hx5 : Only L s0 x5 := by
      unfold x5
      refine hx4 _ _ ?_
      refine hx4 _ _ ?_
      exact h
    clear_value x5
    extract_lets +onlyGivenNames x6
    have hx6 : Only L s0 x6 := by
      unfold x6
      refine State.setTherm_only ?_ (List.Subset.trans (by decide) hl) _ _
      exact hx5
    clear_value x6
    extract_lets +onlyGivenNames x7
    have hx7 : Only L s0 x7 := by
      unfold x7
      refine Only.ite ?_ ?_
      · refine State.pwrEvt_only ?_ (List.Subset.trans (by decide) hl) _
        exact hx6
      · exact hx6
    clear_value x7
    refine Only.ite ?_ ?_
    · refine State.setLevel_only ?_ (List.Subset.trans (by decide) hl) _ _
      exact hx7
    · exact hx7
theorem State.thermTick_only (h : Only L s0 s) (hl : [Part.pf, Part.out, Part.power] ⊆ L) (d : Nat) :
    Only L s0 (State.thermTick s d) := by
  unfold State.thermTick
  refine Only.ite ?_ ?_
  · exact h
  · extract_lets +onlyGivenNames x1
    extract_lets +onlyGivenNames x2
    extract_lets +onlyGivenNames x3
    have hx3 : Only L s0 x3 := by
      unfold x3
      refine State.setTherm_only ?_ (List.Subset.trans (by decide) hl) _ _
      exact h
    clear_value x3
    refine Only.ite ?_ ?_
    · refine State.setLevel_only ?_ (List.Subset.trans (by decide) hl) _ _
      exact hx3
    · refine Only.ite ?_ ?_
      · refine State.setLevel_only ?_ (List.Subset.trans (by decide) hl) _ _
        exact hx3
      · refine Only.ite ?_ ?_
        · refine State.setLevel_only ?_ (List.Subset.trans (by decide) hl) _ _
          exact hx3
        · exact hx3
theorem regulationWindowStart_only (h : Only L s0 s) (hl : [Part.gtb, Part.gates, Part.timers, Part.outs, Part.matrix, Part.marks, Part.yard, Part.pf, Part.vf, Part.ports, Part.unreach, Part.history, Part.out, Part.hostMem, Part.clusters, Part.stalls, Part.hbm, Part.poison, Part.lineSlot, Part.mee, Part.power, Part.acct, Part.rsv, Part.tl, Part.side, Part.sessions, Part.free] ⊆ L) (temps : List Nat) :
    Only L s0 (regulationWindowStart temps s) := by
  unfold regulationWindowStart
  extract_lets +onlyGivenNames x1
  extract_lets +onlyGivenNames x2
  have hx2 : Only L s0 x2 := by
    unfold x2
    refine State.advance_only ?_ (List.Subset.trans (by decide) hl) _
    exact h
  clear_value x2
  refine Only.ite ?_ ?_
  · exact hx2
  · extract_lets +onlyGivenNames x3
    extract_lets +onlyGivenNames x4
    have hx4 : Only L s0 x4 := by
      unfold x4
      refine State.event_only ?_ (List.Subset.trans (by decide) hl) _
      refine Only.winDone ?_ _ (hl (by decide))
      exact hx2
    clear_value x4
    extract_lets +onlyGivenNames x5
    have hx5 : Only L s0 x5 := by
      unfold x5
      refine State.tryReturn_only ?_ (List.Subset.trans (by decide) hl)
      refine forAll_only ?_ _ _ ?_
      · exact hx4
      · intro x6
        intro x7
        intro h8
        refine State.sampleDie_only ?_ (List.Subset.trans (by decide) hl) _ _
        exact h8
    clear_value x5
    refine forAll_only ?_ _ _ ?_
    · exact hx5
    · intro x9
      intro x10
      intro h11
      extract_lets +onlyGivenNames x12
      have hx12 : Only L s0 x12 := by
        unfold x12
        refine State.modStall_only ?_ (List.Subset.trans (by decide) hl) _ _
        exact h11
      clear_value x12
      refine forAll_only ?_ _ _ ?_
      · exact hx12
      · intro x13
        intro x14
        intro h15
        refine State.retest_only ?_ (List.Subset.trans (by decide) hl) _ _
        exact h15
theorem gridTick_only (h : Only L s0 s) (hl : [Part.gtb, Part.timers, Part.outs, Part.matrix, Part.marks, Part.pf, Part.out, Part.power] ⊆ L) (good : Bool) :
    Only L s0 (gridTick good s) := by
  unfold gridTick
  extract_lets +onlyGivenNames x1
  extract_lets +onlyGivenNames x2
  have hx2 : Only L s0 x2 := by
    unfold x2
    refine State.advance_only ?_ (List.Subset.trans (by decide) hl) _
    exact h
  clear_value x2
  refine Only.ite ?_ ?_
  · exact hx2
  · extract_lets +onlyGivenNames x3
    extract_lets +onlyGivenNames x4
    have hx4 : Only L s0 x4 := by
      unfold x4
      refine State.event_only ?_ (List.Subset.trans (by decide) hl) _
      refine Only.more (s := (x2)) ?_ _ ⟨rfl, rfl, rfl, rfl, Nat.le_refl _, List.prefix_rfl, id, id, fun _ => Nat.le_refl _, Nat.le_refl _, id⟩ (fun p hn => by cases p <;> first | rfl | exact ⟨rfl, rfl, rfl⟩ | exact ⟨rfl, rfl⟩ | exact absurd (hl (by decide)) hn)
      exact hx2
    clear_value x4
    refine forAll_only ?_ _ _ ?_
    · exact hx4
    · intro x5
      intro x6
      intro h7
      refine State.thermTick_only ?_ (List.Subset.trans (by decide) hl) _
      exact h7
theorem dlvCounterRead_only (h : Only L s0 s) (hl : [Part.pf, Part.vf, Part.rtpLat, Part.out] ⊆ L) (f : Fn) (n : StallNo) (o : Nat) :
    Only L s0 (dlvCounterRead f n o s) := by
  unfold dlvCounterRead
  extract_lets +onlyGivenNames x1
  refine Only.ite ?_ ?_
  · exact h
  · extract_lets +onlyGivenNames x2
    refine State.answer_only ?_ (List.Subset.trans (by decide) hl) _ _ _
    refine State.setLat_only ?_ (List.Subset.trans (by decide) hl) _ _
    exact h
theorem yardJobStart_only (h : Only L s0 s) (hl : [Part.rg] ⊆ L) :
    Only L s0 (yardJobStart s) := by
  unfold yardJobStart
  refine Only.rg ?_ _ (hl (by decide))
  exact h

end Sys2Proof.Machine
end

