-- ==== Sys2Proof/Laws/Reserve.lean ====
section
/-! SUPPORT. Machine/Reserve.lean: what each of its operations keeps, and the parts it changes. -/

namespace Sys2Proof.Machine

variable {L : List Part} {s0 s : State}

theorem mainPowerLost_only (h : Only L s0 s) (hl : [Part.gtb, Part.yard, Part.pf, Part.vf, Part.ports, Part.unreach, Part.history, Part.out, Part.clusters, Part.stalls, Part.power, Part.rsv, Part.rg, Part.tl, Part.side, Part.free] ⊆ L) (vbank : U32) (vmain : U32) :
    Only L s0 (mainPowerLost vbank vmain s) := by
  unfold mainPowerLost
  extract_lets +onlyGivenNames x1
  extract_lets +onlyGivenNames x2
  have hx2 : Only L s0 x2 := by
    unfold x2
    refine Only.rsv ?_ _ (hl (by decide))
    exact h
  clear_value x2
  refine Only.ite ?_ ?_
  · exact hx2
  · extract_lets +onlyGivenNames x3
    extract_lets +onlyGivenNames x4
    have hx4 : Only L s0 x4 := by
      unfold x4
      refine Only.rsv ?_ _ (hl (by decide))
      exact hx2
    clear_value x4
    extract_lets +onlyGivenNames x5
    have hx5 : Only L s0 x5 := by
      unfold x5
      refine State.rsvEvt_only ?_ (List.Subset.trans (by decide) hl) _
      exact hx4
    clear_value x5
    refine Only.ite ?_ ?_
    · refine Only.power ?_ _ (hl (by decide))
      exact hx5
    · extract_lets +onlyGivenNames x6
      have hx6 : Only L s0 x6 := by
        unfold x6
        refine Only.ite ?_ ?_
        · refine State.stopPart_only ?_ (List.Subset.trans (by decide) hl)
          exact hx5
        · exact hx5
      clear_value x6
      extract_lets +onlyGivenNames x7
      extract_lets +onlyGivenNames x8
      have hx8 : Only L s0 x8 := by
        unfold x8
        refine Only.power ?_ _ (hl (by decide))
        exact hx6
      clear_value x8
      extract_lets +onlyGivenNames x9
      have hx9 : Only L s0 x9 := by
        unfold x9
        refine State.breakWrite_only ?_ (List.Subset.trans (by decide) hl)
        refine State.discardPlan_only ?_ (List.Subset.trans (by decide) hl) _
        exact hx8
      clear_value x9
      refine Only.ite ?_ ?_
      · refine State.rsvTo_only ?_ (List.Subset.trans (by decide) hl) _
        exact hx9
      · refine Only.ite ?_ ?_
        · refine State.beginFlush_only ?_ (List.Subset.trans (by decide) hl) _
          refine State.rsvTo_only ?_ (List.Subset.trans (by decide) hl) _
          exact hx9
        · extract_lets +onlyGivenNames x10
          have hx10 : Only L s0 x10 := by
            unfold x10
            refine State.rsvTo_only ?_ (List.Subset.trans (by decide) hl) _
            exact hx9
          clear_value x10
          refine Only.gtb ?_ _ (hl (by decide))
          exact hx10
theorem mainPowerReturn_only (h : Only L s0 s) (hl : [Part.gtb, Part.gates, Part.marks, Part.yard, Part.pf, Part.vf, Part.ports, Part.unreach, Part.history, Part.out, Part.hostMem, Part.clusters, Part.stalls, Part.hbm, Part.poison, Part.lineSlot, Part.mee, Part.power, Part.acct, Part.rsv, Part.tl, Part.side, Part.sessions, Part.free] ⊆ L) (vbank : U32) (vmain : U32) :
    Only L s0 (mainPowerReturn vbank vmain s) := by
  unfold mainPowerReturn
  refine Only.ite ?_ ?_
  · exact h
  · refine State.tryReturn_only ?_ (List.Subset.trans (by decide) hl)
    refine Only.rsv ?_ _ (hl (by decide))
    exact h
theorem flushStart_only (h : Only L s0 s) (hl : [Part.out, Part.rsv, Part.side] ⊆ L) :
    Only L s0 (flushStart s) := by
  unfold flushStart
  refine Only.ite ?_ ?_
  · refine State.beginFlush_only ?_ (List.Subset.trans (by decide) hl) _
    refine Only.rsv ?_ _ (hl (by decide))
    exact h
  · exact h
theorem flushDone_only (h : Only L s0 s) (hl : [Part.gtb, Part.pf, Part.vf, Part.history, Part.out, Part.power, Part.rsv, Part.side] ⊆ L) :
    Only L s0 (flushDone s) := by
  unfold flushDone
  refine Only.ite ?_ ?_
  · exact h
  · extract_lets +onlyGivenNames x1
    extract_lets +onlyGivenNames x2
    extract_lets +onlyGivenNames x3
    extract_lets +onlyGivenNames x4
    have hx4 : Only L s0 x4 := by
      unfold x4
      refine State.platform_only ?_ (List.Subset.trans (by decide) hl)
      refine Only.rsv ?_ _ (hl (by decide))
      exact h
    clear_value x4
    refine Only.ite ?_ ?_
    · refine Only.gtb ?_ _ (hl (by decide))
      exact hx4
    · extract_lets +onlyGivenNames x5
      refine forAll_only ?_ _ _ ?_
      · refine Only.power ?_ _ (hl (by decide))
        exact hx4
      · intro x6
        intro x7
        intro h8
        refine State.answerWaiter_only ?_ (List.Subset.trans (by decide) hl) _ _ _
        exact h8
theorem flushAbort_only (h : Only L s0 s) (hl : [Part.gtb, Part.out, Part.rsv, Part.side] ⊆ L) :
    Only L s0 (flushAbort s) := by
  unfold flushAbort
  refine Only.ite ?_ ?_
  · refine State.platform_only ?_ (List.Subset.trans (by decide) hl)
    refine Only.more (s := (s)) ?_ _ ⟨rfl, rfl, rfl, rfl, Nat.le_refl _, List.prefix_rfl, id, id, fun _ => Nat.le_refl _, Nat.le_refl _, id⟩ (fun p hn => by cases p <;> first | rfl | exact ⟨rfl, rfl, rfl⟩ | exact ⟨rfl, rfl⟩ | exact absurd (hl (by decide)) hn)
    exact h
  · exact h
theorem bankDead_only (h : Only L s0 s) (hl : [Part.gtb, Part.out, Part.rsv, Part.side] ⊆ L) :
    Only L s0 (bankDead s) := by
  unfold bankDead
  refine Only.ite ?_ ?_
  · exact h
  · refine State.platform_only ?_ (List.Subset.trans (by decide) hl)
    refine Only.more (s := (s)) ?_ _ ⟨rfl, rfl, rfl, rfl, Nat.le_refl _, List.prefix_rfl, id, id, fun _ => Nat.le_refl _, Nat.le_refl _, id⟩ (fun p hn => by cases p <;> first | rfl | exact ⟨rfl, rfl, rfl⟩ | exact ⟨rfl, rfl⟩ | exact absurd (hl (by decide)) hn)
    exact h
theorem bankAcceptReached_only (h : Only L s0 s) (hl : [Part.pf, Part.vf, Part.out, Part.rsv, Part.side] ⊆ L) :
    Only L s0 (bankAcceptReached s) := by
  unfold bankAcceptReached
  refine Only.ite ?_ ?_
  · exact h
  · extract_lets +onlyGivenNames x1
    extract_lets +onlyGivenNames x2
    have hx2 : Only L s0 x2 := by
      unfold x2
      refine Only.rsv ?_ _ (hl (by decide))
      exact h
    clear_value x2
    refine State.rsvTo_only ?_ (List.Subset.trans (by decide) hl) _
    exact hx2
theorem imageSlotEraseDone_only (h : Only L s0 s) (hl : [Part.pf, Part.vf, Part.out, Part.rsv, Part.side] ⊆ L) :
    Only L s0 (imageSlotEraseDone s) := by
  unfold imageSlotEraseDone
  refine Only.ite ?_ ?_
  · exact h
  · extract_lets +onlyGivenNames x1
    extract_lets +onlyGivenNames x2
    have hx2 : Only L s0 x2 := by
      unfold x2
      refine Only.rsv ?_ _ (hl (by decide))
      exact h
    refine Only.ite ?_ ?_
    · refine State.rsvTo_only ?_ (List.Subset.trans (by decide) hl) _
      exact hx2
    · exact hx2
theorem healthTestStart_only (h : Only L s0 s) (hl : [Part.gtb, Part.out, Part.power, Part.rsv, Part.side] ⊆ L) :
    Only L s0 (healthTestStart s) := by
  unfold healthTestStart
  refine Only.ite ?_ ?_
  · refine State.wakePackage_only ?_ (List.Subset.trans (by decide) hl) _ _
    refine Only.rsv ?_ _ (hl (by decide))
    exact h
  · exact h
theorem testStart_only (h : Only L s0 s) (hl : [Part.rsv] ⊆ L) :
    Only L s0 (testStart s) := by
  unfold testStart
  refine Only.rsv ?_ _ (hl (by decide))
  exact h
theorem healthTestDone_only (h : Only L s0 s) (hl : [Part.pf, Part.vf, Part.out, Part.rsv, Part.side] ⊆ L) (cap : U16) (esr : U16) (complete : Bool) :
    Only L s0 (healthTestDone cap esr complete s) := by
  unfold healthTestDone
  refine Only.ite ?_ ?_
  · exact h
  · extract_lets +onlyGivenNames x1
    extract_lets +onlyGivenNames x2
    extract_lets +onlyGivenNames x3
    extract_lets +onlyGivenNames x4
    extract_lets +onlyGivenNames x5
    have hx5 : Only L s0 x5 := by
      unfold x5
      refine State.rsvTo_only ?_ (List.Subset.trans (by decide) hl) _
      refine Only.rsv ?_ _ (hl (by decide))
      exact h
    clear_value x5
    extract_lets +onlyGivenNames x6
    refine State.rsvEvt_only ?_ (List.Subset.trans (by decide) hl) _
    exact hx5
theorem rsvCtlWrite_only (h : Only L s0 s) (hl : [Part.rsv] ⊆ L) (v : U32) :
    Only L s0 (rsvCtlWrite v s) := by
  unfold rsvCtlWrite
  extract_lets +onlyGivenNames x1
  refine Only.rsv ?_ _ (hl (by decide))
  exact h

end Sys2Proof.Machine
end

