-- ==== Sys2Proof/Laws/Power.lean ====
section
/-! SUPPORT. Machine/Power.lean: what each of its operations keeps, and the parts it changes. -/

namespace Sys2Proof.Machine

variable {L : List Part} {s0 s : State}

theorem clusterIdleScatter_only (h : Only L s0 s) (hl : [Part.gtb, Part.timers, Part.outs, Part.matrix, Part.pf, Part.out, Part.power] ⊆ L) (c : Nat) :
    Only L s0 (clusterIdleScatter c s) := by
  unfold clusterIdleScatter
  extract_lets +onlyGivenNames x1
  refine Only.ite ?_ ?_
  · exact h
  · extract_lets +onlyGivenNames x2
    have hx2 : Only L s0 x2 := by
      unfold x2
      refine State.advance_only ?_ (List.Subset.trans (by decide) hl) _
      exact h
    clear_value x2
    refine State.setSky_only ?_ (List.Subset.trans (by decide) hl) _ _
    exact hx2
theorem clusterIdleClear_only (h : Only L s0 s) (hl : [Part.gtb, Part.timers, Part.outs, Part.matrix, Part.pf, Part.out, Part.power] ⊆ L) (c : Nat) :
    Only L s0 (clusterIdleClear c s) := by
  unfold clusterIdleClear
  extract_lets +onlyGivenNames x1
  refine Only.ite ?_ ?_
  · exact h
  · refine State.darken_only ?_ (List.Subset.trans (by decide) hl) _
    refine State.advance_only ?_ (List.Subset.trans (by decide) hl) _
    exact h
theorem clusterWakeDone_only (h : Only L s0 s) (hl : [Part.gtb, Part.timers, Part.outs, Part.matrix, Part.pf, Part.out, Part.power] ⊆ L) (c : Nat) :
    Only L s0 (clusterWakeDone c s) := by
  unfold clusterWakeDone
  split
  · exact h
  · extract_lets +onlyGivenNames x1
    have hx1 : Only L s0 x1 := by
      unfold x1
      refine State.setSky_only ?_ (List.Subset.trans (by decide) hl) _ _
      refine State.advance_only ?_ (List.Subset.trans (by decide) hl) _
      exact h
    clear_value x1
    refine Only.ite ?_ ?_
    · refine State.beginIdle_only ?_ (List.Subset.trans (by decide) hl) _
      exact hx1
    · exact hx1
theorem pkgClearEntry_only (h : Only L s0 s) (hl : [Part.power] ⊆ L) (l1 : BitVec 4) :
    Only L s0 (pkgClearEntry l1 s) := by
  unfold pkgClearEntry
  refine Only.ite ?_ ?_
  · refine Only.power ?_ _ (hl (by decide))
    exact h
  · exact h
theorem State.abandonEntry_only (h : Only L s0 s) (hl : [Part.power] ⊆ L) :
    Only L s0 (State.abandonEntry s) := by
  unfold State.abandonEntry
  refine Only.power ?_ _ (hl (by decide))
  exact h
theorem pkgClearEntered_only (h : Only L s0 s) (hl : [Part.gtb, Part.out, Part.power, Part.tl, Part.side] ⊆ L) (l1 : BitVec 4) :
    Only L s0 (pkgClearEntered l1 s) := by
  unfold pkgClearEntered
  refine Only.ite ?_ ?_
  · exact h
  · refine Only.ite ?_ ?_
    · refine State.abandonEntry_only ?_ (List.Subset.trans (by decide) hl)
      exact h
    · extract_lets +onlyGivenNames x1
      have hx1 : Only L s0 x1 := by
        unfold x1
        refine forAll_only ?_ _ _ ?_
        · exact h
        · intro x2
          intro x3
          intro h4
          refine Only.ite ?_ ?_
          · refine State.setTlp_only ?_ (List.Subset.trans (by decide) hl) _ _
            exact h4
          · exact h4
      clear_value x1
      refine State.platform_only ?_ (List.Subset.trans (by decide) hl)
      refine Only.more (s := (x1)) ?_ _ ⟨rfl, rfl, rfl, rfl, Nat.le_refl _, List.prefix_rfl, id, id, fun _ => Nat.le_refl _, Nat.le_refl _, id⟩ (fun p hn => by cases p <;> first | rfl | exact ⟨rfl, rfl, rfl⟩ | exact ⟨rfl, rfl⟩ | exact absurd (hl (by decide)) hn)
      exact hx1
theorem State.noteWake_only (h : Only L s0 s) (hl : [Part.power] ⊆ L) (src : Nat) :
    Only L s0 (State.noteWake s src) := by
  unfold State.noteWake
  refine Only.ite ?_ ?_
  · refine Only.power ?_ _ (hl (by decide))
    exact h
  · exact h
theorem pkgWake_only (h : Only L s0 s) (hl : [Part.gtb, Part.out, Part.power, Part.side] ⊆ L) (src : Nat) (needsCluster : Bool) :
    Only L s0 (pkgWake src needsCluster s) := by
  unfold pkgWake
  refine Only.ite ?_ ?_
  · refine State.noteWake_only ?_ (List.Subset.trans (by decide) hl) _
    exact h
  · refine State.wakePackage_only ?_ (List.Subset.trans (by decide) hl) _ _
    exact h
theorem State.woken_only (h : Only L s0 s) (hl : [Part.pf, Part.out, Part.power] ⊆ L) :
    Only L s0 (State.woken s) := by
  unfold State.woken
  refine State.pwrEvt_only ?_ (List.Subset.trans (by decide) hl) _
  refine Only.power ?_ _ (hl (by decide))
  exact h
theorem pkgWakePhaseDone_only (h : Only L s0 s) (hl : [Part.pf, Part.vf, Part.history, Part.out, Part.clusters, Part.stalls, Part.hbm, Part.poison, Part.lineSlot, Part.mee, Part.power, Part.acct, Part.tl, Part.sessions, Part.free] ⊆ L) :
    Only L s0 (pkgWakePhaseDone s) := by
  unfold pkgWakePhaseDone
  split
  · refine Only.ite ?_ ?_
    · extract_lets +onlyGivenNames x1
      extract_lets +onlyGivenNames x2
      have hx2 : Only L s0 x2 := by
        unfold x2
        refine Only.power ?_ _ (hl (by decide))
        exact h
      clear_value x2
      refine Only.ite ?_ ?_
      · refine State.wakeQueues_only ?_ (List.Subset.trans (by decide) hl) _
        exact hx2
      · exact hx2
    · refine Only.ite ?_ ?_
      · refine Only.power ?_ _ (hl (by decide))
        exact h
      · refine State.woken_only ?_ (List.Subset.trans (by decide) hl)
        exact h
  · exact h
theorem pwrCtlWrite_only (h : Only L s0 s) (hl : [Part.power] ⊆ L) (v : U32) :
    Only L s0 (pwrCtlWrite v s) := by
  unfold pwrCtlWrite
  extract_lets +onlyGivenNames x1
  extract_lets +onlyGivenNames x2
  have hx2 : Only L s0 x2 := by
    unfold x2
    refine Only.power ?_ _ (hl (by decide))
    exact h
  clear_value x2
  refine Only.ite ?_ ?_
  · refine State.abandonEntry_only ?_ (List.Subset.trans (by decide) hl)
    exact hx2
  · exact hx2
theorem thermalTrip_only (h : Only L s0 s) (hl : [Part.gtb, Part.yard, Part.pf, Part.vf, Part.ports, Part.unreach, Part.history, Part.out, Part.clusters, Part.stalls, Part.power, Part.rsv, Part.rg, Part.tl, Part.side, Part.free] ⊆ L) :
    Only L s0 (thermalTrip s) := by
  unfold thermalTrip
  refine Only.ite ?_ ?_
  · exact h
  · extract_lets +onlyGivenNames x1
    extract_lets +onlyGivenNames x2
    extract_lets +onlyGivenNames x3
    have hx3 : Only L s0 x3 := by
      unfold x3
      refine Only.power ?_ _ (hl (by decide))
      exact h
    clear_value x3
    refine State.pwrEvt_only ?_ (List.Subset.trans (by decide) hl) _
    refine Only.ite ?_ ?_
    · refine State.stopPart_only ?_ (List.Subset.trans (by decide) hl)
      exact hx3
    · refine State.platform_only ?_ (List.Subset.trans (by decide) hl)
      exact hx3

end Sys2Proof.Machine
end

