-- ==== Sys2Proof/Laws/Protect.lean ====
section
/-! SUPPORT. Machine/Protect.lean: what each of its operations keeps, and the parts it changes. -/

namespace Sys2Proof.Machine

variable {L : List Part} {s0 s : State}

theorem secChallenge_only (h : Only L s0 s) (hl : [Part.gtb, Part.pf, Part.vf, Part.history, Part.out, Part.prot, Part.power, Part.side, Part.free] ⊆ L) (m : Req) :
    Only L s0 (secChallenge m s) := by
  unfold secChallenge
  refine State.mbServeA_only ?_ (List.Subset.trans (by decide) hl) _ _ _ ?_
  · exact h
  · intro x1
    intro h2
    extract_lets +onlyGivenNames x3
    have hx3 : Only L s0 x3.2 := by
      unfold x3
      refine State.drawBytes_only ?_ (List.Subset.trans (by decide) hl) _
      exact h2
    clear_value x3
    dsimp only
    refine Only.prot ?_ _ (hl (by decide))
    exact hx3
theorem State.openDebug_only (h : Only L s0 s) (hl : [Part.stalls, Part.prot, Part.power] ⊆ L) (p : List Byte) (viaTap : Bool) :
    Only L s0 (State.openDebug s p viaTap) := by
  unfold State.openDebug
  extract_lets +onlyGivenNames x1
  have hx1 : Only L s0 x1 := by
    unfold x1
    refine State.endDebug_only ?_ (List.Subset.trans (by decide) hl)
    exact h
  clear_value x1
  extract_lets +onlyGivenNames x2
  extract_lets +onlyGivenNames x3
  extract_lets +onlyGivenNames x4
  have hx4 : Only L s0 x4 := by
    unfold x4
    refine Only.prot ?_ _ (hl (by decide))
    exact hx1
  clear_value x4
  refine forAll_only ?_ _ _ ?_
  · exact hx4
  · intro x5
    intro x6
    intro h7
    refine State.modStall_only ?_ (List.Subset.trans (by decide) hl) _ _
    exact h7
theorem debugUnlock_only (h : Only L s0 s) (hl : [Part.gtb, Part.pf, Part.vf, Part.history, Part.out, Part.stalls, Part.prot, Part.power, Part.side] ⊆ L) (m : Req) :
    Only L s0 (debugUnlock m s) := by
  unfold debugUnlock
  refine State.mbServeA_only ?_ (List.Subset.trans (by decide) hl) _ _ _ ?_
  · exact h
  · intro x1
    intro h2
    split
    · dsimp only
      exact h2
    · dsimp only
      refine State.openDebug_only ?_ (List.Subset.trans (by decide) hl) _ _
      exact h2
theorem tapUnlock_only (h : Only L s0 s) (hl : [Part.stalls, Part.prot, Part.power] ⊆ L) (token : List Byte) :
    Only L s0 (tapUnlock token s) := by
  unfold tapUnlock
  refine Only.ite ?_ ?_
  · exact h
  · refine State.openDebug_only ?_ (List.Subset.trans (by decide) hl) _ _
    exact h
theorem debugLock_only (h : Only L s0 s) (hl : [Part.gtb, Part.pf, Part.vf, Part.history, Part.out, Part.stalls, Part.prot, Part.power, Part.side] ⊆ L) (m : Req) :
    Only L s0 (debugLock m s) := by
  unfold debugLock
  refine State.mbServeA_only ?_ (List.Subset.trans (by decide) hl) _ _ _ ?_
  · exact h
  · intro x1
    intro h2
    dsimp only
    refine State.endDebug_only ?_ (List.Subset.trans (by decide) hl)
    exact h2
theorem debugSessionExpiry_only (h : Only L s0 s) (hl : [Part.gtb, Part.timers, Part.outs, Part.matrix, Part.pf, Part.out, Part.stalls, Part.prot, Part.power] ⊆ L) :
    Only L s0 (debugSessionExpiry s) := by
  unfold debugSessionExpiry
  refine Only.ite ?_ ?_
  · exact h
  · extract_lets +onlyGivenNames x1
    have hx1 : Only L s0 x1 := by
      unfold x1
      refine State.advance_only ?_ (List.Subset.trans (by decide) hl) _
      exact h
    clear_value x1
    refine Only.ite ?_ ?_
    · exact hx1
    · refine State.endDebug_only ?_ (List.Subset.trans (by decide) hl)
      exact hx1
theorem debugHalt_only (h : Only L s0 s) (hl : [Part.stalls, Part.power] ⊆ L) (n : StallNo) (cs : List (Fin 512)) :
    Only L s0 (debugHalt n cs s) := by
  unfold debugHalt
  split
  · exact h
  · refine Only.ite ?_ ?_
    · exact h
    · extract_lets +onlyGivenNames x1
      extract_lets +onlyGivenNames x2
      have hx2 : Only L s0 x2 := by
        unfold x2
        refine State.setStall_only ?_ (List.Subset.trans (by decide) hl) _ _
        exact h
      clear_value x2
      refine forAll_only ?_ _ _ ?_
      · exact hx2
      · intro x3
        intro x4
        intro h5
        extract_lets +onlyGivenNames x6
        have hx6 : Only L s0 x6 := by
          unfold x6
          refine State.setSky_only ?_ (List.Subset.trans (by decide) hl) _ _
          exact h5
        clear_value x6
        refine State.wakeCluster_only ?_ (List.Subset.trans (by decide) hl) _
        exact hx6
theorem debugResume_only (h : Only L s0 s) (hl : [Part.stalls, Part.power] ⊆ L) (n : StallNo) :
    Only L s0 (debugResume n s) := by
  unfold debugResume
  refine State.endHalts_only ?_ (List.Subset.trans (by decide) hl) _
  exact h
theorem State.tapTo_only (h : Only L s0 s) (hl : [Part.prot] ⊆ L) (i : TapInstr) :
    Only L s0 (State.tapTo s i) := by
  unfold State.tapTo
  refine Only.prot ?_ _ (hl (by decide))
  exact h
theorem tapBypass_only (h : Only L s0 s) (hl : [Part.out, Part.prot] ⊆ L) :
    Only L s0 (tapBypass s) := by
  unfold tapBypass
  refine State.emit_only ?_ (List.Subset.trans (by decide) hl) _
  refine State.tapTo_only ?_ (List.Subset.trans (by decide) hl) _
  exact h
theorem tapIdcode_only (h : Only L s0 s) (hl : [Part.out, Part.prot] ⊆ L) :
    Only L s0 (tapIdcode s) := by
  unfold tapIdcode
  refine State.emit_only ?_ (List.Subset.trans (by decide) hl) _
  refine State.tapTo_only ?_ (List.Subset.trans (by decide) hl) _
  exact h
theorem State.startSelftest_only (h : Only L s0 s) (hl : [Part.prot] ⊆ L) (l : List Waiter) :
    Only L s0 (State.startSelftest s l) := by
  unfold State.startSelftest
  refine Only.prot ?_ _ (hl (by decide))
  exact h
theorem selftest_only (h : Only L s0 s) (hl : [Part.gtb, Part.pf, Part.vf, Part.history, Part.out, Part.prot, Part.power, Part.side] ⊆ L) (m : Req) :
    Only L s0 (selftest m s) := by
  unfold selftest
  refine State.mbServe_only ?_ (List.Subset.trans (by decide) hl) _ _ _ ?_
  · exact h
  · intro x1
    intro h2
    refine State.startSelftest_only ?_ (List.Subset.trans (by decide) hl) _
    exact h2
theorem periodicSelftest_only (h : Only L s0 s) (hl : [Part.prot] ⊆ L) :
    Only L s0 (periodicSelftest s) := by
  unfold periodicSelftest
  refine Only.ite ?_ ?_
  · exact h
  · refine State.startSelftest_only ?_ (List.Subset.trans (by decide) hl) _
    exact h
theorem State.quietLinks_only (h : Only L s0 s) (hl : [Part.tl] ⊆ L) :
    Only L s0 (State.quietLinks s) := by
  unfold State.quietLinks
  refine forAll_only ?_ _ _ ?_
  · exact h
  · intro x1
    intro x2
    intro h3
    refine State.retrainPort_only ?_ (List.Subset.trans (by decide) hl) _
    exact h3
theorem State.enterError_only (h : Only L s0 s) (hl : [Part.out, Part.clusters, Part.stalls, Part.prot, Part.power, Part.tl, Part.side] ⊆ L) (cause : Byte) (alg : Byte) (inst : Byte) :
    Only L s0 (State.enterError s cause alg inst) := by
  unfold State.enterError
  refine Only.ite ?_ ?_
  · exact h
  · extract_lets +onlyGivenNames x1
    have hx1 : Only L s0 x1.1 := by
      unfold x1
      refine State.stopAll_only ?_ (List.Subset.trans (by decide) hl)
      refine State.endDebug_only ?_ (List.Subset.trans (by decide) hl)
      exact h
    clear_value x1
    extract_lets +onlyGivenNames x2
    have hx2 : Only L s0 x2 := by
      unfold x2
      refine State.quietLinks_only ?_ (List.Subset.trans (by decide) hl)
      exact hx1
    clear_value x2
    refine State.platform_only ?_ (List.Subset.trans (by decide) hl)
    refine Only.prot ?_ _ (hl (by decide))
    exact hx2
theorem cryptoFail_only (h : Only L s0 s) (hl : [Part.pkg, Part.gtb, Part.yard, Part.pf, Part.vf, Part.ports, Part.unreach, Part.history, Part.out, Part.hostMem, Part.clusters, Part.stalls, Part.hbm, Part.poison, Part.lineSlot, Part.mee, Part.prot, Part.power, Part.acct, Part.rg, Part.tl, Part.side, Part.sessions, Part.free] ⊆ L) (u : CryptoUnit) (cause : Byte) (alg : Byte) (inst : Byte) :
    Only L s0 (cryptoFail u cause alg inst s) := by
  unfold cryptoFail
  extract_lets +onlyGivenNames x1
  extract_lets +onlyGivenNames x2
  have hx2 : Only L s0 x2 := by
    unfold x2
    refine State.componentFault_only ?_ (List.Subset.trans (by decide) hl) _ _ _ _
    exact h
  clear_value x2
  refine Only.ite ?_ ?_
  · refine State.enterError_only ?_ (List.Subset.trans (by decide) hl) _ _ _
    exact hx2
  · exact hx2
theorem State.zeroise_only (h : Only L s0 s) (hl : [Part.yard, Part.pf, Part.vf, Part.history, Part.out, Part.clusters, Part.stalls, Part.prot, Part.power, Part.rsv, Part.tl, Part.side, Part.sessions] ⊆ L) :
    Only L s0 (State.zeroise s) := by
  unfold State.zeroise
  refine Only.ite ?_ ?_
  · exact h
  · extract_lets +onlyGivenNames x1
    have hx1 : Only L s0 x1.1 := by
      unfold x1
      refine State.stopAll_only ?_ (List.Subset.trans (by decide) hl)
      refine State.endDebug_only ?_ (List.Subset.trans (by decide) hl)
      exact h
    clear_value x1
    extract_lets +onlyGivenNames x2
    have hx2 : Only L s0 x2 := by
      unfold x2
      refine State.quietLinks_only ?_ (List.Subset.trans (by decide) hl)
      exact hx1
    clear_value x2
    extract_lets +onlyGivenNames x3
    extract_lets +onlyGivenNames x4
    extract_lets +onlyGivenNames x5
    extract_lets +onlyGivenNames x6
    have hx6 : Only L s0 x6 := by
      unfold x6
      refine State.platform_only ?_ (List.Subset.trans (by decide) hl)
      refine Only.more (s := (x2)) ?_ _ ⟨rfl, rfl, rfl, rfl, Nat.le_refl _, List.prefix_rfl, id, id, fun _ => Nat.le_refl _, Nat.le_refl _, id⟩ (fun p hn => by cases p <;> first | rfl | exact ⟨rfl, rfl, rfl⟩ | exact ⟨rfl, rfl⟩ | exact absurd (hl (by decide)) hn)
      exact hx2
    clear_value x6
    refine State.zeroiseProgress_only ?_ (List.Subset.trans (by decide) hl)
    refine State.modChg_only ?_ (List.Subset.trans (by decide) hl) _
    exact hx6
theorem zeroiseReq_only (h : Only L s0 s) (hl : [Part.gtb, Part.yard, Part.pf, Part.vf, Part.history, Part.out, Part.clusters, Part.stalls, Part.prot, Part.power, Part.rsv, Part.tl, Part.side, Part.sessions] ⊆ L) (m : Req) :
    Only L s0 (zeroiseReq m s) := by
  unfold zeroiseReq
  refine State.mbServe_only ?_ (List.Subset.trans (by decide) hl) _ _ _ ?_
  · exact h
  · intro x1
    intro h2
    refine Only.ite ?_ ?_
    · refine State.mbAnswer_only ?_ (List.Subset.trans (by decide) hl) _ _ _
      exact h2
    · refine State.zeroise_only ?_ (List.Subset.trans (by decide) hl)
      refine Only.prot ?_ _ (hl (by decide))
      exact h2
theorem decommission_only (h : Only L s0 s) (hl : [Part.gtb, Part.pf, Part.vf, Part.history, Part.out, Part.prot, Part.power, Part.side, Part.free] ⊆ L) (m : Req) :
    Only L s0 (decommission m s) := by
  unfold decommission
  refine State.mbServe_only ?_ (List.Subset.trans (by decide) hl) _ _ _ ?_
  · exact h
  · intro x1
    intro h2
    split
    · refine State.mbAnswer_only ?_ (List.Subset.trans (by decide) hl) _ _ _
      exact h2
    · refine Only.ite ?_ ?_
      · extract_lets +onlyGivenNames x3
        have hx3 : Only L s0 x3.2 := by
          unfold x3
          refine State.refuseFree_only ?_ (List.Subset.trans (by decide) hl)
          exact h2
        clear_value x3
        refine State.mbAnswer_only ?_ (List.Subset.trans (by decide) hl) _ _ _
        exact hx3
      · refine Only.prot ?_ _ (hl (by decide))
        exact h2
/-- One more bank, unless the last is already used. -/
theorem bank_rises (b : BitVec 2) : b.toNat ≤ (if b = 3 then 3 else b + 1 : BitVec 2).toNat := by revert b; decide
theorem State.spend_only (h : Only L s0 s) (hl : [Part.yard, Part.prot] ⊆ L) :
    Only L s0 (State.spend s) := by
  unfold State.spend
  refine Only.more (s := (s)) ?_ _ ⟨rfl, rfl, rfl, rfl, Nat.le_refl _, List.prefix_rfl, id, id, fun _ => Nat.le_refl _, bank_rises s.prot.bank, fun c => by simp [c]⟩ (fun p hn => by cases p <;> first | rfl | exact ⟨rfl, rfl, rfl⟩ | exact ⟨rfl, rfl⟩ | exact absurd (hl (by decide)) hn)
  exact h
theorem State.confirmDecom_only (h : Only L s0 s) (hl : [Part.yard, Part.pf, Part.vf, Part.history, Part.out, Part.clusters, Part.stalls, Part.prot, Part.power, Part.rsv, Part.tl, Part.side, Part.sessions] ⊆ L) :
    Only L s0 (State.confirmDecom s).2 := by
  unfold State.confirmDecom
  split
  · dsimp only
    exact h
  · extract_lets +onlyGivenNames x1
    extract_lets +onlyGivenNames x2
    have hx2 : Only L s0 x2 := by
      unfold x2
      refine Only.prot ?_ _ (hl (by decide))
      exact h
    clear_value x2
    split
    · dsimp only
      exact h
    · split
      · dsimp only
        refine State.mbAnswer_only ?_ (List.Subset.trans (by decide) hl) _ _ _
        exact hx2
      · dsimp only
        refine State.mbAnswer_only ?_ (List.Subset.trans (by decide) hl) _ _ _
        refine State.spend_only ?_ (List.Subset.trans (by decide) hl)
        refine State.zeroise_only ?_ (List.Subset.trans (by decide) hl)
        exact hx2
theorem decomExpiry_only (h : Only L s0 s) (hl : [Part.gtb, Part.timers, Part.outs, Part.matrix, Part.pf, Part.vf, Part.history, Part.out, Part.prot] ⊆ L) :
    Only L s0 (decomExpiry s) := by
  unfold decomExpiry
  split
  · exact h
  · extract_lets +onlyGivenNames x1
    have hx1 : Only L s0 x1 := by
      unfold x1
      refine State.advance_only ?_ (List.Subset.trans (by decide) hl) _
      exact h
    clear_value x1
    refine Only.ite ?_ ?_
    · exact hx1
    · refine State.mbAnswer_only ?_ (List.Subset.trans (by decide) hl) _ _ _
      refine Only.prot ?_ _ (hl (by decide))
      exact hx1
theorem ledgerQuery_only (h : Only L s0 s) (hl : [Part.gtb, Part.pf, Part.vf, Part.history, Part.out, Part.power, Part.side] ⊆ L) (m : Req) :
    Only L s0 (ledgerQuery m s) := by
  unfold ledgerQuery
  extract_lets +onlyGivenNames x1
  refine State.mbServeA_only ?_ (List.Subset.trans (by decide) hl) _ _ _ ?_
  · exact h
  · intro x2
    intro h3
    extract_lets +onlyGivenNames x4
    extract_lets +onlyGivenNames x5
    extract_lets +onlyGivenNames x6
    extract_lets +onlyGivenNames x7
    dsimp only
    exact h3

end Sys2Proof.Machine
end

