-- ==== Sys2Proof/Laws/Reset.lean ====
section
/-! SUPPORT. Machine/Reset.lean: what each of its operations keeps, and the parts it changes. -/

namespace Sys2Proof.Machine

variable {L : List Part} {s0 s : State}

theorem stallReset_only (h : Only L s0 s) (hl : [Part.gtb, Part.gates, Part.pf, Part.vf, Part.history, Part.out, Part.hostMem, Part.clusters, Part.stalls, Part.hbm, Part.poison, Part.lineSlot, Part.mee, Part.power, Part.tl, Part.side, Part.sessions] ⊆ L) (m : Req) :
    Only L s0 (stallReset m s) := by
  unfold stallReset
  refine State.mbServe_only ?_ (List.Subset.trans (by decide) hl) _ _ _ ?_
  · exact h
  · intro x1
    intro h2
    refine onStall_only ?_ _ _ ?_
    · exact h2
    · intro x3
      intro x4
      intro h5
      split
      · exact h5
      · extract_lets +onlyGivenNames x6
        have hx6 : Only L s0 x6 := by
          unfold x6
          refine State.wakePackage_only ?_ (List.Subset.trans (by decide) hl) _ _
          exact h5
        clear_value x6
        extract_lets +onlyGivenNames x7
        have hx7 : Only L s0 x7 := by
          unfold x7
          refine State.modStall_only ?_ (List.Subset.trans (by decide) hl) _ _
          exact hx6
        clear_value x7
        refine Only.ite ?_ ?_
        · exact hx7
        · extract_lets +onlyGivenNames x8
          have hx8 : Only L s0 x8 := by
            unfold x8
            refine State.recallLoans_only ?_ (List.Subset.trans (by decide) hl) _
            refine State.killAll_only ?_ (List.Subset.trans (by decide) hl) _ _
            exact hx7
          clear_value x8
          extract_lets +onlyGivenNames x9
          have hx9 : Only L s0 x9 := by
            unfold x9
            refine State.resetGates_only ?_ (List.Subset.trans (by decide) hl) _
            exact hx8
          clear_value x9
          refine State.modStall_only ?_ (List.Subset.trans (by decide) hl) _ _
          exact hx9
theorem stallResetDone_only (h : Only L s0 s) (hl : [Part.pf, Part.vf, Part.history, Part.out, Part.clusters, Part.stalls, Part.hbm, Part.poison, Part.lineSlot, Part.mee, Part.power, Part.acct, Part.tl, Part.sessions, Part.free] ⊆ L) (n : StallNo) :
    Only L s0 (stallResetDone n s) := by
  unfold stallResetDone
  split
  · exact h
  · extract_lets +onlyGivenNames x1
    have hx1 : Only L s0 x1 := by
      unfold x1
      refine State.setStall_only ?_ (List.Subset.trans (by decide) hl) _ _
      exact h
    clear_value x1
    refine forAll_only ?_ _ _ ?_
    · refine State.wakeQueues_only ?_ (List.Subset.trans (by decide) hl) _
      exact hx1
    · intro x2
      intro x3
      intro h4
      refine State.mbAnswer_only ?_ (List.Subset.trans (by decide) hl) _ _ _
      exact h4
theorem State.requestWarm_only (h : Only L s0 s) (hl : [Part.gates, Part.yard, Part.pf, Part.vf, Part.history, Part.out, Part.hostMem, Part.clusters, Part.stalls, Part.hbm, Part.poison, Part.lineSlot, Part.mee, Part.prot, Part.power, Part.acct, Part.rsv, Part.rg, Part.tl, Part.sessions, Part.free] ⊆ L) (w : Waiter) :
    Only L s0 (State.requestWarm s w) := by
  unfold State.requestWarm
  refine Only.ite ?_ ?_
  · extract_lets +onlyGivenNames x1
    extract_lets +onlyGivenNames x2
    have hx2 : Only L s0 x2 := by
      unfold x2
      refine Only.power ?_ _ (hl (by decide))
      exact h
    clear_value x2
    refine Only.ite ?_ ?_
    · refine State.forceHold_only ?_ (List.Subset.trans (by decide) hl) _
      exact hx2
    · exact hx2
  · refine State.beginWarm_only ?_ (List.Subset.trans (by decide) hl) _
    exact h
theorem warmResetDone_only (h : Only L s0 s) (hl : [Part.gtb, Part.gates, Part.pf, Part.vf, Part.history, Part.out, Part.hostMem, Part.clusters, Part.stalls, Part.hbm, Part.poison, Part.lineSlot, Part.mee, Part.power, Part.acct, Part.tl, Part.side, Part.sessions, Part.free] ⊆ L) :
    Only L s0 (warmResetDone s) := by
  unfold warmResetDone
  split
  · exact h
  · extract_lets +onlyGivenNames x1
    have hx1 : Only L s0 x1 := by
      unfold x1
      refine State.closeRecoveries_only ?_ (List.Subset.trans (by decide) hl)
      refine State.showAll_only ?_ (List.Subset.trans (by decide) hl)
      exact h
    clear_value x1
    extract_lets +onlyGivenNames x2
    extract_lets +onlyGivenNames x3
    have hx3 : Only L s0 x3 := by
      unfold x3
      refine State.pwrEvt_only ?_ (List.Subset.trans (by decide) hl) _
      refine Only.power ?_ _ (hl (by decide))
      exact hx1
    clear_value x3
    extract_lets +onlyGivenNames x4
    have hx4 : Only L s0 x4 := by
      unfold x4
      refine State.wakeQueues_only ?_ (List.Subset.trans (by decide) hl) _
      refine State.rewakeGates_only ?_ (List.Subset.trans (by decide) hl)
      exact hx3
    clear_value x4
    extract_lets +onlyGivenNames x5
    have hx5 : Only L s0 x5 := by
      unfold x5
      refine forAll_only ?_ _ _ ?_
      · exact hx4
      · intro x6
        intro x7
        intro h8
        refine Only.dite ?_ ?_
        · intro x9
          refine State.takeInbox_only ?_ (List.Subset.trans (by decide) hl) _
          exact h8
        · intro x10
          exact h8
    clear_value x5
    refine forAll_only ?_ _ _ ?_
    · exact hx5
    · intro x11
      intro x12
      intro h13
      refine State.answerWaiter_only ?_ (List.Subset.trans (by decide) hl) _ _ _
      exact h13
theorem State.requestCold_only (h : Only L s0 s) (hl : [Part.pf, Part.vf, Part.history, Part.out, Part.power, Part.rsv, Part.side] ⊆ L) (w : Waiter) (cause : Nat) :
    Only L s0 (State.requestCold s w cause) := by
  unfold State.requestCold
  extract_lets +onlyGivenNames x1
  extract_lets +onlyGivenNames x2
  have hx2 : Only L s0 x2 := by
    unfold x2
    refine Only.power ?_ _ (hl (by decide))
    exact h
  refine Only.ite ?_ ?_
  · refine Only.power ?_ _ (hl (by decide))
    exact hx2
  · refine Only.ite ?_ ?_
    · refine State.beginFlush_only ?_ (List.Subset.trans (by decide) hl) _
      refine Only.power ?_ _ (hl (by decide))
      exact hx2
    · refine State.answerWaiter_only ?_ (List.Subset.trans (by decide) hl) _ _ _
      exact hx2
theorem pkgReset_only (h : Only L s0 s) (hl : [Part.gtb, Part.gates, Part.yard, Part.pf, Part.vf, Part.history, Part.out, Part.hostMem, Part.clusters, Part.stalls, Part.hbm, Part.poison, Part.lineSlot, Part.mee, Part.prot, Part.power, Part.acct, Part.rsv, Part.rg, Part.tl, Part.side, Part.sessions, Part.free] ⊆ L) (m : Req) :
    Only L s0 (pkgReset m s) := by
  unfold pkgReset
  extract_lets +onlyGivenNames x1
  extract_lets +onlyGivenNames x2
  clear_value x2
  refine State.mbServe_only ?_ (List.Subset.trans (by decide) hl) _ _ _ ?_
  · exact h
  · intro x3
    intro h4
    refine Only.ite ?_ ?_
    · refine State.requestCold_only ?_ (List.Subset.trans (by decide) hl) _ _
      exact h4
    · split
      · refine State.mbAnswer_only ?_ (List.Subset.trans (by decide) hl) _ _ _
        exact h4
      · refine State.requestWarm_only ?_ (List.Subset.trans (by decide) hl) _
        exact h4
theorem pkgResetWarm_only (h : Only L s0 s) (hl : [Part.gtb, Part.gates, Part.yard, Part.pf, Part.vf, Part.history, Part.out, Part.hostMem, Part.clusters, Part.stalls, Part.hbm, Part.poison, Part.lineSlot, Part.mee, Part.prot, Part.power, Part.acct, Part.rsv, Part.rg, Part.tl, Part.side, Part.sessions, Part.free] ⊆ L) (m : Req) :
    Only L s0 (pkgResetWarm m s) := by
  unfold pkgResetWarm
  refine pkgReset_only ?_ (List.Subset.trans (by decide) hl) _
  exact h
theorem pkgResetCold_only (h : Only L s0 s) (hl : [Part.gtb, Part.gates, Part.yard, Part.pf, Part.vf, Part.history, Part.out, Part.hostMem, Part.clusters, Part.stalls, Part.hbm, Part.poison, Part.lineSlot, Part.mee, Part.prot, Part.power, Part.acct, Part.rsv, Part.rg, Part.tl, Part.side, Part.sessions, Part.free] ⊆ L) (m : Req) :
    Only L s0 (pkgResetCold m s) := by
  unfold pkgResetCold
  refine pkgReset_only ?_ (List.Subset.trans (by decide) hl) _
  exact h
theorem coldResetRelease_only (h : Only L s0 s) (hl : [Part.pkg, Part.gtb, Part.gates, Part.ticks, Part.caps, Part.timers, Part.outs, Part.matrix, Part.marks, Part.yard, Part.pf, Part.vf, Part.rtpLat, Part.ports, Part.unreach, Part.history, Part.clusters, Part.stalls, Part.hbm, Part.poison, Part.lineSlot, Part.mee, Part.prot, Part.power, Part.acct, Part.rsv, Part.rg, Part.tl, Part.side, Part.sessions, Part.free] ⊆ L) :
    Only L s0 (coldResetRelease s) := by
  have k : Kept s (coldResetRelease s) := ⟨rfl, rfl, rfl, rfl, Nat.le_refl _, List.prefix_rfl, fun _ => rfl, fun _ => rfl, fun _ => Nat.le_refl _, Nat.le_refl _, id⟩
  refine h.more _ k (fun p hn => ?_)
  cases p
  case hostMem => exact ⟨rfl, rfl⟩
  case out => rfl
  all_goals exact absurd (hl (by decide)) hn
theorem State.bootImage_only (h : Only L s0 s) (hl : [Part.pf, Part.vf, Part.out, Part.stalls, Part.acct, Part.free] ⊆ L) (i : Image) :
    Only L s0 (State.bootImage s i) := by
  unfold State.bootImage
  extract_lets +onlyGivenNames x1
  extract_lets +onlyGivenNames x2
  extract_lets +onlyGivenNames x3
  extract_lets +onlyGivenNames x4
  extract_lets +onlyGivenNames x5
  extract_lets +onlyGivenNames x6
  extract_lets +onlyGivenNames x7
  have hx7 : Only L s0 x7 := by
    unfold x7
    refine Only.acct ?_ _ (hl (by decide))
    exact h
  clear_value x7
  refine State.accEvent_only ?_ (List.Subset.trans (by decide) hl) _ _ _ _ _ _ _ _ _ _
  exact hx7
theorem State.bootLost_only (h : Only L s0 s) (hl : [Part.pf, Part.vf, Part.out, Part.stalls, Part.acct, Part.free] ⊆ L) :
    Only L s0 (State.bootLost s) := by
  unfold State.bootLost
  extract_lets +onlyGivenNames x1
  extract_lets +onlyGivenNames x2
  have hx2 : Only L s0 x2 := by
    unfold x2
    refine Only.acct ?_ _ (hl (by decide))
    exact h
  clear_value x2
  refine forAll_only ?_ _ _ ?_
  · exact hx2
  · intro x3
    intro x4
    intro h5
    refine State.accEvent_only ?_ (List.Subset.trans (by decide) hl) _ _ _ _ _ _ _ _ _ _
    exact h5
theorem State.bootReserve_only (h : Only L s0 s) (hl : [Part.pf, Part.vf, Part.out, Part.stalls, Part.acct, Part.rsv, Part.free] ⊆ L) :
    Only L s0 (State.bootReserve s) := by
  unfold State.bootReserve
  extract_lets +onlyGivenNames x1
  clear_value x1
  extract_lets +onlyGivenNames x2
  refine Only.ite ?_ ?_
  · exact h
  · extract_lets +onlyGivenNames x3
    clear_value x3
    extract_lets +onlyGivenNames x4
    have hx4 : Only L s0 x4.2 := by
      unfold x4
      refine State.draw_only ?_ (List.Subset.trans (by decide) hl) _
      exact h
    clear_value x4
    extract_lets +onlyGivenNames x5
    have hx5 : Only L s0 x5 := by
      unfold x5
      split
      · refine State.bootImage_only ?_ (List.Subset.trans (by decide) hl) _
        exact hx4
      · refine State.bootLost_only ?_ (List.Subset.trans (by decide) hl)
        exact hx4
    clear_value x5
    refine State.rsvEvt_only ?_ (List.Subset.trans (by decide) hl) _
    refine Only.rsv ?_ _ (hl (by decide))
    exact hx5
theorem State.bootPlan_only (h : Only L s0 s) (hl : [Part.yard, Part.pf, Part.vf, Part.history, Part.out] ⊆ L) :
    Only L s0 (State.bootPlan s) := by
  unfold State.bootPlan
  extract_lets +onlyGivenNames x1
  extract_lets +onlyGivenNames x2
  extract_lets +onlyGivenNames x3
  have hx3 : Only L s0 x3 := by
    unfold x3
    refine forAll_only ?_ _ _ ?_
    · exact h
    · intro x4
      intro x5
      intro h6
      split
      · exact h6
      · refine State.rejectPlan_only ?_ (List.Subset.trans (by decide) hl) _ _
        exact h6
  clear_value x3
  split
  · exact hx3
  · extract_lets +onlyGivenNames x7
    extract_lets +onlyGivenNames x8
    refine State.armPlan_only ?_ (List.Subset.trans (by decide) hl) _
    refine Only.yard ?_ _ (hl (by decide))
    exact hx3
theorem State.bootPhase_only (h : Only L s0 s) (hl : [Part.pkg, Part.gtb, Part.gates, Part.timers, Part.outs, Part.matrix, Part.yard, Part.pf, Part.vf, Part.history, Part.out, Part.stalls, Part.prot, Part.power, Part.acct, Part.rsv, Part.rg, Part.tl, Part.side, Part.free] ⊆ L) (k : Nat) :
    Only L s0 (State.bootPhase s k) := by
  unfold State.bootPhase
  refine Only.ite ?_ ?_
  · refine Only.more (s := (s)) ?_ _ ⟨rfl, rfl, rfl, rfl, Nat.le_refl _, List.prefix_rfl, id, id, fun _ => Nat.le_refl _, Nat.le_refl _, id⟩ (fun p hn => by cases p <;> first | rfl | exact ⟨rfl, rfl, rfl⟩ | exact ⟨rfl, rfl⟩ | exact absurd (hl (by decide)) hn)
    exact h
  · refine Only.ite ?_ ?_
    · extract_lets +onlyGivenNames x1
      refine State.platform_only ?_ (List.Subset.trans (by decide) hl)
      refine Only.prot ?_ _ (hl (by decide))
      exact h
    · refine Only.ite ?_ ?_
      · extract_lets +onlyGivenNames x2
        have hx2 : Only L s0 x2 := by
          unfold x2
          refine forAll_only ?_ _ _ ?_
          · exact h
          · intro x3
            intro x4
            intro h5
            refine Only.ite ?_ ?_
            · refine State.setTlp_only ?_ (List.Subset.trans (by decide) hl) _ _
              exact h5
            · exact h5
        clear_value x2
        refine Only.tl ?_ _ (hl (by decide))
        exact hx2
      · refine Only.ite ?_ ?_
        · refine Only.prot ?_ _ (hl (by decide))
          exact h
        · refine Only.ite ?_ ?_
          · refine State.zeroiseProgress_only ?_ (List.Subset.trans (by decide) hl)
            refine Only.prot ?_ _ (hl (by decide))
            exact h
          · refine Only.ite ?_ ?_
            · extract_lets +onlyGivenNames x6
              extract_lets +onlyGivenNames x7
              refine State.bootPlan_only ?_ (List.Subset.trans (by decide) hl)
              refine State.bootReserve_only ?_ (List.Subset.trans (by decide) hl)
              refine State.setOwners_only ?_ (List.Subset.trans (by decide) hl)
              refine Only.pkg ?_ _ ?_ ?_ (hl (by decide))
              · exact h
              · rfl
              · rfl
            · extract_lets +onlyGivenNames x8
              have hx8 : Only L s0 x8 := by
                unfold x8
                refine planCommit_only ?_ (List.Subset.trans (by decide) hl)
                exact h
              clear_value x8
              extract_lets +onlyGivenNames x9
              have hx9 : Only L s0 x9 := by
                unfold x9
                refine State.advance_only ?_ (List.Subset.trans (by decide) hl) _
                exact hx8
              clear_value x9
              extract_lets +onlyGivenNames x10
              have hx10 : Only L s0 x10 := by
                unfold x10
                refine Only.ite ?_ ?_
                · exact hx8
                · refine State.commit_only ?_ (List.Subset.trans (by decide) hl) _ _ _
                  exact hx9
              clear_value x10
              refine State.platform_only ?_ (List.Subset.trans (by decide) hl)
              refine Only.power ?_ _ (hl (by decide))
              exact hx10
theorem bootPhaseDone_only (h : Only L s0 s) (hl : [Part.pkg, Part.gtb, Part.gates, Part.timers, Part.outs, Part.matrix, Part.yard, Part.pf, Part.vf, Part.history, Part.out, Part.clusters, Part.stalls, Part.prot, Part.power, Part.acct, Part.rsv, Part.rg, Part.tl, Part.side, Part.free] ⊆ L) (failed : List Component) (badRtp : BitVec 2) (cause : Byte) (alg : Byte) (inst : Byte) :
    Only L s0 (bootPhaseDone failed badRtp cause alg inst s) := by
  unfold bootPhaseDone
  extract_lets +onlyGivenNames x1
  refine Only.ite ?_ ?_
  · exact h
  · extract_lets +onlyGivenNames x2
    have hx2 : Only L s0 x2 := by
      unfold x2
      refine forAll_only ?_ _ _ ?_
      · exact h
      · intro x3
        intro x4
        intro h5
        refine Only.pkg ?_ _ ?_ ?_ (hl (by decide))
        · exact h5
        · simp
        · simp
    clear_value x2
    extract_lets +onlyGivenNames x6
    have hx6 : Only L s0 x6 := by
      unfold x6
      refine forAll_only ?_ _ _ ?_
      · exact hx2
      · intro x7
        intro x8
        intro h9
        refine Only.dite ?_ ?_
        · intro x10
          refine Only.pkg ?_ _ ?_ ?_ (hl (by decide))
          · exact h9
          · rfl
          · rfl
        · intro x11
          exact h9
    clear_value x6
    refine Only.ite ?_ ?_
    · refine State.enterError_only ?_ (List.Subset.trans (by decide) hl) _ _ _
      refine Only.power ?_ _ (hl (by decide))
      exact hx6
    · extract_lets +onlyGivenNames x12
      have hx12 : Only L s0 x12 := by
        unfold x12
        refine State.bootPhase_only ?_ (List.Subset.trans (by decide) hl) _
        exact hx6
      clear_value x12
      refine Only.ite ?_ ?_
      · exact hx12
      · refine Only.power ?_ _ (hl (by decide))
        exact hx12

end Sys2Proof.Machine
end

