-- ==== Sys2Proof/Laws/Console.lean ====
section
/-! SUPPORT. Machine/Console.lean: what each of its operations keeps, and the parts it changes. -/

namespace Sys2Proof.Machine

variable {L : List Part} {s0 s : State}

theorem muartCharReceived_only (h : Only L s0 s) (hl : [Part.out, Part.side] ⊆ L) (c : BitVec 9) (framing : Bool) (parity : Bool) :
    Only L s0 (muartCharReceived c framing parity s) := by
  unfold muartCharReceived
  extract_lets +onlyGivenNames x1
  refine Only.ite ?_ ?_
  · exact h
  · extract_lets +onlyGivenNames x2
    have hx2 : Only L s0 x2 := by
      unfold x2
      refine State.platform_only ?_ (List.Subset.trans (by decide) hl)
      refine State.setMu_only ?_ (List.Subset.trans (by decide) hl) _
      exact h
    clear_value x2
    extract_lets +onlyGivenNames x3
    refine Only.ite ?_ ?_
    · exact hx2
    · refine Only.ite ?_ ?_
      · refine State.conRead_only ?_ (List.Subset.trans (by decide) hl)
        refine State.conFeed_only ?_ (List.Subset.trans (by decide) hl) _
        exact hx2
      · refine Only.ite ?_ ?_
        · refine State.setMu_only ?_ (List.Subset.trans (by decide) hl) _
          exact hx2
        · refine State.setCon_only ?_ (List.Subset.trans (by decide) hl) _
          exact hx2
theorem muartCharSent_only (h : Only L s0 s) (hl : [Part.pf, Part.out, Part.side] ⊆ L) (collided : Bool) :
    Only L s0 (muartCharSent collided s) := by
  unfold muartCharSent
  extract_lets +onlyGivenNames x1
  split
  · exact h
  · refine Only.ite ?_ ?_
    · exact h
    · refine Only.ite ?_ ?_
      · extract_lets +onlyGivenNames x2
        have hx2 : Only L s0 x2 := by
          unfold x2
          refine State.setMu_only ?_ (List.Subset.trans (by decide) hl) _
          exact h
        clear_value x2
        refine Only.ite ?_ ?_
        · exact hx2
        · refine State.muEvt_only ?_ (List.Subset.trans (by decide) hl) _
          refine State.setMu_only ?_ (List.Subset.trans (by decide) hl) _
          exact hx2
      · refine State.emit_only ?_ (List.Subset.trans (by decide) hl) _
        refine State.setMu_only ?_ (List.Subset.trans (by decide) hl) _
        exact h
theorem muartRetry_only (h : Only L s0 s) (hl : [Part.side] ⊆ L) :
    Only L s0 (muartRetry s) := by
  unfold muartRetry
  refine State.setMu_only ?_ (List.Subset.trans (by decide) hl) _
  exact h
theorem muConfigApply_only (h : Only L s0 s) (hl : [Part.side] ⊆ L) :
    Only L s0 (muConfigApply s) := by
  unfold muConfigApply
  refine State.setMu_only ?_ (List.Subset.trans (by decide) hl) _
  exact h
theorem muartSleep_only (h : Only L s0 s) (hl : [Part.gtb, Part.timers, Part.outs, Part.matrix, Part.pf, Part.out, Part.side] ⊆ L) :
    Only L s0 (muartSleep s) := by
  unfold muartSleep
  extract_lets +onlyGivenNames x1
  refine Only.ite ?_ ?_
  · exact h
  · extract_lets +onlyGivenNames x2
    have hx2 : Only L s0 x2 := by
      unfold x2
      refine State.advance_only ?_ (List.Subset.trans (by decide) hl) _
      exact h
    clear_value x2
    refine State.setMu_only ?_ (List.Subset.trans (by decide) hl) _
    exact hx2
theorem muartWake_only (h : Only L s0 s) (hl : [Part.out, Part.power, Part.side] ⊆ L) :
    Only L s0 (muartWake s) := by
  unfold muartWake
  extract_lets +onlyGivenNames x1
  refine Only.ite ?_ ?_
  · exact h
  · refine State.platform_only ?_ (List.Subset.trans (by decide) hl)
    refine State.setMu_only ?_ (List.Subset.trans (by decide) hl) _
    refine State.noteWake_only ?_ (List.Subset.trans (by decide) hl) _
    exact h
theorem muBreak_only (h : Only L s0 s) (hl : [Part.pf, Part.out, Part.side] ⊆ L) :
    Only L s0 (muBreak s) := by
  unfold muBreak
  extract_lets +onlyGivenNames x1
  refine Only.ite ?_ ?_
  · exact h
  · extract_lets +onlyGivenNames x2
    have hx2 : Only L s0 x2 := by
      unfold x2
      refine State.setMu_only ?_ (List.Subset.trans (by decide) hl) _
      exact h
    clear_value x2
    extract_lets +onlyGivenNames x3
    have hx3 : Only L s0 x3 := by
      unfold x3
      refine State.setCon_only ?_ (List.Subset.trans (by decide) hl) _
      exact hx2
    clear_value x3
    refine State.platform_only ?_ (List.Subset.trans (by decide) hl)
    refine State.muEvt_only ?_ (List.Subset.trans (by decide) hl) _
    exact hx3
theorem muLineFault_only (h : Only L s0 s) (hl : [Part.pf, Part.out, Part.side] ⊆ L) :
    Only L s0 (muLineFault s) := by
  unfold muLineFault
  refine Only.ite ?_ ?_
  · exact h
  · refine State.platform_only ?_ (List.Subset.trans (by decide) hl)
    refine State.muEvt_only ?_ (List.Subset.trans (by decide) hl) _
    refine State.setMu_only ?_ (List.Subset.trans (by decide) hl) _
    exact h
theorem muLineFaultClear_only (h : Only L s0 s) (hl : [Part.pf, Part.out, Part.side] ⊆ L) :
    Only L s0 (muLineFaultClear s) := by
  unfold muLineFaultClear
  refine Only.ite ?_ ?_
  · exact h
  · refine State.platform_only ?_ (List.Subset.trans (by decide) hl)
    refine State.muEvt_only ?_ (List.Subset.trans (by decide) hl) _
    refine State.setMu_only ?_ (List.Subset.trans (by decide) hl) _
    exact h
theorem State.conRun_only (h : Only L s0 s) (hl : [Part.side] ⊆ L) (always : Bool) (body : ConCmd → Option (State → State)) (hbody : ∀ x g t, body x = some g → Only L s0 t → Only L s0 (g t)) :
    Only L s0 (State.conRun s always body) := by
  unfold State.conRun
  split
  · exact h
  · split
    · exact h
    · split
      · exact h
      · rename_i e
        split
        · exact State.conErr_only h (List.Subset.trans (by decide) hl) _
        · exact hbody _ _ _ e h
theorem State.conBusy_only (h : Only L s0 s) (hl : [Part.side] ⊆ L) :
    Only L s0 (State.conBusy s) := by
  unfold State.conBusy
  refine State.setCon_only ?_ (List.Subset.trans (by decide) hl) _
  exact h
theorem consoleStatus_only (h : Only L s0 s) (hl : [Part.side] ⊆ L) :
    Only L s0 (consoleStatus s) := by
  unfold consoleStatus
  refine State.conRun_only ?_ (List.Subset.trans (by decide) hl) _ _ ?_
  · exact h
  · intro x1
    intro x2
    intro x3
    (intro e4; beta_reduce at e4; (try split at e4) <;> cases e4)
    intro h5
    beta_reduce
    extract_lets +onlyGivenNames x6
    clear_value x6
    refine State.conOk_only ?_ (List.Subset.trans (by decide) hl)
    refine State.sayLines_only ?_ (List.Subset.trans (by decide) hl) _
    exact h5
theorem consoleTime_only (h : Only L s0 s) (hl : [Part.side] ⊆ L) :
    Only L s0 (consoleTime s) := by
  unfold consoleTime
  refine State.conRun_only ?_ (List.Subset.trans (by decide) hl) _ _ ?_
  · exact h
  · intro x1
    intro x2
    intro x3
    (intro e4; beta_reduce at e4; (try split at e4) <;> cases e4)
    intro h5
    beta_reduce
    refine State.conOk_only ?_ (List.Subset.trans (by decide) hl)
    refine State.sayLines_only ?_ (List.Subset.trans (by decide) hl) _
    exact h5
theorem confirmEnrol_only (h : Only L s0 s) (hl : [Part.yard, Part.side] ⊆ L) :
    Only L s0 (confirmEnrol s) := by
  unfold confirmEnrol
  refine State.conRun_only ?_ (List.Subset.trans (by decide) hl) _ _ ?_
  · exact h
  · intro x1
    intro x2
    intro x3
    (intro e4; beta_reduce at e4; (try split at e4) <;> cases e4)
    intro h5
    beta_reduce
    split
    · refine State.conErr_only ?_ (List.Subset.trans (by decide) hl) _
      exact h5
    · extract_lets +onlyGivenNames x6
      have hx6 : Only L s0 x6 := by
        unfold x6
        refine State.sayLines_only ?_ (List.Subset.trans (by decide) hl) _
        exact h5
      clear_value x6
      refine Only.ite ?_ ?_
      · refine State.conErr_only ?_ (List.Subset.trans (by decide) hl) _
        exact hx6
      · refine State.conOk_only ?_ (List.Subset.trans (by decide) hl)
        refine State.confirmEnrol_only ?_ (List.Subset.trans (by decide) hl)
        exact hx6
theorem confirmDecom_only (h : Only L s0 s) (hl : [Part.yard, Part.pf, Part.vf, Part.history, Part.out, Part.clusters, Part.stalls, Part.prot, Part.power, Part.rsv, Part.tl, Part.side, Part.sessions] ⊆ L) :
    Only L s0 (confirmDecom s) := by
  unfold confirmDecom
  refine State.conRun_only ?_ (List.Subset.trans (by decide) hl) _ _ ?_
  · exact h
  · intro x1
    intro x2
    intro x3
    (intro e4; beta_reduce at e4; (try split at e4) <;> cases e4)
    intro h5
    beta_reduce
    split
    · refine State.conErr_only ?_ (List.Subset.trans (by decide) hl) _
      exact h5
    · refine Only.ite ?_ ?_
      · refine State.conErr_only ?_ (List.Subset.trans (by decide) hl) _
        exact h5
      · extract_lets +onlyGivenNames x6
        have hx6 : Only L s0 x6.2 := by
          unfold x6
          refine State.confirmDecom_only ?_ (List.Subset.trans (by decide) hl)
          exact h5
        clear_value x6
        refine Only.ite ?_ ?_
        · refine State.conOk_only ?_ (List.Subset.trans (by decide) hl)
          exact hx6
        · refine State.conErr_only ?_ (List.Subset.trans (by decide) hl) _
          exact hx6
theorem consoleSelftest_only (h : Only L s0 s) (hl : [Part.prot, Part.side] ⊆ L) :
    Only L s0 (consoleSelftest s) := by
  unfold consoleSelftest
  refine State.conRun_only ?_ (List.Subset.trans (by decide) hl) _ _ ?_
  · exact h
  · intro x1
    intro x2
    intro x3
    (intro e4; beta_reduce at e4; (try split at e4) <;> cases e4)
    intro h5
    beta_reduce
    refine State.startSelftest_only ?_ (List.Subset.trans (by decide) hl) _
    refine State.conBusy_only ?_ (List.Subset.trans (by decide) hl)
    exact h5
theorem consoleZeroise_only (h : Only L s0 s) (hl : [Part.yard, Part.pf, Part.vf, Part.history, Part.out, Part.clusters, Part.stalls, Part.prot, Part.power, Part.rsv, Part.tl, Part.side, Part.sessions] ⊆ L) :
    Only L s0 (consoleZeroise s) := by
  unfold consoleZeroise
  refine State.conRun_only ?_ (List.Subset.trans (by decide) hl) _ _ ?_
  · exact h
  · intro x1
    intro x2
    intro x3
    (intro e4; beta_reduce at e4; (try split at e4) <;> cases e4)
    · intro h5
      beta_reduce
      refine State.conRead_only ?_ (List.Subset.trans (by decide) hl)
      refine State.setCon_only ?_ (List.Subset.trans (by decide) hl) _
      refine State.sayLines_only ?_ (List.Subset.trans (by decide) hl) _
      exact h5
    · intro h6
      beta_reduce
      refine Only.ite ?_ ?_
      · refine State.conOk_only ?_ (List.Subset.trans (by decide) hl)
        exact h6
      · refine State.zeroise_only ?_ (List.Subset.trans (by decide) hl)
        extract_lets +onlyGivenNames x7
        have hx7 : Only L s0 x7 := by
          unfold x7
          refine State.conBusy_only ?_ (List.Subset.trans (by decide) hl)
          exact h6
        have e7 : x7.prot = x3.prot := (State.conBusy_only (Only.refl _ x3) (List.Subset.refl _)).rest .prot (by decide)
        clear_value x7
        refine Only.prot ?_ _ (hl (by decide)) (congrArg (fun p : Prot => p.bank.toNat) e7).le (fun c => by rw [e7] at c; exact c)
        exact hx7
theorem consoleZeroiseAbandoned_only (h : Only L s0 s) (hl : [Part.gtb, Part.timers, Part.outs, Part.matrix, Part.pf, Part.out, Part.side] ⊆ L) :
    Only L s0 (consoleZeroiseAbandoned s) := by
  unfold consoleZeroiseAbandoned
  split
  · exact h
  · extract_lets +onlyGivenNames x1
    have hx1 : Only L s0 x1 := by
      unfold x1
      refine State.advance_only ?_ (List.Subset.trans (by decide) hl) _
      exact h
    clear_value x1
    refine Only.ite ?_ ?_
    · exact hx1
    · refine State.conErr_only ?_ (List.Subset.trans (by decide) hl) _
      exact hx1
theorem resetWarm_only (h : Only L s0 s) (hl : [Part.gates, Part.yard, Part.pf, Part.vf, Part.history, Part.out, Part.hostMem, Part.clusters, Part.stalls, Part.hbm, Part.poison, Part.lineSlot, Part.mee, Part.prot, Part.power, Part.acct, Part.rsv, Part.rg, Part.tl, Part.side, Part.sessions, Part.free] ⊆ L) :
    Only L s0 (resetWarm s) := by
  unfold resetWarm
  refine State.conRun_only ?_ (List.Subset.trans (by decide) hl) _ _ ?_
  · exact h
  · intro x1
    intro x2
    intro x3
    (intro e4; beta_reduce at e4; (try split at e4) <;> cases e4)
    intro h5
    beta_reduce
    refine Only.ite ?_ ?_
    · refine State.conErr_only ?_ (List.Subset.trans (by decide) hl) _
      exact h5
    · refine State.requestWarm_only ?_ (List.Subset.trans (by decide) hl) _
      refine State.conBusy_only ?_ (List.Subset.trans (by decide) hl)
      exact h5
theorem resetCold_only (h : Only L s0 s) (hl : [Part.pf, Part.vf, Part.history, Part.out, Part.power, Part.rsv, Part.side] ⊆ L) :
    Only L s0 (resetCold s) := by
  unfold resetCold
  refine State.conRun_only ?_ (List.Subset.trans (by decide) hl) _ _ ?_
  · exact h
  · intro x1
    intro x2
    intro x3
    (intro e4; beta_reduce at e4; (try split at e4) <;> cases e4)
    intro h5
    beta_reduce
    refine State.requestCold_only ?_ (List.Subset.trans (by decide) hl) _ _
    refine State.conBusy_only ?_ (List.Subset.trans (by decide) hl)
    exact h5
theorem consoleLine_only (h : Only L s0 s) (hl : [Part.side] ⊆ L) :
    Only L s0 (consoleLine s) := by
  unfold consoleLine
  refine State.conRun_only ?_ (List.Subset.trans (by decide) hl) _ _ ?_
  · exact h
  · intro x1
    intro x2
    intro x3
    (intro e4; beta_reduce at e4; (try split at e4) <;> cases e4)
    intro h5
    beta_reduce
    extract_lets +onlyGivenNames x6
    clear_value x6
    refine State.conOk_only ?_ (List.Subset.trans (by decide) hl)
    refine State.say_only ?_ (List.Subset.trans (by decide) hl) _
    exact h5
theorem selftestRunDone_only (h : Only L s0 s) (hl : [Part.pf, Part.vf, Part.history, Part.out, Part.prot, Part.side, Part.free] ⊆ L) (pass : Bool) :
    Only L s0 (selftestRunDone pass s) := by
  unfold selftestRunDone
  refine Only.ite ?_ ?_
  · exact h
  · extract_lets +onlyGivenNames x1
    extract_lets +onlyGivenNames x2
    extract_lets +onlyGivenNames x3
    have hx3 : Only L s0 x3 := by
      unfold x3
      refine Only.prot ?_ _ (hl (by decide))
      exact h
    clear_value x3
    refine forAll_only ?_ _ _ ?_
    · exact hx3
    · intro x4
      intro x5
      intro h6
      split
      · refine State.conOk_only ?_ (List.Subset.trans (by decide) hl)
        refine State.sayLines_only ?_ (List.Subset.trans (by decide) hl) _
        exact h6
      · refine State.answerWaiter_only ?_ (List.Subset.trans (by decide) hl) _ _ _
        exact h6
      · refine Only.ite ?_ ?_
        · refine State.answerWaiter_only ?_ (List.Subset.trans (by decide) hl) _ _ _
          exact h6
        · extract_lets +onlyGivenNames x7
          have hx7 : Only L s0 x7.2 := by
            unfold x7
            refine State.refuseFree_only ?_ (List.Subset.trans (by decide) hl)
            exact h6
          clear_value x7
          refine State.answerWaiter_only ?_ (List.Subset.trans (by decide) hl) _ _ _
          exact hx7

end Sys2Proof.Machine
end

