-- ==== Sys2Proof/Laws/Drover.lean ====
section
/-! SUPPORT. Machine/Drover.lean: what each of its operations keeps, and the parts it changes. -/

namespace Sys2Proof.Machine

variable {L : List Part} {s0 s : State}

theorem State.offRead_only (h : Only L s0 s) (hl : [Part.mee] ⊆ L) (a1 : Stall) (key : Nat) (o : Nat) (n : Nat) :
    Only L s0 (State.offRead s a1 key o n).2.2 := by
  unfold State.offRead
  split
  · split
    · dsimp only
      exact h
    · extract_lets +onlyGivenNames x1
      have hx1 : Only L s0 x1.2.2 := by
        unfold x1
        refine State.lineRead_only ?_ (List.Subset.trans (by decide) hl) _ _ _
        exact h
      clear_value x1
      dsimp only
      exact hx1
  · dsimp only
    exact h
theorem State.offReadRun_only (h : Only L s0 s) (hl : [Part.mee] ⊆ L) (a0 : Stall) (key : Nat) (a2 : Nat) (a3 : Nat) (a4 : Nat) :
    Only L s0 (State.offReadRun a0 key a2 a3 a4 s).2.2 := by
  induction a2 generalizing s a3 a4 with
  | zero =>
    exact h
  | succ m ih =>
    unfold State.offReadRun
    split
    · dsimp only
      exact h
    · extract_lets +onlyGivenNames x1
      extract_lets +onlyGivenNames x2
      have hx2 : Only L s0 x2.2.2 := by
        unfold x2
        refine State.offRead_only ?_ (List.Subset.trans (by decide) hl) _ _ _ _
        exact h
      clear_value x2
      extract_lets +onlyGivenNames x3
      have hx3 : Only L s0 x3.2.2 := by
        unfold x3
        refine ih ?_ _ _
        exact hx2
      clear_value x3
      dsimp only
      exact hx3
theorem State.offWrite_only (h : Only L s0 s) (hl : [Part.hbm, Part.poison, Part.lineSlot, Part.mee] ⊆ L) (a0 : Stall) (key : Nat) (a2 : Nat) (a3 : Nat) (a4 : List Byte) :
    Only L s0 (State.offWrite a0 key a2 a3 a4 s) := by
  induction a2 generalizing s a3 a4 with
  | zero =>
    exact h
  | succ m ih =>
    unfold State.offWrite
    refine Only.ite ?_ ?_
    · exact h
    · extract_lets +onlyGivenNames x1
      extract_lets +onlyGivenNames x2
      have hx2 : Only L s0 x2 := by
        unfold x2
        split
        · refine Only.ite ?_ ?_
          · exact h
          · refine State.lineWrite_only ?_ (List.Subset.trans (by decide) hl) _ _ _ _
            exact h
        · exact h
      clear_value x2
      refine ih ?_ _ _
      exact hx2
theorem drvConfig_only (h : Only L s0 s) (hl : [Part.gtb, Part.pf, Part.vf, Part.history, Part.out, Part.stalls, Part.power, Part.side] ⊆ L) (m : Req) :
    Only L s0 (drvConfig m s) := by
  unfold drvConfig
  extract_lets +onlyGivenNames x1
  clear_value x1
  extract_lets +onlyGivenNames x2
  clear_value x2
  refine State.mbServeA_only ?_ (List.Subset.trans (by decide) hl) _ _ _ ?_
  · exact h
  · intro x3
    intro h4
    split
    · dsimp only
      exact h4
    · extract_lets +onlyGivenNames x5
      clear_value x5
      split
      · dsimp only
        exact h4
      · dsimp only
        refine State.modDrover_only ?_ (List.Subset.trans (by decide) hl) _ _
        exact h4
theorem drvOutring_only (h : Only L s0 s) (hl : [Part.gtb, Part.pf, Part.vf, Part.history, Part.out, Part.hostMem, Part.stalls, Part.hbm, Part.poison, Part.lineSlot, Part.mee, Part.power, Part.side, Part.sessions] ⊆ L) (m : Req) :
    Only L s0 (drvOutring m s) := by
  unfold drvOutring
  extract_lets +onlyGivenNames x1
  extract_lets +onlyGivenNames x2
  extract_lets +onlyGivenNames x3
  clear_value x3
  refine State.mbServeA_only ?_ (List.Subset.trans (by decide) hl) _ _ _ ?_
  · exact h
  · intro x4
    intro h5
    split
    · dsimp only
      exact h5
    · extract_lets +onlyGivenNames x6
      clear_value x6
      extract_lets +onlyGivenNames x7
      clear_value x7
      split
      · extract_lets +onlyGivenNames x8
        clear_value x8
        split
        · dsimp only
          exact h5
        · split
          · split
            · dsimp only
              exact h5
            · extract_lets +onlyGivenNames x9
              clear_value x9
              extract_lets +onlyGivenNames x10
              have hx10 : Only L s0 x10 := by
                unfold x10
                refine State.modDrover_only ?_ (List.Subset.trans (by decide) hl) _ _
                exact h5
              clear_value x10
              extract_lets +onlyGivenNames x11
              clear_value x11
              dsimp only
              refine Only.ite ?_ ?_
              · refine State.writeArea_only ?_ (List.Subset.trans (by decide) hl) _ _ _ _ _ _ _ _ _
                exact hx10
              · exact hx10
          · split
            · dsimp only
              exact h5
            · extract_lets +onlyGivenNames x12
              clear_value x12
              extract_lets +onlyGivenNames x13
              have hx13 : Only L s0 x13 := by
                unfold x13
                refine State.modDrover_only ?_ (List.Subset.trans (by decide) hl) _ _
                exact h5
              clear_value x13
              extract_lets +onlyGivenNames x14
              clear_value x14
              dsimp only
              refine Only.ite ?_ ?_
              · refine State.writeArea_only ?_ (List.Subset.trans (by decide) hl) _ _ _ _ _ _ _ _ _
                exact hx13
              · exact hx13
      · dsimp only
        exact h5
theorem State.drvRead_only (h : Only L s0 s) (hl : [Part.stalls, Part.hbm, Part.poison, Part.lineSlot, Part.mee] ⊆ L) (n : Nat) (c : Nat) (va : Nat) (len : Nat) :
    Only L s0 (State.drvRead s n c va len).2 := by
  unfold State.drvRead
  extract_lets +onlyGivenNames x1
  have hx1 : Only L s0 x1.2 := by
    unfold x1
    refine State.readRun_only ?_ (List.Subset.trans (by decide) hl) _ _ _ _
    exact h
  clear_value x1
  split
  · dsimp only
    exact hx1
  · dsimp only
    exact hx1
theorem drvLoad_only (h : Only L s0 s) (hl : [Part.gtb, Part.pf, Part.vf, Part.history, Part.out, Part.stalls, Part.power, Part.side] ⊆ L) (m : Req) :
    Only L s0 (drvLoad m s) := by
  unfold drvLoad
  extract_lets +onlyGivenNames x1
  clear_value x1
  refine State.mbServe_only ?_ (List.Subset.trans (by decide) hl) _ _ _ ?_
  · exact h
  · intro x2
    intro h3
    extract_lets +onlyGivenNames x4
    clear_value x4
    extract_lets +onlyGivenNames x5
    clear_value x5
    split
    · refine State.mbAnswer_only ?_ (List.Subset.trans (by decide) hl) _ _ _
      exact h3
    · split
      · refine State.mbAnswer_only ?_ (List.Subset.trans (by decide) hl) _ _ _
        exact h3
      · refine Only.ite ?_ ?_
        · refine State.mbAnswer_only ?_ (List.Subset.trans (by decide) hl) _ _ _
          exact h3
        · refine Only.ite ?_ ?_
          · refine State.mbAnswer_only ?_ (List.Subset.trans (by decide) hl) _ _ _
            exact h3
          · refine State.modDrover_only ?_ (List.Subset.trans (by decide) hl) _ _
            exact h3
theorem State.readModel_only (h : Only L s0 s) (hl : [Part.stalls, Part.hbm, Part.poison, Part.lineSlot, Part.mee] ⊆ L) (n : Nat) (a2 : Stall) (c : DrvConfig) (x : DrvModel) :
    Only L s0 (State.readModel s n a2 c x).2 := by
  unfold State.readModel
  split
  · dsimp only
    refine Only.of_snd (by assumption) ?_
    refine State.drvRead_only ?_ (List.Subset.trans (by decide) hl) _ _ _ _
    exact h
  · split
    · dsimp only
      refine Only.of_snd (by assumption) ?_
      refine State.drvRead_only ?_ (List.Subset.trans (by decide) hl) _ _ _ _
      exact h
    · split
      · dsimp only
        refine Only.of_snd (by assumption) ?_
        refine State.drvRead_only ?_ (List.Subset.trans (by decide) hl) _ _ _ _
        refine Only.of_snd (by assumption) ?_
        refine State.drvRead_only ?_ (List.Subset.trans (by decide) hl) _ _ _ _
        exact h
      · split
        · dsimp only
          refine Only.of_snd (by assumption) ?_
          refine State.drvRead_only ?_ (List.Subset.trans (by decide) hl) _ _ _ _
          refine Only.of_snd (by assumption) ?_
          refine State.drvRead_only ?_ (List.Subset.trans (by decide) hl) _ _ _ _
          exact h
        · split
          · dsimp only
            refine Only.of_snd (by assumption) ?_
            refine State.drvRead_only ?_ (List.Subset.trans (by decide) hl) _ _ _ _
            refine Only.of_snd (by assumption) ?_
            refine State.drvRead_only ?_ (List.Subset.trans (by decide) hl) _ _ _ _
            refine Only.of_snd (by assumption) ?_
            refine State.drvRead_only ?_ (List.Subset.trans (by decide) hl) _ _ _ _
            exact h
          · split
            · dsimp only
              refine Only.of_snd (by assumption) ?_
              refine State.drvRead_only ?_ (List.Subset.trans (by decide) hl) _ _ _ _
              refine Only.of_snd (by assumption) ?_
              refine State.drvRead_only ?_ (List.Subset.trans (by decide) hl) _ _ _ _
              refine Only.of_snd (by assumption) ?_
              refine State.drvRead_only ?_ (List.Subset.trans (by decide) hl) _ _ _ _
              exact h
            · split
              · dsimp only
                refine Only.of_snd (by assumption) ?_
                refine State.drvRead_only ?_ (List.Subset.trans (by decide) hl) _ _ _ _
                refine Only.of_snd (by assumption) ?_
                refine State.drvRead_only ?_ (List.Subset.trans (by decide) hl) _ _ _ _
                refine Only.of_snd (by assumption) ?_
                refine State.drvRead_only ?_ (List.Subset.trans (by decide) hl) _ _ _ _
                exact h
              · extract_lets +onlyGivenNames x1
                have hx1 : ∀ x1a0 x1a1 x1a2, Only L s0 x1a2 → Only L s0 (x1 x1a0 x1a1 x1a2).2 := by
                  intro x1a0 x1a1 x1a2 hx10
                  unfold x1
                  split
                  · dsimp only
                    exact hx10
                  · dsimp only
                    exact hx10
                clear_value x1
                split
                · refine hx1 _ _ _ ?_
                  refine Only.of_snd (by assumption) ?_
                  refine State.drvRead_only ?_ (List.Subset.trans (by decide) hl) _ _ _ _
                  refine Only.of_snd (by assumption) ?_
                  refine State.drvRead_only ?_ (List.Subset.trans (by decide) hl) _ _ _ _
                  refine Only.of_snd (by assumption) ?_
                  refine State.drvRead_only ?_ (List.Subset.trans (by decide) hl) _ _ _ _
                  exact h
                · split
                  · dsimp only
                    refine Only.of_snd (by assumption) ?_
                    refine State.drvRead_only ?_ (List.Subset.trans (by decide) hl) _ _ _ _
                    refine Only.of_snd (by assumption) ?_
                    refine State.drvRead_only ?_ (List.Subset.trans (by decide) hl) _ _ _ _
                    refine Only.of_snd (by assumption) ?_
                    refine State.drvRead_only ?_ (List.Subset.trans (by decide) hl) _ _ _ _
                    refine Only.of_snd (by assumption) ?_
                    refine State.drvRead_only ?_ (List.Subset.trans (by decide) hl) _ _ _ _
                    exact h
                  · split
                    · dsimp only
                      refine Only.of_snd (by assumption) ?_
                      refine State.drvRead_only ?_ (List.Subset.trans (by decide) hl) _ _ _ _
                      refine Only.of_snd (by assumption) ?_
                      refine State.drvRead_only ?_ (List.Subset.trans (by decide) hl) _ _ _ _
                      refine Only.of_snd (by assumption) ?_
                      refine State.drvRead_only ?_ (List.Subset.trans (by decide) hl) _ _ _ _
                      refine Only.of_snd (by assumption) ?_
                      refine State.drvRead_only ?_ (List.Subset.trans (by decide) hl) _ _ _ _
                      exact h
                    · split
                      · dsimp only
                        refine Only.of_snd (by assumption) ?_
                        refine State.drvRead_only ?_ (List.Subset.trans (by decide) hl) _ _ _ _
                        refine Only.of_snd (by assumption) ?_
                        refine State.drvRead_only ?_ (List.Subset.trans (by decide) hl) _ _ _ _
                        refine Only.of_snd (by assumption) ?_
                        refine State.drvRead_only ?_ (List.Subset.trans (by decide) hl) _ _ _ _
                        refine Only.of_snd (by assumption) ?_
                        refine State.drvRead_only ?_ (List.Subset.trans (by decide) hl) _ _ _ _
                        refine Only.of_snd (by assumption) ?_
                        refine State.drvRead_only ?_ (List.Subset.trans (by decide) hl) _ _ _ _
                        exact h
                      · split
                        · dsimp only
                          refine Only.of_snd (by assumption) ?_
                          refine State.drvRead_only ?_ (List.Subset.trans (by decide) hl) _ _ _ _
                          refine Only.of_snd (by assumption) ?_
                          refine State.drvRead_only ?_ (List.Subset.trans (by decide) hl) _ _ _ _
                          refine Only.of_snd (by assumption) ?_
                          refine State.drvRead_only ?_ (List.Subset.trans (by decide) hl) _ _ _ _
                          refine Only.of_snd (by assumption) ?_
                          refine State.drvRead_only ?_ (List.Subset.trans (by decide) hl) _ _ _ _
                          refine Only.of_snd (by assumption) ?_
                          refine State.drvRead_only ?_ (List.Subset.trans (by decide) hl) _ _ _ _
                          exact h
                        · refine hx1 _ _ _ ?_
                          refine Only.of_snd (by assumption) ?_
                          refine State.drvRead_only ?_ (List.Subset.trans (by decide) hl) _ _ _ _
                          refine Only.of_snd (by assumption) ?_
                          refine State.drvRead_only ?_ (List.Subset.trans (by decide) hl) _ _ _ _
                          refine Only.of_snd (by assumption) ?_
                          refine State.drvRead_only ?_ (List.Subset.trans (by decide) hl) _ _ _ _
                          refine Only.of_snd (by assumption) ?_
                          refine State.drvRead_only ?_ (List.Subset.trans (by decide) hl) _ _ _ _
                          refine Only.of_snd (by assumption) ?_
                          refine State.drvRead_only ?_ (List.Subset.trans (by decide) hl) _ _ _ _
                          exact h
theorem drvLoadDone_only (h : Only L s0 s) (hl : [Part.pf, Part.vf, Part.history, Part.out, Part.stalls, Part.hbm, Part.poison, Part.lineSlot, Part.mee] ⊆ L) (n : StallNo) (slot : Fin 4) :
    Only L s0 (drvLoadDone n slot s) := by
  unfold drvLoadDone
  split
  · exact h
  · split
    · split
      · exact h
      · split
        · refine State.mbAnswer_only ?_ (List.Subset.trans (by decide) hl) _ _ _
          refine State.modDrover_only ?_ (List.Subset.trans (by decide) hl) _ _
          refine Only.of_snd (by assumption) ?_
          refine State.readModel_only ?_ (List.Subset.trans (by decide) hl) _ _ _ _
          exact h
        · refine State.mbAnswer_only ?_ (List.Subset.trans (by decide) hl) _ _ _
          refine State.logAppend_only ?_ (List.Subset.trans (by decide) hl) _ _ _ _ _
          refine State.modDrover_only ?_ (List.Subset.trans (by decide) hl) _ _
          refine Only.of_snd (by assumption) ?_
          refine State.readModel_only ?_ (List.Subset.trans (by decide) hl) _ _ _ _
          exact h
    · exact h
theorem drvUnload_only (h : Only L s0 s) (hl : [Part.gtb, Part.pf, Part.vf, Part.history, Part.out, Part.stalls, Part.power, Part.side] ⊆ L) (m : Req) :
    Only L s0 (drvUnload m s) := by
  unfold drvUnload
  extract_lets +onlyGivenNames x1
  extract_lets +onlyGivenNames x2
  refine State.mbServeA_only ?_ (List.Subset.trans (by decide) hl) _ _ _ ?_
  · exact h
  · intro x3
    intro h4
    extract_lets +onlyGivenNames x5
    split
    · dsimp only
      exact h4
    · split
      · dsimp only
        exact h4
      · split
        · dsimp only
          exact h4
        · dsimp only
          refine State.modDrover_only ?_ (List.Subset.trans (by decide) hl) _ _
          exact h4
theorem drvStat_only (h : Only L s0 s) (hl : [Part.gtb, Part.pf, Part.vf, Part.history, Part.out, Part.power, Part.side] ⊆ L) (m : Req) :
    Only L s0 (drvStat m s) := by
  unfold drvStat
  extract_lets +onlyGivenNames x1
  clear_value x1
  refine State.mbServeA_only ?_ (List.Subset.trans (by decide) hl) _ _ _ ?_
  · exact h
  · intro x2
    intro h3
    split
    · dsimp only
      exact h3
    · extract_lets +onlyGivenNames x4
      clear_value x4
      extract_lets +onlyGivenNames x5
      clear_value x5
      extract_lets +onlyGivenNames x6
      clear_value x6
      dsimp only
      exact h3
theorem drvLend_only (h : Only L s0 s) (hl : [Part.gtb, Part.pf, Part.vf, Part.history, Part.out, Part.stalls, Part.power, Part.side] ⊆ L) (m : Req) :
    Only L s0 (drvLend m s) := by
  unfold drvLend
  extract_lets +onlyGivenNames x1
  clear_value x1
  extract_lets +onlyGivenNames x2
  clear_value x2
  refine State.mbServeA_only ?_ (List.Subset.trans (by decide) hl) _ _ _ ?_
  · exact h
  · intro x3
    intro h4
    extract_lets +onlyGivenNames x5
    clear_value x5
    split
    · dsimp only
      exact h4
    · extract_lets +onlyGivenNames x6
      clear_value x6
      extract_lets +onlyGivenNames x7
      clear_value x7
      extract_lets +onlyGivenNames x8
      clear_value x8
      extract_lets +onlyGivenNames x9
      clear_value x9
      extract_lets +onlyGivenNames x10
      clear_value x10
      extract_lets +onlyGivenNames x11
      clear_value x11
      split
      · dsimp only
        exact h4
      · split
        · dsimp only
          exact h4
        · extract_lets +onlyGivenNames x12
          clear_value x12
          extract_lets +onlyGivenNames x13
          clear_value x13
          dsimp only
          refine State.modDrover_only ?_ (List.Subset.trans (by decide) hl) _ _
          exact h4
theorem State.stopSeq_only (h : Only L s0 s) (hl : [Part.vf, Part.out, Part.hostMem, Part.stalls, Part.hbm, Part.poison, Part.lineSlot, Part.mee, Part.sessions] ⊆ L) (n : StallNo) (x : Sequence) (reason : Nat) (status : Byte) (detail : Byte) :
    Only L s0 (State.stopSeq s n x reason status detail) := by
  unfold State.stopSeq
  extract_lets +onlyGivenNames x1
  extract_lets +onlyGivenNames x2
  extract_lets +onlyGivenNames x3
  have hx3 : Only L s0 x3 := by
    unfold x3
    refine State.endSequence_only ?_ (List.Subset.trans (by decide) hl) _ _ _ _
    exact h
  clear_value x3
  extract_lets +onlyGivenNames x4
  have hx4 : Only L s0 x4 := by
    unfold x4
    refine State.modEntry_only ?_ (List.Subset.trans (by decide) hl) _ _ _ _
    exact hx3
  clear_value x4
  refine State.modEntry_only ?_ (List.Subset.trans (by decide) hl) _ _ _ _
  exact hx4
theorem State.readInput_only (h : Only L s0 s) (hl : [Part.stalls, Part.hbm, Part.poison, Part.lineSlot, Part.mee] ⊆ L) (n : StallNo) (k : Nat) (e : Entry) (m : DrvModel) :
    Only L s0 (State.readInput s n k e m).2.2 := by
  unfold State.readInput
  extract_lets +onlyGivenNames x1
  extract_lets +onlyGivenNames x2
  extract_lets +onlyGivenNames x3
  have hx3 : Only L s0 x3.2 := by
    unfold x3
    refine State.readRun_only ?_ (List.Subset.trans (by decide) hl) _ _ _ _
    exact h
  clear_value x3
  extract_lets +onlyGivenNames x4
  have hx4 : Only L s0 x4.2 := by
    unfold x4
    split
    · dsimp only
      exact hx3
    · refine State.readRun_only ?_ (List.Subset.trans (by decide) hl) _ _ _ _
      exact hx3
  clear_value x4
  extract_lets +onlyGivenNames x5
  extract_lets +onlyGivenNames x6
  extract_lets +onlyGivenNames x7
  extract_lets +onlyGivenNames x8
  extract_lets +onlyGivenNames x9
  split
  · dsimp only
    exact hx4
  · split
    · dsimp only
      exact hx4
    · dsimp only
      exact hx4
theorem State.joinSeq_only (h : Only L s0 s) (hl : [Part.vf, Part.out, Part.hostMem, Part.stalls, Part.hbm, Part.poison, Part.lineSlot, Part.mee, Part.sessions] ⊆ L) (n : StallNo) (x : Sequence) :
    Only L s0 (State.joinSeq s n x) := by
  unfold State.joinSeq
  split
  · refine Only.ite ?_ ?_
    · exact h
    · split
      · exact h
      · extract_lets +onlyGivenNames x1
        extract_lets +onlyGivenNames x2
        have hx2 : Only L s0 x2.2.2 := by
          unfold x2
          refine State.readInput_only ?_ (List.Subset.trans (by decide) hl) _ _ _ _
          exact h
        clear_value x2
        extract_lets +onlyGivenNames x3
        extract_lets +onlyGivenNames x4
        extract_lets +onlyGivenNames x5
        have hx5 : Only L s0 x5 := by
          unfold x5
          refine State.modDrover_only ?_ (List.Subset.trans (by decide) hl) _ _
          exact hx2
        clear_value x5
        split
        · refine State.stopSeq_only ?_ (List.Subset.trans (by decide) hl) _ _ _ _ _
          refine State.modDrover_only ?_ (List.Subset.trans (by decide) hl) _ _
          exact hx5
        · extract_lets +onlyGivenNames x6
          refine State.modDrover_only ?_ (List.Subset.trans (by decide) hl) _ _
          exact hx5
  · exact h
theorem State.readConsumed_only (h : Only L s0 s) (hl : [Part.stalls, Part.hbm, Part.poison, Part.lineSlot, Part.mee, Part.sessions] ⊆ L) (n : StallNo) (k : Nat) :
    Only L s0 (State.readConsumed s n k) := by
  unfold State.readConsumed
  split
  · exact h
  · extract_lets +onlyGivenNames x1
    have hx1 : Only L s0 x1.2 := by
      unfold x1
      split
      · split
        · dsimp only
          refine Only.of_snd (by assumption) ?_
          refine State.ringReadStall_only ?_ (List.Subset.trans (by decide) hl) _ _ _ _
          exact h
        · dsimp only
          refine Only.of_snd (by assumption) ?_
          refine State.ringReadStall_only ?_ (List.Subset.trans (by decide) hl) _ _ _ _
          exact h
      · split
        · dsimp only
          exact h
        · split
          · dsimp only
            exact h
          · split
            · dsimp only
              exact h
            · dsimp only
              refine State.setCounter_only ?_ (List.Subset.trans (by decide) hl) _ _ _ _
              exact h
    clear_value x1
    split
    · exact hx1
    · extract_lets +onlyGivenNames x2
      clear_value x2
      refine Only.ite ?_ ?_
      · refine State.modDrover_only ?_ (List.Subset.trans (by decide) hl) _ _
        exact hx1
      · exact hx1
theorem State.drvCancels_only (h : Only L s0 s) (hl : [Part.vf, Part.out, Part.hostMem, Part.stalls, Part.hbm, Part.poison, Part.lineSlot, Part.mee, Part.sessions] ⊆ L) (n : StallNo) :
    Only L s0 (State.drvCancels s n) := by
  unfold State.drvCancels
  split
  · exact h
  · extract_lets +onlyGivenNames x1
    refine forAll_only ?_ _ _ ?_
    · exact h
    · intro x2
      intro x3
      intro h4
      extract_lets +onlyGivenNames x5
      split
      · refine State.finish_only ?_ (List.Subset.trans (by decide) hl) _ _ _ _ _ _
        exact h4
      · refine State.finish_only ?_ (List.Subset.trans (by decide) hl) _ _ _ _ _ _
        refine State.stopSeq_only ?_ (List.Subset.trans (by decide) hl) _ _ _ _ _
        exact h4
theorem droverStep_only (h : Only L s0 s) (hl : [Part.vf, Part.out, Part.hostMem, Part.stalls, Part.hbm, Part.poison, Part.lineSlot, Part.mee, Part.sessions] ⊆ L) (n : StallNo) :
    Only L s0 (droverStep n s) := by
  unfold droverStep
  split
  · exact h
  · refine Only.ite ?_ ?_
    · exact h
    · extract_lets +onlyGivenNames x1
      have hx1 : Only L s0 x1 := by
        unfold x1
        refine forAll_only ?_ _ _ ?_
        · exact h
        · intro x2
          intro x3
          intro h4
          refine State.outRecords_only ?_ (List.Subset.trans (by decide) hl) _ _ _
          refine State.readConsumed_only ?_ (List.Subset.trans (by decide) hl) _ _
          exact h4
      clear_value x1
      extract_lets +onlyGivenNames x5
      have hx5 : Only L s0 x5 := by
        unfold x5
        refine State.drvCancels_only ?_ (List.Subset.trans (by decide) hl) _
        exact hx1
      clear_value x5
      extract_lets +onlyGivenNames x6
      have hx6 : Only L s0 x6 := by
        unfold x6
        split
        · exact hx5
        · refine forAll_only ?_ _ _ ?_
          · exact hx5
          · intro x7
            intro x8
            intro h9
            refine State.joinSeq_only ?_ (List.Subset.trans (by decide) hl) _ _
            exact h9
      clear_value x6
      split
      · exact hx6
      · extract_lets +onlyGivenNames x10
        refine Only.ite ?_ ?_
        · exact hx6
        · extract_lets +onlyGivenNames x11
          extract_lets +onlyGivenNames x12
          extract_lets +onlyGivenNames x13
          have hx13 : Only L s0 x13 := by
            unfold x13
            refine State.setStall_only ?_ (List.Subset.trans (by decide) hl) _ _
            exact hx6
          clear_value x13
          refine forAll_only ?_ _ _ ?_
          · exact hx13
          · intro x14
            intro x15
            intro h16
            refine State.offWrite_only ?_ (List.Subset.trans (by decide) hl) _ _ _ _ _
            exact h16
theorem State.stepSeq_only (h : Only L s0 s) (hl : [Part.vf, Part.out, Part.hostMem, Part.stalls, Part.hbm, Part.poison, Part.lineSlot, Part.mee, Part.sessions] ⊆ L) (n : StallNo) (a2 : Stall) (c : DrvConfig) (v : Nat) (rows : List (U64 × Nat)) (farBad : List U64) (x : Sequence) :
    Only L s0 (State.stepSeq s n a2 c v rows farBad x) := by
  unfold State.stepSeq
  split
  · refine Only.ite ?_ ?_
    · refine State.stopSeq_only ?_ (List.Subset.trans (by decide) hl) _ _ _ _ _
      exact h
    · extract_lets +onlyGivenNames x1
      extract_lets +onlyGivenNames x2
      extract_lets +onlyGivenNames x3
      have hx3 : Only L s0 x3 := by
        unfold x3
        refine State.modDrover_only ?_ (List.Subset.trans (by decide) hl) _ _
        exact h
      clear_value x3
      refine Only.ite ?_ ?_
      · exact hx3
      · extract_lets +onlyGivenNames x4
        extract_lets +onlyGivenNames x5
        have hx5 : Only L s0 x5.2.2 := by
          unfold x5
          refine State.offReadRun_only ?_ (List.Subset.trans (by decide) hl) _ _ _ _ _
          exact hx3
        clear_value x5
        refine Only.ite ?_ ?_
        · refine State.stopSeq_only ?_ (List.Subset.trans (by decide) hl) _ _ _ _ _
          exact hx5
        · extract_lets +onlyGivenNames x6
          extract_lets +onlyGivenNames x7
          split
          · refine State.stopSeq_only ?_ (List.Subset.trans (by decide) hl) _ _ _ _ _
            exact hx5
          · extract_lets +onlyGivenNames x8
            extract_lets +onlyGivenNames x9
            extract_lets +onlyGivenNames x10
            have hx10 : Only L s0 x10 := by
              unfold x10
              refine State.modDrover_only ?_ (List.Subset.trans (by decide) hl) _ _
              exact hx5
            clear_value x10
            extract_lets +onlyGivenNames x11
            extract_lets +onlyGivenNames x12
            have hx12 : Only L s0 x12 := by
              unfold x12
              refine State.outRecords_only ?_ (List.Subset.trans (by decide) hl) _ _ _
              exact hx10
            clear_value x12
            extract_lets +onlyGivenNames x13
            have hx13 : Only L s0 x13 := by
              unfold x13
              refine State.modEntry_only ?_ (List.Subset.trans (by decide) hl) _ _ _ _
              exact hx12
            clear_value x13
            split
            · exact hx13
            · refine State.stopSeq_only ?_ (List.Subset.trans (by decide) hl) _ _ _ _ _
              exact hx13
  · exact h
theorem droverStepEnd_only (h : Only L s0 s) (hl : [Part.vf, Part.out, Part.hostMem, Part.stalls, Part.hbm, Part.poison, Part.lineSlot, Part.mee, Part.sessions] ⊆ L) (n : StallNo) (writes : List (Nat × List Byte)) (farBad : List U64) :
    Only L s0 (droverStepEnd n writes farBad s) := by
  unfold droverStepEnd
  split
  · exact h
  · refine Only.ite ?_ ?_
    · exact h
    · extract_lets +onlyGivenNames x1
      have hx1 : Only L s0 x1 := by
        unfold x1
        refine forAll_only ?_ _ _ ?_
        · exact h
        · intro x2
          intro x3
          intro h4
          refine State.offWrite_only ?_ (List.Subset.trans (by decide) hl) _ _ _ _ _
          exact h4
      clear_value x1
      extract_lets +onlyGivenNames x5
      extract_lets +onlyGivenNames x6
      extract_lets +onlyGivenNames x7
      extract_lets +onlyGivenNames x8
      have hx8 : Only L s0 x8 := by
        unfold x8
        refine forAll_only ?_ _ _ ?_
        · exact hx1
        · intro x9
          intro x10
          intro h11
          refine State.stepSeq_only ?_ (List.Subset.trans (by decide) hl) _ _ _ _ _ _ _
          exact h11
      clear_value x8
      refine State.drvCancels_only ?_ (List.Subset.trans (by decide) hl) _
      refine State.modDrover_only ?_ (List.Subset.trans (by decide) hl) _ _
      exact hx8
theorem State.drvBegin_only (h : Only L s0 s) (hl : [Part.vf, Part.out, Part.hostMem, Part.stalls, Part.hbm, Part.poison, Part.lineSlot, Part.mee, Part.sessions] ⊆ L) (q : QueueId) (op : Nat) (body : Entry → State → State) (hbody : ∀ x0 t, Only L s0 t → Only L s0 (body x0 t)) :
    Only L s0 (State.drvBegin s q op body) := by
  unfold State.drvBegin
  extract_lets +onlyGivenNames x1
  extract_lets +onlyGivenNames x2
  split
  · extract_lets +onlyGivenNames x3
    refine Only.ite ?_ ?_
    · exact h
    · refine Only.ite ?_ ?_
      · refine State.finish_only ?_ (List.Subset.trans (by decide) hl) _ _ _ _ _ _
        exact h
      · extract_lets +onlyGivenNames x4
        have hx4 : Only L s0 x4 := by
          unfold x4
          refine Only.ite ?_ ?_
          · refine State.publish_only ?_ (List.Subset.trans (by decide) hl) _ _ _ _
            exact h
          · exact h
        clear_value x4
        extract_lets +onlyGivenNames x5
        extract_lets +onlyGivenNames x6
        refine hbody _ _ ?_
        refine State.modEntry_only ?_ (List.Subset.trans (by decide) hl) _ _ _ _
        exact hx4
  · exact h
theorem drvSubmit_only (h : Only L s0 s) (hl : [Part.vf, Part.out, Part.hostMem, Part.stalls, Part.hbm, Part.poison, Part.lineSlot, Part.mee, Part.sessions] ⊆ L) (q : QueueId) :
    Only L s0 (drvSubmit q s) := by
  unfold drvSubmit
  refine State.drvBegin_only ?_ (List.Subset.trans (by decide) hl) _ _ _ ?_
  · exact h
  · intro x1
    intro x2
    intro h3
    exact h3
theorem drvCancel_only (h : Only L s0 s) (hl : [Part.vf, Part.out, Part.hostMem, Part.stalls, Part.hbm, Part.poison, Part.lineSlot, Part.mee, Part.sessions] ⊆ L) (q : QueueId) :
    Only L s0 (drvCancel q s) := by
  unfold drvCancel
  refine State.drvBegin_only ?_ (List.Subset.trans (by decide) hl) _ _ _ ?_
  · exact h
  · intro x1
    intro x2
    intro h3
    refine Only.ite ?_ ?_
    · exact h3
    · refine State.drvCancels_only ?_ (List.Subset.trans (by decide) hl) _
      exact h3
theorem drvRelease_only (h : Only L s0 s) (hl : [Part.vf, Part.out, Part.hostMem, Part.stalls, Part.hbm, Part.poison, Part.lineSlot, Part.mee, Part.sessions] ⊆ L) (q : QueueId) :
    Only L s0 (drvRelease q s) := by
  unfold drvRelease
  refine State.drvBegin_only ?_ (List.Subset.trans (by decide) hl) _ _ _ ?_
  · exact h
  · intro x1
    intro x2
    intro h3
    extract_lets +onlyGivenNames x4
    extract_lets +onlyGivenNames x5
    split
    · refine State.finish_only ?_ (List.Subset.trans (by decide) hl) _ _ _ _ _ _
      exact h3
    · refine State.finish_only ?_ (List.Subset.trans (by decide) hl) _ _ _ _ _ _
      refine State.modDrover_only ?_ (List.Subset.trans (by decide) hl) _ _
      exact h3

end Sys2Proof.Machine
end

