-- ==== Sys2Proof/Laws/MemReq.lean ====
section
/-! SUPPORT. Machine/MemReq.lean: what each of its operations keeps, and the parts it changes. -/

namespace Sys2Proof.Machine

variable {L : List Part} {s0 s : State}

theorem ctxCreate_only (h : Only L s0 s) (hl : [Part.gtb, Part.pf, Part.vf, Part.history, Part.out, Part.stalls, Part.power, Part.side] ⊆ L) (m : Req) :
    Only L s0 (ctxCreate m s) := by
  unfold ctxCreate
  extract_lets +onlyGivenNames x1
  clear_value x1
  extract_lets +onlyGivenNames x2
  clear_value x2
  refine State.mbServeA_only ?_ (List.Subset.trans (by decide) hl) _ _ _ ?_
  · exact h
  · intro x3
    intro h4
    extract_lets +onlyGivenNames x5
    clear_value x5
    split
    · dsimp only
      exact h4
    · split
      · dsimp only
        exact h4
      · extract_lets +onlyGivenNames x6
        clear_value x6
        dsimp only
        refine State.setStall_only ?_ (List.Subset.trans (by decide) hl) _ _
        exact h4
theorem ctxDestroy_only (h : Only L s0 s) (hl : [Part.gtb, Part.pf, Part.vf, Part.history, Part.out, Part.stalls, Part.power, Part.side] ⊆ L) (m : Req) :
    Only L s0 (ctxDestroy m s) := by
  unfold ctxDestroy
  extract_lets +onlyGivenNames x1
  extract_lets +onlyGivenNames x2
  refine State.mbServeA_only ?_ (List.Subset.trans (by decide) hl) _ _ _ ?_
  · exact h
  · intro x3
    intro h4
    extract_lets +onlyGivenNames x5
    split
    · dsimp only
      exact h4
    · split
      · dsimp only
        exact h4
      · split
        · dsimp only
          exact h4
        · split
          · dsimp only
            exact h4
          · dsimp only
            refine State.setStall_only ?_ (List.Subset.trans (by decide) hl) _ _
            exact h4
theorem xlatInval_only (h : Only L s0 s) (hl : [Part.gtb, Part.pf, Part.vf, Part.history, Part.out, Part.stalls, Part.power, Part.side] ⊆ L) (m : Req) :
    Only L s0 (xlatInval m s) := by
  unfold xlatInval
  extract_lets +onlyGivenNames x1
  clear_value x1
  refine State.mbServe_only ?_ (List.Subset.trans (by decide) hl) _ _ _ ?_
  · exact h
  · intro x2
    intro h3
    refine State.modStall_only ?_ (List.Subset.trans (by decide) hl) _ _
    exact h3
theorem xlatInvalDone_only (h : Only L s0 s) (hl : [Part.pf, Part.vf, Part.history, Part.out, Part.stalls] ⊆ L) (n : StallNo) :
    Only L s0 (xlatInvalDone n s) := by
  unfold xlatInvalDone
  split
  · exact h
  · split
    · exact h
    · extract_lets +onlyGivenNames x1
      refine State.mbAnswer_only ?_ (List.Subset.trans (by decide) hl) _ _ _
      refine State.setStall_only ?_ (List.Subset.trans (by decide) hl) _ _
      exact h
theorem memStats_only (h : Only L s0 s) (hl : [Part.gtb, Part.pf, Part.vf, Part.history, Part.out, Part.power, Part.side] ⊆ L) (m : Req) :
    Only L s0 (memStats m s) := by
  unfold memStats
  extract_lets +onlyGivenNames x1
  clear_value x1
  refine State.mbServeA_only ?_ (List.Subset.trans (by decide) hl) _ _ _ ?_
  · exact h
  · intro x2
    intro h3
    split
    · dsimp only
      exact h3
    · extract_lets +onlyGivenNames x4
      clear_value x4
      dsimp only
      exact h3
theorem srndSeed_only (h : Only L s0 s) (hl : [Part.gtb, Part.pf, Part.vf, Part.history, Part.out, Part.stalls, Part.power, Part.side] ⊆ L) (m : Req) :
    Only L s0 (srndSeed m s) := by
  unfold srndSeed
  extract_lets +onlyGivenNames x1
  refine State.mbServeA_only ?_ (List.Subset.trans (by decide) hl) _ _ _ ?_
  · exact h
  · intro x2
    intro h3
    split
    · dsimp only
      exact h3
    · dsimp only
      refine State.setStall_only ?_ (List.Subset.trans (by decide) hl) _ _
      exact h3
theorem ctxKillDone_only (h : Only L s0 s) (hl : [Part.pf, Part.vf, Part.history, Part.out, Part.hostMem, Part.clusters, Part.stalls, Part.hbm, Part.poison, Part.lineSlot, Part.mee, Part.power, Part.acct, Part.tl, Part.sessions, Part.free] ⊆ L) (c : CtxId) :
    Only L s0 (ctxKillDone c s) := by
  unfold ctxKillDone
  split
  · exact h
  · extract_lets +onlyGivenNames x1
    have hx1 : Only L s0 x1 := by
      unfold x1
      refine State.modStall_only ?_ (List.Subset.trans (by decide) hl) _ _
      exact h
    clear_value x1
    extract_lets +onlyGivenNames x2
    have hx2 : Only L s0 x2 := by
      unfold x2
      refine State.modCtx_only ?_ (List.Subset.trans (by decide) hl) _ _ _
      exact hx1
    clear_value x2
    extract_lets +onlyGivenNames x3
    have hx3 : Only L s0 x3 := by
      unfold x3
      refine State.holdQueues_only ?_ (List.Subset.trans (by decide) hl) _ _ _
      exact hx2
    clear_value x3
    extract_lets +onlyGivenNames x4
    have hx4 : Only L s0 x4 := by
      unfold x4
      refine State.wakeQueues_only ?_ (List.Subset.trans (by decide) hl) _
      exact hx3
    clear_value x4
    refine State.answerAll_only ?_ (List.Subset.trans (by decide) hl) _ _ _
    exact hx4

end Sys2Proof.Machine
end

