-- ==== Sys2Proof/Laws/Spdm.lean ====
section
/-! SUPPORT. Machine/Spdm.lean: what each of its operations keeps, and the parts it changes. -/

namespace Sys2Proof.Machine

variable {L : List Part} {s0 s : State}

theorem State.setConn_only (h : Only L s0 s) (hl : [Part.side] ⊆ L) (via : Option Fn) (f : SpdmConn → SpdmConn) :
    Only L s0 (State.setConn s via f) := by
  unfold State.setConn
  refine Only.side ?_ _ (hl (by decide))
  exact h
theorem State.spdmSay_only (h : Only L s0 s) (hl : [Part.out, Part.side] ⊆ L) (via : Option Fn) (code : Nat) (body : List Byte) :
    Only L s0 (State.spdmSay s via code body) := by
  unfold State.spdmSay
  refine Only.ite ?_ ?_
  · refine State.emit_only ?_ (List.Subset.trans (by decide) hl) _
    exact h
  · refine State.emit_only ?_ (List.Subset.trans (by decide) hl) _
    refine State.setConn_only ?_ (List.Subset.trans (by decide) hl) _ _
    exact h
theorem State.spdmError_only (h : Only L s0 s) (hl : [Part.out] ⊆ L) (via : Option Fn) (e : Byte) :
    Only L s0 (State.spdmError s via e) := by
  unfold State.spdmError
  refine State.emit_only ?_ (List.Subset.trans (by decide) hl) _
  exact h
theorem State.spdmErrorFree_only (h : Only L s0 s) (hl : [Part.out, Part.free] ⊆ L) (via : Option Fn) :
    Only L s0 (State.spdmErrorFree s via) := by
  unfold State.spdmErrorFree
  extract_lets +onlyGivenNames x1
  have hx1 : Only L s0 x1.2 := by
    unfold x1
    refine State.draw_only ?_ (List.Subset.trans (by decide) hl) _
    exact h
  clear_value x1
  refine State.spdmError_only ?_ (List.Subset.trans (by decide) hl) _ _
  exact hx1
theorem State.spdmServe_only (h : Only L s0 s) (hl : [Part.out] ⊆ L) (via : Option Fn) (ready : SpdmConn → Bool) (body : State → State) (hbody : ∀ t, Only L s0 t → Only L s0 (body t)) :
    Only L s0 (State.spdmServe s via ready body) := by
  unfold State.spdmServe
  refine Only.ite ?_ ?_
  · exact h
  · refine Only.ite ?_ ?_
    · refine State.spdmError_only ?_ (List.Subset.trans (by decide) hl) _ _
      exact h
    · refine hbody _ ?_
      exact h
theorem getVersion_only (h : Only L s0 s) (hl : [Part.out, Part.side] ⊆ L) (via : Option Fn) :
    Only L s0 (getVersion via s) := by
  unfold getVersion
  refine State.spdmServe_only ?_ (List.Subset.trans (by decide) hl) _ _ _ ?_
  · exact h
  · intro x1
    intro h2
    refine State.spdmSay_only ?_ (List.Subset.trans (by decide) hl) _ _ _
    refine State.setConn_only ?_ (List.Subset.trans (by decide) hl) _ _
    exact h2
theorem getCapabilities_only (h : Only L s0 s) (hl : [Part.out, Part.side] ⊆ L) (via : Option Fn) :
    Only L s0 (getCapabilities via s) := by
  unfold getCapabilities
  refine State.spdmServe_only ?_ (List.Subset.trans (by decide) hl) _ _ _ ?_
  · exact h
  · intro x1
    intro h2
    refine State.spdmSay_only ?_ (List.Subset.trans (by decide) hl) _ _ _
    refine State.setConn_only ?_ (List.Subset.trans (by decide) hl) _ _
    exact h2
theorem negotiateAlgorithms_only (h : Only L s0 s) (hl : [Part.out, Part.side] ⊆ L) (via : Option Fn) :
    Only L s0 (negotiateAlgorithms via s) := by
  unfold negotiateAlgorithms
  refine State.spdmServe_only ?_ (List.Subset.trans (by decide) hl) _ _ _ ?_
  · exact h
  · intro x1
    intro h2
    refine State.spdmSay_only ?_ (List.Subset.trans (by decide) hl) _ _ _
    refine State.setConn_only ?_ (List.Subset.trans (by decide) hl) _ _
    exact h2
theorem getDigests_only (h : Only L s0 s) (hl : [Part.out, Part.side] ⊆ L) (via : Option Fn) :
    Only L s0 (getDigests via s) := by
  unfold getDigests
  refine State.spdmServe_only ?_ (List.Subset.trans (by decide) hl) _ _ _ ?_
  · exact h
  · intro x1
    intro h2
    refine State.spdmSay_only ?_ (List.Subset.trans (by decide) hl) _ _ _
    exact h2
theorem getCertificate_only (h : Only L s0 s) (hl : [Part.out, Part.side] ⊆ L) (via : Option Fn) (slot : Byte) (ofs : U16) (len : U16) :
    Only L s0 (getCertificate via slot ofs len s) := by
  unfold getCertificate
  refine State.spdmServe_only ?_ (List.Subset.trans (by decide) hl) _ _ _ ?_
  · exact h
  · intro x1
    intro h2
    refine Only.ite ?_ ?_
    · refine State.spdmError_only ?_ (List.Subset.trans (by decide) hl) _ _
      exact h2
    · extract_lets +onlyGivenNames x3
      refine State.spdmSay_only ?_ (List.Subset.trans (by decide) hl) _ _ _
      exact h2
theorem challenge_only (h : Only L s0 s) (hl : [Part.out, Part.side, Part.free] ⊆ L) (via : Option Fn) (slot : Byte) :
    Only L s0 (challenge via slot s) := by
  unfold challenge
  refine State.spdmServe_only ?_ (List.Subset.trans (by decide) hl) _ _ _ ?_
  · exact h
  · intro x1
    intro h2
    refine Only.ite ?_ ?_
    · refine State.spdmErrorFree_only ?_ (List.Subset.trans (by decide) hl) _
      exact h2
    · refine Only.ite ?_ ?_
      · refine State.spdmError_only ?_ (List.Subset.trans (by decide) hl) _ _
        exact h2
      · refine State.spdmSay_only ?_ (List.Subset.trans (by decide) hl) _ _ _
        refine State.signed_only ?_ (List.Subset.trans (by decide) hl)
        exact h2
theorem getMeasurements_only (h : Only L s0 s) (hl : [Part.out, Part.side, Part.free] ⊆ L) (via : Option Fn) (index : Byte) (nonce : Option (List Byte)) :
    Only L s0 (getMeasurements via index nonce s) := by
  unfold getMeasurements
  refine State.spdmServe_only ?_ (List.Subset.trans (by decide) hl) _ _ _ ?_
  · exact h
  · intro x1
    intro h2
    refine Only.ite ?_ ?_
    · refine State.spdmErrorFree_only ?_ (List.Subset.trans (by decide) hl) _
      exact h2
    · extract_lets +onlyGivenNames x3
      extract_lets +onlyGivenNames x4
      refine Only.ite ?_ ?_
      · refine State.spdmError_only ?_ (List.Subset.trans (by decide) hl) _ _
        exact h2
      · extract_lets +onlyGivenNames x5
        have hx5 : Only L s0 x5 := by
          unfold x5
          refine State.signed_only ?_ (List.Subset.trans (by decide) hl)
          refine State.signed_only ?_ (List.Subset.trans (by decide) hl)
          exact h2
        clear_value x5
        extract_lets +onlyGivenNames x6
        extract_lets +onlyGivenNames x7
        refine State.spdmSay_only ?_ (List.Subset.trans (by decide) hl) _ _ _
        exact hx5
theorem chunkGet_only (h : Only L s0 s) (hl : [Part.out, Part.side] ⊆ L) (via : Option Fn) :
    Only L s0 (chunkGet via s) := by
  unfold chunkGet
  refine State.spdmServe_only ?_ (List.Subset.trans (by decide) hl) _ _ _ ?_
  · exact h
  · intro x1
    intro h2
    extract_lets +onlyGivenNames x3
    extract_lets +onlyGivenNames x4
    refine State.emit_only ?_ (List.Subset.trans (by decide) hl) _
    refine State.setConn_only ?_ (List.Subset.trans (by decide) hl) _ _
    exact h2
theorem State.modSession_only (h : Only L s0 s) (hl : [Part.sessions] ⊆ L) (id : Nat) (f : Session → Session) :
    Only L s0 (State.modSession s id f) := by
  unfold State.modSession
  split
  · exact h
  · refine Only.sessions ?_ _ (hl (by decide))
    exact h
theorem keyExchange_only (h : Only L s0 s) (hl : [Part.out, Part.side, Part.sessions, Part.free] ⊆ L) (via : Option Fn) (id : U32) (peer : List Byte) :
    Only L s0 (keyExchange via id peer s) := by
  unfold keyExchange
  refine State.spdmServe_only ?_ (List.Subset.trans (by decide) hl) _ _ _ ?_
  · exact h
  · intro x1
    intro h2
    extract_lets +onlyGivenNames x3
    refine Only.ite ?_ ?_
    · refine State.spdmErrorFree_only ?_ (List.Subset.trans (by decide) hl) _
      exact h2
    · refine Only.ite ?_ ?_
      · refine State.spdmError_only ?_ (List.Subset.trans (by decide) hl) _ _
        exact h2
      · refine Only.ite ?_ ?_
        · refine State.spdmError_only ?_ (List.Subset.trans (by decide) hl) _ _
          exact h2
        · extract_lets +onlyGivenNames x4
          extract_lets +onlyGivenNames x5
          have hx5 : Only L s0 x5 := by
            unfold x5
            refine State.signed_only ?_ (List.Subset.trans (by decide) hl)
            refine Only.sessions ?_ _ (hl (by decide))
            exact h2
          clear_value x5
          refine State.spdmSay_only ?_ (List.Subset.trans (by decide) hl) _ _ _
          refine State.signed_only ?_ (List.Subset.trans (by decide) hl)
          exact hx5
theorem finish_only (h : Only L s0 s) (hl : [Part.out, Part.stalls, Part.side, Part.sessions, Part.free] ⊆ L) (id : U32) (leaf : Option (List Byte)) (good : Bool) :
    Only L s0 (finish id leaf good s) := by
  unfold finish
  split
  · exact h
  · extract_lets +onlyGivenNames x1
    have hx1 : Only L s0 x1 := by
      unfold x1
      refine Only.sessions ?_ _ (hl (by decide))
      exact h
    clear_value x1
    extract_lets +onlyGivenNames x2
    refine Only.ite ?_ ?_
    · refine State.spdmError_only ?_ (List.Subset.trans (by decide) hl) _ _
      exact h
    · refine Only.ite ?_ ?_
      · refine State.spdmErrorFree_only ?_ (List.Subset.trans (by decide) hl) _
        exact hx1
      · extract_lets +onlyGivenNames x3
        have hx3 : Only L s0 x3 := by
          unfold x3
          refine State.modSession_only ?_ (List.Subset.trans (by decide) hl) _ _
          exact h
        clear_value x3
        split
        · refine State.spdmSay_only ?_ (List.Subset.trans (by decide) hl) _ _ _
          exact hx3
        · extract_lets +onlyGivenNames x4
          refine Only.ite ?_ ?_
          · refine State.spdmError_only ?_ (List.Subset.trans (by decide) hl) _ _
            exact hx1
          · refine State.spdmSay_only ?_ (List.Subset.trans (by decide) hl) _ _ _
            refine State.modStall_only ?_ (List.Subset.trans (by decide) hl) _ _
            exact hx3
theorem State.inSession_only (h : Only L s0 s) (hl : [Part.out] ⊆ L) (id : Nat) (body : Session → State → State) (hbody : ∀ x0 t, Only L s0 t → Only L s0 (body x0 t)) :
    Only L s0 (State.inSession s id body) := by
  unfold State.inSession
  split
  · exact h
  · refine Only.ite ?_ ?_
    · refine hbody _ _ ?_
      exact h
    · refine State.spdmError_only ?_ (List.Subset.trans (by decide) hl) _ _
      exact h
theorem heartbeat_only (h : Only L s0 s) (hl : [Part.out, Part.side, Part.sessions] ⊆ L) (id : U32) :
    Only L s0 (heartbeat id s) := by
  unfold heartbeat
  refine State.inSession_only ?_ (List.Subset.trans (by decide) hl) _ _ ?_
  · exact h
  · intro x1
    intro x2
    intro h3
    refine State.spdmSay_only ?_ (List.Subset.trans (by decide) hl) _ _ _
    refine State.modSession_only ?_ (List.Subset.trans (by decide) hl) _ _
    exact h3
theorem heartbeatMissed_only (h : Only L s0 s) (hl : [Part.gtb, Part.timers, Part.outs, Part.matrix, Part.pf, Part.out, Part.sessions] ⊆ L) (id : U32) :
    Only L s0 (heartbeatMissed id s) := by
  unfold heartbeatMissed
  split
  · exact h
  · extract_lets +onlyGivenNames x1
    have hx1 : Only L s0 x1 := by
      unfold x1
      refine State.advance_only ?_ (List.Subset.trans (by decide) hl) _
      exact h
    clear_value x1
    refine Only.ite ?_ ?_
    · exact hx1
    · refine State.modSession_only ?_ (List.Subset.trans (by decide) hl) _ _
      exact hx1
theorem keyUpdate_only (h : Only L s0 s) (hl : [Part.out, Part.side] ⊆ L) (id : U32) :
    Only L s0 (keyUpdate id s) := by
  unfold keyUpdate
  refine State.inSession_only ?_ (List.Subset.trans (by decide) hl) _ _ ?_
  · exact h
  · intro x1
    intro x2
    intro h3
    refine State.spdmSay_only ?_ (List.Subset.trans (by decide) hl) _ _ _
    exact h3
theorem endSession_only (h : Only L s0 s) (hl : [Part.out, Part.side, Part.sessions] ⊆ L) (id : U32) :
    Only L s0 (endSession id s) := by
  unfold endSession
  refine State.inSession_only ?_ (List.Subset.trans (by decide) hl) _ _ ?_
  · exact h
  · intro x1
    intro x2
    intro h3
    refine State.spdmSay_only ?_ (List.Subset.trans (by decide) hl) _ _ _
    refine State.modSession_only ?_ (List.Subset.trans (by decide) hl) _ _
    exact h3
/-- Every request of the mailbox. -/
theorem mailboxOf_only (h : Only L s0 s) (hl : [Part.gtb, Part.gates, Part.yard, Part.pf, Part.vf, Part.history, Part.out, Part.hostMem, Part.clusters, Part.stalls, Part.hbm, Part.poison, Part.lineSlot, Part.mee, Part.prot, Part.power, Part.acct, Part.rsv, Part.rg, Part.tl, Part.side, Part.sessions, Part.free] ⊆ L) (op : Nat) (g : Req → State → State) (m : Req)
    (e : mailboxOf op = some g) : Only L s0 (g m s) := by
  unfold mailboxOf at e
  split at e <;> cases e
  · exact version_only h (List.Subset.trans (by decide) hl) _
  · exact resultQuery_only h (List.Subset.trans (by decide) hl) _
  · exact planSubmit_only h (List.Subset.trans (by decide) hl) _
  · exact planCancel_only h (List.Subset.trans (by decide) hl) _
  · exact changeForce_only h (List.Subset.trans (by decide) hl) _
  · exact changeReport_only h (List.Subset.trans (by decide) hl) _
  · exact enrol_only h (List.Subset.trans (by decide) hl) _
  · exact rotate_only h (List.Subset.trans (by decide) hl) _
  · exact manifestReq_only h (List.Subset.trans (by decide) hl) _
  · exact ctxKill_only h (List.Subset.trans (by decide) hl) _
  · exact stallReset_only h (List.Subset.trans (by decide) hl) _
  · exact queueCreate_only h (List.Subset.trans (by decide) hl) _
  · exact queueDestroy_only h (List.Subset.trans (by decide) hl) _
  · exact ctxCreate_only h (List.Subset.trans (by decide) hl) _
  · exact ctxDestroy_only h (List.Subset.trans (by decide) hl) _
  · exact srndSeed_only h (List.Subset.trans (by decide) hl) _
  · exact xlatInval_only h (List.Subset.trans (by decide) hl) _
  · exact memStats_only h (List.Subset.trans (by decide) hl) _
  · exact memClear_only h (List.Subset.trans (by decide) hl) _
  · exact schedSet_only h (List.Subset.trans (by decide) hl) _
  · exact schedStat_only h (List.Subset.trans (by decide) hl) _
  · exact drvConfig_only h (List.Subset.trans (by decide) hl) _
  · exact drvOutring_only h (List.Subset.trans (by decide) hl) _
  · exact drvLoad_only h (List.Subset.trans (by decide) hl) _
  · exact drvUnload_only h (List.Subset.trans (by decide) hl) _
  · exact drvStat_only h (List.Subset.trans (by decide) hl) _
  · exact drvLend_only h (List.Subset.trans (by decide) hl) _
  · exact drvBorrow_only h (List.Subset.trans (by decide) hl) _
  · exact remoteExport_only h (List.Subset.trans (by decide) hl) _
  · exact groupSet_only h (List.Subset.trans (by decide) hl) _
  · exact groupClear_only h (List.Subset.trans (by decide) hl) _
  · exact secChallenge_only h (List.Subset.trans (by decide) hl) _
  · exact debugUnlock_only h (List.Subset.trans (by decide) hl) _
  · exact debugLock_only h (List.Subset.trans (by decide) hl) _
  · exact zeroiseReq_only h (List.Subset.trans (by decide) hl) _
  · exact decommission_only h (List.Subset.trans (by decide) hl) _
  · exact selftest_only h (List.Subset.trans (by decide) hl) _
  · exact ledgerQuery_only h (List.Subset.trans (by decide) hl) _
  · exact attestReport_only h (List.Subset.trans (by decide) hl) _
  · exact attestLog_only h (List.Subset.trans (by decide) hl) _
  · exact sealKeygen_only h (List.Subset.trans (by decide) hl) _
  · exact sealInstall_only h (List.Subset.trans (by decide) hl) _
  · exact sealDrop_only h (List.Subset.trans (by decide) hl) _
  · exact measureImage_only h (List.Subset.trans (by decide) hl) _
  · exact queueRebind_only h (List.Subset.trans (by decide) hl) _
  · exact accEvents_only h (List.Subset.trans (by decide) hl) _
  · exact accRecords_only h (List.Subset.trans (by decide) hl) _
  · exact orphanClear_only h (List.Subset.trans (by decide) hl) _
  · exact pkgReset_only h (List.Subset.trans (by decide) hl) _
theorem State.askInside_only (h : Only L s0 s) (hl : [Part.out] ⊆ L) (id : U32) (tag : U16) (payload : List Byte) (body : Req → State → State)
    (hb : ∀ m t, Only L s0 t → Only L s0 (body m t)) : Only L s0 (State.askInside s id tag payload body) := by
  unfold State.askInside
  refine State.inSession_only h hl _ _ (fun x t ht => ?_)
  split
  · exact hb _ _ ht
  · exact State.spdmError_only ht hl _ _
theorem State.ask_only (h : Only L s0 s) (hl : [Part.out] ⊆ L) (id : Option U32) (m : MbReq) (body : Req → State → State)
    (hb : ∀ m t, Only L s0 t → Only L s0 (body m t)) : Only L s0 (State.ask s id m body) := by
  unfold State.ask
  split
  · exact hb _ _ h
  · exact State.askInside_only h hl _ _ _ _ hb
theorem vendorDefined_only (h : Only L s0 s) (hl : [Part.gtb, Part.gates, Part.yard, Part.pf, Part.vf, Part.history, Part.out, Part.hostMem, Part.clusters, Part.stalls, Part.hbm, Part.poison, Part.lineSlot, Part.mee, Part.prot, Part.power, Part.acct, Part.rsv, Part.rg, Part.tl, Part.side, Part.sessions, Part.free] ⊆ L) (id : U32) (op : U16) (tag : U16) (payload : List Byte) :
    Only L s0 (vendorDefined id op tag payload s) := by
  unfold vendorDefined
  refine State.askInside_only h (List.Subset.trans (by decide) hl) _ _ _ _ (fun m t ht => ?_)
  split
  · rename_i e
    exact mailboxOf_only ht (List.Subset.trans (by decide) hl) _ _ _ e
  · exact State.mbAnswer_only ht (List.Subset.trans (by decide) hl) _ _ _

end Sys2Proof.Machine
end

