-- ==== Sys2Proof/Laws/Registers.lean ====
section
/-! SUPPORT. Machine/Registers.lean: what each of its operations keeps, and the parts it changes. -/

namespace Sys2Proof.Machine

variable {L : List Part} {s0 s : State}

theorem State.setMsix_only (h : Only L s0 s) (hl : [Part.pf, Part.vf] ⊆ L) (f : Fn) (g : Msix → Msix) :
    Only L s0 (State.setMsix s f g) := by
  unfold State.setMsix
  split
  · refine State.setPf_only ?_ (List.Subset.trans (by decide) hl) _ _
    exact h
  · refine State.setVf_only ?_ (List.Subset.trans (by decide) hl) _ _ _
    exact h
  · exact h
theorem State.msixFlush_only (h : Only L s0 s) (hl : [Part.pf, Part.vf, Part.out] ⊆ L) (f : Fn) :
    Only L s0 (State.msixFlush s f) := by
  unfold State.msixFlush
  extract_lets +onlyGivenNames x1
  extract_lets +onlyGivenNames x2
  refine forAll_only ?_ _ _ ?_
  · exact h
  · intro x3
    intro x4
    intro h5
    refine State.emit_only ?_ (List.Subset.trans (by decide) hl) _
    refine State.setMsix_only ?_ (List.Subset.trans (by decide) hl) _ _
    exact h5
theorem msixWrite_only (h : Only L s0 s) (hl : [Part.pf, Part.vf, Part.out] ⊆ L) (f : Fn) (o : Nat) (v : U32) :
    Only L s0 (msixWrite f o v s) := by
  unfold msixWrite
  refine State.msixFlush_only ?_ (List.Subset.trans (by decide) hl) _
  refine State.setMsix_only ?_ (List.Subset.trans (by decide) hl) _ _
  exact h
theorem msixControlWrite_only (h : Only L s0 s) (hl : [Part.pf, Part.vf, Part.out] ⊆ L) (f : Fn) (v : U32) :
    Only L s0 (msixControlWrite f v s) := by
  unfold msixControlWrite
  refine State.msixFlush_only ?_ (List.Subset.trans (by decide) hl) _
  refine State.setMsix_only ?_ (List.Subset.trans (by decide) hl) _ _
  exact h
theorem mailboxGo_only (h : Only L s0 s) (hl : [Part.gtb, Part.gates, Part.yard, Part.pf, Part.vf, Part.history, Part.out, Part.hostMem, Part.clusters, Part.stalls, Part.hbm, Part.poison, Part.lineSlot, Part.mee, Part.prot, Part.power, Part.acct, Part.rsv, Part.rg, Part.tl, Part.side, Part.sessions, Part.free] ⊆ L) (f : Fn) :
    Only L s0 (mailboxGo f s) := by
  unfold mailboxGo
  extract_lets r m
  split
  · rename_i e
    exact mailboxOf_only h (List.Subset.trans (by decide) hl) _ _ _ e
  · have hx := State.mbGo_only (L := L) h (List.Subset.trans (by decide) hl) m (f16 r 0)
    split
    · exact State.mbAnswer_only hx (List.Subset.trans (by decide) hl) _ _ _
    · exact hx
theorem mailboxWrite_only (h : Only L s0 s) (hl : [Part.gtb, Part.gates, Part.yard, Part.pf, Part.vf, Part.history, Part.out, Part.hostMem, Part.clusters, Part.stalls, Part.hbm, Part.poison, Part.lineSlot, Part.mee, Part.prot, Part.power, Part.acct, Part.rsv, Part.rg, Part.tl, Part.side, Part.sessions, Part.free] ⊆ L) (f : Fn) (o : Nat) (v : U32) :
    Only L s0 (mailboxWrite f o v s) := by
  unfold mailboxWrite
  refine Only.ite ?_ ?_
  · refine Only.ite ?_ ?_
    · refine mailboxGo_only ?_ (List.Subset.trans (by decide) hl) _
      exact h
    · exact h
  · refine Only.ite ?_ ?_
    · refine State.setMb_only ?_ (List.Subset.trans (by decide) hl) _ _
      exact h
    · refine Only.ite ?_ ?_
      · refine State.setMb_only ?_ (List.Subset.trans (by decide) hl) _ _
        exact h
      · exact h
theorem tickWrite_only (h : Only L s0 s) (hl : [Part.gates, Part.ticks, Part.free] ⊆ L) (byRtp : Bool) (n : Fin 32) (o : Nat) (v : U32) :
    Only L s0 (tickWrite byRtp n o v s) := by
  unfold tickWrite
  refine Only.ite ?_ ?_
  · exact h
  · split
    · refine gateCmpLoWrite_only ?_ (List.Subset.trans (by decide) hl) _ _
      exact h
    · refine gateCmpHiWrite_only ?_ (List.Subset.trans (by decide) hl) _ _ _
      exact h
    · refine State.setTick_only ?_ (List.Subset.trans (by decide) hl) _ _
      exact h
    · refine State.setTick_only ?_ (List.Subset.trans (by decide) hl) _ _
      exact h
    · extract_lets +onlyGivenNames x1
      have hx1 : Only L s0 x1 := by
        unfold x1
        refine State.setTick_only ?_ (List.Subset.trans (by decide) hl) _ _
        exact h
      clear_value x1
      refine Only.ite ?_ ?_
      · refine tickChannelArm_only ?_ (List.Subset.trans (by decide) hl) _ _
        exact hx1
      · exact hx1
    · refine State.setTick_only ?_ (List.Subset.trans (by decide) hl) _ _
      exact h
    · exact h
theorem captureWrite_only (h : Only L s0 s) (hl : [Part.caps] ⊆ L) (n : Fin 8) (o : Nat) (v : U32) :
    Only L s0 (captureWrite n o v s) := by
  unfold captureWrite
  split
  · refine State.setCap_only ?_ (List.Subset.trans (by decide) hl) _ _
    exact h
  · refine capStuckClear_only ?_ (List.Subset.trans (by decide) hl) _ _ _
    refine State.setCap_only ?_ (List.Subset.trans (by decide) hl) _ _
    exact h
  · refine State.setCap_only ?_ (List.Subset.trans (by decide) hl) _ _
    exact h
  · exact h
theorem timerWrite_only (h : Only L s0 s) (hl : [Part.timers] ⊆ L) (n : Fin 16) (o : Nat) (v : U32) :
    Only L s0 (timerWrite n o v s) := by
  unfold timerWrite
  split
  · refine State.setTimer_only ?_ (List.Subset.trans (by decide) hl) _ _
    exact h
  · refine State.setTimer_only ?_ (List.Subset.trans (by decide) hl) _ _
    exact h
  · refine State.setTimer_only ?_ (List.Subset.trans (by decide) hl) _ _
    exact h
  · refine State.setTimer_only ?_ (List.Subset.trans (by decide) hl) _ _
    exact h
  · refine rtTrigWrite_only ?_ (List.Subset.trans (by decide) hl) _ _
    exact h
  · refine State.setTimer_only ?_ (List.Subset.trans (by decide) hl) _ _
    exact h
  · exact h
theorem syncOutWrite_only (h : Only L s0 s) (hl : [Part.outs] ⊆ L) (n : Fin 4) (o : Nat) (v : U32) :
    Only L s0 (syncOutWrite n o v s) := by
  unfold syncOutWrite
  split
  · refine State.setOut_only ?_ (List.Subset.trans (by decide) hl) _ _
    exact h
  · refine State.setOut_only ?_ (List.Subset.trans (by decide) hl) _ _
    exact h
  · exact h
theorem gtbWrite_only (h : Only L s0 s) (hl : [Part.gtb, Part.gates, Part.ticks, Part.caps, Part.timers, Part.outs, Part.pf, Part.out, Part.free] ⊆ L) (byRtp : Bool) (o : Nat) (v : U32) :
    Only L s0 (gtbWrite byRtp o v s) := by
  unfold gtbWrite
  refine Only.ite ?_ ?_
  · refine servoAutoWrite_only ?_ (List.Subset.trans (by decide) hl) _
    exact h
  · refine Only.ite ?_ ?_
    · refine Only.gtb ?_ _ (hl (by decide))
      exact h
    · refine Only.ite ?_ ?_
      · refine gtbTrimWrite_only ?_ (List.Subset.trans (by decide) hl) _
        exact h
      · extract_lets +onlyGivenNames x1
        refine Only.dite ?_ ?_
        · intro x2
          refine tickWrite_only ?_ (List.Subset.trans (by decide) hl) _ _ _ _
          exact h
        · intro x3
          refine Only.dite ?_ ?_
          · intro x4
            refine captureWrite_only ?_ (List.Subset.trans (by decide) hl) _ _ _
            exact h
          · intro x5
            refine Only.dite ?_ ?_
            · intro x6
              refine timerWrite_only ?_ (List.Subset.trans (by decide) hl) _ _ _
              exact h
            · intro x7
              refine Only.dite ?_ ?_
              · intro x8
                refine syncOutWrite_only ?_ (List.Subset.trans (by decide) hl) _ _ _
                exact h
              · intro x9
                exact h
theorem hlWrite_only (h : Only L s0 s) (hl : [Part.pf, Part.vf, Part.out] ⊆ L) (p : HostPort) (o : Nat) (v : U32) :
    Only L s0 (hlWrite p o v s) := by
  unfold hlWrite
  refine Only.ite ?_ ?_
  · refine State.setPf_only ?_ (List.Subset.trans (by decide) hl) _ _
    exact h
  · refine Only.ite ?_ ?_
    · refine causeEnableWrite_only ?_ (List.Subset.trans (by decide) hl) _ _
      exact h
    · refine Only.ite ?_ ?_
      · refine State.setPf_only ?_ (List.Subset.trans (by decide) hl) _ _
        exact h
      · refine Only.ite ?_ ?_
        · refine msixWrite_only ?_ (List.Subset.trans (by decide) hl) _ _ _
          exact h
        · exact h
theorem ypWrite_only (h : Only L s0 s) (hl : [Part.yard] ⊆ L) (o : Nat) (v : U32) :
    Only L s0 (ypWrite o v s) := by
  unfold ypWrite
  refine Only.ite ?_ ?_
  · refine Only.yard ?_ _ (hl (by decide))
    exact h
  · exact h
theorem rgWrite_only (h : Only L s0 s) (hl : [Part.stalls, Part.rg] ⊆ L) (o : Nat) (v : U32) :
    Only L s0 (rgWrite o v s) := by
  unfold rgWrite
  refine Only.ite ?_ ?_
  · refine rgUrgWrite_only ?_ (List.Subset.trans (by decide) hl) _ _
    exact h
  · refine Only.ite ?_ ?_
    · refine rgUrgWrite_only ?_ (List.Subset.trans (by decide) hl) _ _
      exact h
    · extract_lets +onlyGivenNames x1
      extract_lets +onlyGivenNames x2
      refine Only.dite ?_ ?_
      · intro x3
        refine rgDutyWrite_only ?_ (List.Subset.trans (by decide) hl) _ _ _
        exact h
      · intro x4
        exact h
theorem tlWrite_only (h : Only L s0 s) (hl : [Part.pkg, Part.gtb, Part.pf, Part.vf, Part.history, Part.out, Part.hostMem, Part.stalls, Part.hbm, Part.poison, Part.lineSlot, Part.mee, Part.prot, Part.power, Part.rg, Part.tl, Part.sessions, Part.free] ⊆ L) (o : Nat) (v : U32) :
    Only L s0 (tlWrite o v s) := by
  unfold tlWrite
  refine Only.ite ?_ ?_
  · refine Only.tl ?_ _ (hl (by decide))
    exact h
  · extract_lets +onlyGivenNames x1
    refine Only.dite ?_ ?_
    · intro x2
      refine Only.ite ?_ ?_
      · exact h
      · split
        · refine tlPCtlWrite_only ?_ (List.Subset.trans (by decide) hl) _ _
          exact h
        · refine tlPAsymWrite_only ?_ (List.Subset.trans (by decide) hl) _ _
          exact h
        · exact h
    · intro x3
      exact h
theorem rsvWrite_only (h : Only L s0 s) (hl : [Part.rsv] ⊆ L) (o : Nat) (v : U32) :
    Only L s0 (rsvWrite o v s) := by
  unfold rsvWrite
  refine Only.ite ?_ ?_
  · refine Only.rsv ?_ _ (hl (by decide))
    exact h
  · refine Only.ite ?_ ?_
    · refine rsvCtlWrite_only ?_ (List.Subset.trans (by decide) hl) _
      exact h
    · exact h
theorem pwrWrite_only (h : Only L s0 s) (hl : [Part.power] ⊆ L) (o : Nat) (v : U32) :
    Only L s0 (pwrWrite o v s) := by
  unfold pwrWrite
  split
  · refine pwrCtlWrite_only ?_ (List.Subset.trans (by decide) hl) _
    exact h
  · refine Only.power ?_ _ (hl (by decide))
    exact h
  · refine Only.power ?_ _ (hl (by decide))
    exact h
  · exact h
theorem muWrite_only (h : Only L s0 s) (hl : [Part.side] ⊆ L) (o : Nat) (v : U32) :
    Only L s0 (muWrite o v s) := by
  unfold muWrite
  extract_lets +onlyGivenNames x1
  split
  · refine Only.ite ?_ ?_
    · exact h
    · refine State.setMu_only ?_ (List.Subset.trans (by decide) hl) _
      exact h
  · refine Only.ite ?_ ?_
    · exact h
    · refine State.setMu_only ?_ (List.Subset.trans (by decide) hl) _
      exact h
  · refine State.setMu_only ?_ (List.Subset.trans (by decide) hl) _
    exact h
  · refine Only.ite ?_ ?_
    · exact h
    · refine State.setMu_only ?_ (List.Subset.trans (by decide) hl) _
      exact h
  · refine State.setMu_only ?_ (List.Subset.trans (by decide) hl) _
    exact h
  · exact h
theorem pfWrite_only (h : Only L s0 s) (hl : [Part.pkg, Part.gtb, Part.gates, Part.ticks, Part.caps, Part.timers, Part.outs, Part.yard, Part.pf, Part.vf, Part.history, Part.out, Part.hostMem, Part.clusters, Part.stalls, Part.hbm, Part.poison, Part.lineSlot, Part.mee, Part.prot, Part.power, Part.acct, Part.rsv, Part.rg, Part.tl, Part.side, Part.sessions, Part.free] ⊆ L) (p : Option HostPort) (o : Nat) (v : U32) :
    Only L s0 (pfWrite p o v s) := by
  unfold pfWrite
  refine Only.ite ?_ ?_
  · exact h
  · refine Only.ite ?_ ?_
    · refine Only.elim ?_ (fun x hx => ?_)
      · exact h
      · refine hlWrite_only ?_ (List.Subset.trans (by decide) hl) _ _ _
        exact h
    · refine Only.ite ?_ ?_
      · refine gtbWrite_only ?_ (List.Subset.trans (by decide) hl) _ _ _
        exact h
      · refine Only.ite ?_ ?_
        · refine ypWrite_only ?_ (List.Subset.trans (by decide) hl) _ _
          exact h
        · refine Only.ite ?_ ?_
          · refine rgWrite_only ?_ (List.Subset.trans (by decide) hl) _ _
            exact h
          · refine Only.ite ?_ ?_
            · refine tlWrite_only ?_ (List.Subset.trans (by decide) hl) _ _
              exact h
            · refine Only.ite ?_ ?_
              · exact h
              · refine Only.ite ?_ ?_
                · refine rsvWrite_only ?_ (List.Subset.trans (by decide) hl) _ _
                  exact h
                · refine Only.ite ?_ ?_
                  · refine pwrWrite_only ?_ (List.Subset.trans (by decide) hl) _ _
                    exact h
                  · refine Only.ite ?_ ?_
                    · refine muWrite_only ?_ (List.Subset.trans (by decide) hl) _ _
                      exact h
                    · refine Only.elim ?_ (fun x hx => ?_)
                      · exact h
                      · refine mailboxWrite_only ?_ (List.Subset.trans (by decide) hl) _ _ _
                        exact h
theorem gateSlotWrite_only (h : Only L s0 s) (hl : [Part.gates, Part.ticks, Part.free] ⊆ L) (n : StallNo) (g : Fin 64) (o : Nat) (v : U32) :
    Only L s0 (gateSlotWrite n g o v s) := by
  unfold gateSlotWrite
  split
  · refine gateCmpLoWrite_only ?_ (List.Subset.trans (by decide) hl) _ _
    exact h
  · refine gateCmpHiWrite_only ?_ (List.Subset.trans (by decide) hl) _ _ _
    exact h
  · refine gatePrerollWrite_only ?_ (List.Subset.trans (by decide) hl) _ _ _
    exact h
  · refine Only.ite ?_ ?_
    · refine gateCtl_only ?_ (List.Subset.trans (by decide) hl) _ _ _
      exact h
    · refine Only.ite ?_ ?_
      · refine gateCtl_only ?_ (List.Subset.trans (by decide) hl) _ _ _
        exact h
      · refine Only.ite ?_ ?_
        · refine gateCtl_only ?_ (List.Subset.trans (by decide) hl) _ _ _
          exact h
        · exact h
  · refine onGate_only ?_ _ _ _ ?_
    · exact h
    · intro x1
      intro x2
      intro h3
      refine State.setGate_only ?_ (List.Subset.trans (by decide) hl) _ _
      exact h3
  · exact h
theorem slotWrite_only (h : Only L s0 s) (hl : [Part.gtb, Part.pf, Part.vf, Part.history, Part.out, Part.hostMem, Part.clusters, Part.stalls, Part.hbm, Part.poison, Part.lineSlot, Part.mee, Part.power, Part.acct, Part.tl, Part.side, Part.sessions, Part.free] ⊆ L) (p : HostPort) (n : StallNo) (o : Nat) (v : U32) :
    Only L s0 (slotWrite p n o v s) := by
  unfold slotWrite
  split
  · exact h
  · split
    · refine doorbell_only ?_ (List.Subset.trans (by decide) hl) _ _ _
      exact h
    · refine consumedWrite_only ?_ (List.Subset.trans (by decide) hl) _ _
      exact h
    · exact h
theorem hostAttachWrite_only (h : Only L s0 s) (hl : [Part.pf, Part.vf, Part.out] ⊆ L) (p : HostPort) (n : StallNo) (o : Nat) (v : U32) :
    Only L s0 (hostAttachWrite p n o v s) := by
  unfold hostAttachWrite
  split
  · refine State.setVf_only ?_ (List.Subset.trans (by decide) hl) _ _ _
    exact h
  · refine causeEnableWrite_only ?_ (List.Subset.trans (by decide) hl) _ _
    exact h
  · refine State.setVf_only ?_ (List.Subset.trans (by decide) hl) _ _ _
    exact h
  · refine State.setVf_only ?_ (List.Subset.trans (by decide) hl) _ _ _
    exact h
  · exact h
theorem vfWrite_only (h : Only L s0 s) (hl : [Part.gtb, Part.gates, Part.ticks, Part.yard, Part.pf, Part.vf, Part.history, Part.out, Part.hostMem, Part.clusters, Part.stalls, Part.hbm, Part.poison, Part.lineSlot, Part.mee, Part.prot, Part.power, Part.acct, Part.rsv, Part.rg, Part.tl, Part.side, Part.sessions, Part.free] ⊆ L) (p : HostPort) (n : StallNo) (o : Nat) (v : U32) :
    Only L s0 (vfWrite p n o v s) := by
  unfold vfWrite
  refine Only.ite ?_ ?_
  · exact h
  · refine Only.ite ?_ ?_
    · refine Only.dite ?_ ?_
      · intro x1
        refine gateSlotWrite_only ?_ (List.Subset.trans (by decide) hl) _ _ _ _
        exact h
      · intro x2
        exact h
    · refine Only.ite ?_ ?_
      · refine slotWrite_only ?_ (List.Subset.trans (by decide) hl) _ _ _ _
        exact h
      · refine Only.ite ?_ ?_
        · exact h
        · refine Only.ite ?_ ?_
          · refine mailboxWrite_only ?_ (List.Subset.trans (by decide) hl) _ _ _
            exact h
          · refine Only.ite ?_ ?_
            · refine msixWrite_only ?_ (List.Subset.trans (by decide) hl) _ _ _
              exact h
            · refine Only.ite ?_ ?_
              · refine hostAttachWrite_only ?_ (List.Subset.trans (by decide) hl) _ _ _ _
                exact h
              · exact h
theorem registerWrite_only (h : Only L s0 s) (hl : [Part.pkg, Part.gtb, Part.gates, Part.ticks, Part.caps, Part.timers, Part.outs, Part.yard, Part.pf, Part.vf, Part.history, Part.out, Part.hostMem, Part.clusters, Part.stalls, Part.hbm, Part.poison, Part.lineSlot, Part.mee, Part.prot, Part.power, Part.acct, Part.rsv, Part.rg, Part.tl, Part.side, Part.sessions, Part.free] ⊆ L) (f : Fn) (r : RegAt) (v : U32) :
    Only L s0 (registerWrite f r v s) := by
  unfold registerWrite
  refine Only.ite ?_ ?_
  · exact h
  · split
    · refine msixControlWrite_only ?_ (List.Subset.trans (by decide) hl) _ _
      exact h
    · refine pfWrite_only ?_ (List.Subset.trans (by decide) hl) _ _ _
      refine State.barWrite_only ?_ (List.Subset.trans (by decide) hl)
      exact h
    · refine vfWrite_only ?_ (List.Subset.trans (by decide) hl) _ _ _ _
      refine State.barWrite_only ?_ (List.Subset.trans (by decide) hl)
      exact h
    · refine pfWrite_only ?_ (List.Subset.trans (by decide) hl) _ _ _
      exact h
theorem State.pfReadClear_only (h : Only L s0 s) (hl : [Part.ticks, Part.mee, Part.power, Part.rg, Part.tl, Part.side] ⊆ L) (o : Nat) :
    ∀ t, State.pfReadClear s o = some t → Only L s0 t.2 := by
  intro t e
  unfold State.pfReadClear at e
  dsimp only at e
  repeat' split at e
  · cases e; exact State.setTick_only h (List.Subset.trans (by decide) hl) _ _
  · cases e; exact Only.rg h _ (hl (by decide))
  · obtain ⟨r, -, rfl⟩ := Option.map_eq_some_iff.mp e; exact State.setTlp_only h (List.Subset.trans (by decide) hl) _ _
  · obtain ⟨r, -, rfl⟩ := Option.map_eq_some_iff.mp e; exact Only.mee h _ (hl (by decide))
  · cases e; exact Only.power h _ (hl (by decide))
  · obtain ⟨r, -, rfl⟩ := Option.map_eq_some_iff.mp e; exact Only.power h _ (hl (by decide))
  · obtain ⟨r, -, rfl⟩ := Option.map_eq_some_iff.mp e; exact State.setMu_only h (List.Subset.trans (by decide) hl) (fun _ => r.2)
  · cases e
theorem State.vfReadClear_only (h : Only L s0 s) (hl : [Part.stalls] ⊆ L) (n : Nat) (o : Nat) :
    ∀ t, State.vfReadClear s n o = some t → Only L s0 t.2 := by
  intro t e
  unfold State.vfReadClear at e
  split at e
  · obtain ⟨r, -, rfl⟩ := Option.map_eq_some_iff.mp e; exact State.setStall_only h (List.Subset.trans (by decide) hl) _ _
  · cases e
theorem pfLatchRead_only (h : Only L s0 s) (hl : [Part.pf, Part.vf, Part.rtpLat, Part.out] ⊆ L) (f : Fn) (o : Nat) :
    ∀ t, pfLatchRead f o s = some t → Only L s0 t := by
  intro t e
  unfold pfLatchRead at e
  dsimp only at e
  repeat' split at e
  all_goals cases e
  · exact gtbNowLoRead_only h (List.Subset.trans (by decide) hl) _
  · exact capLoRead_only h (List.Subset.trans (by decide) hl) _ _ _
  · exact capLoRead_only h (List.Subset.trans (by decide) hl) _ _ _
  · exact capLoRead_only h (List.Subset.trans (by decide) hl) _ _ _
  · exact dlvCounterRead_only h (List.Subset.trans (by decide) hl) _ _ _
theorem vfLatchRead_only (h : Only L s0 s) (hl : [Part.pf, Part.vf, Part.rtpLat, Part.out] ⊆ L) (p : HostPort) (n : StallNo) (o : Nat) :
    ∀ t, vfLatchRead p n o s = some t → Only L s0 t := by
  intro t e
  unfold vfLatchRead at e
  repeat' split at e
  · cases e; exact gtbNowLoRead_only h (List.Subset.trans (by decide) hl) _
  · obtain ⟨r, -, rfl⟩ := Option.map_eq_some_iff.mp e; exact qdbAsnLoRead_only h (List.Subset.trans (by decide) hl) _ _
  · cases e; exact dlvCounterRead_only h (List.Subset.trans (by decide) hl) _ _ _
  · cases e
theorem readToClear_only (h : Only L s0 s) (hl : [Part.ticks, Part.pf, Part.vf, Part.rtpLat, Part.out, Part.stalls, Part.mee, Part.power, Part.rg, Part.tl, Part.side] ⊆ L) (f : Fn) (o : Nat) :
    Only L s0 (readToClear f o s) := by
  unfold readToClear
  split
  · exact h
  · extract_lets plain r
    have hp : ∀ v l, (∀ t, l = some t → Only L s0 t) → Only L s0 (plain v l) := fun v l hq =>
      Only.getD hq (State.answer_only h (List.Subset.trans (by decide) hl) _ _ _)
    have hr : ∀ v u, r = some (v, u) → Only L s0 u := by
      intro v u e
      unfold r at e
      split at e
      · exact State.vfReadClear_only h (List.Subset.trans (by decide) hl) _ _ _ e
      · exact State.pfReadClear_only h (List.Subset.trans (by decide) hl) _ _ e
    clear_value r plain
    split
    · exact State.answer_only (hr _ _ rfl) (List.Subset.trans (by decide) hl) _ _ _
    · exact hp _ _ (vfLatchRead_only h (List.Subset.trans (by decide) hl) _ _ _)
    · exact hp _ _ (pfLatchRead_only h (List.Subset.trans (by decide) hl) _ _)
    · exact hp _ _ (pfLatchRead_only h (List.Subset.trans (by decide) hl) _ _)
theorem readWide_only (h : Only L s0 s) (hl : [Part.ticks, Part.pf, Part.vf, Part.rtpLat, Part.out, Part.stalls, Part.mee, Part.power, Part.rg, Part.tl, Part.side] ⊆ L) (f : Fn) (o : Nat) :
    Only L s0 (readWide f o s) := by
  unfold readWide
  split
  · exact h
  · split
    · exact State.answer_only h (List.Subset.trans (by decide) hl) _ _ _
    · exact readToClear_only (readToClear_only h hl _ _) hl _ _

end Sys2Proof.Machine
end

