-- ==== Sys2Proof/Laws/Sideband.lean ====
section
/-! SUPPORT. Machine/Sideband.lean: what each of its operations keeps, and the parts it changes. -/

namespace Sys2Proof.Machine

variable {L : List Part} {s0 s : State}

theorem State.onI3c_only (h : Only L s0 s) (hl : [Part.power] ⊆ L) (f : State → State) (hf : ∀ t, Only L s0 t → Only L s0 (f t)) :
    Only L s0 (State.onI3c s f) := by
  unfold State.onI3c
  refine Only.ite ?_ ?_
  · refine hf _ ?_
    refine State.noteWake_only ?_ (List.Subset.trans (by decide) hl) _
    exact h
  · exact h
theorem State.setSide_only (h : Only L s0 s) (hl : [Part.side] ⊆ L) (f : Sideband → Sideband) :
    Only L s0 (State.setSide s f) := by
  unfold State.setSide
  refine Only.side ?_ _ (hl (by decide))
  exact h
theorem State.i3cRead_only (h : Only L s0 s) (hl : [Part.out] ⊆ L) (l : List Byte) :
    Only L s0 (State.i3cRead s l) := by
  unfold State.i3cRead
  refine State.emit_only ?_ (List.Subset.trans (by decide) hl) _
  exact h
theorem entdaa_only (h : Only L s0 s) (hl : [Part.out, Part.power, Part.side] ⊆ L) (a : BitVec 7) :
    Only L s0 (entdaa a s) := by
  unfold entdaa
  refine State.onI3c_only ?_ (List.Subset.trans (by decide) hl) _ ?_
  · exact h
  · intro x1
    intro h2
    refine Only.ite ?_ ?_
    · exact h2
    · refine State.setSide_only ?_ (List.Subset.trans (by decide) hl) _
      refine State.i3cRead_only ?_ (List.Subset.trans (by decide) hl) _
      exact h2
theorem setdasa_only (h : Only L s0 s) (hl : [Part.power, Part.side] ⊆ L) (a : BitVec 7) :
    Only L s0 (setdasa a s) := by
  unfold setdasa
  refine State.onI3c_only ?_ (List.Subset.trans (by decide) hl) _ ?_
  · exact h
  · intro x1
    intro h2
    refine Only.ite ?_ ?_
    · exact h2
    · refine State.setSide_only ?_ (List.Subset.trans (by decide) hl) _
      exact h2
theorem rstdaa_only (h : Only L s0 s) (hl : [Part.power, Part.side] ⊆ L) :
    Only L s0 (rstdaa s) := by
  unfold rstdaa
  refine State.onI3c_only ?_ (List.Subset.trans (by decide) hl) _ ?_
  · exact h
  · intro x1
    intro h2
    refine State.setSide_only ?_ (List.Subset.trans (by decide) hl) _
    exact h2
theorem enec_only (h : Only L s0 s) (hl : [Part.power, Part.side] ⊆ L) (v : Byte) :
    Only L s0 (enec v s) := by
  unfold enec
  refine State.onI3c_only ?_ (List.Subset.trans (by decide) hl) _ ?_
  · exact h
  · intro x1
    intro h2
    refine State.setSide_only ?_ (List.Subset.trans (by decide) hl) _
    exact h2
theorem disec_only (h : Only L s0 s) (hl : [Part.power, Part.side] ⊆ L) (v : Byte) :
    Only L s0 (disec v s) := by
  unfold disec
  refine State.onI3c_only ?_ (List.Subset.trans (by decide) hl) _ ?_
  · exact h
  · intro x1
    intro h2
    refine State.setSide_only ?_ (List.Subset.trans (by decide) hl) _
    exact h2
theorem getpid_only (h : Only L s0 s) (hl : [Part.out, Part.power] ⊆ L) :
    Only L s0 (getpid s) := by
  unfold getpid
  refine State.onI3c_only ?_ (List.Subset.trans (by decide) hl) _ ?_
  · exact h
  · intro x1
    intro h2
    refine State.i3cRead_only ?_ (List.Subset.trans (by decide) hl) _
    exact h2
theorem getbcr_only (h : Only L s0 s) (hl : [Part.out, Part.power] ⊆ L) :
    Only L s0 (getbcr s) := by
  unfold getbcr
  refine State.onI3c_only ?_ (List.Subset.trans (by decide) hl) _ ?_
  · exact h
  · intro x1
    intro h2
    refine State.i3cRead_only ?_ (List.Subset.trans (by decide) hl) _
    exact h2
theorem getdcr_only (h : Only L s0 s) (hl : [Part.out, Part.power] ⊆ L) :
    Only L s0 (getdcr s) := by
  unfold getdcr
  refine State.onI3c_only ?_ (List.Subset.trans (by decide) hl) _ ?_
  · exact h
  · intro x1
    intro h2
    refine State.i3cRead_only ?_ (List.Subset.trans (by decide) hl) _
    exact h2
theorem getstatus_only (h : Only L s0 s) (hl : [Part.out, Part.power, Part.free] ⊆ L) :
    Only L s0 (getstatus s) := by
  unfold getstatus
  refine State.onI3c_only ?_ (List.Subset.trans (by decide) hl) _ ?_
  · exact h
  · intro x1
    intro h2
    extract_lets +onlyGivenNames x3
    have hx3 : Only L s0 x3.2 := by
      unfold x3
      refine State.draw_only ?_ (List.Subset.trans (by decide) hl) _
      exact h2
    clear_value x3
    refine State.i3cRead_only ?_ (List.Subset.trans (by decide) hl) _
    exact hx3
theorem getmxds_only (h : Only L s0 s) (hl : [Part.out, Part.power, Part.free] ⊆ L) :
    Only L s0 (getmxds s) := by
  unfold getmxds
  refine State.onI3c_only ?_ (List.Subset.trans (by decide) hl) _ ?_
  · exact h
  · intro x1
    intro h2
    extract_lets +onlyGivenNames x3
    have hx3 : Only L s0 x3.2 := by
      unfold x3
      refine State.draw_only ?_ (List.Subset.trans (by decide) hl) _
      exact h2
    clear_value x3
    refine State.i3cRead_only ?_ (List.Subset.trans (by decide) hl) _
    exact hx3
theorem getmwl_only (h : Only L s0 s) (hl : [Part.out, Part.power] ⊆ L) :
    Only L s0 (getmwl s) := by
  unfold getmwl
  refine State.onI3c_only ?_ (List.Subset.trans (by decide) hl) _ ?_
  · exact h
  · intro x1
    intro h2
    refine State.i3cRead_only ?_ (List.Subset.trans (by decide) hl) _
    exact h2
theorem getmrl_only (h : Only L s0 s) (hl : [Part.out, Part.power] ⊆ L) :
    Only L s0 (getmrl s) := by
  unfold getmrl
  refine State.onI3c_only ?_ (List.Subset.trans (by decide) hl) _ ?_
  · exact h
  · intro x1
    intro h2
    refine State.i3cRead_only ?_ (List.Subset.trans (by decide) hl) _
    exact h2
theorem setmwl_only (h : Only L s0 s) (hl : [Part.power] ⊆ L) (a0 : U16) :
    Only L s0 (setmwl a0 s) := by
  unfold setmwl
  refine State.onI3c_only ?_ (List.Subset.trans (by decide) hl) _ ?_
  · exact h
  · intro x1
    intro h2
    dsimp only [id]
    exact h2
theorem setmrl_only (h : Only L s0 s) (hl : [Part.power] ⊆ L) (a0 : U16) :
    Only L s0 (setmrl a0 s) := by
  unfold setmrl
  refine State.onI3c_only ?_ (List.Subset.trans (by decide) hl) _ ?_
  · exact h
  · intro x1
    intro h2
    dsimp only [id]
    exact h2
theorem rstact_only (h : Only L s0 s) (hl : [Part.power] ⊆ L) (a0 : Byte) :
    Only L s0 (rstact a0 s) := by
  unfold rstact
  refine State.onI3c_only ?_ (List.Subset.trans (by decide) hl) _ ?_
  · exact h
  · intro x1
    intro h2
    dsimp only [id]
    exact h2
theorem ibiRetry_only (h : Only L s0 s) (hl : [Part.gtb, Part.timers, Part.outs, Part.matrix, Part.pf, Part.out] ⊆ L) (at' : Nat) :
    Only L s0 (ibiRetry at' s) := by
  unfold ibiRetry
  refine Only.ite ?_ ?_
  · refine State.ibi_only ?_ (List.Subset.trans (by decide) hl)
    refine State.advance_only ?_ (List.Subset.trans (by decide) hl) _
    exact h
  · exact h
theorem State.onMctp_only (h : Only L s0 s) (hl : [Part.power] ⊆ L) (f : State → State) (hf : ∀ t, Only L s0 t → Only L s0 (f t)) :
    Only L s0 (State.onMctp s f) := by
  unfold State.onMctp
  refine State.onI3c_only ?_ (List.Subset.trans (by decide) hl) _ ?_
  · exact h
  · intro x1
    intro h2
    refine Only.ite ?_ ?_
    · refine hf _ ?_
      exact h2
    · exact h2
theorem setEndpointId_only (h : Only L s0 s) (hl : [Part.out, Part.power, Part.side] ⊆ L) (e : Byte) :
    Only L s0 (setEndpointId e s) := by
  unfold setEndpointId
  refine State.onMctp_only ?_ (List.Subset.trans (by decide) hl) _ ?_
  · exact h
  · intro x1
    intro h2
    refine Only.ite ?_ ?_
    · refine State.mctp_only ?_ (List.Subset.trans (by decide) hl) _ _
      exact h2
    · refine State.mctp_only ?_ (List.Subset.trans (by decide) hl) _ _
      refine State.setSide_only ?_ (List.Subset.trans (by decide) hl) _
      exact h2
theorem getEndpointId_only (h : Only L s0 s) (hl : [Part.out, Part.power] ⊆ L) :
    Only L s0 (getEndpointId s) := by
  unfold getEndpointId
  refine State.onMctp_only ?_ (List.Subset.trans (by decide) hl) _ ?_
  · exact h
  · intro x1
    intro h2
    refine State.mctp_only ?_ (List.Subset.trans (by decide) hl) _ _
    exact h2
theorem getEndpointUuid_only (h : Only L s0 s) (hl : [Part.out, Part.power] ⊆ L) :
    Only L s0 (getEndpointUuid s) := by
  unfold getEndpointUuid
  refine State.onMctp_only ?_ (List.Subset.trans (by decide) hl) _ ?_
  · exact h
  · intro x1
    intro h2
    refine State.mctp_only ?_ (List.Subset.trans (by decide) hl) _ _
    exact h2
theorem getMctpVersion_only (h : Only L s0 s) (hl : [Part.out, Part.power] ⊆ L) :
    Only L s0 (getMctpVersion s) := by
  unfold getMctpVersion
  refine State.onMctp_only ?_ (List.Subset.trans (by decide) hl) _ ?_
  · exact h
  · intro x1
    intro h2
    refine State.mctp_only ?_ (List.Subset.trans (by decide) hl) _ _
    exact h2
theorem getMessageTypes_only (h : Only L s0 s) (hl : [Part.out, Part.power] ⊆ L) :
    Only L s0 (getMessageTypes s) := by
  unfold getMessageTypes
  refine State.onMctp_only ?_ (List.Subset.trans (by decide) hl) _ ?_
  · exact h
  · intro x1
    intro h2
    refine State.mctp_only ?_ (List.Subset.trans (by decide) hl) _ _
    exact h2
theorem getTid_only (h : Only L s0 s) (hl : [Part.out, Part.power] ⊆ L) :
    Only L s0 (getTid s) := by
  unfold getTid
  refine State.onMctp_only ?_ (List.Subset.trans (by decide) hl) _ ?_
  · exact h
  · intro x1
    intro h2
    refine State.mctp_only ?_ (List.Subset.trans (by decide) hl) _ _
    exact h2
theorem setTid_only (h : Only L s0 s) (hl : [Part.out, Part.power, Part.side] ⊆ L) (a0 : Byte) :
    Only L s0 (setTid a0 s) := by
  unfold setTid
  refine State.onMctp_only ?_ (List.Subset.trans (by decide) hl) _ ?_
  · exact h
  · intro x1
    intro h2
    refine Only.ite ?_ ?_
    · refine State.mctp_only ?_ (List.Subset.trans (by decide) hl) _ _
      exact h2
    · refine State.mctp_only ?_ (List.Subset.trans (by decide) hl) _ _
      refine State.setSide_only ?_ (List.Subset.trans (by decide) hl) _
      exact h2
theorem getPldmVersion_only (h : Only L s0 s) (hl : [Part.out, Part.power] ⊆ L) (ty : Byte) :
    Only L s0 (getPldmVersion ty s) := by
  unfold getPldmVersion
  refine State.onMctp_only ?_ (List.Subset.trans (by decide) hl) _ ?_
  · exact h
  · intro x1
    intro h2
    refine Only.ite ?_ ?_
    · refine State.mctp_only ?_ (List.Subset.trans (by decide) hl) _ _
      exact h2
    · refine Only.ite ?_ ?_
      · refine State.mctp_only ?_ (List.Subset.trans (by decide) hl) _ _
        exact h2
      · refine State.mctp_only ?_ (List.Subset.trans (by decide) hl) _ _
        exact h2
theorem getPldmTypes_only (h : Only L s0 s) (hl : [Part.out, Part.power] ⊆ L) :
    Only L s0 (getPldmTypes s) := by
  unfold getPldmTypes
  refine State.onMctp_only ?_ (List.Subset.trans (by decide) hl) _ ?_
  · exact h
  · intro x1
    intro h2
    refine State.mctp_only ?_ (List.Subset.trans (by decide) hl) _ _
    exact h2
theorem getPldmCommands_only (h : Only L s0 s) (hl : [Part.out, Part.power] ⊆ L) (ty : Byte) :
    Only L s0 (getPldmCommands ty s) := by
  unfold getPldmCommands
  refine State.onMctp_only ?_ (List.Subset.trans (by decide) hl) _ ?_
  · exact h
  · intro x1
    intro h2
    refine Only.ite ?_ ?_
    · refine State.mctp_only ?_ (List.Subset.trans (by decide) hl) _ _
      exact h2
    · refine Only.ite ?_ ?_
      · refine State.mctp_only ?_ (List.Subset.trans (by decide) hl) _ _
        exact h2
      · refine State.mctp_only ?_ (List.Subset.trans (by decide) hl) _ _
        exact h2
theorem getPdr_only (h : Only L s0 s) (hl : [Part.out, Part.power] ⊆ L) (a0 : U32) :
    Only L s0 (getPdr a0 s) := by
  unfold getPdr
  refine State.onMctp_only ?_ (List.Subset.trans (by decide) hl) _ ?_
  · exact h
  · intro x1
    intro h2
    extract_lets +onlyGivenNames x3
    split
    · refine State.mctp_only ?_ (List.Subset.trans (by decide) hl) _ _
      exact h2
    · extract_lets +onlyGivenNames x4
      refine State.mctp_only ?_ (List.Subset.trans (by decide) hl) _ _
      exact h2
theorem getPdrRepositoryInfo_only (h : Only L s0 s) (hl : [Part.out, Part.power] ⊆ L) :
    Only L s0 (getPdrRepositoryInfo s) := by
  unfold getPdrRepositoryInfo
  refine State.onMctp_only ?_ (List.Subset.trans (by decide) hl) _ ?_
  · exact h
  · intro x1
    intro h2
    refine State.mctp_only ?_ (List.Subset.trans (by decide) hl) _ _
    exact h2
theorem getSensorReading_only (h : Only L s0 s) (hl : [Part.out, Part.power] ⊆ L) (id : U16) :
    Only L s0 (getSensorReading id s) := by
  unfold getSensorReading
  refine State.onMctp_only ?_ (List.Subset.trans (by decide) hl) _ ?_
  · exact h
  · intro x1
    intro h2
    split
    · refine State.mctp_only ?_ (List.Subset.trans (by decide) hl) _ _
      exact h2
    · refine State.mctp_only ?_ (List.Subset.trans (by decide) hl) _ _
      exact h2
theorem getStateSensorReadings_only (h : Only L s0 s) (hl : [Part.out, Part.power] ⊆ L) (id : U16) :
    Only L s0 (getStateSensorReadings id s) := by
  unfold getStateSensorReadings
  refine State.onMctp_only ?_ (List.Subset.trans (by decide) hl) _ ?_
  · exact h
  · intro x1
    intro h2
    split
    · refine State.mctp_only ?_ (List.Subset.trans (by decide) hl) _ _
      exact h2
    · refine State.mctp_only ?_ (List.Subset.trans (by decide) hl) _ _
      exact h2
theorem pollForPlatformEvent_only (h : Only L s0 s) (hl : [Part.out, Part.power, Part.side] ⊆ L) :
    Only L s0 (pollForPlatformEvent s) := by
  unfold pollForPlatformEvent
  refine State.onMctp_only ?_ (List.Subset.trans (by decide) hl) _ ?_
  · exact h
  · intro x1
    intro h2
    split
    · refine State.mctp_only ?_ (List.Subset.trans (by decide) hl) _ _
      exact h2
    · extract_lets +onlyGivenNames x3
      refine State.mctp_only ?_ (List.Subset.trans (by decide) hl) _ _
      refine State.setSide_only ?_ (List.Subset.trans (by decide) hl) _
      exact h2
theorem eventMessageBufferSize_only (h : Only L s0 s) (hl : [Part.out, Part.power, Part.free] ⊆ L) (a0 : U16) :
    Only L s0 (eventMessageBufferSize a0 s) := by
  unfold eventMessageBufferSize
  refine State.onMctp_only ?_ (List.Subset.trans (by decide) hl) _ ?_
  · exact h
  · intro x1
    intro h2
    extract_lets +onlyGivenNames x3
    have hx3 : Only L s0 x3.2 := by
      unfold x3
      refine State.draw_only ?_ (List.Subset.trans (by decide) hl) _
      exact h2
    clear_value x3
    refine State.mctp_only ?_ (List.Subset.trans (by decide) hl) _ _
    exact hx3
theorem State.pldmAct_only (h : Only L s0 s) (hl : [Part.out, Part.power] ⊆ L) (always : Bool) (f : State → State) (hf : ∀ t, Only L s0 t → Only L s0 (f t)) :
    Only L s0 (State.pldmAct s always f) := by
  unfold State.pldmAct
  refine State.onMctp_only ?_ (List.Subset.trans (by decide) hl) _ ?_
  · exact h
  · intro x1
    intro h2
    refine Only.ite ?_ ?_
    · refine State.mctp_only ?_ (List.Subset.trans (by decide) hl) _ _
      exact h2
    · refine hf _ ?_
      exact h2
theorem pldmEnrolConfirm_only (h : Only L s0 s) (hl : [Part.yard, Part.out, Part.power] ⊆ L) (v : U32) :
    Only L s0 (pldmEnrolConfirm v s) := by
  unfold pldmEnrolConfirm
  refine State.pldmAct_only ?_ (List.Subset.trans (by decide) hl) _ _ ?_
  · exact h
  · intro x1
    intro h2
    split
    · refine State.mctp_only ?_ (List.Subset.trans (by decide) hl) _ _
      exact h2
    · refine Only.ite ?_ ?_
      · refine State.mctp_only ?_ (List.Subset.trans (by decide) hl) _ _
        exact h2
      · refine State.mctp_only ?_ (List.Subset.trans (by decide) hl) _ _
        refine State.confirmEnrol_only ?_ (List.Subset.trans (by decide) hl)
        exact h2
theorem pldmDecomConfirm_only (h : Only L s0 s) (hl : [Part.yard, Part.pf, Part.vf, Part.history, Part.out, Part.clusters, Part.stalls, Part.prot, Part.power, Part.rsv, Part.tl, Part.side, Part.sessions] ⊆ L) (v : U32) :
    Only L s0 (pldmDecomConfirm v s) := by
  unfold pldmDecomConfirm
  refine State.pldmAct_only ?_ (List.Subset.trans (by decide) hl) _ _ ?_
  · exact h
  · intro x1
    intro h2
    split
    · refine State.mctp_only ?_ (List.Subset.trans (by decide) hl) _ _
      exact h2
    · refine Only.ite ?_ ?_
      · refine State.mctp_only ?_ (List.Subset.trans (by decide) hl) _ _
        exact h2
      · extract_lets +onlyGivenNames x3
        have hx3 : Only L s0 x3.2 := by
          unfold x3
          refine State.confirmDecom_only ?_ (List.Subset.trans (by decide) hl)
          exact h2
        clear_value x3
        refine State.mctp_only ?_ (List.Subset.trans (by decide) hl) _ _
        exact hx3
theorem pldmResetWarm_only (h : Only L s0 s) (hl : [Part.gates, Part.yard, Part.pf, Part.vf, Part.history, Part.out, Part.hostMem, Part.clusters, Part.stalls, Part.hbm, Part.poison, Part.lineSlot, Part.mee, Part.prot, Part.power, Part.acct, Part.rsv, Part.rg, Part.tl, Part.sessions, Part.free] ⊆ L) :
    Only L s0 (pldmResetWarm s) := by
  unfold pldmResetWarm
  refine State.pldmAct_only ?_ (List.Subset.trans (by decide) hl) _ _ ?_
  · exact h
  · intro x1
    intro h2
    refine Only.ite ?_ ?_
    · refine State.mctp_only ?_ (List.Subset.trans (by decide) hl) _ _
      exact h2
    · refine State.requestWarm_only ?_ (List.Subset.trans (by decide) hl) _
      exact h2
theorem pldmResetCold_only (h : Only L s0 s) (hl : [Part.pf, Part.vf, Part.history, Part.out, Part.power, Part.rsv, Part.side] ⊆ L) :
    Only L s0 (pldmResetCold s) := by
  unfold pldmResetCold
  refine State.pldmAct_only ?_ (List.Subset.trans (by decide) hl) _ _ ?_
  · exact h
  · intro x1
    intro h2
    refine State.requestCold_only ?_ (List.Subset.trans (by decide) hl) _ _
    exact h2
theorem pldmSelftest_only (h : Only L s0 s) (hl : [Part.out, Part.prot, Part.power] ⊆ L) :
    Only L s0 (pldmSelftest s) := by
  unfold pldmSelftest
  refine State.pldmAct_only ?_ (List.Subset.trans (by decide) hl) _ _ ?_
  · exact h
  · intro x1
    intro h2
    refine State.startSelftest_only ?_ (List.Subset.trans (by decide) hl) _
    exact h2
theorem pldmZeroise_only (h : Only L s0 s) (hl : [Part.yard, Part.pf, Part.vf, Part.history, Part.out, Part.clusters, Part.stalls, Part.prot, Part.power, Part.rsv, Part.tl, Part.side, Part.sessions] ⊆ L) :
    Only L s0 (pldmZeroise s) := by
  unfold pldmZeroise
  refine State.pldmAct_only ?_ (List.Subset.trans (by decide) hl) _ _ ?_
  · exact h
  · intro x1
    intro h2
    refine Only.ite ?_ ?_
    · refine State.mctp_only ?_ (List.Subset.trans (by decide) hl) _ _
      exact h2
    · refine State.zeroise_only ?_ (List.Subset.trans (by decide) hl)
      refine Only.prot ?_ _ (hl (by decide))
      exact h2

end Sys2Proof.Machine
end

