-- ==== Sys2Proof/Laws/Exec.lean ====
section
/-! SUPPORT. What each command can do when it answers a next state: it keeps the promises and changes only the parts listed. -/

namespace Sys2Proof.Machine

variable {s y : State}

theorem execRefClockLost_only(e : execRefClockLost s = .next y) :
    Only [.gtb, .pf, .out] s y := by
  cases e
  exact refClockLost_only (Only.refl _ _) (by decide)
theorem execRefClockSwitchBack_only(e : execRefClockSwitchBack s = .next y) :
    Only [.gtb, .timers, .outs, .matrix, .pf, .out] s y := by
  cases e
  exact refClockSwitchBack_only (Only.refl _ _) (by decide)
theorem execGridTick_only (refGood : Bool) (e : execGridTick refGood s = .next y) :
    Only [.gtb, .timers, .outs, .matrix, .marks, .pf, .out, .power] s y := by
  cases e
  exact gridTick_only (Only.refl _ _) (by decide) _
theorem execRegulationWindowStart_only (temps : List Nat) (e : execRegulationWindowStart temps s = .next y) :
    Only [.gtb, .gates, .timers, .outs, .matrix, .marks, .yard, .pf, .vf, .ports, .unreach, .history, .out, .hostMem, .clusters, .stalls, .hbm, .poison, .lineSlot, .mee, .power, .acct, .rsv, .tl, .side, .sessions, .free] s y := by
  cases e
  exact regulationWindowStart_only (Only.refl _ _) (by decide) _
theorem execGtbNowLoRead_only (f : Fn) (e : execGtbNowLoRead f s = .next y) :
    Only [.pf, .vf, .rtpLat, .out] s y := by
  cases e
  exact gtbNowLoRead_only (Only.refl _ _) (by decide) _
theorem execGtbTrimWrite_only (v : U32) (e : execGtbTrimWrite v s = .next y) :
    Only [.gtb, .pf, .out, .power, .side] s y := by
  cases e
  exact gtbTrimWrite_only (State.barWrite_only (Only.refl _ _) (by decide)) (by decide) _
theorem execServoAutoWrite_only (v : Bool) (e : execServoAutoWrite v s = .next y) :
    Only [.gtb, .out, .power, .side] s y := by
  cases e
  exact servoAutoWrite_only (State.barWrite_only (Only.refl _ _) (by decide)) (by decide) _
theorem execTimeAlignment_only(e : execTimeAlignment s = .next y) :
    Only [.gtb, .timers, .outs, .matrix, .pf, .out] s y := by
  cases e
  exact timeAlignment_only (Only.refl _ _) (by decide)
theorem execGateCmpLoWrite_only (t : CmpReg) (v : U32) (e : execGateCmpLoWrite t v s = .next y) :
    Only [.gtb, .gates, .ticks, .out, .power, .side] s y := by
  cases e
  exact gateCmpLoWrite_only (State.barWrite_only (Only.refl _ _) (by decide)) (by decide) _ _
theorem execGateCmpHiWrite_only (t : CmpReg) (hi : U32) (lo : Option U32) (e : execGateCmpHiWrite t hi lo s = .next y) :
    Only [.gtb, .gates, .ticks, .out, .power, .side, .free] s y := by
  cases e
  exact gateCmpHiWrite_only (State.barWrite_only (Only.refl _ _) (by decide)) (by decide) _ _ _
theorem execGatePrerollWrite_only (n : StallNo) (g : Fin 64) (v : U32) (e : execGatePrerollWrite n g v s = .next y) :
    Only [.gtb, .gates, .out, .power, .side] s y := by
  cases e
  exact gatePrerollWrite_only (State.barWrite_only (Only.refl _ _) (by decide)) (by decide) _ _ _
theorem execGateCtlArm_only (n : StallNo) (g : Fin 64) (e : execGateCtlArm n g s = .next y) :
    Only [.gtb, .gates, .out, .power, .side] s y := by
  cases e
  exact gateCtl_only (State.barWrite_only (Only.refl _ _) (by decide)) (by decide) _ _ _
theorem execGateCtlDisarm_only (n : StallNo) (g : Fin 64) (e : execGateCtlDisarm n g s = .next y) :
    Only [.gtb, .gates, .out, .power, .side] s y := by
  cases e
  exact gateCtl_only (State.barWrite_only (Only.refl _ _) (by decide)) (by decide) _ _ _
theorem execGateCtlDisarmArm_only (n : StallNo) (g : Fin 64) (e : execGateCtlDisarmArm n g s = .next y) :
    Only [.gtb, .gates, .out, .power, .side] s y := by
  cases e
  exact gateCtl_only (State.barWrite_only (Only.refl _ _) (by decide)) (by decide) _ _ _
theorem execGateWriteTakesEffect_only (g : GateNo) (e : execGateWriteTakesEffect g s = .next y) :
    Only [.gtb, .gates, .timers, .outs, .matrix, .pf, .out, .stalls, .power, .side] s y := by
  cases e
  exact gateWriteTakesEffect_only (Only.refl _ _) (by decide) _
theorem execGateWaking_only (g : GateNo) (e : execGateWaking g s = .next y) :
    Only [.gtb, .gates, .timers, .outs, .matrix, .pf, .out, .stalls, .power, .side] s y := by
  cases e
  exact gateWaking_only (Only.refl _ _) (by decide) _
theorem execGateFire_only (g : GateNo) (e : execGateFire g s = .next y) :
    Only [.gtb, .gates, .timers, .outs, .matrix, .pf, .out, .stalls] s y := by
  cases e
  exact gateFire_only (Only.refl _ _) (by decide) _
theorem execGateHoldEnd_only (g : GateNo) (e : execGateHoldEnd g s = .next y) :
    Only [.gtb, .gates, .timers, .outs, .matrix, .pf, .out, .power] s y := by
  cases e
  exact gateHoldEnd_only (Only.refl _ _) (by decide) _
theorem execTickChannelArm_only (byRtp : Bool) (n : Fin 32) (e : execTickChannelArm byRtp n s = .next y) :
    Only [.gtb, .ticks, .out, .power, .side] s y := by
  cases e
  exact tickChannelArm_only (Only.ite (Only.refl _ _) (State.barWrite_only (Only.refl _ _) (by decide))) (by decide) _ _
theorem execTickChannelFireCatchup_only (n : Fin 32) (e : execTickChannelFireCatchup n s = .next y) :
    Only [.gtb, .ticks, .timers, .outs, .matrix, .marks, .pf, .out, .power, .side] s y := by
  cases e
  exact tickChannelFireCatchup_only (Only.refl _ _) (by decide) _
theorem execTickChannelFireLive_only (n : Fin 32) (e : execTickChannelFireLive n s = .next y) :
    Only [.gtb, .ticks, .timers, .outs, .matrix, .marks, .pf, .out, .power, .side] s y := by
  cases e
  exact tickChannelFireLive_only (Only.refl _ _) (by decide) _
theorem execSyncInEdgeAccepted_only (n : Fin 8) (rising : Bool) (reached : U64) (e : execSyncInEdgeAccepted n rising reached s = .next y) :
    Only [.gtb, .caps, .timers, .outs, .matrix, .pf, .out, .power, .side] s y := by
  cases e
  exact syncInEdgeAccepted_only (Only.refl _ _) (by decide) _ _ _
theorem execCapLoRead_only (f : Fn) (n : Fin 8) (which : CapReg) (e : execCapLoRead f n which s = .next y) :
    Only [.pf, .vf, .rtpLat, .out] s y := by
  cases e
  exact capLoRead_only (Only.refl _ _) (by decide) _ _ _
theorem execSyncInStuck_only (n : Fin 8) (e : execSyncInStuck n s = .next y) :
    Only [.gtb, .caps, .timers, .outs, .matrix, .pf, .out] s y := by
  cases e
  exact syncInStuck_only (Only.refl _ _) (by decide) _
theorem execCapStuckClear_only (n : Fin 8) (hi lo : Bool) (e : execCapStuckClear n hi lo s = .next y) :
    Only [.gtb, .caps, .out, .power, .side] s y := by
  cases e
  exact capStuckClear_only (State.barWrite_only (Only.refl _ _) (by decide)) (by decide) _ _ _
theorem execRelayTimerWrap_only (n : Fin 16) (e : execRelayTimerWrap n s = .next y) :
    Only [.gtb, .timers, .outs, .matrix, .pf, .out] s y := by
  cases e
  exact relayTimerWrap_only (Only.refl _ _) (by decide) _
theorem execRelayTimerMatch_only (n : Fin 16) (e : execRelayTimerMatch n s = .next y) :
    Only [.gtb, .timers, .outs, .matrix, .pf, .out] s y := by
  cases e
  exact relayTimerMatch_only (Only.refl _ _) (by decide) _
theorem execRelayTimerReset_only (n : Fin 16) (e : execRelayTimerReset n s = .next y) :
    Only [.gtb, .timers, .outs, .matrix, .pf, .out] s y := by
  cases e
  exact relayTimerReset_only (Only.refl _ _) (by decide) _
theorem execRtTrigWrite_only (n : Fin 16) (v : U32) (e : execRtTrigWrite n v s = .next y) :
    Only [.gtb, .timers, .out, .power, .side] s y := by
  cases e
  exact rtTrigWrite_only (State.barWrite_only (Only.refl _ _) (by decide)) (by decide) _ _
theorem execSyncOutPulseEnd_only (n : Fin 4) (e : execSyncOutPulseEnd n s = .next y) :
    Only [.gtb, .timers, .outs, .matrix, .pf, .out] s y := by
  cases e
  exact syncOutPulseEnd_only (Only.refl _ _) (by decide) _
theorem execVersion_only (m : MbReq) (e : execVersion m s = .next y) :
    Only [.gtb, .pf, .vf, .history, .out, .power, .side] s y := by
  cases e
  exact version_only (Only.refl _ _) (by decide) _
theorem execResultQuery_only (m : MbReq) (e : execResultQuery m s = .next y) :
    Only [.gtb, .pf, .vf, .history, .out, .power, .side] s y := by
  cases e
  exact resultQuery_only (Only.refl _ _) (by decide) _
theorem execPlanSubmit_only (m : MbReq) (e : execPlanSubmit m s = .next y) :
    Only [.gtb, .yard, .pf, .vf, .history, .out, .power, .side] s y := by
  cases e
  exact planSubmit_only (Only.refl _ _) (by decide) _
theorem execPlanValidated_only(e : execPlanValidated s = .next y) :
    Only [.yard, .pf, .vf, .history, .out, .rg] s y := by
  cases e
  exact planValidated_only (Only.refl _ _) (by decide)
theorem execPlanCommit_only(e : execPlanCommit s = .next y) :
    Only [.gtb, .gates, .timers, .outs, .matrix, .yard, .pf, .vf, .history, .out, .stalls, .prot, .power, .acct, .rsv, .rg, .free] s y := by
  cases e
  exact planCommit_only (Only.refl _ _) (by decide)
theorem execPlanStoreDone_only(e : execPlanStoreDone s = .next y) :
    Only [.yard] s y := by
  cases e
  exact planStoreDone_only (Only.refl _ _) (by decide)
theorem execPlanCancel_only (m : MbReq) (e : execPlanCancel m s = .next y) :
    Only [.gtb, .gates, .yard, .pf, .vf, .history, .out, .hostMem, .clusters, .stalls, .hbm, .poison, .lineSlot, .mee, .prot, .power, .rg, .side, .sessions, .free] s y := by
  cases e
  exact planCancel_only (Only.refl _ _) (by decide) _
theorem execChangeForce_only (m : MbReq) (e : execChangeForce m s = .next y) :
    Only [.gtb, .gates, .yard, .pf, .vf, .history, .out, .hostMem, .clusters, .stalls, .hbm, .poison, .lineSlot, .mee, .prot, .power, .acct, .rsv, .rg, .tl, .side, .sessions, .free] s y := by
  cases e
  exact changeForce_only (Only.refl _ _) (by decide) _
theorem execChangeReport_only (m : MbReq) (e : execChangeReport m s = .next y) :
    Only [.gtb, .pf, .vf, .history, .out, .power, .side, .free] s y := by
  cases e
  exact changeReport_only (Only.refl _ _) (by decide) _
theorem execEnrol_only (m : MbReq) (e : execEnrol m s = .next y) :
    Only [.gtb, .yard, .pf, .vf, .history, .out, .power, .side] s y := by
  cases e
  exact enrol_only (Only.refl _ _) (by decide) _
theorem execEnrolWindowExpiry_only(e : execEnrolWindowExpiry s = .next y) :
    Only [.gtb, .timers, .outs, .matrix, .yard, .pf, .out] s y := by
  cases e
  exact enrolWindowExpiry_only (Only.refl _ _) (by decide)
theorem execRotate_only (m : MbReq) (e : execRotate m s = .next y) :
    Only [.gtb, .yard, .pf, .vf, .history, .out, .power, .side] s y := by
  cases e
  exact rotate_only (Only.refl _ _) (by decide) _
theorem execMirrorPrepareDone_only(e : execMirrorPrepareDone s = .next y) :
    Only [.yard, .rg] s y := by
  cases e
  exact mirrorPrepareDone_only (Only.refl _ _) (by decide)
theorem execChangePhaseTick_only(e : execChangePhaseTick s = .next y) :
    Only [.gtb, .gates, .timers, .outs, .matrix, .yard, .pf, .vf, .unreach, .history, .out, .hostMem, .clusters, .stalls, .hbm, .poison, .lineSlot, .mee, .prot, .power, .acct, .rsv, .rg, .tl, .side, .sessions, .free] s y := by
  cases e
  exact changePhaseTick_only (Only.refl _ _) (by decide)
theorem execStallPaused_only (n : StallNo) (e : execStallPaused n s = .next y) :
    Only [.gates, .yard, .pf, .vf, .history, .out, .hostMem, .clusters, .stalls, .hbm, .poison, .lineSlot, .mee, .prot, .power, .rg, .tl, .sessions, .free] s y := by
  cases e
  exact stallPaused_only (Only.refl _ _) (by decide) _
theorem execChangeHold_only (n : StallNo) (e : execChangeHold n s = .next y) :
    Only [.gtb, .timers, .outs, .matrix, .yard, .pf, .out] s y := by
  cases e
  exact changeHold_only (Only.refl _ _) (by decide) _
theorem execHoldActionExpiry_only(e : execHoldActionExpiry s = .next y) :
    Only [.gtb, .gates, .timers, .outs, .matrix, .yard, .pf, .vf, .history, .out, .hostMem, .clusters, .stalls, .hbm, .poison, .lineSlot, .mee, .prot, .power, .acct, .rsv, .rg, .tl, .sessions, .free] s y := by
  cases e
  exact holdActionExpiry_only (Only.refl _ _) (by decide)
theorem execChangeGrantTick_only(e : execChangeGrantTick s = .next y) :
    Only [.gtb, .gates, .timers, .outs, .matrix, .yard, .pf, .vf, .history, .out, .hostMem, .clusters, .stalls, .hbm, .poison, .lineSlot, .mee, .prot, .power, .acct, .rsv, .rg, .tl, .sessions, .free] s y := by
  cases e
  exact changeGrantTick_only (Only.refl _ _) (by decide)
theorem execManifestReq_only (m : MbReq) (e : execManifestReq m s = .next y) :
    Only [.gtb, .pf, .vf, .history, .out, .stalls, .power, .side, .free] s y := by
  cases e
  exact manifestReq_only (Only.refl _ _) (by decide) _
theorem execCtxKill_only (m : MbReq) (e : execCtxKill m s = .next y) :
    Only [.gtb, .pf, .vf, .history, .out, .hostMem, .clusters, .stalls, .hbm, .poison, .lineSlot, .mee, .power, .tl, .side, .sessions] s y := by
  cases e
  exact ctxKill_only (Only.refl _ _) (by decide) _
theorem execCtxKillDone_only (c : CtxId) (e : execCtxKillDone c s = .next y) :
    Only [.pf, .vf, .history, .out, .hostMem, .clusters, .stalls, .hbm, .poison, .lineSlot, .mee, .power, .acct, .tl, .sessions, .free] s y := by
  cases e
  exact ctxKillDone_only (Only.refl _ _) (by decide) _
theorem execStallReset_only (m : MbReq) (e : execStallReset m s = .next y) :
    Only [.gtb, .gates, .pf, .vf, .history, .out, .hostMem, .clusters, .stalls, .hbm, .poison, .lineSlot, .mee, .power, .tl, .side, .sessions] s y := by
  cases e
  exact stallReset_only (Only.refl _ _) (by decide) _
theorem execHostPortLoss_only (p : HostPort) (why : PortLoss) (e : execHostPortLoss p why s = .next y) :
    Only [.pf, .vf, .ports, .unreach, .out, .rg] s y := by
  unfold execHostPortLoss State.onPort at e
  split at e <;> cases e
  exact hostPortLoss_only (Only.refl _ _) (by decide) _ _
theorem execHostPortLinkUp_only (p : HostPort) (e : execHostPortLinkUp p s = .next y) :
    Only [.pf, .vf, .ports, .unreach, .out] s y := by
  unfold execHostPortLinkUp State.onPort at e
  split at e <;> cases e
  exact hostPortLinkUp_only (Only.refl _ _) (by decide) _
theorem execFlr_only (f : Fn) (e : execFlr f s = .next y) :
    Only [.pf, .vf] s y := by
  cases e
  exact flr_only (Only.refl _ _) (by decide) _
theorem execSriovConfigWrite_only (p : HostPort) (enable : Bool) (num : U16) (e : execSriovConfigWrite p enable num s = .next y) :
    Only [.pf] s y := by
  unfold execSriovConfigWrite State.onPort at e
  split at e <;> cases e
  exact sriovConfigWrite_only (Only.refl _ _) (by decide) _ _ _
theorem execCauseEnableWrite_only (f : Fn) (v : U32) (e : execCauseEnableWrite f v s = .next y) :
    Only [.gtb, .pf, .vf, .out, .power, .side] s y := by
  cases e
  exact causeEnableWrite_only (State.barWrite_only (Only.refl _ _) (by decide)) (by decide) _ _
theorem execBar2Read_only (p : HostPort) (x : StallNo) (ofs bytes : Nat) (e : execBar2Read p x ofs bytes s = .next y) :
    Only [.out, .stalls, .mee] s y := by
  cases e
  exact bar2Read_only (Only.refl _ _) (by decide) _ _ _ _
theorem execBar2Write_only (p : HostPort) (x : StallNo) (ofs : Nat) (data : List Byte) (e : execBar2Write p x ofs data s = .next y) :
    Only [.gtb, .out, .stalls, .hbm, .poison, .lineSlot, .mee, .power, .side] s y := by
  cases e
  exact bar2Write_only (State.barWrite_only (Only.refl _ _) (by decide)) (by decide) _ _ _ _
theorem execIdeTlpCheckFail_only (p : HostPort) (stream : Fin 8) (e : execIdeTlpCheckFail p stream s = .next y) :
    Only [.ports] s y := by
  unfold execIdeTlpCheckFail State.onPort at e
  split at e <;> cases e
  exact ideTlpCheckFail_only (Only.refl _ _) (by decide) _ _
theorem execQueueCreate_only (m : MbReq) (e : execQueueCreate m s = .next y) :
    Only [.gtb, .pf, .vf, .history, .out, .hostMem, .stalls, .hbm, .poison, .lineSlot, .mee, .power, .side, .sessions] s y := by
  cases e
  exact queueCreate_only (Only.refl _ _) (by decide) _
theorem execQueueDestroy_only (m : MbReq) (e : execQueueDestroy m s = .next y) :
    Only [.gtb, .pf, .vf, .history, .out, .stalls, .power, .side] s y := by
  cases e
  exact queueDestroy_only (Only.refl _ _) (by decide) _
theorem execDoorbell_only (p : HostPort) (q : QueueId) (tail : U32) (e : execDoorbell p q tail s = .next y) :
    Only [.gtb, .pf, .vf, .history, .out, .clusters, .stalls, .hbm, .poison, .lineSlot, .mee, .power, .acct, .tl, .side, .sessions, .free] s y := by
  cases e
  exact doorbell_only (Only.refl _ _) (by decide) _ _ _
theorem execAcceptancePublish_only (q : QueueId) (e : execAcceptancePublish q s = .next y) :
    Only [.pf, .vf, .history, .out, .hostMem, .clusters, .stalls, .hbm, .poison, .lineSlot, .mee, .power, .acct, .tl, .sessions, .free] s y := by
  cases e
  exact acceptancePublish_only (Only.refl _ _) (by decide) _
theorem execConsumedWrite_only (q : QueueId) (v : U32) (e : execConsumedWrite q v s = .next y) :
    Only [.gtb, .vf, .out, .hostMem, .stalls, .hbm, .poison, .lineSlot, .mee, .power, .side, .sessions] s y := by
  cases e
  exact consumedWrite_only (State.barWrite_only (Only.refl _ _) (by decide)) (by decide) _ _
theorem execQdbAsnLoRead_only (p : HostPort) (q : QueueId) (e : execQdbAsnLoRead p q s = .next y) :
    Only [.pf, .vf, .rtpLat, .out] s y := by
  cases e
  exact qdbAsnLoRead_only (Only.refl _ _) (by decide) _ _
theorem execNop_only (q : QueueId) (e : execNop q s = .next y) :
    Only [.vf, .out, .hostMem, .stalls, .hbm, .poison, .lineSlot, .mee, .sessions] s y := by
  cases e
  exact nopCmd_only (Only.refl _ _) (by decide) _
theorem execLaunch_only (q : QueueId) (e : execLaunch q s = .next y) :
    Only [.vf, .out, .hostMem, .stalls, .hbm, .poison, .lineSlot, .mee, .sessions] s y := by
  cases e
  exact launchCmd_only (Only.refl _ _) (by decide) _
theorem execLaunchIndirect_only (q : QueueId) (e : execLaunchIndirect q s = .next y) :
    Only [.vf, .out, .hostMem, .stalls, .hbm, .poison, .lineSlot, .mee, .sessions] s y := by
  cases e
  exact launchIndirect_only (Only.refl _ _) (by decide) _
theorem execSafeHint_only (q : QueueId) (e : execSafeHint q s = .next y) :
    Only [.vf, .out, .hostMem, .clusters, .stalls, .hbm, .poison, .lineSlot, .mee, .power, .sessions] s y := by
  cases e
  exact safeHint_only (Only.refl _ _) (by decide) _
theorem execWaitAt_only (q : QueueId) (e : execWaitAt q s = .next y) :
    Only [.vf, .out, .hostMem, .stalls, .hbm, .poison, .lineSlot, .mee, .sessions] s y := by
  cases e
  exact waitAt_only (Only.refl _ _) (by decide) _
theorem execWaitAtPass_only (q : QueueId) (pos : U32) (e : execWaitAtPass q pos s = .next y) :
    Only [.gtb, .timers, .outs, .matrix, .pf, .out, .stalls] s y := by
  cases e
  exact waitAtPass_only (Only.refl _ _) (by decide) _ _
theorem execWaitGate_only (q : QueueId) (e : execWaitGate q s = .next y) :
    Only [.vf, .out, .hostMem, .stalls, .hbm, .poison, .lineSlot, .mee, .sessions] s y := by
  cases e
  exact waitGate_only (Only.refl _ _) (by decide) _
theorem execGateArm_only (q : QueueId) (e : execGateArm q s = .next y) :
    Only [.gtb, .gates, .timers, .outs, .matrix, .pf, .vf, .out, .hostMem, .stalls, .hbm, .poison, .lineSlot, .mee, .power, .side, .sessions] s y := by
  cases e
  exact gateArm_only (Only.refl _ _) (by decide) _
theorem execGateDisarm_only (q : QueueId) (e : execGateDisarm q s = .next y) :
    Only [.gates, .vf, .out, .hostMem, .stalls, .hbm, .poison, .lineSlot, .mee, .sessions] s y := by
  cases e
  exact gateDisarm_only (Only.refl _ _) (by decide) _
theorem execTimestamp_only (q : QueueId) (e : execTimestamp q s = .next y) :
    Only [.vf, .out, .hostMem, .stalls, .hbm, .poison, .lineSlot, .mee, .sessions] s y := by
  cases e
  exact timestamp_only (Only.refl _ _) (by decide) _
theorem execSemSignal_only (q : QueueId) (e : execSemSignal q s = .next y) :
    Only [.vf, .out, .hostMem, .stalls, .hbm, .poison, .lineSlot, .mee, .sessions] s y := by
  cases e
  exact semSignal_only (Only.refl _ _) (by decide) _
theorem execSemWait_only (q : QueueId) (e : execSemWait q s = .next y) :
    Only [.vf, .out, .hostMem, .stalls, .hbm, .poison, .lineSlot, .mee, .sessions] s y := by
  cases e
  exact semWait_only (Only.refl _ _) (by decide) _
theorem execSemWaitTimeout_only (q : QueueId) (pos : U32) (e : execSemWaitTimeout q pos s = .next y) :
    Only [.gtb, .timers, .outs, .matrix, .pf, .out, .stalls, .free] s y := by
  cases e
  exact semWaitTimeout_only (Only.refl _ _) (by decide) _ _
theorem execWaitQueue_only (q : QueueId) (e : execWaitQueue q s = .next y) :
    Only [.vf, .out, .hostMem, .stalls, .hbm, .poison, .lineSlot, .mee, .sessions] s y := by
  cases e
  exact waitQueue_only (Only.refl _ _) (by decide) _
theorem execWaitQueueTimeout_only (q : QueueId) (pos : U32) (e : execWaitQueueTimeout q pos s = .next y) :
    Only [.gtb, .timers, .outs, .matrix, .pf, .out, .stalls] s y := by
  cases e
  exact waitQueueTimeout_only (Only.refl _ _) (by decide) _ _
theorem execFence_only (q : QueueId) (e : execFence q s = .next y) :
    Only [.vf, .out, .hostMem, .stalls, .hbm, .poison, .lineSlot, .mee, .sessions] s y := by
  cases e
  exact fence_only (Only.refl _ _) (by decide) _
theorem execReceipt_only (q : QueueId) (e : execReceipt q s = .next y) :
    Only [.vf, .out, .hostMem, .stalls, .hbm, .poison, .lineSlot, .mee, .sessions, .free] s y := by
  cases e
  exact receipt_only (Only.refl _ _) (by decide) _
theorem execCopy_only (q : QueueId) (e : execCopy q s = .next y) :
    Only [.vf, .out, .hostMem, .stalls, .hbm, .poison, .lineSlot, .mee, .sessions] s y := by
  cases e
  exact copy_only (Only.refl _ _) (by decide) _
theorem execCopyStrided_only (q : QueueId) (e : execCopyStrided q s = .next y) :
    Only [.vf, .out, .hostMem, .stalls, .hbm, .poison, .lineSlot, .mee, .sessions] s y := by
  cases e
  exact copyStrided_only (Only.refl _ _) (by decide) _
theorem execFill_only (q : QueueId) (e : execFill q s = .next y) :
    Only [.vf, .out, .hostMem, .stalls, .hbm, .poison, .lineSlot, .mee, .sessions] s y := by
  cases e
  exact fill_only (Only.refl _ _) (by decide) _
theorem execSealedLoad_only (q : QueueId) (e : execSealedLoad q s = .next y) :
    Only [.vf, .out, .hostMem, .stalls, .hbm, .poison, .lineSlot, .mee, .sessions] s y := by
  cases e
  exact sealedLoad_only (Only.refl _ _) (by decide) _
theorem execRemoteWrite_only (q : QueueId) (e : execRemoteWrite q s = .next y) :
    Only [.vf, .out, .hostMem, .stalls, .hbm, .poison, .lineSlot, .mee, .tl, .sessions] s y := by
  cases e
  exact remoteWrite_only (Only.refl _ _) (by decide) _
theorem execRemoteRead_only (q : QueueId) (e : execRemoteRead q s = .next y) :
    Only [.vf, .out, .hostMem, .stalls, .hbm, .poison, .lineSlot, .mee, .tl, .sessions] s y := by
  cases e
  exact remoteRead_only (Only.refl _ _) (by decide) _
theorem execCollective_only (q : QueueId) (e : execCollective q s = .next y) :
    Only [.pf, .vf, .history, .out, .hostMem, .stalls, .hbm, .poison, .lineSlot, .mee, .tl, .sessions, .free] s y := by
  cases e
  exact collective_only (Only.refl _ _) (by decide) _
theorem execCollectiveLaunch_only (q : QueueId) (pos : U32) (e : execCollectiveLaunch q pos s = .next y) :
    Only [.gtb, .timers, .outs, .matrix, .pf, .vf, .history, .out, .stalls, .hbm, .poison, .lineSlot, .mee, .tl, .free] s y := by
  cases e
  exact collectiveLaunch_only (Only.refl _ _) (by decide) _ _
theorem execCollectiveTimeout_only (q : QueueId) (pos : U32) (e : execCollectiveTimeout q pos s = .next y) :
    Only [.gtb, .timers, .outs, .matrix, .pf, .vf, .history, .out, .stalls] s y := by
  cases e
  exact collectiveTimeout_only (Only.refl _ _) (by decide) _ _
theorem execCommandEnd_only (q : QueueId) (pos : U32) (e : execCommandEnd q pos s = .next y) :
    Only [.pf, .vf, .history, .out, .stalls] s y := by
  cases e
  exact commandEnd_only (Only.refl _ _) (by decide) _ _
theorem execCompletionVisible_only (q : QueueId) (e : execCompletionVisible q s = .next y) :
    Only [.pf, .vf, .history, .out, .hostMem, .stalls, .hbm, .poison, .lineSlot, .mee, .sessions] s y := by
  cases e
  exact completionVisible_only (Only.refl _ _) (by decide) _
theorem execSrndSeed_only (m : MbReq) (e : execSrndSeed m s = .next y) :
    Only [.gtb, .pf, .vf, .history, .out, .stalls, .power, .side] s y := by
  cases e
  exact srndSeed_only (Only.refl _ _) (by decide) _
theorem execCtxCreate_only (m : MbReq) (e : execCtxCreate m s = .next y) :
    Only [.gtb, .pf, .vf, .history, .out, .stalls, .power, .side] s y := by
  cases e
  exact ctxCreate_only (Only.refl _ _) (by decide) _
theorem execCtxDestroy_only (m : MbReq) (e : execCtxDestroy m s = .next y) :
    Only [.gtb, .pf, .vf, .history, .out, .stalls, .power, .side] s y := by
  cases e
  exact ctxDestroy_only (Only.refl _ _) (by decide) _
theorem execXlatInval_only (m : MbReq) (e : execXlatInval m s = .next y) :
    Only [.gtb, .pf, .vf, .history, .out, .stalls, .power, .side] s y := by
  cases e
  exact xlatInval_only (Only.refl _ _) (by decide) _
theorem execMemStats_only (m : MbReq) (e : execMemStats m s = .next y) :
    Only [.gtb, .pf, .vf, .history, .out, .power, .side] s y := by
  cases e
  exact memStats_only (Only.refl _ _) (by decide) _
theorem execTaskPlace_only (n : StallNo) (e : execTaskPlace n s = .next y) :
    Only [.clusters, .stalls, .hbm, .poison, .lineSlot, .mee, .power] s y := by
  cases e
  exact taskPlace_only (Only.refl _ _) (by decide) _
theorem execTaskEnd_only (c : Fin 512) (writes : List (Nat × List Byte)) (how : TaskEnd) (e : execTaskEnd c writes how s = .next y) :
    Only [.gtb, .timers, .outs, .matrix, .pf, .out, .clusters, .stalls, .hbm, .poison, .lineSlot, .mee, .power] s y := by
  cases e
  exact taskEnd_only (Only.refl _ _) (by decide) _ _ _
theorem execTaskSafePointStop_only (c : Fin 512) (pc : U32) (core ranges : List Byte) (e : execTaskSafePointStop c pc core ranges s = .next y) :
    Only [.clusters, .stalls, .hbm, .poison, .lineSlot, .mee, .power] s y := by
  cases e
  exact taskSafePointStop_only (Only.refl _ _) (by decide) _ _ _ _
theorem execContextStopped_only (c : CtxId) (e : execContextStopped c s = .next y) :
    Only [.stalls] s y := by
  cases e
  exact contextStopped_only (Only.refl _ _) (by decide) _
theorem execPreemptLimitExpiry_only (c : CtxId) (e : execPreemptLimitExpiry c s = .next y) :
    Only [.gtb, .timers, .outs, .matrix, .pf, .vf, .history, .out, .hostMem, .clusters, .stalls, .hbm, .poison, .lineSlot, .mee, .power, .tl, .sessions] s y := by
  cases e
  exact preemptLimitExpiry_only (Only.refl _ _) (by decide) _
theorem execCtxSliceExpiry_only (n : StallNo) (e : execCtxSliceExpiry n s = .next y) :
    Only [.gtb, .timers, .outs, .matrix, .pf, .out, .stalls] s y := by
  cases e
  exact ctxSliceExpiry_only (Only.refl _ _) (by decide) _
theorem execRotSliceExpiry_only (n : StallNo) (e : execRotSliceExpiry n s = .next y) :
    Only [.gtb, .timers, .outs, .matrix, .pf, .out, .stalls] s y := by
  cases e
  exact rotSliceExpiry_only (Only.refl _ _) (by decide) _
theorem execTenantResident_only (n : StallNo) (e : execTenantResident n s = .next y) :
    Only [.stalls] s y := by
  cases e
  exact tenantResident_only (Only.refl _ _) (by decide) _
theorem execSchedSet_only (m : MbReq) (e : execSchedSet m s = .next y) :
    Only [.gtb, .pf, .vf, .history, .out, .stalls, .power, .side] s y := by
  cases e
  exact schedSet_only (Only.refl _ _) (by decide) _
theorem execSchedStat_only (m : MbReq) (e : execSchedStat m s = .next y) :
    Only [.gtb, .pf, .vf, .history, .out, .power, .side] s y := by
  cases e
  exact schedStat_only (Only.refl _ _) (by decide) _
theorem execMemClear_only (m : MbReq) (e : execMemClear m s = .next y) :
    Only [.gtb, .pf, .vf, .history, .out, .stalls, .power, .side] s y := by
  cases e
  exact memClear_only (Only.refl _ _) (by decide) _
theorem execMemClearDone_only (n : StallNo) (e : execMemClearDone n s = .next y) :
    Only [.pf, .vf, .history, .out, .stalls, .hbm, .poison, .lineSlot, .mee] s y := by
  cases e
  exact memClearDone_only (Only.refl _ _) (by decide) _
theorem execDrvConfig_only (m : MbReq) (e : execDrvConfig m s = .next y) :
    Only [.gtb, .pf, .vf, .history, .out, .stalls, .power, .side] s y := by
  cases e
  exact drvConfig_only (Only.refl _ _) (by decide) _
theorem execDrvOutring_only (m : MbReq) (e : execDrvOutring m s = .next y) :
    Only [.gtb, .pf, .vf, .history, .out, .hostMem, .stalls, .hbm, .poison, .lineSlot, .mee, .power, .side, .sessions] s y := by
  cases e
  exact drvOutring_only (Only.refl _ _) (by decide) _
theorem execDrvLoad_only (m : MbReq) (e : execDrvLoad m s = .next y) :
    Only [.gtb, .pf, .vf, .history, .out, .stalls, .power, .side] s y := by
  cases e
  exact drvLoad_only (Only.refl _ _) (by decide) _
theorem execDrvLoadDone_only (n : StallNo) (slot : Fin 4) (e : execDrvLoadDone n slot s = .next y) :
    Only [.pf, .vf, .history, .out, .stalls, .hbm, .poison, .lineSlot, .mee] s y := by
  cases e
  exact drvLoadDone_only (Only.refl _ _) (by decide) _ _
theorem execDrvUnload_only (m : MbReq) (e : execDrvUnload m s = .next y) :
    Only [.gtb, .pf, .vf, .history, .out, .stalls, .power, .side] s y := by
  cases e
  exact drvUnload_only (Only.refl _ _) (by decide) _
theorem execDrvStat_only (m : MbReq) (e : execDrvStat m s = .next y) :
    Only [.gtb, .pf, .vf, .history, .out, .power, .side] s y := by
  cases e
  exact drvStat_only (Only.refl _ _) (by decide) _
theorem execDrvLend_only (m : MbReq) (e : execDrvLend m s = .next y) :
    Only [.gtb, .pf, .vf, .history, .out, .stalls, .power, .side] s y := by
  cases e
  exact drvLend_only (Only.refl _ _) (by decide) _
theorem execDrvBorrow_only (m : MbReq) (e : execDrvBorrow m s = .next y) :
    Only [.gtb, .pf, .vf, .history, .out, .stalls, .power, .tl, .side] s y := by
  cases e
  exact drvBorrow_only (Only.refl _ _) (by decide) _
theorem execDrvSubmit_only (q : QueueId) (e : execDrvSubmit q s = .next y) :
    Only [.vf, .out, .hostMem, .stalls, .hbm, .poison, .lineSlot, .mee, .sessions] s y := by
  cases e
  exact drvSubmit_only (Only.refl _ _) (by decide) _
theorem execDrvCancel_only (q : QueueId) (e : execDrvCancel q s = .next y) :
    Only [.vf, .out, .hostMem, .stalls, .hbm, .poison, .lineSlot, .mee, .sessions] s y := by
  cases e
  exact drvCancel_only (Only.refl _ _) (by decide) _
theorem execDrvRelease_only (q : QueueId) (e : execDrvRelease q s = .next y) :
    Only [.vf, .out, .hostMem, .stalls, .hbm, .poison, .lineSlot, .mee, .sessions] s y := by
  cases e
  exact drvRelease_only (Only.refl _ _) (by decide) _
theorem execDroverStep_only (n : StallNo) (e : execDroverStep n s = .next y) :
    Only [.vf, .out, .hostMem, .stalls, .hbm, .poison, .lineSlot, .mee, .sessions] s y := by
  cases e
  exact droverStep_only (Only.refl _ _) (by decide) _
theorem execDroverStepEnd_only (n : StallNo) (writes : List (Nat × List Byte)) (farBad : List U64) (e : execDroverStepEnd n writes farBad s = .next y) :
    Only [.vf, .out, .hostMem, .stalls, .hbm, .poison, .lineSlot, .mee, .sessions] s y := by
  cases e
  exact droverStepEnd_only (Only.refl _ _) (by decide) _ _ _
theorem execRequestIssue_only (n : StallNo) (k : Fin 5) (size : Fin 257) (drains : Option (Bool × LinkPort)) (link : Option (Nat × Bool)) (e : execRequestIssue n k size drains link s = .next y) :
    Only [.stalls, .rg] s y := by
  cases e
  exact requestIssue_only (Only.refl _ _) (by decide) _ _ _ _ _
theorem execRequestComplete_only (n : StallNo) (k : Fin 5) (id : Nat) (e : execRequestComplete n k id s = .next y) :
    Only [.stalls] s y := by
  cases e
  exact requestComplete_only (Only.refl _ _) (by decide) _ _ _
theorem execUrgencyAssert_only (host : Bool) (p : LinkPort) (e : execUrgencyAssert host p s = .next y) :
    Only [.rg] s y := by
  unfold execUrgencyAssert State.onBuffer at e
  repeat' split at e
  all_goals cases e
  all_goals exact urgencyAssert_only (Only.refl _ _) (by decide) _ _
theorem execUrgencyWithdraw_only (host : Bool) (p : LinkPort) (e : execUrgencyWithdraw host p s = .next y) :
    Only [.rg] s y := by
  unfold execUrgencyWithdraw State.onBuffer at e
  repeat' split at e
  all_goals cases e
  all_goals exact urgencyWithdraw_only (Only.refl _ _) (by decide) _ _
theorem execRgUrgWrite_only (host : Bool) (v : U32) (e : execRgUrgWrite host v s = .next y) :
    Only [.gtb, .out, .power, .rg, .side] s y := by
  cases e
  exact rgUrgWrite_only (State.barWrite_only (Only.refl _ _) (by decide)) (by decide) _ _
theorem execRgDutyWrite_only (n : StallNo) (k : Fin 5) (v : U32) (e : execRgDutyWrite n k v s = .next y) :
    Only [.gtb, .out, .stalls, .power, .side] s y := by
  cases e
  exact rgDutyWrite_only (State.barWrite_only (Only.refl _ _) (by decide)) (by decide) _ _ _
theorem execDutyGateChange_only (n : StallNo) (k : Fin 5) (e : execDutyGateChange n k s = .next y) :
    Only [.gtb, .timers, .outs, .matrix, .pf, .out, .stalls] s y := by
  cases e
  exact dutyGateChange_only (Only.refl _ _) (by decide) _ _
theorem execDlvCounterRead_only (f : Fn) (n : StallNo) (o : Nat) (e : execDlvCounterRead f n o s = .next y) :
    Only [.pf, .vf, .rtpLat, .out] s y := by
  cases e
  exact dlvCounterRead_only (Only.refl _ _) (by decide) _ _ _
theorem execYardJobStart_only(e : execYardJobStart s = .next y) :
    Only [.rg] s y := by
  cases e
  exact yardJobStart_only (Only.refl _ _) (by decide)
theorem execTlPCtlWrite_only (p : LinkPort) (v : U32) (e : execTlPCtlWrite p v s = .next y) :
    Only [.pkg, .gtb, .pf, .vf, .history, .out, .hostMem, .stalls, .hbm, .poison, .lineSlot, .mee, .prot, .power, .rg, .tl, .side, .sessions, .free] s y := by
  unfold execTlPCtlWrite State.onLink at e
  split at e <;> cases e
  exact tlPCtlWrite_only (State.barWrite_only (Only.refl _ _) (by decide)) (by decide) _ _
theorem execRetrain_only (p : LinkPort) (e : execRetrain p s = .next y) :
    Only [.pkg, .gtb, .pf, .vf, .history, .out, .hostMem, .stalls, .hbm, .poison, .lineSlot, .mee, .prot, .power, .rg, .tl, .side, .sessions, .free] s y := by
  unfold execRetrain State.onLink at e
  split at e <;> cases e
  exact retrain_only (State.barWrite_only (Only.refl _ _) (by decide)) (by decide) _
theorem execTlPAsymWrite_only (p : LinkPort) (v : U32) (e : execTlPAsymWrite p v s = .next y) :
    Only [.gtb, .out, .power, .tl, .side] s y := by
  unfold execTlPAsymWrite State.onLink at e
  split at e <;> cases e
  exact tlPAsymWrite_only (State.barWrite_only (Only.refl _ _) (by decide)) (by decide) _ _
theorem execPortPeerDetect_only (p peer : LinkPort) (e : execPortPeerDetect p peer s = .next y) :
    Only [.tl] s y := by
  unfold execPortPeerDetect State.onLink at e
  split at e <;> cases e
  exact portPeerDetect_only (Only.refl _ _) (by decide) _ _
theorem execPortTrained_only (p : LinkPort) (e : execPortTrained p s = .next y) :
    Only [.out, .tl, .free] s y := by
  unfold execPortTrained State.onLink at e
  split at e <;> cases e
  exact portTrained_only (Only.refl _ _) (by decide) _
theorem execPortStepTimeout_only (p : LinkPort) (e : execPortStepTimeout p s = .next y) :
    Only [.pkg, .gtb, .timers, .outs, .matrix, .pf, .vf, .history, .out, .hostMem, .stalls, .hbm, .poison, .lineSlot, .mee, .prot, .power, .rg, .tl, .sessions, .free] s y := by
  unfold execPortStepTimeout State.onLink at e
  split at e <;> cases e
  exact portStepTimeout_only (Only.refl _ _) (by decide) _
theorem execKeyxHello_only (p : LinkPort) (rnd pub chain : List Byte) (e : execKeyxHello p rnd pub chain s = .next y) :
    Only [.pkg, .gtb, .pf, .vf, .history, .out, .hostMem, .stalls, .hbm, .poison, .lineSlot, .mee, .prot, .power, .rg, .tl, .sessions, .free] s y := by
  unfold execKeyxHello State.onLink at e
  split at e <;> cases e
  exact keyxHello_only (Only.refl _ _) (by decide) _ _ _ _
theorem execKeyxFinish_only (p : LinkPort) (sig : List Byte) (e : execKeyxFinish p sig s = .next y) :
    Only [.pkg, .gtb, .pf, .vf, .history, .out, .hostMem, .stalls, .hbm, .poison, .lineSlot, .mee, .prot, .power, .rg, .tl, .sessions, .free] s y := by
  unfold execKeyxFinish State.onLink at e
  split at e <;> cases e
  exact keyxFinish_only (Only.refl _ _) (by decide) _ _
theorem execRekeyStart_only (p : LinkPort) (e : execRekeyStart p s = .next y) :
    Only [.gtb, .timers, .outs, .matrix, .pf, .out, .tl, .free] s y := by
  unfold execRekeyStart State.onLink at e
  split at e <;> cases e
  exact rekeyStart_only (Only.refl _ _) (by decide) _
theorem execKeyxSwitch_only (p : LinkPort) (last : U32) (e : execKeyxSwitch p last s = .next y) :
    Only [.tl] s y := by
  unfold execKeyxSwitch State.onLink at e
  split at e <;> cases e
  exact keyxSwitch_only (Only.refl _ _) (by decide) _ _
theorem execRekeyDeadline_only (p : LinkPort) (e : execRekeyDeadline p s = .next y) :
    Only [.pkg, .gtb, .timers, .outs, .matrix, .pf, .vf, .history, .out, .hostMem, .stalls, .hbm, .poison, .lineSlot, .mee, .prot, .power, .rg, .tl, .sessions, .free] s y := by
  unfold execRekeyDeadline State.onLink at e
  split at e <;> cases e
  exact rekeyDeadline_only (Only.refl _ _) (by decide) _
theorem execLinkFrameReceived_only (p : LinkPort) (n : U32) (check : FrameCheck) (credits : List (Fin 4 × Fin 4 × Nat)) (flits strange : Nat) (e : execLinkFrameReceived p n check credits flits strange s = .next y) :
    Only [.pkg, .gtb, .pf, .vf, .history, .out, .hostMem, .stalls, .hbm, .poison, .lineSlot, .mee, .prot, .power, .rg, .tl, .sessions, .free] s y := by
  unfold execLinkFrameReceived State.onLink at e
  split at e <;> cases e
  exact linkFrameReceived_only (Only.refl _ _) (by decide) _ _ _ _ _ _
theorem execLinkAck_only (p : LinkPort) (n : U32) (e : execLinkAck p n s = .next y) :
    Only [.tl] s y := by
  unfold execLinkAck State.onLink at e
  split at e <;> cases e
  exact linkAck_only (Only.refl _ _) (by decide) _ _
theorem execLinkNak_only (p : LinkPort) (n : U32) (e : execLinkNak p n s = .next y) :
    Only [.pkg, .gtb, .pf, .vf, .history, .out, .hostMem, .stalls, .hbm, .poison, .lineSlot, .mee, .prot, .power, .rg, .tl, .sessions, .free] s y := by
  unfold execLinkNak State.onLink at e
  split at e <;> cases e
  exact linkNak_only (Only.refl _ _) (by decide) _ _
theorem execWake_only (p : LinkPort) (e : execWake p s = .next y) :
    Only [.gtb, .out, .power, .tl, .side] s y := by
  unfold execWake State.onLink at e
  split at e <;> cases e
  exact wake_only (Only.refl _ _) (by decide) _
theorem execTkReq_only (p : LinkPort) (m : LinkMsg) (e : execTkReq p m s = .next y) :
    Only [.out, .stalls, .hbm, .poison, .lineSlot, .mee, .tl] s y := by
  unfold execTkReq State.onLink at e
  split at e <;> cases e
  exact State.arrive_only (Only.refl _ _) (by decide) _ _ _ _ _ (fun _ h => tkReqBody_only h (by decide) _ _)
theorem execTkGrant_only (p : LinkPort) (m : LinkMsg) (e : execTkGrant p m s = .next y) :
    Only [.out, .stalls, .hbm, .poison, .lineSlot, .mee, .tl] s y := by
  unfold execTkGrant State.onLink at e
  split at e <;> cases e
  exact State.arrive_only (Only.refl _ _) (by decide) _ _ _ _ _ (fun _ h => tkGrantBody_only h (by decide) _)
theorem execTkDeny_only (p : LinkPort) (m : LinkMsg) (e : execTkDeny p m s = .next y) :
    Only [.out, .stalls, .hbm, .poison, .lineSlot, .mee, .tl] s y := by
  unfold execTkDeny State.onLink at e
  split at e <;> cases e
  exact State.arrive_only (Only.refl _ _) (by decide) _ _ _ _ _ (fun _ h => tkDenyBody_only h (by decide) _)
theorem execTkDone_only (p : LinkPort) (m : LinkMsg) (e : execTkDone p m s = .next y) :
    Only [.pf, .vf, .history, .out, .stalls, .hbm, .poison, .lineSlot, .mee, .tl] s y := by
  unfold execTkDone State.onLink at e
  split at e <;> cases e
  exact State.arrive_only (Only.refl _ _) (by decide) _ _ _ _ _ (fun _ h => tkDoneBody_only h (by decide) _)
theorem execWr_only (p : LinkPort) (m : LinkMsg) (e : execWr p m s = .next y) :
    Only [.out, .stalls, .hbm, .poison, .lineSlot, .mee, .tl] s y := by
  unfold execWr State.onLink at e
  split at e <;> cases e
  exact State.arrive_only (Only.refl _ _) (by decide) _ _ _ _ _ (fun _ h => wrBody_only h (by decide) _ _)
theorem execWrAck_only (p : LinkPort) (m : LinkMsg) (e : execWrAck p m s = .next y) :
    Only [.out, .stalls, .hbm, .poison, .lineSlot, .mee, .tl] s y := by
  unfold execWrAck State.onLink at e
  split at e <;> cases e
  exact State.arrive_only (Only.refl _ _) (by decide) _ _ _ _ _ (fun _ h => wrAckBody_only h (by decide) _)
theorem execRd_only (p : LinkPort) (m : LinkMsg) (e : execRd p m s = .next y) :
    Only [.out, .stalls, .hbm, .poison, .lineSlot, .mee, .tl] s y := by
  unfold execRd State.onLink at e
  split at e <;> cases e
  exact State.arrive_only (Only.refl _ _) (by decide) _ _ _ _ _ (fun _ h => rdBody_only h (by decide) _ _)
theorem execRdData_only (p : LinkPort) (m : LinkMsg) (e : execRdData p m s = .next y) :
    Only [.out, .stalls, .hbm, .poison, .lineSlot, .mee, .tl] s y := by
  unfold execRdData State.onLink at e
  split at e <;> cases e
  exact State.arrive_only (Only.refl _ _) (by decide) _ _ _ _ _ (fun _ h => rdDataBody_only h (by decide) _)
theorem execColl_only (p : LinkPort) (m : LinkMsg) (e : execColl p m s = .next y) :
    Only [.pf, .vf, .history, .out, .stalls, .hbm, .poison, .lineSlot, .mee, .tl, .free] s y := by
  unfold execColl State.onLink at e
  split at e <;> cases e
  exact State.arrive_only (Only.refl _ _) (by decide) _ _ _ _ _ (fun _ h => collBody_only h (by decide) _)
theorem execCollReady_only (p : LinkPort) (m : LinkMsg) (e : execCollReady p m s = .next y) :
    Only [.pf, .vf, .history, .out, .stalls, .hbm, .poison, .lineSlot, .mee, .tl, .free] s y := by
  unfold execCollReady State.onLink at e
  split at e <;> cases e
  exact State.arrive_only (Only.refl _ _) (by decide) _ _ _ _ _ (fun _ h => collReadyBody_only h (by decide) _)
theorem execMgmt_only (p : LinkPort) (m : LinkMsg) (body : Mgmt) (e : execMgmt p m body s = .next y) :
    Only [.pf, .vf, .history, .out, .hostMem, .stalls, .hbm, .poison, .lineSlot, .mee, .tl, .sessions, .free] s y := by
  unfold execMgmt State.onLink at e
  split at e <;> cases e
  exact State.arrive_only (Only.refl _ _) (by decide) _ _ _ _ _ (fun _ h => mgmtBody_only h (by decide) _ _ _)
theorem execTimeSend_only (stamps : List (LinkPort × U64 × U64)) (e : execTimeSend stamps s = .next y) :
    Only [.gtb, .timers, .outs, .matrix, .pf, .out, .tl] s y := by
  have e := Host.Outcome.next.inj e
  rw [← e]
  exact timeSend_only (Only.refl _ _) (by decide) _
theorem execTime_only (p : LinkPort) (m : LinkMsg) (e : execTime p m s = .next y) :
    Only [.gtb, .pf, .out, .tl] s y := by
  unfold execTime State.onLink at e
  split at e <;> cases e
  exact time_only (Only.refl _ _) (by decide) _ _
theorem execMasterAdvertExpiry_only (p : LinkPort) (e : execMasterAdvertExpiry p s = .next y) :
    Only [.gtb, .timers, .outs, .matrix, .pf, .out, .tl] s y := by
  unfold execMasterAdvertExpiry State.onLink at e
  split at e <;> cases e
  exact masterAdvertExpiry_only (Only.refl _ _) (by decide) _
theorem execRemoteExport_only (m : MbReq) (e : execRemoteExport m s = .next y) :
    Only [.gtb, .pf, .vf, .history, .out, .stalls, .hbm, .poison, .lineSlot, .mee, .power, .tl, .side] s y := by
  cases e
  exact remoteExport_only (Only.refl _ _) (by decide) _
theorem execGroupSet_only (m : MbReq) (e : execGroupSet m s = .next y) :
    Only [.gtb, .pf, .vf, .history, .out, .stalls, .power, .side, .free] s y := by
  cases e
  exact groupSet_only (Only.refl _ _) (by decide) _
theorem execGroupClear_only (m : MbReq) (e : execGroupClear m s = .next y) :
    Only [.gtb, .pf, .vf, .history, .out, .stalls, .power, .side, .free] s y := by
  cases e
  exact groupClear_only (Only.refl _ _) (by decide) _
theorem execUeEccEvent_only (p : Fin 768) (a : Nat) (e : execUeEccEvent p a s = .next y) :
    Only [.pkg, .gtb, .yard, .pf, .vf, .ports, .unreach, .history, .out, .hostMem, .clusters, .stalls, .hbm, .poison, .lineSlot, .mee, .prot, .power, .acct, .rg, .tl, .side, .sessions, .free] s y := by
  unfold execUeEccEvent State.onComponent at e
  split at e <;> cases e
  exact ueEcc_only (Only.refl _ _) (by decide) _ _
theorem execGroomBayCleared_only (bay : Fin 128) (e : execGroomBayCleared bay s = .next y) :
    Only [.yard, .pf, .vf, .history, .out, .hbm, .poison, .lineSlot, .prot, .rg, .side] s y := by
  cases e
  exact groomBayCleared_only (Only.refl _ _) (by decide) _
theorem execSlotClean_only (slot : Fin 1024) (e : execSlotClean slot s = .next y) :
    Only [.yard, .hbm, .poison, .lineSlot, .prot] s y := by
  cases e
  exact slotClean_only (Only.refl _ _) (by decide) _
theorem execSecChallenge_only (m : MbReq) (e : execSecChallenge m s = .next y) :
    Only [.gtb, .pf, .vf, .history, .out, .prot, .power, .side, .free] s y := by
  cases e
  exact secChallenge_only (Only.refl _ _) (by decide) _
theorem execDebugUnlock_only (m : MbReq) (tap : Bool) (e : execDebugUnlock m tap s = .next y) :
    Only [.gtb, .pf, .vf, .history, .out, .stalls, .prot, .power, .side] s y := by
  cases e
  exact Only.ite (tapUnlock_only (Only.refl _ _) (by decide) _) (debugUnlock_only (Only.refl _ _) (by decide) _)
theorem execDebugLock_only (m : MbReq) (e : execDebugLock m s = .next y) :
    Only [.gtb, .pf, .vf, .history, .out, .stalls, .prot, .power, .side] s y := by
  cases e
  exact debugLock_only (Only.refl _ _) (by decide) _
theorem execDebugSessionExpiry_only(e : execDebugSessionExpiry s = .next y) :
    Only [.gtb, .timers, .outs, .matrix, .pf, .out, .stalls, .prot, .power] s y := by
  cases e
  exact debugSessionExpiry_only (Only.refl _ _) (by decide)
theorem execTapBypass_only(e : execTapBypass s = .next y) :
    Only [.out, .prot] s y := by
  cases e
  exact tapBypass_only (Only.refl _ _) (by decide)
theorem execTapIdcode_only(e : execTapIdcode s = .next y) :
    Only [.out, .prot] s y := by
  cases e
  exact tapIdcode_only (Only.refl _ _) (by decide)
theorem execTapSamplePreload_only(e : execTapSamplePreload s = .next y) :
    Only [.prot] s y := by
  cases e
  exact State.tapTo_only (Only.refl _ _) (by decide) _
theorem execTapHighz_only(e : execTapHighz s = .next y) :
    Only [.prot] s y := by
  cases e
  exact State.tapTo_only (Only.refl _ _) (by decide) _
theorem execTapClamp_only(e : execTapClamp s = .next y) :
    Only [.prot] s y := by
  cases e
  exact State.tapTo_only (Only.refl _ _) (by decide) _
theorem execTapExtest_only(e : execTapExtest s = .next y) :
    Only [.prot] s y := by
  cases e
  exact State.tapTo_only (Only.refl _ _) (by decide) _
theorem execTapScan_only(e : execTapScan s = .next y) :
    Only [.prot] s y := by
  cases e
  exact State.tapTo_only (Only.refl _ _) (by decide) _
theorem execSelftest_only (m : MbReq) (e : execSelftest m s = .next y) :
    Only [.gtb, .pf, .vf, .history, .out, .prot, .power, .side] s y := by
  cases e
  exact selftest_only (Only.refl _ _) (by decide) _
theorem execPeriodicSelftest_only(e : execPeriodicSelftest s = .next y) :
    Only [.prot] s y := by
  cases e
  exact periodicSelftest_only (Only.refl _ _) (by decide)
theorem execCryptoInstanceFailure_only (u : CryptoUnit) (cause alg inst : Byte) (e : execCryptoInstanceFailure u cause alg inst s = .next y) :
    Only [.pkg, .gtb, .yard, .pf, .vf, .ports, .unreach, .history, .out, .hostMem, .clusters, .stalls, .hbm, .poison, .lineSlot, .mee, .prot, .power, .acct, .rg, .tl, .side, .sessions, .free] s y := by
  unfold execCryptoInstanceFailure at e
  split at e <;> cases e
  exact cryptoFail_only (Only.refl _ _) (by decide) _ _ _ _
theorem execZeroise_only (m : MbReq) (e : execZeroise m s = .next y) :
    Only [.gtb, .yard, .pf, .vf, .history, .out, .clusters, .stalls, .prot, .power, .rsv, .tl, .side, .sessions] s y := by
  cases e
  exact zeroiseReq_only (Only.refl _ _) (by decide) _
theorem execDecommission_only (m : MbReq) (e : execDecommission m s = .next y) :
    Only [.gtb, .pf, .vf, .history, .out, .prot, .power, .side, .free] s y := by
  cases e
  exact decommission_only (Only.refl _ _) (by decide) _
theorem execDecommissionConfirmExpiry_only(e : execDecommissionConfirmExpiry s = .next y) :
    Only [.gtb, .timers, .outs, .matrix, .pf, .vf, .history, .out, .prot] s y := by
  cases e
  exact decomExpiry_only (Only.refl _ _) (by decide)
theorem execLedgerQuery_only (m : MbReq) (e : execLedgerQuery m s = .next y) :
    Only [.gtb, .pf, .vf, .history, .out, .power, .side] s y := by
  cases e
  exact ledgerQuery_only (Only.refl _ _) (by decide) _
theorem execAttestReport_only (m : MbReq) (e : execAttestReport m s = .next y) :
    Only [.gtb, .pf, .vf, .history, .out, .power, .side, .free] s y := by
  cases e
  exact attestReport_only (Only.refl _ _) (by decide) _
theorem execAttestLog_only (m : MbReq) (e : execAttestLog m s = .next y) :
    Only [.gtb, .pf, .vf, .history, .out, .power, .side] s y := by
  cases e
  exact attestLog_only (Only.refl _ _) (by decide) _
theorem execMeasureImage_only (m : MbReq) (e : execMeasureImage m s = .next y) :
    Only [.gtb, .pf, .vf, .history, .out, .stalls, .power, .side] s y := by
  cases e
  exact measureImage_only (Only.refl _ _) (by decide) _
theorem execSealKeygen_only (id : Option U32) (m : MbReq) (e : execSealKeygen id m s = .next y) :
    Only [.gtb, .pf, .vf, .history, .out, .stalls, .power, .side, .free] s y := by
  cases e
  exact State.ask_only (Only.refl _ _) (by decide) _ _ _ (fun _ _ h => sealKeygen_only h (by decide) _)
theorem execSealInstall_only (id : Option U32) (m : MbReq) (e : execSealInstall id m s = .next y) :
    Only [.gtb, .pf, .vf, .history, .out, .stalls, .power, .side] s y := by
  cases e
  exact State.ask_only (Only.refl _ _) (by decide) _ _ _ (fun _ _ h => sealInstall_only h (by decide) _)
theorem execSealDrop_only (id : Option U32) (m : MbReq) (e : execSealDrop id m s = .next y) :
    Only [.gtb, .pf, .vf, .history, .out, .stalls, .power, .side] s y := by
  cases e
  exact State.ask_only (Only.refl _ _) (by decide) _ _ _ (fun _ _ h => sealDrop_only h (by decide) _)
theorem execQueueRebind_only (id : Option U32) (m : MbReq) (e : execQueueRebind id m s = .next y) :
    Only [.gtb, .pf, .vf, .history, .out, .hostMem, .clusters, .stalls, .hbm, .poison, .lineSlot, .mee, .power, .acct, .tl, .side, .sessions, .free] s y := by
  cases e
  exact State.ask_only (Only.refl _ _) (by decide) _ _ _ (fun _ _ h => queueRebind_only h (by decide) _)
theorem execGetVersion_only (via : Option Fn) (e : execGetVersion via s = .next y) :
    Only [.out, .side] s y := by
  cases e
  exact getVersion_only (Only.refl _ _) (by decide) _
theorem execGetCapabilities_only (via : Option Fn) (e : execGetCapabilities via s = .next y) :
    Only [.out, .side] s y := by
  cases e
  exact getCapabilities_only (Only.refl _ _) (by decide) _
theorem execNegotiateAlgorithms_only (via : Option Fn) (e : execNegotiateAlgorithms via s = .next y) :
    Only [.out, .side] s y := by
  cases e
  exact negotiateAlgorithms_only (Only.refl _ _) (by decide) _
theorem execGetDigests_only (via : Option Fn) (e : execGetDigests via s = .next y) :
    Only [.out, .side] s y := by
  cases e
  exact getDigests_only (Only.refl _ _) (by decide) _
theorem execGetCertificate_only (via : Option Fn) (slot : Byte) (ofs len : U16) (e : execGetCertificate via slot ofs len s = .next y) :
    Only [.out, .side] s y := by
  cases e
  exact getCertificate_only (Only.refl _ _) (by decide) _ _ _ _
theorem execChallenge_only (via : Option Fn) (slot : Byte) (e : execChallenge via slot s = .next y) :
    Only [.out, .side, .free] s y := by
  cases e
  exact challenge_only (Only.refl _ _) (by decide) _ _
theorem execGetMeasurements_only (via : Option Fn) (index : Byte) (nonce : Option (List Byte)) (e : execGetMeasurements via index nonce s = .next y) :
    Only [.out, .side, .free] s y := by
  cases e
  exact getMeasurements_only (Only.refl _ _) (by decide) _ _ _
theorem execKeyExchange_only (via : Option Fn) (id : U32) (peer : List Byte) (e : execKeyExchange via id peer s = .next y) :
    Only [.out, .side, .sessions, .free] s y := by
  cases e
  exact keyExchange_only (Only.refl _ _) (by decide) _ _ _
theorem execFinish_only (id : U32) (leaf : Option (List Byte)) (good : Bool) (e : execFinish id leaf good s = .next y) :
    Only [.out, .stalls, .side, .sessions, .free] s y := by
  cases e
  exact finish_only (Only.refl _ _) (by decide) _ _ _
theorem execHeartbeat_only (id : U32) (e : execHeartbeat id s = .next y) :
    Only [.out, .side, .sessions] s y := by
  cases e
  exact heartbeat_only (Only.refl _ _) (by decide) _
theorem execHeartbeatMissed_only (id : U32) (e : execHeartbeatMissed id s = .next y) :
    Only [.gtb, .timers, .outs, .matrix, .pf, .out, .sessions] s y := by
  cases e
  exact heartbeatMissed_only (Only.refl _ _) (by decide) _
theorem execKeyUpdate_only (id : U32) (e : execKeyUpdate id s = .next y) :
    Only [.out, .side] s y := by
  cases e
  exact keyUpdate_only (Only.refl _ _) (by decide) _
theorem execEndSession_only (id : U32) (e : execEndSession id s = .next y) :
    Only [.out, .side, .sessions] s y := by
  cases e
  exact endSession_only (Only.refl _ _) (by decide) _
theorem execChunkGet_only (via : Option Fn) (e : execChunkGet via s = .next y) :
    Only [.out, .side] s y := by
  cases e
  exact chunkGet_only (Only.refl _ _) (by decide) _
theorem execVendorDefinedRequest_only (id : U32) (op tag : U16) (payload : List Byte) (e : execVendorDefinedRequest id op tag payload s = .next y) :
    Only [.gtb, .gates, .yard, .pf, .vf, .history, .out, .hostMem, .clusters, .stalls, .hbm, .poison, .lineSlot, .mee, .prot, .power, .acct, .rsv, .rg, .tl, .side, .sessions, .free] s y := by
  cases e
  exact vendorDefined_only (Only.refl _ _) (by decide) _ _ _ _
theorem execComponentFault_only (c : Component) (retire : Bool) (lines : List Nat) (hit : List (Nat × Nat × U32)) (e : execComponentFault c retire lines hit s = .next y) :
    Only [.pkg, .gtb, .yard, .pf, .vf, .ports, .unreach, .history, .out, .hostMem, .clusters, .stalls, .hbm, .poison, .lineSlot, .mee, .prot, .power, .acct, .rg, .tl, .side, .sessions, .free] s y := by
  unfold execComponentFault State.onComponent at e
  split at e <;> cases e
  exact State.componentFault_only (Only.refl _ _) (by decide) _ _ _ _
theorem execJournalRebuildDone_only (n : StallNo) (e : execJournalRebuildDone n s = .next y) :
    Only [.pf, .vf, .history, .out, .hostMem, .clusters, .stalls, .hbm, .poison, .lineSlot, .mee, .power, .acct, .rg, .tl, .sessions] s y := by
  cases e
  exact journalRebuildDone_only (Only.refl _ _) (by decide) _
theorem execRecoveryComplete_only(e : execRecoveryComplete s = .next y) :
    Only [.pf, .vf, .history, .out, .hostMem, .clusters, .stalls, .hbm, .poison, .lineSlot, .mee, .power, .acct, .tl, .sessions] s y := by
  cases e
  exact State.closeRecoveries_only (Only.refl _ _) (by decide)
theorem execAccEvents_only (m : MbReq) (e : execAccEvents m s = .next y) :
    Only [.gtb, .pf, .vf, .history, .out, .power, .side] s y := by
  cases e
  exact accEvents_only (Only.refl _ _) (by decide) _
theorem execAccRecords_only (m : MbReq) (e : execAccRecords m s = .next y) :
    Only [.gtb, .pf, .vf, .history, .out, .power, .side] s y := by
  cases e
  exact accRecords_only (Only.refl _ _) (by decide) _
theorem execOrphanClear_only (m : MbReq) (e : execOrphanClear m s = .next y) :
    Only [.gtb, .pf, .vf, .history, .out, .stalls, .power, .acct, .side] s y := by
  cases e
  exact orphanClear_only (Only.refl _ _) (by decide) _
theorem execMainPowerLost_only (vbank vmain : U32) (e : execMainPowerLost vbank vmain s = .next y) :
    Only [.gtb, .yard, .pf, .vf, .ports, .unreach, .history, .out, .clusters, .stalls, .power, .rsv, .rg, .tl, .side, .free] s y := by
  cases e
  exact mainPowerLost_only (Only.refl _ _) (by decide) _ _
theorem execMainPowerReturn_only (vbank vmain : U32) (e : execMainPowerReturn vbank vmain s = .next y) :
    Only [.gtb, .gates, .marks, .yard, .pf, .vf, .ports, .unreach, .history, .out, .hostMem, .clusters, .stalls, .hbm, .poison, .lineSlot, .mee, .power, .acct, .rsv, .tl, .side, .sessions, .free] s y := by
  cases e
  exact mainPowerReturn_only (Only.refl _ _) (by decide) _ _
theorem execFlushStart_only(e : execFlushStart s = .next y) :
    Only [.out, .rsv, .side] s y := by
  cases e
  exact flushStart_only (Only.refl _ _) (by decide)
theorem execFlushDone_only(e : execFlushDone s = .next y) :
    Only [.gtb, .pf, .vf, .history, .out, .power, .rsv, .side] s y := by
  cases e
  exact flushDone_only (Only.refl _ _) (by decide)
theorem execFlushAbort_only(e : execFlushAbort s = .next y) :
    Only [.gtb, .out, .rsv, .side] s y := by
  cases e
  exact flushAbort_only (Only.refl _ _) (by decide)
theorem execBankDead_only(e : execBankDead s = .next y) :
    Only [.gtb, .out, .rsv, .side] s y := by
  cases e
  exact bankDead_only (Only.refl _ _) (by decide)
theorem execBankAcceptReached_only(e : execBankAcceptReached s = .next y) :
    Only [.pf, .vf, .out, .rsv, .side] s y := by
  cases e
  exact bankAcceptReached_only (Only.refl _ _) (by decide)
theorem execImageSlotEraseDone_only(e : execImageSlotEraseDone s = .next y) :
    Only [.pf, .vf, .out, .rsv, .side] s y := by
  cases e
  exact imageSlotEraseDone_only (Only.refl _ _) (by decide)
theorem execHealthTestStart_only(e : execHealthTestStart s = .next y) :
    Only [.gtb, .out, .power, .rsv, .side] s y := by
  cases e
  exact healthTestStart_only (Only.refl _ _) (by decide)
theorem execTestStart_only(e : execTestStart s = .next y) :
    Only [.gtb, .out, .power, .rsv, .side] s y := by
  cases e
  exact testStart_only (State.barWrite_only (Only.refl _ _) (by decide)) (by decide)
theorem execHealthTestDone_only (cap esr : U16) (complete : Bool) (e : execHealthTestDone cap esr complete s = .next y) :
    Only [.pf, .vf, .out, .rsv, .side] s y := by
  cases e
  exact healthTestDone_only (Only.refl _ _) (by decide) _ _ _
theorem execUnguardedWrite_only (v : U32) (e : execUnguardedWrite v s = .next y) :
    Only [.gtb, .out, .power, .rsv, .side] s y := by
  cases e
  exact rsvCtlWrite_only (State.barWrite_only (Only.refl _ _) (by decide)) (by decide) _
theorem execClusterIdleScatter_only (c : Fin 512) (e : execClusterIdleScatter c s = .next y) :
    Only [.gtb, .timers, .outs, .matrix, .pf, .out, .power] s y := by
  cases e
  exact clusterIdleScatter_only (Only.refl _ _) (by decide) _
theorem execClusterIdleClear_only (c : Fin 512) (e : execClusterIdleClear c s = .next y) :
    Only [.gtb, .timers, .outs, .matrix, .pf, .out, .power] s y := by
  cases e
  exact clusterIdleClear_only (Only.refl _ _) (by decide) _
theorem execClusterWakeDone_only (c : Fin 512) (e : execClusterWakeDone c s = .next y) :
    Only [.gtb, .timers, .outs, .matrix, .pf, .out, .power] s y := by
  cases e
  exact clusterWakeDone_only (Only.refl _ _) (by decide) _
theorem execPkgClearEntry_only (l1 : BitVec 4) (e : execPkgClearEntry l1 s = .next y) :
    Only [.power] s y := by
  cases e
  exact pkgClearEntry_only (Only.refl _ _) (by decide) _
theorem execPkgClearEntered_only (l1 : BitVec 4) (e : execPkgClearEntered l1 s = .next y) :
    Only [.gtb, .out, .power, .tl, .side] s y := by
  cases e
  exact pkgClearEntered_only (Only.refl _ _) (by decide) _
theorem execPkgWake_only (src : Fin 8) (needsCluster : Bool) (e : execPkgWake src needsCluster s = .next y) :
    Only [.gtb, .out, .power, .side] s y := by
  cases e
  exact pkgWake_only (Only.refl _ _) (by decide) _ _
theorem execPkgWakePhaseDone_only(e : execPkgWakePhaseDone s = .next y) :
    Only [.pf, .vf, .history, .out, .clusters, .stalls, .hbm, .poison, .lineSlot, .mee, .power, .acct, .tl, .sessions, .free] s y := by
  cases e
  exact pkgWakePhaseDone_only (Only.refl _ _) (by decide)
theorem execPwrCtlWrite_only (v : U32) (e : execPwrCtlWrite v s = .next y) :
    Only [.gtb, .out, .power, .side] s y := by
  cases e
  exact pwrCtlWrite_only (State.barWrite_only (Only.refl _ _) (by decide)) (by decide) _
theorem execThermalTrip_only(e : execThermalTrip s = .next y) :
    Only [.gtb, .yard, .pf, .vf, .ports, .unreach, .history, .out, .clusters, .stalls, .power, .rsv, .rg, .tl, .side, .free] s y := by
  cases e
  exact thermalTrip_only (Only.refl _ _) (by decide)
theorem execPkgResetWarm_only (m : MbReq) (e : execPkgResetWarm m s = .next y) :
    Only [.gtb, .gates, .yard, .pf, .vf, .history, .out, .hostMem, .clusters, .stalls, .hbm, .poison, .lineSlot, .mee, .prot, .power, .acct, .rsv, .rg, .tl, .side, .sessions, .free] s y := by
  cases e
  exact pkgResetWarm_only (Only.refl _ _) (by decide) _
theorem execWarmResetDone_only(e : execWarmResetDone s = .next y) :
    Only [.gtb, .gates, .pf, .vf, .history, .out, .hostMem, .clusters, .stalls, .hbm, .poison, .lineSlot, .mee, .power, .acct, .tl, .side, .sessions, .free] s y := by
  cases e
  exact warmResetDone_only (Only.refl _ _) (by decide)
theorem execPkgResetCold_only (m : MbReq) (e : execPkgResetCold m s = .next y) :
    Only [.gtb, .gates, .yard, .pf, .vf, .history, .out, .hostMem, .clusters, .stalls, .hbm, .poison, .lineSlot, .mee, .prot, .power, .acct, .rsv, .rg, .tl, .side, .sessions, .free] s y := by
  cases e
  exact pkgResetCold_only (Only.refl _ _) (by decide) _
theorem execColdResetRelease_only(e : execColdResetRelease s = .next y) :
    Only [.pkg, .gtb, .gates, .ticks, .caps, .timers, .outs, .matrix, .marks, .yard, .pf, .vf, .rtpLat, .ports, .unreach, .history, .clusters, .stalls, .hbm, .poison, .lineSlot, .mee, .prot, .power, .acct, .rsv, .rg, .tl, .side, .sessions, .free] s y := by
  cases e
  exact coldResetRelease_only (Only.refl _ _) (by decide)
theorem execBootPhaseDone_only (failed : List Component) (badRtp : BitVec 2) (cause alg inst : Byte) (e : execBootPhaseDone failed badRtp cause alg inst s = .next y) :
    Only [.pkg, .gtb, .gates, .timers, .outs, .matrix, .yard, .pf, .vf, .history, .out, .clusters, .stalls, .prot, .power, .acct, .rsv, .rg, .tl, .side, .free] s y := by
  cases e
  exact bootPhaseDone_only (Only.refl _ _) (by decide) _ _ _ _ _
theorem execMuartCharReceived_only (c : BitVec 9) (framing parity : Bool) (e : execMuartCharReceived c framing parity s = .next y) :
    Only [.out, .side] s y := by
  cases e
  exact muartCharReceived_only (Only.refl _ _) (by decide) _ _ _
theorem execMuartCharSent_only (collided : Bool) (e : execMuartCharSent collided s = .next y) :
    Only [.pf, .out, .side] s y := by
  cases e
  exact muartCharSent_only (Only.refl _ _) (by decide) _
theorem execMuartRetry_only(e : execMuartRetry s = .next y) :
    Only [.side] s y := by
  cases e
  exact muartRetry_only (Only.refl _ _) (by decide)
theorem execMuConfigApply_only(e : execMuConfigApply s = .next y) :
    Only [.side] s y := by
  cases e
  exact muConfigApply_only (Only.refl _ _) (by decide)
theorem execMuartSleep_only(e : execMuartSleep s = .next y) :
    Only [.gtb, .timers, .outs, .matrix, .pf, .out, .side] s y := by
  cases e
  exact muartSleep_only (Only.refl _ _) (by decide)
theorem execMuartWake_only(e : execMuartWake s = .next y) :
    Only [.out, .power, .side] s y := by
  cases e
  exact muartWake_only (Only.refl _ _) (by decide)
theorem execBreak_only(e : execBreak s = .next y) :
    Only [.pf, .out, .side] s y := by
  cases e
  exact muBreak_only (Only.refl _ _) (by decide)
theorem execLineFault_only(e : execLineFault s = .next y) :
    Only [.pf, .out, .side] s y := by
  cases e
  exact muLineFault_only (Only.refl _ _) (by decide)
theorem execLineFaultClear_only(e : execLineFaultClear s = .next y) :
    Only [.pf, .out, .side] s y := by
  cases e
  exact muLineFaultClear_only (Only.refl _ _) (by decide)
theorem execConsoleStatus_only(e : execConsoleStatus s = .next y) :
    Only [.side] s y := by
  cases e
  exact consoleStatus_only (Only.refl _ _) (by decide)
theorem execConsoleTime_only(e : execConsoleTime s = .next y) :
    Only [.side] s y := by
  cases e
  exact consoleTime_only (Only.refl _ _) (by decide)
theorem execConfirmEnrol_only(e : execConfirmEnrol s = .next y) :
    Only [.yard, .side] s y := by
  cases e
  exact confirmEnrol_only (Only.refl _ _) (by decide)
theorem execConfirmDecom_only(e : execConfirmDecom s = .next y) :
    Only [.yard, .pf, .vf, .history, .out, .clusters, .stalls, .prot, .power, .rsv, .tl, .side, .sessions] s y := by
  cases e
  exact confirmDecom_only (Only.refl _ _) (by decide)
theorem execConsoleSelftest_only(e : execConsoleSelftest s = .next y) :
    Only [.prot, .side] s y := by
  cases e
  exact consoleSelftest_only (Only.refl _ _) (by decide)
theorem execConsoleZeroise_only(e : execConsoleZeroise s = .next y) :
    Only [.yard, .pf, .vf, .history, .out, .clusters, .stalls, .prot, .power, .rsv, .tl, .side, .sessions] s y := by
  cases e
  exact consoleZeroise_only (Only.refl _ _) (by decide)
theorem execConsoleZeroiseAbandoned_only(e : execConsoleZeroiseAbandoned s = .next y) :
    Only [.gtb, .timers, .outs, .matrix, .pf, .out, .side] s y := by
  cases e
  exact consoleZeroiseAbandoned_only (Only.refl _ _) (by decide)
theorem execResetWarm_only(e : execResetWarm s = .next y) :
    Only [.gates, .yard, .pf, .vf, .history, .out, .hostMem, .clusters, .stalls, .hbm, .poison, .lineSlot, .mee, .prot, .power, .acct, .rsv, .rg, .tl, .side, .sessions, .free] s y := by
  cases e
  exact resetWarm_only (Only.refl _ _) (by decide)
theorem execResetCold_only(e : execResetCold s = .next y) :
    Only [.pf, .vf, .history, .out, .power, .rsv, .side] s y := by
  cases e
  exact resetCold_only (Only.refl _ _) (by decide)
theorem execConsoleLine_only(e : execConsoleLine s = .next y) :
    Only [.side] s y := by
  cases e
  exact consoleLine_only (Only.refl _ _) (by decide)
theorem execEntdaa_only (a : BitVec 7) (e : execEntdaa a s = .next y) :
    Only [.out, .power, .side] s y := by
  cases e
  exact entdaa_only (Only.refl _ _) (by decide) _
theorem execSetdasa_only (a : BitVec 7) (e : execSetdasa a s = .next y) :
    Only [.power, .side] s y := by
  cases e
  exact setdasa_only (Only.refl _ _) (by decide) _
theorem execRstdaa_only(e : execRstdaa s = .next y) :
    Only [.power, .side] s y := by
  cases e
  exact rstdaa_only (Only.refl _ _) (by decide)
theorem execEnec_only (v : Byte) (e : execEnec v s = .next y) :
    Only [.power, .side] s y := by
  cases e
  exact enec_only (Only.refl _ _) (by decide) _
theorem execDisec_only (v : Byte) (e : execDisec v s = .next y) :
    Only [.power, .side] s y := by
  cases e
  exact disec_only (Only.refl _ _) (by decide) _
theorem execGetpid_only(e : execGetpid s = .next y) :
    Only [.out, .power] s y := by
  cases e
  exact getpid_only (Only.refl _ _) (by decide)
theorem execGetbcr_only(e : execGetbcr s = .next y) :
    Only [.out, .power] s y := by
  cases e
  exact getbcr_only (Only.refl _ _) (by decide)
theorem execGetdcr_only(e : execGetdcr s = .next y) :
    Only [.out, .power] s y := by
  cases e
  exact getdcr_only (Only.refl _ _) (by decide)
theorem execGetstatus_only(e : execGetstatus s = .next y) :
    Only [.out, .power, .free] s y := by
  cases e
  exact getstatus_only (Only.refl _ _) (by decide)
theorem execGetmwl_only(e : execGetmwl s = .next y) :
    Only [.out, .power] s y := by
  cases e
  exact getmwl_only (Only.refl _ _) (by decide)
theorem execGetmrl_only(e : execGetmrl s = .next y) :
    Only [.out, .power] s y := by
  cases e
  exact getmrl_only (Only.refl _ _) (by decide)
theorem execSetmwl_only (v : U16) (e : execSetmwl v s = .next y) :
    Only [.power] s y := by
  cases e
  exact setmwl_only (Only.refl _ _) (by decide) _
theorem execSetmrl_only (v : U16) (e : execSetmrl v s = .next y) :
    Only [.power] s y := by
  cases e
  exact setmrl_only (Only.refl _ _) (by decide) _
theorem execGetmxds_only(e : execGetmxds s = .next y) :
    Only [.out, .power, .free] s y := by
  cases e
  exact getmxds_only (Only.refl _ _) (by decide)
theorem execRstact_only (v : Byte) (e : execRstact v s = .next y) :
    Only [.power] s y := by
  cases e
  exact rstact_only (Only.refl _ _) (by decide) _
theorem execIbiRetry_only (at' : Nat) (e : execIbiRetry at' s = .next y) :
    Only [.gtb, .timers, .outs, .matrix, .pf, .out] s y := by
  cases e
  exact ibiRetry_only (Only.refl _ _) (by decide) _
theorem execSetEndpointId_only (e : Byte) (e : execSetEndpointId e s = .next y) :
    Only [.out, .power, .side] s y := by
  cases e
  exact setEndpointId_only (Only.refl _ _) (by decide) _
theorem execGetEndpointId_only(e : execGetEndpointId s = .next y) :
    Only [.out, .power] s y := by
  cases e
  exact getEndpointId_only (Only.refl _ _) (by decide)
theorem execGetEndpointUuid_only(e : execGetEndpointUuid s = .next y) :
    Only [.out, .power] s y := by
  cases e
  exact getEndpointUuid_only (Only.refl _ _) (by decide)
theorem execGetMctpVersionSupport_only(e : execGetMctpVersionSupport s = .next y) :
    Only [.out, .power] s y := by
  cases e
  exact getMctpVersion_only (Only.refl _ _) (by decide)
theorem execGetMessageTypeSupport_only(e : execGetMessageTypeSupport s = .next y) :
    Only [.out, .power] s y := by
  cases e
  exact getMessageTypes_only (Only.refl _ _) (by decide)
theorem execGetTid_only(e : execGetTid s = .next y) :
    Only [.out, .power] s y := by
  cases e
  exact getTid_only (Only.refl _ _) (by decide)
theorem execSetTid_only (t : Byte) (e : execSetTid t s = .next y) :
    Only [.out, .power, .side] s y := by
  cases e
  exact setTid_only (Only.refl _ _) (by decide) _
theorem execGetPldmVersion_only (ty : Byte) (e : execGetPldmVersion ty s = .next y) :
    Only [.out, .power] s y := by
  cases e
  exact getPldmVersion_only (Only.refl _ _) (by decide) _
theorem execGetPldmTypes_only(e : execGetPldmTypes s = .next y) :
    Only [.out, .power] s y := by
  cases e
  exact getPldmTypes_only (Only.refl _ _) (by decide)
theorem execGetPldmCommands_only (ty : Byte) (e : execGetPldmCommands ty s = .next y) :
    Only [.out, .power] s y := by
  cases e
  exact getPldmCommands_only (Only.refl _ _) (by decide) _
theorem execGetPdr_only (h : U32) (e : execGetPdr h s = .next y) :
    Only [.out, .power] s y := by
  cases e
  exact getPdr_only (Only.refl _ _) (by decide) _
theorem execGetPdrRepositoryInfo_only(e : execGetPdrRepositoryInfo s = .next y) :
    Only [.out, .power] s y := by
  cases e
  exact getPdrRepositoryInfo_only (Only.refl _ _) (by decide)
theorem execGetSensorReading_only (id : U16) (e : execGetSensorReading id s = .next y) :
    Only [.out, .power] s y := by
  cases e
  exact getSensorReading_only (Only.refl _ _) (by decide) _
theorem execGetStateSensorReadings_only (id : U16) (e : execGetStateSensorReadings id s = .next y) :
    Only [.out, .power] s y := by
  cases e
  exact getStateSensorReadings_only (Only.refl _ _) (by decide) _
theorem execPollForPlatformEvent_only(e : execPollForPlatformEvent s = .next y) :
    Only [.out, .power, .side] s y := by
  cases e
  exact pollForPlatformEvent_only (Only.refl _ _) (by decide)
theorem execEventMessageBufferSize_only (n : U16) (e : execEventMessageBufferSize n s = .next y) :
    Only [.out, .power, .free] s y := by
  cases e
  exact eventMessageBufferSize_only (Only.refl _ _) (by decide) _
theorem execPldmEnrolConfirm_only (v : U32) (e : execPldmEnrolConfirm v s = .next y) :
    Only [.yard, .out, .power] s y := by
  cases e
  exact pldmEnrolConfirm_only (Only.refl _ _) (by decide) _
theorem execPldmDecomConfirm_only (v : U32) (e : execPldmDecomConfirm v s = .next y) :
    Only [.yard, .pf, .vf, .history, .out, .clusters, .stalls, .prot, .power, .rsv, .tl, .side, .sessions] s y := by
  cases e
  exact pldmDecomConfirm_only (Only.refl _ _) (by decide) _
theorem execPldmResetWarm_only(e : execPldmResetWarm s = .next y) :
    Only [.gates, .yard, .pf, .vf, .history, .out, .hostMem, .clusters, .stalls, .hbm, .poison, .lineSlot, .mee, .prot, .power, .acct, .rsv, .rg, .tl, .sessions, .free] s y := by
  cases e
  exact pldmResetWarm_only (Only.refl _ _) (by decide)
theorem execPldmResetCold_only(e : execPldmResetCold s = .next y) :
    Only [.pf, .vf, .history, .out, .power, .rsv, .side] s y := by
  cases e
  exact pldmResetCold_only (Only.refl _ _) (by decide)
theorem execPldmSelftest_only(e : execPldmSelftest s = .next y) :
    Only [.out, .prot, .power] s y := by
  cases e
  exact pldmSelftest_only (Only.refl _ _) (by decide)
theorem execPldmZeroise_only(e : execPldmZeroise s = .next y) :
    Only [.yard, .pf, .vf, .history, .out, .clusters, .stalls, .prot, .power, .rsv, .tl, .side, .sessions] s y := by
  cases e
  exact pldmZeroise_only (Only.refl _ _) (by decide)
theorem execRegisterWrite_only (f : Fn) (r : RegAt) (v : U32) (e : execRegisterWrite f r v s = .next y) :
    Only [.pkg, .gtb, .gates, .ticks, .caps, .timers, .outs, .yard, .pf, .vf, .history, .out, .hostMem, .clusters, .stalls, .hbm, .poison, .lineSlot, .mee, .prot, .power, .acct, .rsv, .rg, .tl, .side, .sessions, .free] s y := by
  cases e
  exact registerWrite_only (Only.refl _ _) (by decide) _ _ _
theorem execReadToClear_only (f : Fn) (wide : Bool) (ofs : Nat) (e : execReadToClear f wide ofs s = .next y) :
    Only [.ticks, .pf, .vf, .rtpLat, .out, .stalls, .mee, .power, .rg, .tl, .side] s y := by
  cases e
  split
  · exact readWide_only (Only.refl _ _) (by decide) _ _
  · exact readToClear_only (Only.refl _ _) (by decide) _ _
theorem execSemWaitPass_only (q : QueueId) (pos : U32) (e : execSemWaitPass q pos s = .next y) :
    Only [.stalls, .hbm, .poison, .lineSlot, .mee] s y := by
  cases e
  exact semWaitPass_only (Only.refl _ _) (by decide) _ _
theorem execGtbCoarseEnd_only(e : execGtbCoarseEnd s = .next y) :
    Only [.gtb, .timers, .outs, .matrix, .pf, .out] s y := by
  cases e
  exact gtbCoarseEnd_only (Only.refl _ _) (by decide)
theorem execLaneLockLost_only (p : LinkPort) (e : execLaneLockLost p s = .next y) :
    Only [.pkg, .gtb, .pf, .vf, .history, .out, .hostMem, .stalls, .hbm, .poison, .lineSlot, .mee, .prot, .power, .rg, .tl, .sessions, .free] s y := by
  unfold execLaneLockLost State.onLink at e
  split at e <;> cases e
  exact laneLockLost_only (Only.refl _ _) (by decide) _
theorem execPortLowpowerExit_only (p : LinkPort) (e : execPortLowpowerExit p s = .next y) :
    Only [.out, .tl] s y := by
  unfold execPortLowpowerExit State.onLink at e
  split at e <;> cases e
  exact portLowpowerExit_only (Only.refl _ _) (by decide) _
theorem execSelftestRunDone_only (pass : Bool) (e : execSelftestRunDone pass s = .next y) :
    Only [.pf, .vf, .history, .out, .prot, .side, .free] s y := by
  cases e
  exact selftestRunDone_only (Only.refl _ _) (by decide) _
theorem execMeasureImageDone_only (n : StallNo) (e : execMeasureImageDone n s = .next y) :
    Only [.pf, .vf, .history, .out, .stalls, .hbm, .poison, .lineSlot, .mee] s y := by
  cases e
  exact measureImageDone_only (Only.refl _ _) (by decide) _
theorem execStallResetDone_only (n : StallNo) (e : execStallResetDone n s = .next y) :
    Only [.pf, .vf, .history, .out, .clusters, .stalls, .hbm, .poison, .lineSlot, .mee, .power, .acct, .tl, .sessions, .free] s y := by
  cases e
  exact stallResetDone_only (Only.refl _ _) (by decide) _
theorem execXlatInvalDone_only (n : StallNo) (e : execXlatInvalDone n s = .next y) :
    Only [.pf, .vf, .history, .out, .stalls] s y := by
  cases e
  exact xlatInvalDone_only (Only.refl _ _) (by decide) _
theorem execDebugHalt_only (n : StallNo) (clusters : List (Fin 512)) (e : execDebugHalt n clusters s = .next y) :
    Only [.stalls, .power] s y := by
  cases e
  exact debugHalt_only (Only.refl _ _) (by decide) _ _
theorem execDebugResume_only (n : StallNo) (e : execDebugResume n s = .next y) :
    Only [.stalls, .power] s y := by
  cases e
  exact debugResume_only (Only.refl _ _) (by decide) _
theorem execIdeKmRequest_only (p : HostPort) (stream : Fin 8) (op : IdeKm) (session : U32) (e : execIdeKmRequest p stream op session s = .next y) :
    Only [.ports] s y := by
  unfold execIdeKmRequest State.onPort at e
  split at e <;> cases e
  exact ideKmRequest_only (Only.refl _ _) (by decide) _ _ _ _

end Sys2Proof.Machine
end

