-- ==== Sys2Proof/Laws/State.lean ====
section
/-! SUPPORT. What each update of one part of the state leaves as it was, field by field, and what a read after it sees. -/

namespace Sys2Proof.Machine

variable (s : State)

@[simp] theorem State.setPf_pending (p : Nat) (f : PfInst → PfInst) : (s.setPf p f).pending = s.pending := rfl
@[simp] theorem State.setPf_pkg (p : Nat) (f : PfInst → PfInst) : (s.setPf p f).pkg = s.pkg := rfl
@[simp] theorem State.setPf_gtb (p : Nat) (f : PfInst → PfInst) : (s.setPf p f).gtb = s.gtb := rfl
@[simp] theorem State.setPf_tb (p : Nat) (f : PfInst → PfInst) : (s.setPf p f).tb = s.tb := rfl
@[simp] theorem State.setPf_yard (p : Nat) (f : PfInst → PfInst) : (s.setPf p f).yard = s.yard := rfl
@[simp] theorem State.setPf_clusters (p : Nat) (f : PfInst → PfInst) : (s.setPf p f).clusters = s.clusters := rfl
@[simp] theorem State.setPf_stalls (p : Nat) (f : PfInst → PfInst) : (s.setPf p f).stalls = s.stalls := rfl
@[simp] theorem State.setPf_hbm (p : Nat) (f : PfInst → PfInst) : (s.setPf p f).hbm = s.hbm := rfl
@[simp] theorem State.setPf_poison (p : Nat) (f : PfInst → PfInst) : (s.setPf p f).poison = s.poison := rfl
@[simp] theorem State.setPf_lineSlot (p : Nat) (f : PfInst → PfInst) : (s.setPf p f).lineSlot = s.lineSlot := rfl
@[simp] theorem State.setPf_mee (p : Nat) (f : PfInst → PfInst) : (s.setPf p f).mee = s.mee := rfl
@[simp] theorem State.setPf_prot (p : Nat) (f : PfInst → PfInst) : (s.setPf p f).prot = s.prot := rfl
@[simp] theorem State.setPf_power (p : Nat) (f : PfInst → PfInst) : (s.setPf p f).power = s.power := rfl
@[simp] theorem State.setPf_acct (p : Nat) (f : PfInst → PfInst) : (s.setPf p f).acct = s.acct := rfl
@[simp] theorem State.setPf_rsv (p : Nat) (f : PfInst → PfInst) : (s.setPf p f).rsv = s.rsv := rfl
@[simp] theorem State.setPf_rg (p : Nat) (f : PfInst → PfInst) : (s.setPf p f).rg = s.rg := rfl
@[simp] theorem State.setPf_tl (p : Nat) (f : PfInst → PfInst) : (s.setPf p f).tl = s.tl := rfl
@[simp] theorem State.setPf_side (p : Nat) (f : PfInst → PfInst) : (s.setPf p f).side = s.side := rfl
@[simp] theorem State.setPf_sessions (p : Nat) (f : PfInst → PfInst) : (s.setPf p f).sessions = s.sessions := rfl
@[simp] theorem State.setPf_free (p : Nat) (f : PfInst → PfInst) : (s.setPf p f).free = s.free := rfl
@[simp] theorem State.setPf_xlatCaching (p : Nat) (f : PfInst → PfInst) : (s.setPf p f).xlatCaching = s.xlatCaching := rfl
@[simp] theorem State.setPf_host_vf (p : Nat) (f : PfInst → PfInst) : (s.setPf p f).host.vf = s.host.vf := rfl
@[simp] theorem State.setPf_host_rtpLat (p : Nat) (f : PfInst → PfInst) : (s.setPf p f).host.rtpLat = s.host.rtpLat := rfl
@[simp] theorem State.setPf_host_ports (p : Nat) (f : PfInst → PfInst) : (s.setPf p f).host.ports = s.host.ports := rfl
@[simp] theorem State.setPf_host_unreach (p : Nat) (f : PfInst → PfInst) : (s.setPf p f).host.unreach = s.host.unreach := rfl
@[simp] theorem State.setPf_host_history (p : Nat) (f : PfInst → PfInst) : (s.setPf p f).host.history = s.host.history := rfl
@[simp] theorem State.setPf_host_out (p : Nat) (f : PfInst → PfInst) : (s.setPf p f).host.out = s.host.out := rfl
@[simp] theorem State.setPf_host_hostMem (p : Nat) (f : PfInst → PfInst) : (s.setPf p f).host.hostMem = s.host.hostMem := rfl
@[simp] theorem State.setPf_host_hostBad (p : Nat) (f : PfInst → PfInst) : (s.setPf p f).host.hostBad = s.host.hostBad := rfl

@[simp] theorem State.setVf_pending (p n : Nat) (f : VfInst → VfInst) : (s.setVf p n f).pending = s.pending := rfl
@[simp] theorem State.setVf_pkg (p n : Nat) (f : VfInst → VfInst) : (s.setVf p n f).pkg = s.pkg := rfl
@[simp] theorem State.setVf_gtb (p n : Nat) (f : VfInst → VfInst) : (s.setVf p n f).gtb = s.gtb := rfl
@[simp] theorem State.setVf_tb (p n : Nat) (f : VfInst → VfInst) : (s.setVf p n f).tb = s.tb := rfl
@[simp] theorem State.setVf_yard (p n : Nat) (f : VfInst → VfInst) : (s.setVf p n f).yard = s.yard := rfl
@[simp] theorem State.setVf_clusters (p n : Nat) (f : VfInst → VfInst) : (s.setVf p n f).clusters = s.clusters := rfl
@[simp] theorem State.setVf_stalls (p n : Nat) (f : VfInst → VfInst) : (s.setVf p n f).stalls = s.stalls := rfl
@[simp] theorem State.setVf_hbm (p n : Nat) (f : VfInst → VfInst) : (s.setVf p n f).hbm = s.hbm := rfl
@[simp] theorem State.setVf_poison (p n : Nat) (f : VfInst → VfInst) : (s.setVf p n f).poison = s.poison := rfl
@[simp] theorem State.setVf_lineSlot (p n : Nat) (f : VfInst → VfInst) : (s.setVf p n f).lineSlot = s.lineSlot := rfl
@[simp] theorem State.setVf_mee (p n : Nat) (f : VfInst → VfInst) : (s.setVf p n f).mee = s.mee := rfl
@[simp] theorem State.setVf_prot (p n : Nat) (f : VfInst → VfInst) : (s.setVf p n f).prot = s.prot := rfl
@[simp] theorem State.setVf_power (p n : Nat) (f : VfInst → VfInst) : (s.setVf p n f).power = s.power := rfl
@[simp] theorem State.setVf_acct (p n : Nat) (f : VfInst → VfInst) : (s.setVf p n f).acct = s.acct := rfl
@[simp] theorem State.setVf_rsv (p n : Nat) (f : VfInst → VfInst) : (s.setVf p n f).rsv = s.rsv := rfl
@[simp] theorem State.setVf_rg (p n : Nat) (f : VfInst → VfInst) : (s.setVf p n f).rg = s.rg := rfl
@[simp] theorem State.setVf_tl (p n : Nat) (f : VfInst → VfInst) : (s.setVf p n f).tl = s.tl := rfl
@[simp] theorem State.setVf_side (p n : Nat) (f : VfInst → VfInst) : (s.setVf p n f).side = s.side := rfl
@[simp] theorem State.setVf_sessions (p n : Nat) (f : VfInst → VfInst) : (s.setVf p n f).sessions = s.sessions := rfl
@[simp] theorem State.setVf_free (p n : Nat) (f : VfInst → VfInst) : (s.setVf p n f).free = s.free := rfl
@[simp] theorem State.setVf_xlatCaching (p n : Nat) (f : VfInst → VfInst) : (s.setVf p n f).xlatCaching = s.xlatCaching := rfl
@[simp] theorem State.setVf_host_pf (p n : Nat) (f : VfInst → VfInst) : (s.setVf p n f).host.pf = s.host.pf := rfl
@[simp] theorem State.setVf_host_rtpLat (p n : Nat) (f : VfInst → VfInst) : (s.setVf p n f).host.rtpLat = s.host.rtpLat := rfl
@[simp] theorem State.setVf_host_ports (p n : Nat) (f : VfInst → VfInst) : (s.setVf p n f).host.ports = s.host.ports := rfl
@[simp] theorem State.setVf_host_unreach (p n : Nat) (f : VfInst → VfInst) : (s.setVf p n f).host.unreach = s.host.unreach := rfl
@[simp] theorem State.setVf_host_history (p n : Nat) (f : VfInst → VfInst) : (s.setVf p n f).host.history = s.host.history := rfl
@[simp] theorem State.setVf_host_out (p n : Nat) (f : VfInst → VfInst) : (s.setVf p n f).host.out = s.host.out := rfl
@[simp] theorem State.setVf_host_hostMem (p n : Nat) (f : VfInst → VfInst) : (s.setVf p n f).host.hostMem = s.host.hostMem := rfl
@[simp] theorem State.setVf_host_hostBad (p n : Nat) (f : VfInst → VfInst) : (s.setVf p n f).host.hostBad = s.host.hostBad := rfl

@[simp] theorem State.emit_pending (o : Out) : (s.emit o).pending = s.pending := rfl
@[simp] theorem State.emit_pkg (o : Out) : (s.emit o).pkg = s.pkg := rfl
@[simp] theorem State.emit_gtb (o : Out) : (s.emit o).gtb = s.gtb := rfl
@[simp] theorem State.emit_tb (o : Out) : (s.emit o).tb = s.tb := rfl
@[simp] theorem State.emit_yard (o : Out) : (s.emit o).yard = s.yard := rfl
@[simp] theorem State.emit_clusters (o : Out) : (s.emit o).clusters = s.clusters := rfl
@[simp] theorem State.emit_stalls (o : Out) : (s.emit o).stalls = s.stalls := rfl
@[simp] theorem State.emit_hbm (o : Out) : (s.emit o).hbm = s.hbm := rfl
@[simp] theorem State.emit_poison (o : Out) : (s.emit o).poison = s.poison := rfl
@[simp] theorem State.emit_lineSlot (o : Out) : (s.emit o).lineSlot = s.lineSlot := rfl
@[simp] theorem State.emit_mee (o : Out) : (s.emit o).mee = s.mee := rfl
@[simp] theorem State.emit_prot (o : Out) : (s.emit o).prot = s.prot := rfl
@[simp] theorem State.emit_power (o : Out) : (s.emit o).power = s.power := rfl
@[simp] theorem State.emit_acct (o : Out) : (s.emit o).acct = s.acct := rfl
@[simp] theorem State.emit_rsv (o : Out) : (s.emit o).rsv = s.rsv := rfl
@[simp] theorem State.emit_rg (o : Out) : (s.emit o).rg = s.rg := rfl
@[simp] theorem State.emit_tl (o : Out) : (s.emit o).tl = s.tl := rfl
@[simp] theorem State.emit_side (o : Out) : (s.emit o).side = s.side := rfl
@[simp] theorem State.emit_sessions (o : Out) : (s.emit o).sessions = s.sessions := rfl
@[simp] theorem State.emit_free (o : Out) : (s.emit o).free = s.free := rfl
@[simp] theorem State.emit_xlatCaching (o : Out) : (s.emit o).xlatCaching = s.xlatCaching := rfl
@[simp] theorem State.emit_host_pf (o : Out) : (s.emit o).host.pf = s.host.pf := rfl
@[simp] theorem State.emit_host_vf (o : Out) : (s.emit o).host.vf = s.host.vf := rfl
@[simp] theorem State.emit_host_rtpLat (o : Out) : (s.emit o).host.rtpLat = s.host.rtpLat := rfl
@[simp] theorem State.emit_host_ports (o : Out) : (s.emit o).host.ports = s.host.ports := rfl
@[simp] theorem State.emit_host_unreach (o : Out) : (s.emit o).host.unreach = s.host.unreach := rfl
@[simp] theorem State.emit_host_history (o : Out) : (s.emit o).host.history = s.host.history := rfl
@[simp] theorem State.emit_host_hostMem (o : Out) : (s.emit o).host.hostMem = s.host.hostMem := rfl
@[simp] theorem State.emit_host_hostBad (o : Out) : (s.emit o).host.hostBad = s.host.hostBad := rfl

@[simp] theorem State.setPort_pending (p : Nat) (f : HostPortSt → HostPortSt) : (s.setPort p f).pending = s.pending := rfl
@[simp] theorem State.setPort_pkg (p : Nat) (f : HostPortSt → HostPortSt) : (s.setPort p f).pkg = s.pkg := rfl
@[simp] theorem State.setPort_gtb (p : Nat) (f : HostPortSt → HostPortSt) : (s.setPort p f).gtb = s.gtb := rfl
@[simp] theorem State.setPort_tb (p : Nat) (f : HostPortSt → HostPortSt) : (s.setPort p f).tb = s.tb := rfl
@[simp] theorem State.setPort_yard (p : Nat) (f : HostPortSt → HostPortSt) : (s.setPort p f).yard = s.yard := rfl
@[simp] theorem State.setPort_clusters (p : Nat) (f : HostPortSt → HostPortSt) : (s.setPort p f).clusters = s.clusters := rfl
@[simp] theorem State.setPort_stalls (p : Nat) (f : HostPortSt → HostPortSt) : (s.setPort p f).stalls = s.stalls := rfl
@[simp] theorem State.setPort_hbm (p : Nat) (f : HostPortSt → HostPortSt) : (s.setPort p f).hbm = s.hbm := rfl
@[simp] theorem State.setPort_poison (p : Nat) (f : HostPortSt → HostPortSt) : (s.setPort p f).poison = s.poison := rfl
@[simp] theorem State.setPort_lineSlot (p : Nat) (f : HostPortSt → HostPortSt) : (s.setPort p f).lineSlot = s.lineSlot := rfl
@[simp] theorem State.setPort_mee (p : Nat) (f : HostPortSt → HostPortSt) : (s.setPort p f).mee = s.mee := rfl
@[simp] theorem State.setPort_prot (p : Nat) (f : HostPortSt → HostPortSt) : (s.setPort p f).prot = s.prot := rfl
@[simp] theorem State.setPort_power (p : Nat) (f : HostPortSt → HostPortSt) : (s.setPort p f).power = s.power := rfl
@[simp] theorem State.setPort_acct (p : Nat) (f : HostPortSt → HostPortSt) : (s.setPort p f).acct = s.acct := rfl
@[simp] theorem State.setPort_rsv (p : Nat) (f : HostPortSt → HostPortSt) : (s.setPort p f).rsv = s.rsv := rfl
@[simp] theorem State.setPort_rg (p : Nat) (f : HostPortSt → HostPortSt) : (s.setPort p f).rg = s.rg := rfl
@[simp] theorem State.setPort_tl (p : Nat) (f : HostPortSt → HostPortSt) : (s.setPort p f).tl = s.tl := rfl
@[simp] theorem State.setPort_side (p : Nat) (f : HostPortSt → HostPortSt) : (s.setPort p f).side = s.side := rfl
@[simp] theorem State.setPort_sessions (p : Nat) (f : HostPortSt → HostPortSt) : (s.setPort p f).sessions = s.sessions := rfl
@[simp] theorem State.setPort_free (p : Nat) (f : HostPortSt → HostPortSt) : (s.setPort p f).free = s.free := rfl
@[simp] theorem State.setPort_xlatCaching (p : Nat) (f : HostPortSt → HostPortSt) : (s.setPort p f).xlatCaching = s.xlatCaching := rfl
@[simp] theorem State.setPort_host_pf (p : Nat) (f : HostPortSt → HostPortSt) : (s.setPort p f).host.pf = s.host.pf := rfl
@[simp] theorem State.setPort_host_vf (p : Nat) (f : HostPortSt → HostPortSt) : (s.setPort p f).host.vf = s.host.vf := rfl
@[simp] theorem State.setPort_host_rtpLat (p : Nat) (f : HostPortSt → HostPortSt) : (s.setPort p f).host.rtpLat = s.host.rtpLat := rfl
@[simp] theorem State.setPort_host_unreach (p : Nat) (f : HostPortSt → HostPortSt) : (s.setPort p f).host.unreach = s.host.unreach := rfl
@[simp] theorem State.setPort_host_history (p : Nat) (f : HostPortSt → HostPortSt) : (s.setPort p f).host.history = s.host.history := rfl
@[simp] theorem State.setPort_host_out (p : Nat) (f : HostPortSt → HostPortSt) : (s.setPort p f).host.out = s.host.out := rfl
@[simp] theorem State.setPort_host_hostMem (p : Nat) (f : HostPortSt → HostPortSt) : (s.setPort p f).host.hostMem = s.host.hostMem := rfl
@[simp] theorem State.setPort_host_hostBad (p : Nat) (f : HostPortSt → HostPortSt) : (s.setPort p f).host.hostBad = s.host.hostBad := rfl

@[simp] theorem State.setTimer_pending (n : Nat) (f : Timer → Timer) : (s.setTimer n f).pending = s.pending := rfl
@[simp] theorem State.setTimer_pkg (n : Nat) (f : Timer → Timer) : (s.setTimer n f).pkg = s.pkg := rfl
@[simp] theorem State.setTimer_gtb (n : Nat) (f : Timer → Timer) : (s.setTimer n f).gtb = s.gtb := rfl
@[simp] theorem State.setTimer_yard (n : Nat) (f : Timer → Timer) : (s.setTimer n f).yard = s.yard := rfl
@[simp] theorem State.setTimer_host (n : Nat) (f : Timer → Timer) : (s.setTimer n f).host = s.host := rfl
@[simp] theorem State.setTimer_clusters (n : Nat) (f : Timer → Timer) : (s.setTimer n f).clusters = s.clusters := rfl
@[simp] theorem State.setTimer_stalls (n : Nat) (f : Timer → Timer) : (s.setTimer n f).stalls = s.stalls := rfl
@[simp] theorem State.setTimer_hbm (n : Nat) (f : Timer → Timer) : (s.setTimer n f).hbm = s.hbm := rfl
@[simp] theorem State.setTimer_poison (n : Nat) (f : Timer → Timer) : (s.setTimer n f).poison = s.poison := rfl
@[simp] theorem State.setTimer_lineSlot (n : Nat) (f : Timer → Timer) : (s.setTimer n f).lineSlot = s.lineSlot := rfl
@[simp] theorem State.setTimer_mee (n : Nat) (f : Timer → Timer) : (s.setTimer n f).mee = s.mee := rfl
@[simp] theorem State.setTimer_prot (n : Nat) (f : Timer → Timer) : (s.setTimer n f).prot = s.prot := rfl
@[simp] theorem State.setTimer_power (n : Nat) (f : Timer → Timer) : (s.setTimer n f).power = s.power := rfl
@[simp] theorem State.setTimer_acct (n : Nat) (f : Timer → Timer) : (s.setTimer n f).acct = s.acct := rfl
@[simp] theorem State.setTimer_rsv (n : Nat) (f : Timer → Timer) : (s.setTimer n f).rsv = s.rsv := rfl
@[simp] theorem State.setTimer_rg (n : Nat) (f : Timer → Timer) : (s.setTimer n f).rg = s.rg := rfl
@[simp] theorem State.setTimer_tl (n : Nat) (f : Timer → Timer) : (s.setTimer n f).tl = s.tl := rfl
@[simp] theorem State.setTimer_side (n : Nat) (f : Timer → Timer) : (s.setTimer n f).side = s.side := rfl
@[simp] theorem State.setTimer_sessions (n : Nat) (f : Timer → Timer) : (s.setTimer n f).sessions = s.sessions := rfl
@[simp] theorem State.setTimer_free (n : Nat) (f : Timer → Timer) : (s.setTimer n f).free = s.free := rfl
@[simp] theorem State.setTimer_xlatCaching (n : Nat) (f : Timer → Timer) : (s.setTimer n f).xlatCaching = s.xlatCaching := rfl
@[simp] theorem State.setTimer_tb_gates (n : Nat) (f : Timer → Timer) : (s.setTimer n f).tb.gates = s.tb.gates := rfl
@[simp] theorem State.setTimer_tb_ticks (n : Nat) (f : Timer → Timer) : (s.setTimer n f).tb.ticks = s.tb.ticks := rfl
@[simp] theorem State.setTimer_tb_caps (n : Nat) (f : Timer → Timer) : (s.setTimer n f).tb.caps = s.tb.caps := rfl
@[simp] theorem State.setTimer_tb_outs (n : Nat) (f : Timer → Timer) : (s.setTimer n f).tb.outs = s.tb.outs := rfl
@[simp] theorem State.setTimer_tb_matrix (n : Nat) (f : Timer → Timer) : (s.setTimer n f).tb.matrix = s.tb.matrix := rfl
@[simp] theorem State.setTimer_tb_gridDone (n : Nat) (f : Timer → Timer) : (s.setTimer n f).tb.gridDone = s.tb.gridDone := rfl
@[simp] theorem State.setTimer_tb_winDone (n : Nat) (f : Timer → Timer) : (s.setTimer n f).tb.winDone = s.tb.winDone := rfl
@[simp] theorem State.setTimer_tb_irqLater (n : Nat) (f : Timer → Timer) : (s.setTimer n f).tb.irqLater = s.tb.irqLater := rfl

@[simp] theorem State.setCap_pending (n : Nat) (f : Capture → Capture) : (s.setCap n f).pending = s.pending := rfl
@[simp] theorem State.setCap_pkg (n : Nat) (f : Capture → Capture) : (s.setCap n f).pkg = s.pkg := rfl
@[simp] theorem State.setCap_gtb (n : Nat) (f : Capture → Capture) : (s.setCap n f).gtb = s.gtb := rfl
@[simp] theorem State.setCap_yard (n : Nat) (f : Capture → Capture) : (s.setCap n f).yard = s.yard := rfl
@[simp] theorem State.setCap_host (n : Nat) (f : Capture → Capture) : (s.setCap n f).host = s.host := rfl
@[simp] theorem State.setCap_clusters (n : Nat) (f : Capture → Capture) : (s.setCap n f).clusters = s.clusters := rfl
@[simp] theorem State.setCap_stalls (n : Nat) (f : Capture → Capture) : (s.setCap n f).stalls = s.stalls := rfl
@[simp] theorem State.setCap_hbm (n : Nat) (f : Capture → Capture) : (s.setCap n f).hbm = s.hbm := rfl
@[simp] theorem State.setCap_poison (n : Nat) (f : Capture → Capture) : (s.setCap n f).poison = s.poison := rfl
@[simp] theorem State.setCap_lineSlot (n : Nat) (f : Capture → Capture) : (s.setCap n f).lineSlot = s.lineSlot := rfl
@[simp] theorem State.setCap_mee (n : Nat) (f : Capture → Capture) : (s.setCap n f).mee = s.mee := rfl
@[simp] theorem State.setCap_prot (n : Nat) (f : Capture → Capture) : (s.setCap n f).prot = s.prot := rfl
@[simp] theorem State.setCap_power (n : Nat) (f : Capture → Capture) : (s.setCap n f).power = s.power := rfl
@[simp] theorem State.setCap_acct (n : Nat) (f : Capture → Capture) : (s.setCap n f).acct = s.acct := rfl
@[simp] theorem State.setCap_rsv (n : Nat) (f : Capture → Capture) : (s.setCap n f).rsv = s.rsv := rfl
@[simp] theorem State.setCap_rg (n : Nat) (f : Capture → Capture) : (s.setCap n f).rg = s.rg := rfl
@[simp] theorem State.setCap_tl (n : Nat) (f : Capture → Capture) : (s.setCap n f).tl = s.tl := rfl
@[simp] theorem State.setCap_side (n : Nat) (f : Capture → Capture) : (s.setCap n f).side = s.side := rfl
@[simp] theorem State.setCap_sessions (n : Nat) (f : Capture → Capture) : (s.setCap n f).sessions = s.sessions := rfl
@[simp] theorem State.setCap_free (n : Nat) (f : Capture → Capture) : (s.setCap n f).free = s.free := rfl
@[simp] theorem State.setCap_xlatCaching (n : Nat) (f : Capture → Capture) : (s.setCap n f).xlatCaching = s.xlatCaching := rfl
@[simp] theorem State.setCap_tb_gates (n : Nat) (f : Capture → Capture) : (s.setCap n f).tb.gates = s.tb.gates := rfl
@[simp] theorem State.setCap_tb_ticks (n : Nat) (f : Capture → Capture) : (s.setCap n f).tb.ticks = s.tb.ticks := rfl
@[simp] theorem State.setCap_tb_timers (n : Nat) (f : Capture → Capture) : (s.setCap n f).tb.timers = s.tb.timers := rfl
@[simp] theorem State.setCap_tb_outs (n : Nat) (f : Capture → Capture) : (s.setCap n f).tb.outs = s.tb.outs := rfl
@[simp] theorem State.setCap_tb_matrix (n : Nat) (f : Capture → Capture) : (s.setCap n f).tb.matrix = s.tb.matrix := rfl
@[simp] theorem State.setCap_tb_gridDone (n : Nat) (f : Capture → Capture) : (s.setCap n f).tb.gridDone = s.tb.gridDone := rfl
@[simp] theorem State.setCap_tb_winDone (n : Nat) (f : Capture → Capture) : (s.setCap n f).tb.winDone = s.tb.winDone := rfl
@[simp] theorem State.setCap_tb_irqLater (n : Nat) (f : Capture → Capture) : (s.setCap n f).tb.irqLater = s.tb.irqLater := rfl

@[simp] theorem State.setTick_pending (n : Nat) (f : TickCh → TickCh) : (s.setTick n f).pending = s.pending := rfl
@[simp] theorem State.setTick_pkg (n : Nat) (f : TickCh → TickCh) : (s.setTick n f).pkg = s.pkg := rfl
@[simp] theorem State.setTick_gtb (n : Nat) (f : TickCh → TickCh) : (s.setTick n f).gtb = s.gtb := rfl
@[simp] theorem State.setTick_yard (n : Nat) (f : TickCh → TickCh) : (s.setTick n f).yard = s.yard := rfl
@[simp] theorem State.setTick_host (n : Nat) (f : TickCh → TickCh) : (s.setTick n f).host = s.host := rfl
@[simp] theorem State.setTick_clusters (n : Nat) (f : TickCh → TickCh) : (s.setTick n f).clusters = s.clusters := rfl
@[simp] theorem State.setTick_stalls (n : Nat) (f : TickCh → TickCh) : (s.setTick n f).stalls = s.stalls := rfl
@[simp] theorem State.setTick_hbm (n : Nat) (f : TickCh → TickCh) : (s.setTick n f).hbm = s.hbm := rfl
@[simp] theorem State.setTick_poison (n : Nat) (f : TickCh → TickCh) : (s.setTick n f).poison = s.poison := rfl
@[simp] theorem State.setTick_lineSlot (n : Nat) (f : TickCh → TickCh) : (s.setTick n f).lineSlot = s.lineSlot := rfl
@[simp] theorem State.setTick_mee (n : Nat) (f : TickCh → TickCh) : (s.setTick n f).mee = s.mee := rfl
@[simp] theorem State.setTick_prot (n : Nat) (f : TickCh → TickCh) : (s.setTick n f).prot = s.prot := rfl
@[simp] theorem State.setTick_power (n : Nat) (f : TickCh → TickCh) : (s.setTick n f).power = s.power := rfl
@[simp] theorem State.setTick_acct (n : Nat) (f : TickCh → TickCh) : (s.setTick n f).acct = s.acct := rfl
@[simp] theorem State.setTick_rsv (n : Nat) (f : TickCh → TickCh) : (s.setTick n f).rsv = s.rsv := rfl
@[simp] theorem State.setTick_rg (n : Nat) (f : TickCh → TickCh) : (s.setTick n f).rg = s.rg := rfl
@[simp] theorem State.setTick_tl (n : Nat) (f : TickCh → TickCh) : (s.setTick n f).tl = s.tl := rfl
@[simp] theorem State.setTick_side (n : Nat) (f : TickCh → TickCh) : (s.setTick n f).side = s.side := rfl
@[simp] theorem State.setTick_sessions (n : Nat) (f : TickCh → TickCh) : (s.setTick n f).sessions = s.sessions := rfl
@[simp] theorem State.setTick_free (n : Nat) (f : TickCh → TickCh) : (s.setTick n f).free = s.free := rfl
@[simp] theorem State.setTick_xlatCaching (n : Nat) (f : TickCh → TickCh) : (s.setTick n f).xlatCaching = s.xlatCaching := rfl
@[simp] theorem State.setTick_tb_gates (n : Nat) (f : TickCh → TickCh) : (s.setTick n f).tb.gates = s.tb.gates := rfl
@[simp] theorem State.setTick_tb_caps (n : Nat) (f : TickCh → TickCh) : (s.setTick n f).tb.caps = s.tb.caps := rfl
@[simp] theorem State.setTick_tb_timers (n : Nat) (f : TickCh → TickCh) : (s.setTick n f).tb.timers = s.tb.timers := rfl
@[simp] theorem State.setTick_tb_outs (n : Nat) (f : TickCh → TickCh) : (s.setTick n f).tb.outs = s.tb.outs := rfl
@[simp] theorem State.setTick_tb_matrix (n : Nat) (f : TickCh → TickCh) : (s.setTick n f).tb.matrix = s.tb.matrix := rfl
@[simp] theorem State.setTick_tb_gridDone (n : Nat) (f : TickCh → TickCh) : (s.setTick n f).tb.gridDone = s.tb.gridDone := rfl
@[simp] theorem State.setTick_tb_winDone (n : Nat) (f : TickCh → TickCh) : (s.setTick n f).tb.winDone = s.tb.winDone := rfl
@[simp] theorem State.setTick_tb_irqLater (n : Nat) (f : TickCh → TickCh) : (s.setTick n f).tb.irqLater = s.tb.irqLater := rfl

@[simp] theorem State.setGate_pending (g : Nat) (f : Gate → Gate) : (s.setGate g f).pending = s.pending := rfl
@[simp] theorem State.setGate_pkg (g : Nat) (f : Gate → Gate) : (s.setGate g f).pkg = s.pkg := rfl
@[simp] theorem State.setGate_gtb (g : Nat) (f : Gate → Gate) : (s.setGate g f).gtb = s.gtb := rfl
@[simp] theorem State.setGate_yard (g : Nat) (f : Gate → Gate) : (s.setGate g f).yard = s.yard := rfl
@[simp] theorem State.setGate_host (g : Nat) (f : Gate → Gate) : (s.setGate g f).host = s.host := rfl
@[simp] theorem State.setGate_clusters (g : Nat) (f : Gate → Gate) : (s.setGate g f).clusters = s.clusters := rfl
@[simp] theorem State.setGate_stalls (g : Nat) (f : Gate → Gate) : (s.setGate g f).stalls = s.stalls := rfl
@[simp] theorem State.setGate_hbm (g : Nat) (f : Gate → Gate) : (s.setGate g f).hbm = s.hbm := rfl
@[simp] theorem State.setGate_poison (g : Nat) (f : Gate → Gate) : (s.setGate g f).poison = s.poison := rfl
@[simp] theorem State.setGate_lineSlot (g : Nat) (f : Gate → Gate) : (s.setGate g f).lineSlot = s.lineSlot := rfl
@[simp] theorem State.setGate_mee (g : Nat) (f : Gate → Gate) : (s.setGate g f).mee = s.mee := rfl
@[simp] theorem State.setGate_prot (g : Nat) (f : Gate → Gate) : (s.setGate g f).prot = s.prot := rfl
@[simp] theorem State.setGate_power (g : Nat) (f : Gate → Gate) : (s.setGate g f).power = s.power := rfl
@[simp] theorem State.setGate_acct (g : Nat) (f : Gate → Gate) : (s.setGate g f).acct = s.acct := rfl
@[simp] theorem State.setGate_rsv (g : Nat) (f : Gate → Gate) : (s.setGate g f).rsv = s.rsv := rfl
@[simp] theorem State.setGate_rg (g : Nat) (f : Gate → Gate) : (s.setGate g f).rg = s.rg := rfl
@[simp] theorem State.setGate_tl (g : Nat) (f : Gate → Gate) : (s.setGate g f).tl = s.tl := rfl
@[simp] theorem State.setGate_side (g : Nat) (f : Gate → Gate) : (s.setGate g f).side = s.side := rfl
@[simp] theorem State.setGate_sessions (g : Nat) (f : Gate → Gate) : (s.setGate g f).sessions = s.sessions := rfl
@[simp] theorem State.setGate_free (g : Nat) (f : Gate → Gate) : (s.setGate g f).free = s.free := rfl
@[simp] theorem State.setGate_xlatCaching (g : Nat) (f : Gate → Gate) : (s.setGate g f).xlatCaching = s.xlatCaching := rfl
@[simp] theorem State.setGate_tb_ticks (g : Nat) (f : Gate → Gate) : (s.setGate g f).tb.ticks = s.tb.ticks := rfl
@[simp] theorem State.setGate_tb_caps (g : Nat) (f : Gate → Gate) : (s.setGate g f).tb.caps = s.tb.caps := rfl
@[simp] theorem State.setGate_tb_timers (g : Nat) (f : Gate → Gate) : (s.setGate g f).tb.timers = s.tb.timers := rfl
@[simp] theorem State.setGate_tb_outs (g : Nat) (f : Gate → Gate) : (s.setGate g f).tb.outs = s.tb.outs := rfl
@[simp] theorem State.setGate_tb_matrix (g : Nat) (f : Gate → Gate) : (s.setGate g f).tb.matrix = s.tb.matrix := rfl
@[simp] theorem State.setGate_tb_gridDone (g : Nat) (f : Gate → Gate) : (s.setGate g f).tb.gridDone = s.tb.gridDone := rfl
@[simp] theorem State.setGate_tb_winDone (g : Nat) (f : Gate → Gate) : (s.setGate g f).tb.winDone = s.tb.winDone := rfl
@[simp] theorem State.setGate_tb_irqLater (g : Nat) (f : Gate → Gate) : (s.setGate g f).tb.irqLater = s.tb.irqLater := rfl

@[simp] theorem State.setOut_pending (n : Nat) (f : SyncOut → SyncOut) : (s.setOut n f).pending = s.pending := rfl
@[simp] theorem State.setOut_pkg (n : Nat) (f : SyncOut → SyncOut) : (s.setOut n f).pkg = s.pkg := rfl
@[simp] theorem State.setOut_gtb (n : Nat) (f : SyncOut → SyncOut) : (s.setOut n f).gtb = s.gtb := rfl
@[simp] theorem State.setOut_yard (n : Nat) (f : SyncOut → SyncOut) : (s.setOut n f).yard = s.yard := rfl
@[simp] theorem State.setOut_host (n : Nat) (f : SyncOut → SyncOut) : (s.setOut n f).host = s.host := rfl
@[simp] theorem State.setOut_clusters (n : Nat) (f : SyncOut → SyncOut) : (s.setOut n f).clusters = s.clusters := rfl
@[simp] theorem State.setOut_stalls (n : Nat) (f : SyncOut → SyncOut) : (s.setOut n f).stalls = s.stalls := rfl
@[simp] theorem State.setOut_hbm (n : Nat) (f : SyncOut → SyncOut) : (s.setOut n f).hbm = s.hbm := rfl
@[simp] theorem State.setOut_poison (n : Nat) (f : SyncOut → SyncOut) : (s.setOut n f).poison = s.poison := rfl
@[simp] theorem State.setOut_lineSlot (n : Nat) (f : SyncOut → SyncOut) : (s.setOut n f).lineSlot = s.lineSlot := rfl
@[simp] theorem State.setOut_mee (n : Nat) (f : SyncOut → SyncOut) : (s.setOut n f).mee = s.mee := rfl
@[simp] theorem State.setOut_prot (n : Nat) (f : SyncOut → SyncOut) : (s.setOut n f).prot = s.prot := rfl
@[simp] theorem State.setOut_power (n : Nat) (f : SyncOut → SyncOut) : (s.setOut n f).power = s.power := rfl
@[simp] theorem State.setOut_acct (n : Nat) (f : SyncOut → SyncOut) : (s.setOut n f).acct = s.acct := rfl
@[simp] theorem State.setOut_rsv (n : Nat) (f : SyncOut → SyncOut) : (s.setOut n f).rsv = s.rsv := rfl
@[simp] theorem State.setOut_rg (n : Nat) (f : SyncOut → SyncOut) : (s.setOut n f).rg = s.rg := rfl
@[simp] theorem State.setOut_tl (n : Nat) (f : SyncOut → SyncOut) : (s.setOut n f).tl = s.tl := rfl
@[simp] theorem State.setOut_side (n : Nat) (f : SyncOut → SyncOut) : (s.setOut n f).side = s.side := rfl
@[simp] theorem State.setOut_sessions (n : Nat) (f : SyncOut → SyncOut) : (s.setOut n f).sessions = s.sessions := rfl
@[simp] theorem State.setOut_free (n : Nat) (f : SyncOut → SyncOut) : (s.setOut n f).free = s.free := rfl
@[simp] theorem State.setOut_xlatCaching (n : Nat) (f : SyncOut → SyncOut) : (s.setOut n f).xlatCaching = s.xlatCaching := rfl
@[simp] theorem State.setOut_tb_gates (n : Nat) (f : SyncOut → SyncOut) : (s.setOut n f).tb.gates = s.tb.gates := rfl
@[simp] theorem State.setOut_tb_ticks (n : Nat) (f : SyncOut → SyncOut) : (s.setOut n f).tb.ticks = s.tb.ticks := rfl
@[simp] theorem State.setOut_tb_caps (n : Nat) (f : SyncOut → SyncOut) : (s.setOut n f).tb.caps = s.tb.caps := rfl
@[simp] theorem State.setOut_tb_timers (n : Nat) (f : SyncOut → SyncOut) : (s.setOut n f).tb.timers = s.tb.timers := rfl
@[simp] theorem State.setOut_tb_matrix (n : Nat) (f : SyncOut → SyncOut) : (s.setOut n f).tb.matrix = s.tb.matrix := rfl
@[simp] theorem State.setOut_tb_gridDone (n : Nat) (f : SyncOut → SyncOut) : (s.setOut n f).tb.gridDone = s.tb.gridDone := rfl
@[simp] theorem State.setOut_tb_winDone (n : Nat) (f : SyncOut → SyncOut) : (s.setOut n f).tb.winDone = s.tb.winDone := rfl
@[simp] theorem State.setOut_tb_irqLater (n : Nat) (f : SyncOut → SyncOut) : (s.setOut n f).tb.irqLater = s.tb.irqLater := rfl

@[simp] theorem State.setStall_pending (n : Nat) (t : Stall) : (s.setStall n t).pending = s.pending := rfl
@[simp] theorem State.setStall_pkg (n : Nat) (t : Stall) : (s.setStall n t).pkg = s.pkg := rfl
@[simp] theorem State.setStall_gtb (n : Nat) (t : Stall) : (s.setStall n t).gtb = s.gtb := rfl
@[simp] theorem State.setStall_tb (n : Nat) (t : Stall) : (s.setStall n t).tb = s.tb := rfl
@[simp] theorem State.setStall_yard (n : Nat) (t : Stall) : (s.setStall n t).yard = s.yard := rfl
@[simp] theorem State.setStall_host (n : Nat) (t : Stall) : (s.setStall n t).host = s.host := rfl
@[simp] theorem State.setStall_clusters (n : Nat) (t : Stall) : (s.setStall n t).clusters = s.clusters := rfl
@[simp] theorem State.setStall_hbm (n : Nat) (t : Stall) : (s.setStall n t).hbm = s.hbm := rfl
@[simp] theorem State.setStall_poison (n : Nat) (t : Stall) : (s.setStall n t).poison = s.poison := rfl
@[simp] theorem State.setStall_lineSlot (n : Nat) (t : Stall) : (s.setStall n t).lineSlot = s.lineSlot := rfl
@[simp] theorem State.setStall_mee (n : Nat) (t : Stall) : (s.setStall n t).mee = s.mee := rfl
@[simp] theorem State.setStall_prot (n : Nat) (t : Stall) : (s.setStall n t).prot = s.prot := rfl
@[simp] theorem State.setStall_power (n : Nat) (t : Stall) : (s.setStall n t).power = s.power := rfl
@[simp] theorem State.setStall_acct (n : Nat) (t : Stall) : (s.setStall n t).acct = s.acct := rfl
@[simp] theorem State.setStall_rsv (n : Nat) (t : Stall) : (s.setStall n t).rsv = s.rsv := rfl
@[simp] theorem State.setStall_rg (n : Nat) (t : Stall) : (s.setStall n t).rg = s.rg := rfl
@[simp] theorem State.setStall_tl (n : Nat) (t : Stall) : (s.setStall n t).tl = s.tl := rfl
@[simp] theorem State.setStall_side (n : Nat) (t : Stall) : (s.setStall n t).side = s.side := rfl
@[simp] theorem State.setStall_sessions (n : Nat) (t : Stall) : (s.setStall n t).sessions = s.sessions := rfl
@[simp] theorem State.setStall_free (n : Nat) (t : Stall) : (s.setStall n t).free = s.free := rfl
@[simp] theorem State.setStall_xlatCaching (n : Nat) (t : Stall) : (s.setStall n t).xlatCaching = s.xlatCaching := rfl

@[simp] theorem State.setCluster_pending (c : Nat) (f : Cluster → Cluster) : (s.setCluster c f).pending = s.pending := rfl
@[simp] theorem State.setCluster_pkg (c : Nat) (f : Cluster → Cluster) : (s.setCluster c f).pkg = s.pkg := rfl
@[simp] theorem State.setCluster_gtb (c : Nat) (f : Cluster → Cluster) : (s.setCluster c f).gtb = s.gtb := rfl
@[simp] theorem State.setCluster_tb (c : Nat) (f : Cluster → Cluster) : (s.setCluster c f).tb = s.tb := rfl
@[simp] theorem State.setCluster_yard (c : Nat) (f : Cluster → Cluster) : (s.setCluster c f).yard = s.yard := rfl
@[simp] theorem State.setCluster_host (c : Nat) (f : Cluster → Cluster) : (s.setCluster c f).host = s.host := rfl
@[simp] theorem State.setCluster_stalls (c : Nat) (f : Cluster → Cluster) : (s.setCluster c f).stalls = s.stalls := rfl
@[simp] theorem State.setCluster_hbm (c : Nat) (f : Cluster → Cluster) : (s.setCluster c f).hbm = s.hbm := rfl
@[simp] theorem State.setCluster_poison (c : Nat) (f : Cluster → Cluster) : (s.setCluster c f).poison = s.poison := rfl
@[simp] theorem State.setCluster_lineSlot (c : Nat) (f : Cluster → Cluster) : (s.setCluster c f).lineSlot = s.lineSlot := rfl
@[simp] theorem State.setCluster_mee (c : Nat) (f : Cluster → Cluster) : (s.setCluster c f).mee = s.mee := rfl
@[simp] theorem State.setCluster_prot (c : Nat) (f : Cluster → Cluster) : (s.setCluster c f).prot = s.prot := rfl
@[simp] theorem State.setCluster_power (c : Nat) (f : Cluster → Cluster) : (s.setCluster c f).power = s.power := rfl
@[simp] theorem State.setCluster_acct (c : Nat) (f : Cluster → Cluster) : (s.setCluster c f).acct = s.acct := rfl
@[simp] theorem State.setCluster_rsv (c : Nat) (f : Cluster → Cluster) : (s.setCluster c f).rsv = s.rsv := rfl
@[simp] theorem State.setCluster_rg (c : Nat) (f : Cluster → Cluster) : (s.setCluster c f).rg = s.rg := rfl
@[simp] theorem State.setCluster_tl (c : Nat) (f : Cluster → Cluster) : (s.setCluster c f).tl = s.tl := rfl
@[simp] theorem State.setCluster_side (c : Nat) (f : Cluster → Cluster) : (s.setCluster c f).side = s.side := rfl
@[simp] theorem State.setCluster_sessions (c : Nat) (f : Cluster → Cluster) : (s.setCluster c f).sessions = s.sessions := rfl
@[simp] theorem State.setCluster_free (c : Nat) (f : Cluster → Cluster) : (s.setCluster c f).free = s.free := rfl
@[simp] theorem State.setCluster_xlatCaching (c : Nat) (f : Cluster → Cluster) : (s.setCluster c f).xlatCaching = s.xlatCaching := rfl

@[simp] theorem State.setSky_pending (c : Nat) (f : ClusterSky → ClusterSky) : (s.setSky c f).pending = s.pending := rfl
@[simp] theorem State.setSky_pkg (c : Nat) (f : ClusterSky → ClusterSky) : (s.setSky c f).pkg = s.pkg := rfl
@[simp] theorem State.setSky_gtb (c : Nat) (f : ClusterSky → ClusterSky) : (s.setSky c f).gtb = s.gtb := rfl
@[simp] theorem State.setSky_tb (c : Nat) (f : ClusterSky → ClusterSky) : (s.setSky c f).tb = s.tb := rfl
@[simp] theorem State.setSky_yard (c : Nat) (f : ClusterSky → ClusterSky) : (s.setSky c f).yard = s.yard := rfl
@[simp] theorem State.setSky_host (c : Nat) (f : ClusterSky → ClusterSky) : (s.setSky c f).host = s.host := rfl
@[simp] theorem State.setSky_clusters (c : Nat) (f : ClusterSky → ClusterSky) : (s.setSky c f).clusters = s.clusters := rfl
@[simp] theorem State.setSky_stalls (c : Nat) (f : ClusterSky → ClusterSky) : (s.setSky c f).stalls = s.stalls := rfl
@[simp] theorem State.setSky_hbm (c : Nat) (f : ClusterSky → ClusterSky) : (s.setSky c f).hbm = s.hbm := rfl
@[simp] theorem State.setSky_poison (c : Nat) (f : ClusterSky → ClusterSky) : (s.setSky c f).poison = s.poison := rfl
@[simp] theorem State.setSky_lineSlot (c : Nat) (f : ClusterSky → ClusterSky) : (s.setSky c f).lineSlot = s.lineSlot := rfl
@[simp] theorem State.setSky_mee (c : Nat) (f : ClusterSky → ClusterSky) : (s.setSky c f).mee = s.mee := rfl
@[simp] theorem State.setSky_prot (c : Nat) (f : ClusterSky → ClusterSky) : (s.setSky c f).prot = s.prot := rfl
@[simp] theorem State.setSky_acct (c : Nat) (f : ClusterSky → ClusterSky) : (s.setSky c f).acct = s.acct := rfl
@[simp] theorem State.setSky_rsv (c : Nat) (f : ClusterSky → ClusterSky) : (s.setSky c f).rsv = s.rsv := rfl
@[simp] theorem State.setSky_rg (c : Nat) (f : ClusterSky → ClusterSky) : (s.setSky c f).rg = s.rg := rfl
@[simp] theorem State.setSky_tl (c : Nat) (f : ClusterSky → ClusterSky) : (s.setSky c f).tl = s.tl := rfl
@[simp] theorem State.setSky_side (c : Nat) (f : ClusterSky → ClusterSky) : (s.setSky c f).side = s.side := rfl
@[simp] theorem State.setSky_sessions (c : Nat) (f : ClusterSky → ClusterSky) : (s.setSky c f).sessions = s.sessions := rfl
@[simp] theorem State.setSky_free (c : Nat) (f : ClusterSky → ClusterSky) : (s.setSky c f).free = s.free := rfl
@[simp] theorem State.setSky_xlatCaching (c : Nat) (f : ClusterSky → ClusterSky) : (s.setSky c f).xlatCaching = s.xlatCaching := rfl

@[simp] theorem State.setTlp_pending (p : Nat) (f : TlPort → TlPort) : (s.setTlp p f).pending = s.pending := rfl
@[simp] theorem State.setTlp_pkg (p : Nat) (f : TlPort → TlPort) : (s.setTlp p f).pkg = s.pkg := rfl
@[simp] theorem State.setTlp_gtb (p : Nat) (f : TlPort → TlPort) : (s.setTlp p f).gtb = s.gtb := rfl
@[simp] theorem State.setTlp_tb (p : Nat) (f : TlPort → TlPort) : (s.setTlp p f).tb = s.tb := rfl
@[simp] theorem State.setTlp_yard (p : Nat) (f : TlPort → TlPort) : (s.setTlp p f).yard = s.yard := rfl
@[simp] theorem State.setTlp_host (p : Nat) (f : TlPort → TlPort) : (s.setTlp p f).host = s.host := rfl
@[simp] theorem State.setTlp_clusters (p : Nat) (f : TlPort → TlPort) : (s.setTlp p f).clusters = s.clusters := rfl
@[simp] theorem State.setTlp_stalls (p : Nat) (f : TlPort → TlPort) : (s.setTlp p f).stalls = s.stalls := rfl
@[simp] theorem State.setTlp_hbm (p : Nat) (f : TlPort → TlPort) : (s.setTlp p f).hbm = s.hbm := rfl
@[simp] theorem State.setTlp_poison (p : Nat) (f : TlPort → TlPort) : (s.setTlp p f).poison = s.poison := rfl
@[simp] theorem State.setTlp_lineSlot (p : Nat) (f : TlPort → TlPort) : (s.setTlp p f).lineSlot = s.lineSlot := rfl
@[simp] theorem State.setTlp_mee (p : Nat) (f : TlPort → TlPort) : (s.setTlp p f).mee = s.mee := rfl
@[simp] theorem State.setTlp_prot (p : Nat) (f : TlPort → TlPort) : (s.setTlp p f).prot = s.prot := rfl
@[simp] theorem State.setTlp_power (p : Nat) (f : TlPort → TlPort) : (s.setTlp p f).power = s.power := rfl
@[simp] theorem State.setTlp_acct (p : Nat) (f : TlPort → TlPort) : (s.setTlp p f).acct = s.acct := rfl
@[simp] theorem State.setTlp_rsv (p : Nat) (f : TlPort → TlPort) : (s.setTlp p f).rsv = s.rsv := rfl
@[simp] theorem State.setTlp_rg (p : Nat) (f : TlPort → TlPort) : (s.setTlp p f).rg = s.rg := rfl
@[simp] theorem State.setTlp_side (p : Nat) (f : TlPort → TlPort) : (s.setTlp p f).side = s.side := rfl
@[simp] theorem State.setTlp_sessions (p : Nat) (f : TlPort → TlPort) : (s.setTlp p f).sessions = s.sessions := rfl
@[simp] theorem State.setTlp_free (p : Nat) (f : TlPort → TlPort) : (s.setTlp p f).free = s.free := rfl
@[simp] theorem State.setTlp_xlatCaching (p : Nat) (f : TlPort → TlPort) : (s.setTlp p f).xlatCaching = s.xlatCaching := rfl

@[simp] theorem State.setSlot_pending (k : Nat) (f : SlotLedger → SlotLedger) : (s.setSlot k f).pending = s.pending := rfl
@[simp] theorem State.setSlot_pkg (k : Nat) (f : SlotLedger → SlotLedger) : (s.setSlot k f).pkg = s.pkg := rfl
@[simp] theorem State.setSlot_gtb (k : Nat) (f : SlotLedger → SlotLedger) : (s.setSlot k f).gtb = s.gtb := rfl
@[simp] theorem State.setSlot_tb (k : Nat) (f : SlotLedger → SlotLedger) : (s.setSlot k f).tb = s.tb := rfl
@[simp] theorem State.setSlot_yard (k : Nat) (f : SlotLedger → SlotLedger) : (s.setSlot k f).yard = s.yard := rfl
@[simp] theorem State.setSlot_host (k : Nat) (f : SlotLedger → SlotLedger) : (s.setSlot k f).host = s.host := rfl
@[simp] theorem State.setSlot_clusters (k : Nat) (f : SlotLedger → SlotLedger) : (s.setSlot k f).clusters = s.clusters := rfl
@[simp] theorem State.setSlot_stalls (k : Nat) (f : SlotLedger → SlotLedger) : (s.setSlot k f).stalls = s.stalls := rfl
@[simp] theorem State.setSlot_hbm (k : Nat) (f : SlotLedger → SlotLedger) : (s.setSlot k f).hbm = s.hbm := rfl
@[simp] theorem State.setSlot_poison (k : Nat) (f : SlotLedger → SlotLedger) : (s.setSlot k f).poison = s.poison := rfl
@[simp] theorem State.setSlot_lineSlot (k : Nat) (f : SlotLedger → SlotLedger) : (s.setSlot k f).lineSlot = s.lineSlot := rfl
@[simp] theorem State.setSlot_mee (k : Nat) (f : SlotLedger → SlotLedger) : (s.setSlot k f).mee = s.mee := rfl
@[simp] theorem State.setSlot_power (k : Nat) (f : SlotLedger → SlotLedger) : (s.setSlot k f).power = s.power := rfl
@[simp] theorem State.setSlot_acct (k : Nat) (f : SlotLedger → SlotLedger) : (s.setSlot k f).acct = s.acct := rfl
@[simp] theorem State.setSlot_rsv (k : Nat) (f : SlotLedger → SlotLedger) : (s.setSlot k f).rsv = s.rsv := rfl
@[simp] theorem State.setSlot_rg (k : Nat) (f : SlotLedger → SlotLedger) : (s.setSlot k f).rg = s.rg := rfl
@[simp] theorem State.setSlot_tl (k : Nat) (f : SlotLedger → SlotLedger) : (s.setSlot k f).tl = s.tl := rfl
@[simp] theorem State.setSlot_side (k : Nat) (f : SlotLedger → SlotLedger) : (s.setSlot k f).side = s.side := rfl
@[simp] theorem State.setSlot_sessions (k : Nat) (f : SlotLedger → SlotLedger) : (s.setSlot k f).sessions = s.sessions := rfl
@[simp] theorem State.setSlot_free (k : Nat) (f : SlotLedger → SlotLedger) : (s.setSlot k f).free = s.free := rfl
@[simp] theorem State.setSlot_xlatCaching (k : Nat) (f : SlotLedger → SlotLedger) : (s.setSlot k f).xlatCaching = s.xlatCaching := rfl

@[simp] theorem State.setMu_pending (f : Muart → Muart) : (s.setMu f).pending = s.pending := rfl
@[simp] theorem State.setMu_pkg (f : Muart → Muart) : (s.setMu f).pkg = s.pkg := rfl
@[simp] theorem State.setMu_gtb (f : Muart → Muart) : (s.setMu f).gtb = s.gtb := rfl
@[simp] theorem State.setMu_tb (f : Muart → Muart) : (s.setMu f).tb = s.tb := rfl
@[simp] theorem State.setMu_yard (f : Muart → Muart) : (s.setMu f).yard = s.yard := rfl
@[simp] theorem State.setMu_host (f : Muart → Muart) : (s.setMu f).host = s.host := rfl
@[simp] theorem State.setMu_clusters (f : Muart → Muart) : (s.setMu f).clusters = s.clusters := rfl
@[simp] theorem State.setMu_stalls (f : Muart → Muart) : (s.setMu f).stalls = s.stalls := rfl
@[simp] theorem State.setMu_hbm (f : Muart → Muart) : (s.setMu f).hbm = s.hbm := rfl
@[simp] theorem State.setMu_poison (f : Muart → Muart) : (s.setMu f).poison = s.poison := rfl
@[simp] theorem State.setMu_lineSlot (f : Muart → Muart) : (s.setMu f).lineSlot = s.lineSlot := rfl
@[simp] theorem State.setMu_mee (f : Muart → Muart) : (s.setMu f).mee = s.mee := rfl
@[simp] theorem State.setMu_prot (f : Muart → Muart) : (s.setMu f).prot = s.prot := rfl
@[simp] theorem State.setMu_power (f : Muart → Muart) : (s.setMu f).power = s.power := rfl
@[simp] theorem State.setMu_acct (f : Muart → Muart) : (s.setMu f).acct = s.acct := rfl
@[simp] theorem State.setMu_rsv (f : Muart → Muart) : (s.setMu f).rsv = s.rsv := rfl
@[simp] theorem State.setMu_rg (f : Muart → Muart) : (s.setMu f).rg = s.rg := rfl
@[simp] theorem State.setMu_tl (f : Muart → Muart) : (s.setMu f).tl = s.tl := rfl
@[simp] theorem State.setMu_sessions (f : Muart → Muart) : (s.setMu f).sessions = s.sessions := rfl
@[simp] theorem State.setMu_free (f : Muart → Muart) : (s.setMu f).free = s.free := rfl
@[simp] theorem State.setMu_xlatCaching (f : Muart → Muart) : (s.setMu f).xlatCaching = s.xlatCaching := rfl

@[simp] theorem State.setCon_pending (f : Console → Console) : (s.setCon f).pending = s.pending := rfl
@[simp] theorem State.setCon_pkg (f : Console → Console) : (s.setCon f).pkg = s.pkg := rfl
@[simp] theorem State.setCon_gtb (f : Console → Console) : (s.setCon f).gtb = s.gtb := rfl
@[simp] theorem State.setCon_tb (f : Console → Console) : (s.setCon f).tb = s.tb := rfl
@[simp] theorem State.setCon_yard (f : Console → Console) : (s.setCon f).yard = s.yard := rfl
@[simp] theorem State.setCon_host (f : Console → Console) : (s.setCon f).host = s.host := rfl
@[simp] theorem State.setCon_clusters (f : Console → Console) : (s.setCon f).clusters = s.clusters := rfl
@[simp] theorem State.setCon_stalls (f : Console → Console) : (s.setCon f).stalls = s.stalls := rfl
@[simp] theorem State.setCon_hbm (f : Console → Console) : (s.setCon f).hbm = s.hbm := rfl
@[simp] theorem State.setCon_poison (f : Console → Console) : (s.setCon f).poison = s.poison := rfl
@[simp] theorem State.setCon_lineSlot (f : Console → Console) : (s.setCon f).lineSlot = s.lineSlot := rfl
@[simp] theorem State.setCon_mee (f : Console → Console) : (s.setCon f).mee = s.mee := rfl
@[simp] theorem State.setCon_prot (f : Console → Console) : (s.setCon f).prot = s.prot := rfl
@[simp] theorem State.setCon_power (f : Console → Console) : (s.setCon f).power = s.power := rfl
@[simp] theorem State.setCon_acct (f : Console → Console) : (s.setCon f).acct = s.acct := rfl
@[simp] theorem State.setCon_rsv (f : Console → Console) : (s.setCon f).rsv = s.rsv := rfl
@[simp] theorem State.setCon_rg (f : Console → Console) : (s.setCon f).rg = s.rg := rfl
@[simp] theorem State.setCon_tl (f : Console → Console) : (s.setCon f).tl = s.tl := rfl
@[simp] theorem State.setCon_sessions (f : Console → Console) : (s.setCon f).sessions = s.sessions := rfl
@[simp] theorem State.setCon_free (f : Console → Console) : (s.setCon f).free = s.free := rfl
@[simp] theorem State.setCon_xlatCaching (f : Console → Console) : (s.setCon f).xlatCaching = s.xlatCaching := rfl

@[simp] theorem State.raiseEra_pending (n : Nat) : (s.raiseEra n).pending = s.pending := rfl
@[simp] theorem State.raiseEra_pkg (n : Nat) : (s.raiseEra n).pkg = s.pkg := rfl
@[simp] theorem State.raiseEra_gtb (n : Nat) : (s.raiseEra n).gtb = s.gtb := rfl
@[simp] theorem State.raiseEra_tb (n : Nat) : (s.raiseEra n).tb = s.tb := rfl
@[simp] theorem State.raiseEra_yard (n : Nat) : (s.raiseEra n).yard = s.yard := rfl
@[simp] theorem State.raiseEra_host (n : Nat) : (s.raiseEra n).host = s.host := rfl
@[simp] theorem State.raiseEra_clusters (n : Nat) : (s.raiseEra n).clusters = s.clusters := rfl
@[simp] theorem State.raiseEra_stalls (n : Nat) : (s.raiseEra n).stalls = s.stalls := rfl
@[simp] theorem State.raiseEra_hbm (n : Nat) : (s.raiseEra n).hbm = s.hbm := rfl
@[simp] theorem State.raiseEra_poison (n : Nat) : (s.raiseEra n).poison = s.poison := rfl
@[simp] theorem State.raiseEra_lineSlot (n : Nat) : (s.raiseEra n).lineSlot = s.lineSlot := rfl
@[simp] theorem State.raiseEra_mee (n : Nat) : (s.raiseEra n).mee = s.mee := rfl
@[simp] theorem State.raiseEra_prot (n : Nat) : (s.raiseEra n).prot = s.prot := rfl
@[simp] theorem State.raiseEra_power (n : Nat) : (s.raiseEra n).power = s.power := rfl
@[simp] theorem State.raiseEra_rsv (n : Nat) : (s.raiseEra n).rsv = s.rsv := rfl
@[simp] theorem State.raiseEra_rg (n : Nat) : (s.raiseEra n).rg = s.rg := rfl
@[simp] theorem State.raiseEra_tl (n : Nat) : (s.raiseEra n).tl = s.tl := rfl
@[simp] theorem State.raiseEra_side (n : Nat) : (s.raiseEra n).side = s.side := rfl
@[simp] theorem State.raiseEra_sessions (n : Nat) : (s.raiseEra n).sessions = s.sessions := rfl
@[simp] theorem State.raiseEra_free (n : Nat) : (s.raiseEra n).free = s.free := rfl
@[simp] theorem State.raiseEra_xlatCaching (n : Nat) : (s.raiseEra n).xlatCaching = s.xlatCaching := rfl

@[simp] theorem State.meeErr_pending (k l a : Nat) : (s.meeErr k l a).pending = s.pending := rfl
@[simp] theorem State.meeErr_pkg (k l a : Nat) : (s.meeErr k l a).pkg = s.pkg := rfl
@[simp] theorem State.meeErr_gtb (k l a : Nat) : (s.meeErr k l a).gtb = s.gtb := rfl
@[simp] theorem State.meeErr_tb (k l a : Nat) : (s.meeErr k l a).tb = s.tb := rfl
@[simp] theorem State.meeErr_yard (k l a : Nat) : (s.meeErr k l a).yard = s.yard := rfl
@[simp] theorem State.meeErr_host (k l a : Nat) : (s.meeErr k l a).host = s.host := rfl
@[simp] theorem State.meeErr_clusters (k l a : Nat) : (s.meeErr k l a).clusters = s.clusters := rfl
@[simp] theorem State.meeErr_stalls (k l a : Nat) : (s.meeErr k l a).stalls = s.stalls := rfl
@[simp] theorem State.meeErr_hbm (k l a : Nat) : (s.meeErr k l a).hbm = s.hbm := rfl
@[simp] theorem State.meeErr_poison (k l a : Nat) : (s.meeErr k l a).poison = s.poison := rfl
@[simp] theorem State.meeErr_lineSlot (k l a : Nat) : (s.meeErr k l a).lineSlot = s.lineSlot := rfl
@[simp] theorem State.meeErr_prot (k l a : Nat) : (s.meeErr k l a).prot = s.prot := rfl
@[simp] theorem State.meeErr_power (k l a : Nat) : (s.meeErr k l a).power = s.power := rfl
@[simp] theorem State.meeErr_acct (k l a : Nat) : (s.meeErr k l a).acct = s.acct := rfl
@[simp] theorem State.meeErr_rsv (k l a : Nat) : (s.meeErr k l a).rsv = s.rsv := rfl
@[simp] theorem State.meeErr_rg (k l a : Nat) : (s.meeErr k l a).rg = s.rg := rfl
@[simp] theorem State.meeErr_tl (k l a : Nat) : (s.meeErr k l a).tl = s.tl := rfl
@[simp] theorem State.meeErr_side (k l a : Nat) : (s.meeErr k l a).side = s.side := rfl
@[simp] theorem State.meeErr_sessions (k l a : Nat) : (s.meeErr k l a).sessions = s.sessions := rfl
@[simp] theorem State.meeErr_free (k l a : Nat) : (s.meeErr k l a).free = s.free := rfl
@[simp] theorem State.meeErr_xlatCaching (k l a : Nat) : (s.meeErr k l a).xlatCaching = s.xlatCaching := rfl

@[simp] theorem State.signed_pending : (s.signed).pending = s.pending := rfl
@[simp] theorem State.signed_pkg : (s.signed).pkg = s.pkg := rfl
@[simp] theorem State.signed_gtb : (s.signed).gtb = s.gtb := rfl
@[simp] theorem State.signed_tb : (s.signed).tb = s.tb := rfl
@[simp] theorem State.signed_yard : (s.signed).yard = s.yard := rfl
@[simp] theorem State.signed_host : (s.signed).host = s.host := rfl
@[simp] theorem State.signed_clusters : (s.signed).clusters = s.clusters := rfl
@[simp] theorem State.signed_stalls : (s.signed).stalls = s.stalls := rfl
@[simp] theorem State.signed_hbm : (s.signed).hbm = s.hbm := rfl
@[simp] theorem State.signed_poison : (s.signed).poison = s.poison := rfl
@[simp] theorem State.signed_lineSlot : (s.signed).lineSlot = s.lineSlot := rfl
@[simp] theorem State.signed_mee : (s.signed).mee = s.mee := rfl
@[simp] theorem State.signed_prot : (s.signed).prot = s.prot := rfl
@[simp] theorem State.signed_power : (s.signed).power = s.power := rfl
@[simp] theorem State.signed_acct : (s.signed).acct = s.acct := rfl
@[simp] theorem State.signed_rsv : (s.signed).rsv = s.rsv := rfl
@[simp] theorem State.signed_rg : (s.signed).rg = s.rg := rfl
@[simp] theorem State.signed_tl : (s.signed).tl = s.tl := rfl
@[simp] theorem State.signed_side : (s.signed).side = s.side := rfl
@[simp] theorem State.signed_sessions : (s.signed).sessions = s.sessions := rfl
@[simp] theorem State.signed_xlatCaching : (s.signed).xlatCaching = s.xlatCaching := rfl

@[simp] theorem State.pf_setPf (k j : Nat) (f : PfInst → PfInst) : (s.setPf k f).pf j = if j = k then f (s.pf k) else s.pf j :=
  Tab.get_upd _ _ k j f
@[simp] theorem State.port_setPort (k j : Nat) (f : HostPortSt → HostPortSt) : (s.setPort k f).port j = if j = k then f (s.port k) else s.port j :=
  Tab.get_upd _ _ k j f
@[simp] theorem State.timer_setTimer (k j : Nat) (f : Timer → Timer) : (s.setTimer k f).timer j = if j = k then f (s.timer k) else s.timer j :=
  Tab.get_upd _ _ k j f
@[simp] theorem State.cap_setCap (k j : Nat) (f : Capture → Capture) : (s.setCap k f).cap j = if j = k then f (s.cap k) else s.cap j :=
  Tab.get_upd _ _ k j f
@[simp] theorem State.tick_setTick (k j : Nat) (f : TickCh → TickCh) : (s.setTick k f).tick j = if j = k then f (s.tick k) else s.tick j :=
  Tab.get_upd _ _ k j f
@[simp] theorem State.gate_setGate (k j : Nat) (f : Gate → Gate) : (s.setGate k f).gate j = if j = k then f (s.gate k) else s.gate j :=
  Tab.get_upd _ _ k j f
@[simp] theorem State.syncOut_setOut (k j : Nat) (f : SyncOut → SyncOut) : (s.setOut k f).syncOut j = if j = k then f (s.syncOut k) else s.syncOut j :=
  Tab.get_upd _ _ k j f
@[simp] theorem State.sky_setSky (k j : Nat) (f : ClusterSky → ClusterSky) : (s.setSky k f).sky j = if j = k then f (s.sky k) else s.sky j :=
  Tab.get_upd _ _ k j f
@[simp] theorem State.tlp_setTlp (k j : Nat) (f : TlPort → TlPort) : (s.setTlp k f).tlp j = if j = k then f (s.tlp k) else s.tlp j :=
  Tab.get_upd _ _ k j f
@[simp] theorem State.slot_setSlot (k j : Nat) (f : SlotLedger → SlotLedger) : (s.setSlot k f).slot j = if j = k then f (s.slot k) else s.slot j :=
  Tab.get_upd _ _ k j f
@[simp] theorem State.vf_setVf (p n : Nat) (f : VfInst → VfInst) : (s.setVf p n f).vf p n = f (s.vf p n) := by
  simp [State.vf, State.setVf]
@[simp] theorem State.stall?_setStall (n j : Nat) (t : Stall) : (s.setStall n t).stall? j = if j = n then some t else s.stall? j :=
  Tab.find?_put _ n j (some t)

end Sys2Proof.Machine
end

