-- ==== Sys2Proof/Tests/Slice0.lean ====
section
/-! SUPPORT. The model's own tests: ill-formed commands, single steps worked out from the rules, and for every statement with
hypotheses a state and operands that meet them. -/

set_option linter.unusedVariables false
set_option exponentiation.threshold 600
set_option Elab.async false

namespace Sys2Proof.Tests

open Sys2Proof.Machine

/-! States the tests start from. -/

/-- What the test stall holds: two bays, one key slot, one gate, one link record, one region. -/
def hold : Holdings :=
  { iso := 2, ctxMax := 16, debugConsent := true, bar2En := true, receipts := true, farLoft := true, hostPorts := 1, journalMib := 16, mirrorBay := 64
    preemptLimit := 1600000, pauseLimit := 1600000, droverSeq := 64, loftPages := 64, bays := [4, 5], retired := 0, slots := [9], gates := [7]
    links := [{ port := 0, stall := 1, kind := 0, share := 0 }]
    regs := [{ stall := 1, kind := 0, mode := 0, prio := 4, budget := 4096, latTarget := 0 }]
    regions := [{ stall := 1, index := 0, prio := 0, rights := 31, keyIndex := 0, attr := 0, base := 0, size := 2 ^ 32 }], sole := false }
/-- Context 0: its page table maps addresses below 2 MiB to the stall's offset 2 MiB. -/
def ctx : Ctx :=
  { key := some 0, root := 0x1000, faultRec := 0, seq := 0, faults := 0, multiHit := 0, conflicts := 0, killing := false, pauseReq := false
    rotReq := none, sliceReq := none, stopped := false, tlb := [(0x1000, 0x2001), (0x2000, 0x3001), (0x3000, 0x20003F)] }
/-- The test stall. -/
def stall : Stall :=
  { hold := hold
    man := { epoch := 1, planDigest := 0, seq := 1, issuedAt := 0, pending := false, windowGen := 2, draw := 0 }
    ctxs := [(0, ctx)], queues := [], launches := [], sched := Sched.init, stats := MemStats.init, seed := 0, kills := [], invals := []
    memClear := [], reset := [], bar2Deny := 0, halted := 0, debugCount := 0, paused := false, before := none, measuring := [], manReqs := []
    journal := { era := 1, definedAt := 0, gen := 0, copies := [4, 64], rebuild := none, broken := false, next := [], segs := [], quota := 0 }
    evLog := [], evSeq := 0, attest := Attest.init, drover := Drover.init, relay := Relay.init, dlv := freshDelivery hold 0 }
/-- A booted part whose stall 1 is this one, seen through host port 0. -/
def upWith (x : Stall) : State :=
  { State.reset with
    pkg := { Package.reset with checked := true, cdieOk := 15, iodieOk := 3, stkOk := 0xFF, bayOk := 2 ^ 128 - 1, portOk := 0xFFFFFF, rtpStandby := true }
    power := { Power.reset with phase := bootDone }
    rsv := { Reserve.reset with st := .armed, mainOk := true, vbank := 16200 }
    prot := { Prot.reset with approved := true }
    host := { HostBlock.reset with
      pf := [(0, { PfInst.init with vfEnable := true, numVfs := 128 })]
      ports := [(0, { HostPortSt.init with linkUp := true, perst := false })] }
    stalls := [(1, x)] }
def up : State := upWith stall
/-- Its queue of an engine of context 0, with these commands. -/
def queue (l : List Entry) : Queue :=
  { newQueue ([0, 0, 0, 6, 1, 1] ++ zeros 34) 0 (asnOf 1 1) 0 with entries := l }
def qid (e : Engine) : QueueId := { stall := 1, ctx := 0, engine := e, queue := 0 }
def stallQ (e : Engine) (q : Queue) : Stall := { stall with queues := [(queueKey (qid e), q)] }
/-- A command at position 0: its opcode, and its bytes from the eighth on. -/
def cmd (op : Nat) (rest : List Byte) : Entry := newEntry 0 (asnOf 1 1) (fit 64 (BitVec.ofNat 8 op :: zeros 7 ++ rest)) none
/-- The part with one command accepted on an engine's queue; and the same once it has started. -/
def ready (e : Engine) (c : Entry) : State := upWith (stallQ e (queue [c]))
def begun (c : Entry) : Entry := { c with st := .started, startAt := 1, beginAt := 1 }
/-- Requests through the mailbox of PF0 and of the stall's VF. -/
def pfReq (p : List Byte) : MbReq := { fn := .pf0 0, tag := 5, payload := p }
def vfReq (p : List Byte) : MbReq := { fn := .vf 0 1, tag := 5, payload := p }
/-- Little-endian bytes. -/
def n8 (v : Nat) : List Byte := leBytes 8 v
/-- Tsuholt port 0 up, its peer package 3. -/
def port : TlPort := { TlPort.init with st := .active, told := true, peerPkg := 3, keys := some { tx := [1], rx := [2] } }
def tlOf (p : TlPort) : Tsuholt := { Tsuholt.reset with ports := [(0, p)] }
def linked (x : Stall) (p : TlPort) : State := { upWith x with tl := tlOf p }
def msg : LinkMsg :=
  { hops := 0, src := 3, dst := 0, srcStall := 2, dstStall := 1, addr := 0, keyT := 7, ticket := 1, seq := 0, data := [], poison := false, read := false
    span := 4096, fault := false }
/-- A plan that gives stall 1 these bays, and a change from two bays to one. -/
def planOf (bays : List Nat) : Plan :=
  { Plan.default with
    epoch := 1
    bays := bays.zipIdx.map (fun b => { bay := b.1, stall := 1, order := b.2 })
    stalls := [{ stall := 1, iso := 2, ctxMax := 16, flags := 0, hostPorts := 1, journalMib := 16, mirrorBay := 64, preempt := 0, pause := 0, droverSeq := 64
                 loftPages := 64 }] }
def change (step : ChgStep) (phase : Nat) : Change :=
  { old := planOf [4, 5]
    new := { planOf [4] with
      epoch := 2, change := some { baseEpoch := 1, width := 1, holdAction := 1, holdGrids := 4, startGrid := 0, baseDigest := 0, recs := [(1, 4)] } }
    phase := phase, step := step, abortable := true, tk := 1, prepLeft := [], oldMirrors := [], released := [], pend := [], quar := [], grooming := [], slots := []
    areas := [], hold := [], holdAt := 0, atGrant := false, forcing := 0, forced := false, kills := 0, nextTick := 0, frozenAt := none, excluded := 0 }
def changing (x : Stall) (c : Change) : State := { upWith x with yard := { Yard.reset with st := .changing, active := c.new, base := c.old, chg := some c } }
/-- A stall of two tenants, of which tenant 0 has work; and one whose context 1 holds cluster 16 while context 0 waits. -/
def tenants : Stall :=
  { stallQ .compute (queue [cmd 0x01 []]) with
    hold := { hold with iso := 1, slots := [9, 10] }, ctxs := [(0, ctx), (1, { ctx with key := some 1 })] }
def grid (k : Nat) (r : List RunTask) : Launch :=
  { qk := k, pos := 0, gridX := 2, gridY := 1, gridZ := 1, limit := 0, next := 1, done := 0, lrd := none, running := r, saved := [], again := [], stopping := false }
def gridL : Launch := { grid 0 [] with limit := 4 }
def heldStall : Stall :=
  { stall with ctxs := [(0, ctx), (1, ctx)], launches := [grid 32 [⟨0, 16, 0, none⟩]], sched := { Sched.init with ctxSlice := 160000, waitSince := [(0, 0)] } }
def withTask (x : Stall) : State := { upWith x with clusters := [(16, { Cluster.init with stall := some 1, ctx := 1 })] }
def session : Session := { fn := none, finished := true, peer := none, secret := [1], lastBeat := 0, ended := false, counters := [] }
def safeGrid : Launch := { grid 0 [⟨0, 16, 0, none⟩] with lrd := some ⟨256, 0, [⟨64, 0, []⟩]⟩ }
def safeStall : Stall := { stallQ .compute (queue [begun (cmd 0x02 [])]) with launches := [safeGrid], paused := true }
def lateTask : RunTask := { idx := 0, cluster := 16, startAt := 2 ^ 63 }
def lateGrid : Launch := grid 0 [lateTask]
/-- A finished session 1 of the stall's VF, and of PF0; a host port's IDE stream 0 in a state. -/
def vfSession : Session := { session with fn := some (.vf 0 1) }
def sessions (s : State) (x : Session) : State := { s with sessions := [(1, x)] }
def sealQ : Queue := { queue [] with isSealed := true, ringHost := true, session := 1 }
def ide (st : IdeSt) (s : State) : State :=
  { s with host := { s.host with ports := [(0, { HostPortSt.init with linkUp := true, perst := false, streams := [(0, { IdeStream.init with st := st })] })] } }
/-- The stall's yard memory regulator holding this credit; a request on port 0's link. -/
def reg (f : Regulator → Regulator) : Stall := { stall with dlv := stall.dlv.modReg 0 f }
def heldQ (f : Queue → Queue) : State := upWith (stallQ .compute (f (queue [])))
/-- The same in pod of four packages, this one package 0; a stall with this Relay Engine. -/
def pod (x : Stall) (p : TlPort) : State :=
  { linked x { p with peerSize := 4 } with
    yard := { Yard.reset with active := { Plan.default with policy := { Plan.default.policy with podPkgId := 0, podSize := 4 } } } }
def relay (f : Relay → Relay) (x : Stall) : Stall := { x with relay := f x.relay }
def portIn (st : PortSt) : TlPort := { port with st := st }
def keyx : Keyx := { rnd := [1], priv := [2], pub := [3], peer := some ([4], [5], [6]) }
def export1 : Export := { ctx := 0, rights := 3, va := 0, bytes := 65536, allow := [(3, 2)] }
def claim1 : Claim :=
  { keyT := 7, srcPkg := 3, srcStall := 2, ticket := 1, own := false, port := 0, peer := 3, peerStall := 2, granted := true, committed := true, read := false
    addr := 0, span := 4096, num := 0, qk := queueKey (qid .relay), pos := 0, loc := 0, ofs := 0, done := 0, data := [] }
def own1 : Claim := { claim1 with own := true, srcPkg := 0, srcStall := 1 }
def dataMsg : LinkMsg := { msg with data := zeros 64 }
def group1 : Group :=
  { id := 9, index := 0, ctx := 0, stage := 0x10000, stageBytes := 0x20000, members := [(0, 1), (3, 2)], inbox := [], bad := [], got := [], given := [], sent := []
    freed := [], ready := [] }
def coll1 : Coll := { qk := queueKey (qid .relay), pos := 0, group := 9, begun := false, toSend := [], bad := [], buf := [], bufBad := [], heard := [] }
def remoteCmd (op : Nat) : Entry := cmd op (n8 0 ++ n8 0 ++ n8 4096 ++ [3, 2, 0xFF])
def collCmd (start : Nat) : Entry := cmd 0x32 ([0, 0, 0x0C, 0] ++ leBytes 4 9 ++ n8 0 ++ n8 4096 ++ n8 64 ++ n8 start)
def withRelay (e : Entry) (f : Relay → Relay) : Stall := relay f (stallQ .relay (queue [e]))
def withGroup (x : Stall) (g : Group) : Stall := relay (fun r => { r with groups := [g] }) x
/-- A Drover configuration, a loaded model, a sequence of the Drover queue; a stall whose Drover holds them. -/
def drvCfg : DrvConfig :=
  { keyIndex := 0, pageBytes := 65536, loftBase := 65536, loftBytes := 65536, seqLimit := 0, budget := 8192, chunk := 2048, workBase := 2 ^ 20, workBytes := 2 ^ 24 }
def drvModel : DrvModel :=
  { ctx := 0, desc := 0x10000, loading := none, tokenBytes := 64, vocab := ⟨false, 0, 1, [], [0, 1, 2], [65, 66]⟩, merges := [], stepProgram := 0, stepArgs := 0
    stepLrd := 0, maxContext := 4096 }
def seq1 (st : SeqSt) : Sequence :=
  { qk := queueKey (qid .drover), pos := 0, asn := asnOf 1 1, tag := 0, ctx := 0, model := 0, st := st, acceptAt := 0, parent := none, claimed := false, reserved := 0
    pages := [.near 0], tokens := [0, 1, 0], read := 0, prompt := 0, generated := 0, text := [], emitted := 0, visible := 0, lastStep := 0, stop := ⟨[], []⟩
    cancel := false, step := 0 }
def drover (f : Drover → Drover) (x : Stall) : Stall := { x with drover := f { x.drover with cfg := some drvCfg, models := [(0, drvModel)] } }
def drvQ (l : List Entry) (f : Drover → Drover) : Stall := drover f (stallQ .drover (queue l))
def loan1 : Loan := { peer := 3, stall := 2, bytes := 65536 }
/-- The part with another power block, reserve, protection block or sideband. -/
def power (f : Power → Power) (s : State) : State := { s with power := f s.power }
def rsv (f : Reserve → Reserve) (s : State) : State := { s with rsv := f s.rsv }
def prot (f : Prot → Prot) (s : State) : State := { s with prot := f s.prot }
def side (f : Sideband → Sideband) (s : State) : State := { s with side := f s.side }
def sky (c : Nat) (f : ClusterSky → ClusterSky) : State := power (fun p => { p with sky := [(c, f ClusterSky.init)] }) up
def clearIn (c : ClearSt) : State := power (fun p => { p with clearSt := c }) up
def rsvIn (st : RsvSt) : State := rsv (fun r => { r with st := st, mainOk := false }) up
/-- The sideband with its I3C address assigned; a console command taken; the MUART alone. -/
def i3c (s : State) : State := side (fun b => { b with addr := 0x20, assigned := true }) s
def console (c : ConCmd) (s : State) : State := side (fun b => { b with con := { b.con with cmd := some c } }) s
def muart (f : Muart → Muart) : State := side (fun b => { b with mu := f b.mu }) up
def spdmVia : Option Fn := some (.vf 0 1)
def spdm (f : SpdmConn → SpdmConn) : State := side (fun b => { b with conns := [(connKey spdmVia, f ⟨true, true, true, []⟩)] }) up
/-- A sealed stall whose session has a peer. -/
def sealedStall : Stall := { stall with hold := { hold with iso := 3 } }
def sealedWith (f : Attest → Attest) : Stall := { sealedStall with attest := f Attest.init }
def asked (x : Stall) : State := sessions (upWith x) { vfSession with peer := some 5 }
def inReq (p : List Byte) : Req := { fn := .vf 0 1, tag := 5, payload := p, session := some 1 }
def sealRequest : List Byte := [1] ++ zeros 7 ++ [0x53, 0x57, 0x49, 0x4D, 1, 0, 0, 0] ++ zeros 16 ++ [1] ++ zeros 375
def rebuilding : Stall := { stall with journal := { stall.journal with copies := [4], rebuild := some 64 } }
def recovery : Recovery :=
  { kind := 1, index := 16, outcome := 0, undecided := [], affected := 0, replayed := 0, faulted := 0, rebuilds := [], stalls := [], untold := [], footprint := [] }

/-! Ill-formed commands that each check of `Instr.wf` refuses. -/

theorem test_wf_payload_fits_the_mailbox : (Instr.version (pfReq (zeros 4089))).wf = false ∧ (Instr.version (pfReq (zeros 4088))).wf = true := by decide +kernel
theorem test_wf_mailbox_of_a_host_function : (Instr.version { fn := .rtp, tag := 0, payload := [] }).wf = false := by decide
theorem test_wf_at_most_eight_temperatures : (Instr.regulationWindowStart (List.replicate 9 0)).wf = false := by decide
theorem test_wf_flr_of_a_host_function : (Instr.flr .rtp).wf = false := by decide
theorem test_wf_cause_enables_of_a_host_function : (Instr.causeEnableWrite .rtp 0).wf = false := by decide
theorem test_wf_counter_offset_aligned : (Instr.dlvCounterRead (.pf0 0) 1 2).wf = false := by decide
theorem test_wf_register_offset_aligned : (Instr.registerWrite (.pf0 0) (.bar0 2) 0).wf = false := by decide
theorem test_wf_read_offset_aligned : (Instr.readToClear (.pf0 0) false 1).wf = false := by decide
theorem test_wf_hello_lengths : (Instr.keyxHello 0 [] (zeros 96) []).wf = false ∧ (Instr.keyxHello 0 (zeros 32) [] []).wf = false := by decide +kernel
theorem test_wf_signature_length : (Instr.keyxFinish 0 []).wf = false := by decide
theorem test_wf_credits_fit : (Instr.linkFrameReceived 0 0 .good [(0, 0, 65536)] 0 0).wf = false := by decide
theorem test_wf_message_fields_fit : (Instr.wr 0 { msg with keyT := 2 ^ 64 }).wf = false ∧ (Instr.wr 0 { msg with hops := 256 }).wf = false := by decide
theorem test_wf_event_in_a_pseudo_channel : (Instr.ueEccEvent 0 (2 ^ 30)).wf = false := by decide
theorem test_wf_transport_of_a_host_function : (Instr.getVersion (some .rtp)).wf = false := by decide
theorem test_wf_nonce_length : (Instr.getMeasurements none 1 (some [])).wf = false := by decide
theorem test_wf_exchange_key_length : (Instr.keyExchange none 1 []).wf = false := by decide
theorem test_wf_vendor_payload : (Instr.vendorDefinedRequest 1 0 0 (zeros 4089)).wf = false := by decide +kernel

/-! Single steps, with results worked out from the rules. -/

def after (c : Instr) (s : State) : State := match exec c s with
  | .next t => t
  | _ => s

/-- R43, R547: the GTB starts at 0; a booting part is in phase 1 with no stall and no plan. -/
theorem test_reset : State.reset.now = 0 ∧ State.reset.power.phase = 1 ∧ State.reset.stalls = [] ∧ State.reset.yard.active.epoch = 0 ∧ State.reset.pending = [] := by decide
/-- R44: 160 gticks a cycle, 161 on a carry and 159 on a borrow. -/
theorem test_reference_cycle : ({ Gtb.reset with base := 1000 }.cycles 1 0).base = 1160 ∧
    ({ Gtb.reset with base := 1000, acc := 0xFFFFFFFF, trim := 1 }.cycles 1 0).base = 1161 ∧
    ({ Gtb.reset with base := 1000, trim := 0xFFFFFFFF }.cycles 1 0).base = 1159 := by decide
/-- The command at the front runs, and the next one stays. -/
theorem test_front_command_first : (match step { up with pending := [.unguardedWrite 1, .lineFault] } with
    | .next t => t.pending | _ => []) = [.lineFault] := by decide +kernel
/-- R53: the comparator takes both halves with the high half's write. -/
theorem test_gate_compare_is_written_whole :
    ((after (.gateCmpHiWrite (.gate 1 0) 2 none) (after (.gateCmpLoWrite (.gate 1 0) 9) up)).gate 7).pend = [.cmp 0x200000009] := by decide +kernel
/-- R6: port 30 is beyond the 24 ports of an XH5124's two I/O dies. -/
theorem test_port_not_fitted : (match exec (.retrain 30) up with | .fault f => some f | _ => none) = some .notFitted := by decide
/-- R328: the spec's own example. -/
theorem test_tokens_of_ha_ha :
    tokenise { drvModel with vocab := { drvModel.vocab with splitSpace := true, byteMap := List.range 256 }, merges := [⟨0x68, 0x61, 300⟩, ⟨0x20, 300, 301⟩] }
      [0x68, 0x61, 0x20, 0x68, 0x61] = [300, 301] := by decide +kernel
/-- R286: a COPY moves the bytes at SRC to DST and ends DONE. -/
theorem test_copy_moves_a_byte :
    Memory.read (after (.copy (qid .copy)) { ready .copy (cmd 0x20 (n8 0 ++ n8 4096 ++ n8 64)) with hbm := [(bayAddr .xh5124 4 0x200000, 7)] }).hbm
      (bayAddr .xh5124 4 0x201000) = 7 := by decide +kernel
/-- R215: a doorbell beyond the ring's depth is counted. -/
theorem test_doorbell_out_of_range :
    ((after (.doorbell 0 (qid .compute) 65) (heldQ id)).queue? 1 0).map (·.staleDb) = some 1 := by decide +kernel
/-- R186: writing 1 clears a cause. -/
theorem test_cause_write_one_clears :
    ((after (.registerWrite (.pf0 0) (.bar0 0x10008) 1) (up.setPf 0 (fun i => { i with cause := 5 }))).pf 0).cause = 4 := by decide +kernel
/-- R355: LO 1 and HI 2 take effect, LO 2 and HI 2 do not. -/
theorem test_urgency_thresholds : (after (.rgUrgWrite false 0x12) up).rg.urgLink = 0x12 ∧ (after (.rgUrgWrite false 0x22) up).rg.urgLink = 0x8C := by decide
/-- R345, R348: a request within its budget lowers the credit by its size. -/
theorem test_request_charged : (((after (.requestIssue 1 0 256 none none) (upWith (reg (fun g => { g with credit := 4096 })))).stall? 1).map
    (fun x => (x.dlv.reg 0).credit)) = some 3840 := by decide +kernel
/-- R565: what GETBCR reads. -/
theorem test_sideband_answers : (after .getbcr (i3c up)).host.out = up.host.out ++ [.i3c [0x06]] := by decide +kernel
/-- FP32 addition: 1.5 + 2.25 = 3.75; and rounding to even. -/
theorem test_fp32_add : (fp32.encode false .nearest (f32Add (fp32.decode 0x3FC00000) (fp32.decode 0x40100000))).bits = 0x40700000 ∧
    (fp32.encode false .nearest (f32Add (fp32.decode 0x4B800000) (fp32.decode 0x3F800000))).bits = 0x4B800000 := by decide +kernel

/-! Each statement's hypotheses can be met. -/

-- IdleStepIsOneGtbStep
theorem test_IdleStepIsOneGtbStep_0_can_hold :
    ∃ (s : State), s.pending = [] :=
  ⟨up, by decide⟩
-- EveryStepKeepsThePromises
theorem test_EveryStepKeepsThePromises_0_can_hold :
    ∃ (s t : State), step s = .next t :=
  ⟨up, up.stepOn, rfl⟩
-- VariantStaysAsAssembled
theorem test_VariantStaysAsAssembled_0_can_hold :
    ∃ (s t : State), step s = .next t :=
  ⟨up, up.stepOn, rfl⟩
-- ReferenceClockAndTrim
theorem test_ReferenceClockAndTrim_0_can_hold :
    ∃ (s : State), s.gtb.refSrc = false :=
  ⟨up, by decide⟩
theorem test_ReferenceClockAndTrim_1_can_hold :
    ∃ (s : State), s.gtb.refSrc = true ∧ s.gtb.needPeriods ≤ s.gtb.goodPeriods :=
  ⟨{ up with gtb := { up.gtb with refSrc := true, goodPeriods := 16 } }, by decide⟩
theorem test_ReferenceClockAndTrim_2_can_hold :
    ∃ (s : State) (u : Nat), s.gtb.coarseEnd = some u :=
  ⟨{ up with gtb := { up.gtb with coarseEnd := some 16000 } }, 16000, by decide⟩
theorem test_ReferenceClockAndTrim_3_can_hold :
    ∃ (s : State) (v : U32), s.gtb.servoAuto = false :=
  ⟨{ up with gtb := { up.gtb with servoAuto := false } }, 0x08000000, by decide⟩
theorem test_ReferenceClockAndTrim_4_can_hold :
    ∃ (s : State) (v : U32), s.gtb.servoAuto = true :=
  ⟨up, 1, by decide⟩
theorem test_ReferenceClockAndTrim_6_can_hold :
    ∃ (s : State), (s.tl.ports.any (fun e => e.2.up) = false) :=
  ⟨up, by decide⟩
theorem test_ReferenceClockAndTrim_7_can_hold :
    ∃ (s : State), (s.tl.ports.any (fun e => e.2.up) = true) :=
  ⟨linked stall port, by decide⟩
-- OneReferenceCycle
theorem test_OneReferenceCycle_0_can_hold :
    ∃ (g : Gtb), g.base.toNat + 161 < 2 ^ 64 :=
  ⟨{ Gtb.reset with base := 2 ^ 64 - 162 }, by decide +kernel⟩
theorem test_OneReferenceCycle_1_can_hold :
    ∃ (s : State) (t : Nat), t + 320 < 2 ^ 64 :=
  ⟨up, 2 ^ 64 - 321, by decide⟩
-- AdvanceReachesItsTime
theorem test_AdvanceReachesItsTime_0_can_hold :
    ∃ (s : State) (t : Nat), s.gtb.running = true ∧ t + 320 < 2 ^ 64 :=
  ⟨up, 1000, by decide⟩
-- Gates
theorem test_GateWritesLand_0_can_hold :
    ∃ (s : State) (n : StallNo) (g : Fin 64) (i : Nat) (v : U32), s.gateOf n g = some i :=
  ⟨up, 1, 0, 7, 5, by decide⟩
theorem test_GateWritesLand_1_can_hold :
    ∃ (s : State) (n : StallNo) (g : Fin 64) (i : Nat) (hi l : U32), s.gateOf n g = some i ∧ (s.gate i).stagedLo = some l :=
  ⟨up.setGate 7 (fun g => { g with stagedLo := some 9 }), 1, 0, 7, 5, 9, by decide⟩
theorem test_GateWritesLand_2_can_hold :
    ∃ (s : State) (n : StallNo) (g : Fin 64) (i : Nat) (hi l : U32), s.gateOf n g = some i :=
  ⟨up, 1, 0, 7, 5, 9, by decide⟩
theorem test_GateWritesLand_3_can_hold :
    ∃ (s : State) (n : StallNo) (g : Fin 64) (i : Nat) (v : U32), s.gateOf n g = some i :=
  ⟨up, 1, 0, 7, 5, by decide⟩
theorem test_GateWritesLand_4_can_hold :
    ∃ (s : State) (n : StallNo) (g : Fin 64) (i : Nat) (c : Instr) (w : GateWrite), s.gateOf n g = some i ∧ (c, w) ∈ [(Instr.gateCtlArm n g,
    GateWrite.arm), (.gateCtlDisarm n g, .disarm), (.gateCtlDisarmArm n g, .disarmArm)] :=
  ⟨up, 1, 0, 7, .gateCtlDisarmArm 1 0, .disarmArm, by decide⟩
theorem test_GateWritesTakeEffect_0_can_hold :
    ∃ (s : State) (g : GateNo), (s.gate g).pend = [.arm] ∧ (((s.gate g).st = .idle ∨ (s.gate g).st = .fired)) :=
  ⟨up.setGate 7 (fun g => { g with pend := [.arm], cmp := 1 }), 7, by decide⟩
theorem test_GateWritesTakeEffect_1_can_hold :
    ∃ (s : State) (g : GateNo), (s.gate g).pend = [.disarm] :=
  ⟨up.setGate 7 (fun g => { g with pend := [.disarm], st := .armed }), 7, by decide⟩
theorem test_GateEvents_0_can_hold :
    ∃ (s : State) (g : GateNo), (s.gate g).st = .armed ∧ (s.gate g).cmp.toNat ≤ (s.advance ((s.gate g).cmp.toNat - (s.gate g).preroll.toNat)).now +
    (s.gate g).preroll.toNat :=
  ⟨up.setGate 7 (fun g => { g with st := .armed, cmp := 80, preroll := 40 }), 7, by decide⟩
theorem test_GateEvents_1_can_hold :
    ∃ (s : State) (g : GateNo), (((s.gate g).st = .armed ∨ (s.gate g).st = .waking)) ∧ (s.gate g).cmp.toNat ≤ (s.advance (s.gate g).cmp.toNat).now :=
  ⟨up.setGate 7 (fun g => { g with st := .waking, cmp := 80 }), 7, by decide⟩
theorem test_GateEvents_2_can_hold :
    ∃ (s : State) (g : GateNo) (u : Nat), (s.gate g).holdEnd = some u :=
  ⟨up.setGate 7 (fun g => { g with st := .fired, holdEnd := some 16000 }), 7, 16000, by decide⟩
-- TicksAndCaptures
theorem test_TickChannels_0_can_hold :
    ∃ (s : State) (r : Bool) (n : Fin 32) (v : U32), ((4 ≤ n.val ∨ r = true)) :=
  ⟨up, false, 4, 5, by decide⟩
theorem test_TickChannels_1_can_hold :
    ∃ (s : State) (r : Bool) (n : Fin 32) (hi l : U32), ((4 ≤ n.val ∨ r = true)) :=
  ⟨up, true, 0, 5, 9, by decide⟩
theorem test_TickChannels_2_can_hold :
    ∃ (s : State) (n : Fin 32) (v : U32), n.val < 4 :=
  ⟨up, 3, 5, by decide⟩
theorem test_TickChannels_3_can_hold :
    ∃ (s : State) (r : Bool) (n : Fin 32), ((4 ≤ n.val ∨ r = true)) ∧ (s.tick n).live = false :=
  ⟨up, false, 4, by decide⟩
theorem test_TickChannels_4_can_hold :
    ∃ (s : State) (n : Fin 32), (s.tick n).en = true ∧ (s.tick n).live = false ∧ (s.tick n).armed = true ∧ (s.tick n).cmp.toNat ≤ (s.advance (max
    (s.tick n).cmp.toNat ((s.tick n).armedAt + 1))).now :=
  ⟨up.setTick 4 (fun c => { c with en := true, armed := true, cmp := 80, period := 160 }), 4, by decide⟩
theorem test_TickChannels_5_can_hold :
    ∃ (s : State) (n : Fin 32), (s.tick n).en = true ∧ (s.tick n).live = true ∧ s.gtb.base.toNat < (s.tick n).cmp.toNat ∧ (s.tick n).cmp.toNat ≤
    (s.advanceEdge (s.tick n).cmp.toNat).gtb.base.toNat :=
  ⟨up.setTick 4 (fun c => { c with en := true, live := true, cmp := 160, period := 160 }), 4, by decide⟩
theorem test_CaptureInputs_0_can_hold :
    ∃ (s : State) (n : Fin 8) (rising : Bool) (a : U64), (s.cap n).en = true ∧ (s.cap n).stuck = false ∧ (s.cap n).level = !rising :=
  ⟨up.setCap 1 (fun c => { c with en := true }), 1, true, 5, by decide⟩
theorem test_CaptureInputs_1_can_hold :
    ∃ (s : State) (n : Fin 8), (s.cap n).stuckLimit ≠ 0 ∧ (s.cap n).stuck = false :=
  ⟨up.setCap 1 (fun c => { c with stuckLimit := 1 }), 1, by decide⟩
theorem test_CaptureInputs_2_can_hold :
    ∃ (s : State) (n : Fin 8) (hi lo : Bool), ((hi && (s.cap n).stuckHi) || (lo && (s.cap n).stuckLo)) = true :=
  ⟨up.setCap 1 (fun c => { c with stuckHi := true }), 1, true, false, by decide⟩
-- TimerCountsEveryAdvance
theorem test_TimerCountsEveryAdvance_0_can_hold :
    ∃ (t : Timer) (k : Nat), t.en = true :=
  ⟨{ Timer.init with en := true }, 3, by decide⟩
-- TimersFollowTheGtb
theorem test_TimersFollowTheGtb_0_can_hold :
    ∃ (s : State) (u n : Nat), Tab.sorted s.tb.timers = true ∧ s.now < (s.advance u).now ∧ (s.timer n).en = true ∧ s.gateOpen (s.timer n) = true ∧
    (((s.timer n).resetSrc = 0 ∨ (s.timer n).resetSrc ∉ s.tb.matrix)) :=
  ⟨up.setTimer 2 (fun t => { t with en := true, prescale := 3, top := 9 }), 80, 2, by decide⟩
-- RelayTimersGridAndWindow
theorem test_RelayTimersAndSyncOut_0_can_hold :
    ∃ (s : State) (n : Fin 16), (s.timer n).en = true ∧ (s.timer n).events = false :=
  ⟨up.setTimer 2 (fun t => { t with en := true, prescale := 3, top := 9 }), 2, by decide⟩
theorem test_RelayTimersAndSyncOut_1_can_hold :
    ∃ (s : State) (n : Fin 16) (d : Nat), (s.timer n).en = true ∧ (s.timer n).events = false ∧ (s.timer n).toMatch = some d :=
  ⟨up.setTimer 2 (fun t => { t with en := true, prescale := 3, top := 9, mtch := 4 }), 2, 4, by decide⟩
theorem test_RelayTimersAndSyncOut_2_can_hold :
    ∃ (s : State) (n : Fin 16), (s.timer n).resetSrc ≠ 0 ∧ (s.timer n).resetSrc ∈ s.tb.matrix ∧ s.now < s.nextStep :=
  ⟨{ up.setTimer 2 (fun t => { t with resetSrc := 0x80 }) with tb := { (up.setTimer 2 (fun t => { t with resetSrc := 0x80 })).tb with matrix := [0x80] } },
    2, by decide⟩
theorem test_RelayTimersAndSyncOut_4_can_hold :
    ∃ (s : State) (n : Fin 4) (u : Nat), (s.syncOut n).pulseEnd = some u :=
  ⟨up.setOut 1 (fun o => { o with pulseEnd := some 256 }), 1, 256, by decide⟩
theorem test_GridAndWindow_0_can_hold :
    ∃ (s : State) (good : Bool), (s.tb.gridDone + 1) * 2 ^ 20 ≤ (s.advance ((s.tb.gridDone + 1) * 2 ^ 20)).now :=
  ⟨up, true, by decide⟩
theorem test_GridAndWindow_1_can_hold :
    ∃ (s : State) (l : List Nat), s.rsv.st ≠ .ride ∧ (s.tb.winDone + 1) * 2 ^ 16 ≤ (s.advance ((s.tb.winDone + 1) * 2 ^ 16)).now :=
  ⟨up, [], by decide⟩
-- MailboxQueries
theorem test_MailboxQueries_0_can_hold :
    ∃ (s : State) (m : MbReq), s.mbTakes versionForm m = true :=
  ⟨up, vfReq [], by decide⟩
theorem test_MailboxQueries_1_can_hold :
    ∃ (s : State) (m : MbReq), s.mbTakes (resultQueryForm (plain m)) m = true :=
  ⟨up, pfReq [0, 0, 5, 0, 0xFF, 0, 0, 0], by decide⟩
theorem test_MailboxQueries_2_can_hold :
    ∃ (s : State) (m : MbReq) (p : HostPort) (n : StallNo) (x : Stall), m.fn = .vf p n ∧ s.stall? n = some x ∧ x.man.pending = false ∧ s.mbTakes
    manifestForm m = true :=
  ⟨up, vfReq (zeros 40), 0, 1, stall, by decide⟩
theorem test_MailboxQueries_3_can_hold :
    ∃ (s : State) (m : MbReq), s.yard.chgEpoch ≠ 0 ∧ s.mbTakes (form 0x0013 true false 4 []) m = true :=
  ⟨{ up with yard := { up.yard with chgEpoch := 2 } }, pfReq (zeros 4), by decide⟩
-- MailboxChecks
theorem test_MailboxChecks_0_can_hold :
    ∃ (s : State) (m : MbReq) (c : Instr) (f : MbForm), (c, f) ∈ [(Instr.version m, versionForm), (.resultQuery m, resultQueryForm (plain m)),
    (.manifestReq m, manifestForm), (.planSubmit m, planSubmitForm) , (.planCancel m, form 0x0011 true false 0 []), (.changeForce m, form 0x0012
    true false 0 []), (.changeReport m, form 0x0013 true false 4 []) , (.enrol m, form 0x0018 true false 96 []), (.rotate m, form 0x0019 true false
    196 []), (.ctxKill m, ctxKillForm), (.ctxDestroy m, ctxDestroyForm) , (.xlatInval m, xlatInvalForm), (.memStats m, memStatsForm), (.srndSeed m,
    srndSeedForm), (.schedSet m, schedSetForm), (.schedStat m, schedStatForm) , (.memClear m, memClearForm), (.queueDestroy m, queueDestroyForm),
    (.queueRebind none m, queueRebindForm), (.drvLoad m, drvLoadForm) , (.drvUnload m, drvUnloadForm), (.drvStat m, drvStatForm), (.remoteExport m,
    remoteExportForm), (.groupSet m, groupSetForm (plain m)) , (.groupClear m, groupClearForm), (.secChallenge m, form 0x0060 true false 0 []),
    (.debugLock m, form 0x0062 true false 0 []) , (.attestLog m, attestLogForm)] ∧ hostFn m.fn = true :=
  ⟨up, vfReq [], .planCancel (vfReq []), form 0x0011 true false 0 [], by simp, by decide⟩
-- PlansAndTheYardKeeperKey
theorem test_PlanLoading_0_can_hold :
    ∃ (s : State) (m : MbReq) (bs : List Byte), s.mbTakes planSubmitForm m = true ∧ s.yard.st = .idle ∧ s.hostRead (f64 m.payload 0) (min (f32 m.payload
    8) (2 ^ 20 + 1)) = some bs :=
  ⟨up, pfReq (n8 0 ++ n8 128), zeros 128, by decide⟩
theorem test_PlanLoading_1_can_hold :
    ∃ (s : State), s.yard.st = .validating :=
  ⟨{ up with yard := { up.yard with st := .validating } }, by decide⟩
theorem test_PlanLoading_2_can_hold :
    ∃ (s : State) (p : Plan), s.yard.st = .armed ∧ s.yard.plan = some p ∧ s.running = true ∧ (firstRej ((contentChecks ((s.advance s.commitTick).planEnv
    false) s.yard.planBytes).filter (fun c => c.1 = 0x14 || c.1 = 0x1D)) = none) :=
  ⟨{ upWith stall with stalls := [], yard := { up.yard with st := .armed, plan := some Plan.default } }, Plan.default, by decide⟩
theorem test_PlanLoading_3_can_hold :
    ∃ (s : State) (w : StoreWrite), s.yard.writing = some w ∧ s.yard.writeWait = none :=
  ⟨{ up with yard := { up.yard with writing := some ⟨1, ⟨[], 0, 0, 0⟩⟩ } }, ⟨1, ⟨[], 0, 0, 0⟩⟩, by decide⟩
theorem test_PlanLoading_4_can_hold :
    ∃ (s : State) (m : MbReq), s.mbTakes (form 0x0011 true false 0 []) m = true ∧ s.yard.st = .armed :=
  ⟨{ up with yard := { up.yard with st := .armed } }, pfReq [], by decide⟩
theorem test_YardKeeperKey_0_can_hold :
    ∃ (s : State) (m : MbReq), s.mbTakes (form 0x0018 true false 96 []) m = true ∧ s.yard.keyState = .unenrolled :=
  ⟨up, pfReq (zeros 96), by decide⟩
theorem test_YardKeeperKey_1_can_hold :
    ∃ (s : State), s.yard.keyState = .pending :=
  ⟨{ up with yard := { up.yard with keyState := .pending } }, by decide⟩
theorem test_YardKeeperKey_2_can_hold :
    ∃ (s : State) (m : MbReq), s.mbTakes (form 0x0019 true false 196 []) m = true ∧ s.yard.keyState = .enrolled ∧ s.yard.st = .idle ∧ f32 m.payload 0 =
    s.yard.keySeq.toNat + 1 :=
  ⟨{ up with yard := { up.yard with keyState := .enrolled } }, pfReq ([1] ++ zeros 195), by decide +kernel⟩
-- YardChanges
theorem test_ChangeSteps_0_can_hold :
    ∃ (s : State) (c : Change), s.yard.chg = some c ∧ c.step = .prepare ∧ c.acts = true :=
  ⟨changing stall (change .prepare 0), change .prepare 0, by decide⟩
theorem test_ChangeSteps_1_can_hold :
    ∃ (s : State) (c : Change), s.yard.chg = some c ∧ c.step = .none ∧ c.acts = true ∧ c.prepLeft = [] ∧ s.power.warm = none ∧ c.phase ≠ 0 ∧ ((∀ n ∈
    phaseStalls c.old c.new (c.phase + 1), c.new.defines n = true)) :=
  ⟨changing stall { change .none 1 with old := planOf [4, 5, 6] }, { change .none 1 with old := planOf [4, 5, 6] }, by decide⟩
theorem test_ChangeSteps_2_can_hold :
    ∃ (s : State) (n : StallNo) (c : Change) (x : Stall), s.yard.chg = some c ∧ s.stall? n = some x ∧ c.step = .pausing ∧ c.acts = true ∧ n.val ∈
    c.stallsNow ∧ n.val ∉ c.released ∧ x.paused = true ∧ x.hasPaused = true ∧ (c.old.holdingsOf n).isSome = true ∧ (c.new.holdingsOf n).isSome =
    true :=
  ⟨changing { stall with paused := true } (change .pausing 1), 1, change .pausing 1, { stall with paused := true }, by decide⟩
theorem test_ChangeSteps_3_can_hold :
    ∃ (s : State) (n : StallNo) (c : Change) (x : Stall), s.yard.chg = some c ∧ s.stall? n = some x ∧ c.step = .pausing ∧ c.acts = true ∧ n.val ∈
    c.stallsNow ∧ n.val ∉ c.released ∧ c.hold = [] :=
  ⟨changing stall (change .pausing 1), 1, change .pausing 1, stall, by decide⟩
theorem test_ChangeSteps_4_can_hold :
    ∃ (s : State) (c : Change), s.yard.chg = some c ∧ c.step = .grantWait ∧ c.acts = true ∧ c.grantees = [] ∧ c.phases ≤ c.phase ∧ s.power.warmDeferred
    = false :=
  ⟨changing stall (change .grantWait 1), change .grantWait 1, by decide⟩
theorem test_ChangeForcedOrAborted_0_can_hold :
    ∃ (s : State) (m : MbReq) (c : Change), s.yard.chg = some c ∧ c.step = .hold ∧ c.atGrant = false ∧ s.mbTakes (form 0x0012 true false 0 []) m = true
    :=
  ⟨changing stall (change .hold 1), pfReq [], change .hold 1, by decide⟩
theorem test_ChangeForcedOrAborted_1_can_hold :
    ∃ (s : State) (c : Change), s.yard.chg = some c ∧ c.step = .hold ∧ c.acts = true ∧ c.holdGrids ≠ 0 ∧ c.forcing = 0 ∧ c.holdAction = 1 ∧ c.abortable
    = true :=
  ⟨changing stall (change .hold 1), change .hold 1, by decide⟩
-- ContextRequests
theorem test_ContextRequests_0_can_hold :
    ∃ (s : State) (m : MbReq) (p : HostPort) (n : StallNo) (x : Stall), m.fn = .vf p n ∧ s.stall? n = some x ∧ s.mbTakes (ctxCreateForm x.hold.ctxMax) m
    = true :=
  ⟨up, vfReq ([1, 0] ++ zeros 6 ++ n8 0x1000 ++ n8 64), 0, 1, stall, by decide⟩
theorem test_ContextRequests_1_can_hold :
    ∃ (s : State) (m : MbReq) (p : HostPort) (n : StallNo) (x : Stall), m.fn = .vf p n ∧ s.stall? n = some x ∧ s.mbTakes ctxDestroyForm m = true ∧
    (x.ctx? (f8 m.payload 0)).isSome = true ∧ x.queuesOf (f8 m.payload 0) = [] ∧ x.kills.find? (f8 m.payload 0) = none :=
  ⟨up, vfReq (zeros 8), 0, 1, stall, by decide⟩
theorem test_ContextRequests_2_can_hold :
    ∃ (s : State) (m : MbReq) (p : HostPort) (n : StallNo) (x : Stall), m.fn = .vf p n ∧ s.stall? n = some x ∧ s.mbTakes xlatInvalForm m = true :=
  ⟨up, vfReq ([0xFF] ++ zeros 23), 0, 1, stall, by decide⟩
theorem test_ContextRequests_3_can_hold :
    ∃ (s : State) (n : StallNo) (x : Stall) (r : Req) (l : List Req), s.stall? n = some x ∧ x.invals = r :: l :=
  ⟨upWith { stall with invals := [plain (vfReq ([0xFF] ++ zeros 23))] }, 1, { stall with invals := [plain (vfReq ([0xFF] ++ zeros 23))] }, plain
    (vfReq ([0xFF] ++ zeros 23)), [], by decide⟩
theorem test_ContextRequests_4_can_hold :
    ∃ (s : State) (m : MbReq) (x : Stall), s.mbTakes memStatsForm m = true ∧ s.stall? (stallArg memStatsForm (plain m)) = some x :=
  ⟨up, pfReq ([1] ++ zeros 7), stall, by decide⟩
theorem test_ContextRequests_5_can_hold :
    ∃ (s : State) (m : MbReq) (p : HostPort) (n : StallNo) (x : Stall), m.fn = .vf p n ∧ s.stall? n = some x ∧ s.mbTakes srndSeedForm m = true :=
  ⟨up, vfReq (n8 5), 0, 1, stall, by decide⟩
-- KillsResetsAndClearing
theorem test_KillsAndStallReset_0_can_hold :
    ∃ (s : State) (m : MbReq) (n : StallNo) (x : Stall), s.mbTakes ctxKillForm m = true ∧ stallArg ctxKillForm (plain m) = n.val ∧ s.stall? n = some x ∧
    (x.ctx? (f8 m.payload 1)).isSome = true ∧ x.kills.find? (f8 m.payload 1) = none :=
  ⟨up, pfReq ([1, 0] ++ zeros 6), 1, stall, by decide⟩
theorem test_KillsAndStallReset_1_can_hold :
    ∃ (s : State) (c : CtxId) (x : Stall) (rs : List Req), s.stall? c.stall = some x ∧ x.kills.find? c.ctx = some rs :=
  ⟨upWith { stall with kills := [(0, [])] }, { stall := 1, ctx := 0 }, { stall with kills := [(0, [])] }, [], by decide⟩
theorem test_KillsAndStallReset_2_can_hold :
    ∃ (s : State) (m : MbReq) (n : StallNo) (x : Stall), s.mbTakes { form 0x0022 true false 8 [(1, 7)] with stallAt := some 0 } m = true ∧ f8 m.payload
    0 = n.val ∧ s.stall? n = some x ∧ x.reset = [] :=
  ⟨up, pfReq ([1] ++ zeros 7), 1, stall, by decide⟩
theorem test_KillsAndStallReset_3_can_hold :
    ∃ (s : State) (n : StallNo) (x : Stall), s.stall? n = some x :=
  ⟨up, 1, stall, by decide⟩
-- SchedulingAndPreemption
theorem test_SchedulingRequests_0_can_hold :
    ∃ (s : State) (m : MbReq) (x : Stall), s.mbTakes schedSetForm m = true ∧ s.stall? (stallArg schedSetForm (plain m)) = some x :=
  ⟨up, pfReq ([1] ++ zeros 7 ++ leBytes 4 160000 ++ zeros 4), stall, by decide⟩
theorem test_SchedulingRequests_1_can_hold :
    ∃ (s : State) (m : MbReq) (x : Stall), s.mbTakes schedStatForm m = true ∧ s.stall? (stallArg schedStatForm (plain m)) = some x :=
  ⟨up, vfReq (zeros 8), stall, by decide⟩
-- KillsResetsAndClearing
theorem test_ClearingMemory_0_can_hold :
    ∃ (s : State) (m : MbReq) (x : Stall), s.mbTakes memClearForm m = true ∧ s.stall? (stallArg memClearForm (plain m)) = some x ∧ x.man.pending = false
    ∧ f8 m.payload 1 < x.hold.slots.length ∧ f64 m.payload 8 + f64 m.payload 16 ≤ x.hold.spaceEnd s.pkg.variant :=
  ⟨up, vfReq (zeros 8 ++ n8 0 ++ n8 65536), stall, by decide⟩
theorem test_ClearingMemory_1_can_hold :
    ∃ (s : State) (n : StallNo) (x : Stall) (c : MemClear) (l : List MemClear), s.stall? n = some x ∧ x.memClear = c :: l :=
  ⟨upWith { stall with memClear := [⟨plain (vfReq []), 0, 0, 128⟩] }, 1, { stall with memClear := [⟨plain (vfReq []), 0, 0, 128⟩] }, ⟨plain (vfReq
    []), 0, 0, 128⟩, [], by decide⟩
-- SchedulingAndPreemption
theorem test_PreemptionAndRotation_0_can_hold :
    ∃ (s : State) (c : CtxId) (x : Stall) (z : Ctx), s.stall? c.stall = some x ∧ x.ctx? c.ctx = some z ∧ z.requested = true ∧ x.halted? c.ctx = true ∧
    ((∀ a, z.rotReq = some a → s.now ≤ a + x.hold.preemptLimit)) ∧ ((∀ a, z.sliceReq = some a → s.now ≤ a + x.hold.preemptLimit)) :=
  ⟨upWith { stall with ctxs := [(0, { ctx with pauseReq := true })] }, { stall := 1, ctx := 0 },
    { stall with ctxs := [(0, { ctx with pauseReq := true })] }, { ctx with pauseReq := true },
   
    by refine ⟨by decide, by decide, by decide, by decide, ?_, ?_⟩ <;> intro a h <;> cases h⟩
theorem test_PreemptionAndRotation_1_can_hold :
    ∃ (s : State) (c : CtxId) (x : Stall) (z : Ctx) (r : Nat), s.stall? c.stall = some x ∧ x.ctx? c.ctx = some z ∧ (z.rotReq.orElse (fun _ =>
    z.sliceReq) = some r) ∧ z.stopped = false :=
  ⟨upWith { stall with ctxs := [(0, { ctx with rotReq := some 0 })] }, { stall := 1, ctx := 0 },
    { stall with ctxs := [(0, { ctx with rotReq := some 0 })] }, { ctx with rotReq := some 0 }, 0, by decide⟩
theorem test_PreemptionAndRotation_2_can_hold :
    ∃ (s : State) (n : StallNo) (x : Stall) (w a c h : Nat) (z : Ctx), s.stall? n = some x ∧ x.sched.ctxSlice ≠ 0 ∧ x.hold.sole = false ∧
    x.sched.waitSince = [(w, a)] ∧ a + x.sched.ctxSlice.toNat ≤ (s.advance (a + x.sched.ctxSlice.toNat)).now ∧ c ≠ w ∧ x.ctx? c = some z ∧
    z.requested = false ∧ s.holding x c = some h ∧ h + x.sched.ctxSlice.toNat ≤ (s.advance (a + x.sched.ctxSlice.toNat)).now ∧ ((∀ d k, d ∈
    x.ctxs.map (·.1) → d ≠ c → s.holding x d = some k → h < k ∨ (h = k ∧ d < c))) :=
  ⟨withTask heldStall, 1, heldStall, 0, 0, 1, 0, ctx,
   
    by refine ⟨by decide, by decide, by decide, by decide, by decide, by decide, by decide, by decide, by decide, by decide, ?_⟩; intro d k h n e; simp [heldStall] at h; rcases h with rfl | rfl <;> first | exact absurd rfl n | cases e⟩
theorem test_PreemptionAndRotation_3_can_hold :
    ∃ (s : State) (n : StallNo) (x : Stall) (i : Nat), s.stall? n = some x ∧ x.hold.iso = 1 ∧ x.hold.sole = false ∧ x.paused = false ∧ x.sched.rotating
    = none ∧ x.sched.resident = none ∧ x.sched.forward = [] ∧ (List.range x.hold.slots.length).find? x.eligible = some i :=
  ⟨upWith tenants, 1, tenants, 0, by decide⟩
theorem test_PreemptionAndRotation_4_can_hold :
    ∃ (s : State) (n : StallNo) (x : Stall) (i j : Nat), s.stall? n = some x ∧ x.hold.iso = 1 ∧ x.hold.sole = false ∧ x.paused = false ∧
    x.sched.rotating = none ∧ x.sched.resident = some i ∧ x.sched.forward = [] ∧ x.nextTenant i = some j :=
  ⟨upWith { tenants with sched := { Sched.init with resident := some 1 } }, 1, { tenants with sched := { Sched.init with resident := some 1 } }, 1, 0,
    by decide⟩
theorem test_PreemptionAndRotation_5_can_hold :
    ∃ (s : State) (n : StallNo) (x : Stall) (out : Option Nat) (r j : Nat), s.stall? n = some x ∧ x.paused = false ∧ x.sched.rotating = some (out, r) ∧
    x.sched.incoming = some j ∧ ((∀ e ∈ x.ctxs, e.2.key = out → e.2.rotReq.isSome = true → e.2.stopped = true)) :=
  ⟨upWith { tenants with sched := { Sched.init with resident := some 1, rotating := some (some 1, 0), incoming := some 0 } }, 1,
    { tenants with sched := { Sched.init with resident := some 1, rotating := some (some 1, 0), incoming := some 0 } }, some 1, 0, 0, by decide⟩
-- MemoryLines
theorem test_MemoryLines_0_can_hold :
    ∃ (s : State) (a slot : Nat) (bs : List Byte), a % 64 + bs.length ≤ 64 ∧ bs ≠ [] ∧ (((s.lineSlot.find? (lineOf a) = none ∨ s.lineSlot.find? (lineOf
    a) = some slot) ∧ lineOf a ∉ s.poison ∨ a % 64 = 0 ∧ bs.length = 64)) :=
  ⟨up, 64, 9, [1, 2], by decide⟩
theorem test_MemoryLines_1_can_hold :
    ∃ (s : State) (a slot : Nat) (bs : List Byte) (p : Bool) (b : Nat), (¬ (a ≤ b ∧ b < a + bs.length)) :=
  ⟨up, 64, 9, [1, 2], false, 66, by decide⟩
theorem test_MemoryLines_2_can_hold :
    ∃ (s : State) (a n slot k : Nat), s.lineSlot.find? (lineOf a) = some k ∧ k ≠ slot :=
  ⟨{ up with lineSlot := [(1, 8)] }, 64, 8, 9, 8, by decide⟩
theorem test_MemoryLines_3_can_hold :
    ∃ (s : State) (a slot k n : Nat) (bs : List Byte), s.lineSlot.find? (lineOf a) = some k ∧ k ≠ slot ∧ ((a % 64 ≠ 0 ∨ bs.length ≠ 64)) :=
  ⟨{ up with lineSlot := [(1, 8)] }, 64, 9, 8, 8, [1, 2], by decide⟩
-- StoresGoWhereTheyAim
theorem test_StoresGoWhereTheyAim_0_can_hold :
    ∃ (s : State) (w : Who) (va need a k : Nat) (bs : List Byte) (p : Bool), (s.aim w va need rWrite accWrite).1 = .to a k :=
  ⟨up, { stall := 1, ctx := 0, engine := 1, queue := 0, asn := 0 }, 64, 2, bayAddr .xh5124 4 0x200040, 9, [1, 2], false, by decide⟩
theorem test_StoresGoWhereTheyAim_1_can_hold :
    ∃ (s : State) (w : Who) (va need : Nat) (m : Met) (bs : List Byte) (p : Bool), (s.aim w va need rWrite accWrite).1 = .not m :=
  ⟨up, { stall := 1, ctx := 3, engine := 1, queue := 0, asn := 0 }, 64, 2, .stops 1, [1, 2], false, by decide⟩
theorem test_StoresGoWhereTheyAim_2_can_hold :
    ∃ (s : State) (w : Who) (va need page acc a k : Nat), (s.aim w va need page acc).1 = .to a k :=
  ⟨up, { stall := 1, ctx := 0, engine := 1, queue := 0, asn := 0 }, 64, 2, 2, 2, bayAddr .xh5124 4 0x200040, 9, by decide⟩
-- TransfersStayInTheirChunk
theorem test_TransfersStayInTheirChunk_0_can_hold :
    ∃ (src : Source) (dst : Dest) (fin fuel u : Nat) (m : Moved) (s : State), u ≤ fin ∧ m.done = u :=
  ⟨fillSource [1], stallDest { stall := 1, ctx := 0, engine := 1, queue := 0, asn := 0 } false (fun i => i) (fun i => 8 - i), 8, 8, 0, startMoved (cmd
    0x22 []), up, by decide⟩
-- WaitAndGateCommands
theorem test_WaitCommands_0_can_hold :
    ∃ (s : State) (q : QueueId) (e : Entry), s.starts q 0x01 e = true :=
  ⟨ready .compute (cmd 0x01 []), qid .compute, cmd 0x01 [], by decide⟩
theorem test_WaitCommands_1_can_hold :
    ∃ (s : State) (q : QueueId) (e : Entry), s.starts q 0x13 e = true :=
  ⟨ready .compute (cmd 0x13 []), qid .compute, cmd 0x13 [], by decide⟩
theorem test_WaitCommands_2_can_hold :
    ∃ (s : State) (q : QueueId) (e : Entry), s.starts q 0x08 e = true :=
  ⟨ready .compute (cmd 0x08 (n8 160)), qid .compute, cmd 0x08 (n8 160), by decide⟩
theorem test_WaitCommands_3_can_hold :
    ∃ (s : State) (q : QueueId) (pos : U32) (e : Entry), s.started? q.stall (queueKey q) pos = some e ∧ e.opcode = 0x08 ∧ e.u64 8 ≤ (s.advance (e.u64
    8)).now :=
  ⟨ready .compute (begun (cmd 0x08 (n8 160))), qid .compute, 0, begun (cmd 0x08 (n8 160)), by decide⟩
theorem test_WaitCommands_4_can_hold :
    ∃ (s : State) (q : QueueId) (e : Entry) (g : Nat), s.starts q 0x09 e = true ∧ e.gate = some g :=
  ⟨ready .compute { cmd 0x09 [] with gate := some 7 }, qid .compute, { cmd 0x09 [] with gate := some 7 }, 7, by decide⟩
theorem test_WaitCommands_5_can_hold :
    ∃ (s : State) (q : QueueId) (e : Entry), s.starts q 0x12 e = true :=
  ⟨ready .compute (cmd 0x12 [0, 1]), qid .compute, cmd 0x12 [0, 1], by decide⟩
theorem test_WaitCommands_6_can_hold :
    ∃ (s : State) (q : QueueId) (pos : U32) (e : Entry), s.started? q.stall (queueKey q) pos = some e ∧ e.opcode = 0x12 ∧ e.u64 0x18 ≠ 0 :=
  ⟨ready .compute (begun (cmd 0x12 ([0, 1] ++ zeros 14 ++ n8 5))), qid .compute, 0, begun (cmd 0x12 ([0, 1] ++ zeros 14 ++ n8 5)), by decide⟩
theorem test_GateCommands_0_can_hold :
    ∃ (s : State) (q : QueueId) (e : Entry) (g : Nat), s.starts q 0x0A e = true ∧ e.gate = some g ∧ g < 256 ∧ (s.gate g).pend = [] ∧ (((s.gate g).st =
    .idle ∨ (s.gate g).st = .fired)) :=
  ⟨ready .compute { cmd 0x0A (zeros 8 ++ n8 80) with gate := some 7 }, qid .compute, { cmd 0x0A (zeros 8 ++ n8 80) with gate := some 7 }, 7, by
    decide⟩
theorem test_GateCommands_1_can_hold :
    ∃ (s : State) (q : QueueId) (e : Entry) (g : Nat), s.starts q 0x0B e = true ∧ e.gate = some g :=
  ⟨ready .compute { cmd 0x0B [] with gate := some 7 }, qid .compute, { cmd 0x0B [] with gate := some 7 }, 7, by decide⟩
-- MarksReceiptsAndEnds
theorem test_SemaphoresTimestampsReceipts_0_can_hold :
    ∃ (s : State) (q : QueueId) (e : Entry), s.starts q 0x0C e = true :=
  ⟨ready .compute (cmd 0x0C (n8 64)), qid .compute, cmd 0x0C (n8 64), by decide⟩
theorem test_SemaphoresTimestampsReceipts_1_can_hold :
    ∃ (s : State) (q : QueueId) (e : Entry), s.starts q 0x10 e = true :=
  ⟨ready .compute (cmd 0x10 (n8 64 ++ n8 5 ++ [1])), qid .compute, cmd 0x10 (n8 64 ++ n8 5 ++ [1]), by decide⟩
theorem test_SemaphoresTimestampsReceipts_2_can_hold :
    ∃ (s : State) (q : QueueId) (e : Entry), s.starts q 0x11 e = true :=
  ⟨ready .compute (cmd 0x11 (n8 64 ++ n8 0)), qid .compute, cmd 0x11 (n8 64 ++ n8 0), by decide⟩
theorem test_SemaphoresTimestampsReceipts_3_can_hold :
    ∃ (s : State) (q : QueueId) (pos : U32) (e : Entry), s.started? q.stall (queueKey q) pos = some e ∧ e.opcode = 0x11 ∧ ((e.u64 0x20 = 0 ∨ s.now <
    e.startAt + e.u64 0x20)) :=
  ⟨ready .compute (begun (cmd 0x11 (n8 64 ++ n8 0))), qid .compute, 0, begun (cmd 0x11 (n8 64 ++ n8 0)), by decide⟩
theorem test_SemaphoresTimestampsReceipts_4_can_hold :
    ∃ (s : State) (q : QueueId) (pos : U32) (e : Entry), s.started? q.stall (queueKey q) pos = some e ∧ e.opcode = 0x11 ∧ e.u64 0x20 ≠ 0 :=
  ⟨ready .compute (begun (cmd 0x11 (n8 64 ++ n8 5 ++ zeros 8 ++ n8 80))), qid .compute, 0, begun (cmd 0x11 (n8 64 ++ n8 5 ++ zeros 8 ++ n8 80)), by
    decide⟩
theorem test_SemaphoresTimestampsReceipts_5_can_hold :
    ∃ (s : State) (q : QueueId) (e : Entry) (n : Stall) (x : Queue), s.starts q 0x14 e = true ∧ s.stall? q.stall = some n ∧ s.queue? q.stall (queueKey
    q) = some x :=
  ⟨ready .compute (cmd 0x14 (n8 4096)), qid .compute, cmd 0x14 (n8 4096), stallQ .compute (queue [cmd 0x14 (n8 4096)]), queue [cmd 0x14 (n8 4096)], by
    decide⟩
-- TransferCommands
theorem test_TransferCommands_0_can_hold :
    ∃ (s : State) (q : QueueId) (e : Entry), s.starts q 0x20 e = true ∧ e.u8 0x20 ≠ 2 ∧ e.u8 0x21 ≠ 2 :=
  ⟨ready .copy (cmd 0x20 (n8 0 ++ n8 4096 ++ n8 64)), qid .copy, cmd 0x20 (n8 0 ++ n8 4096 ++ n8 64), by decide⟩
theorem test_TransferCommands_1_can_hold :
    ∃ (s : State) (q : QueueId) (e : Entry), s.starts q 0x20 e = true ∧ ((e.u8 0x20 = 2 ∨ e.u8 0x21 = 2)) ∧ (s.session? (e.u32 0x24)).isSome = true :=
  ⟨{ ready .copy (cmd 0x20 (n8 0 ++ n8 4096 ++ n8 4096 ++ [2, 0, 0, 0, 6])) with sessions := [(6, { session with fn := some (.vf 0 1) })] }, qid
    .copy, cmd 0x20 (n8 0 ++ n8 4096 ++ n8 4096 ++ [2, 0, 0, 0, 6]), by decide⟩
theorem test_TransferCommands_2_can_hold :
    ∃ (s : State) (q : QueueId) (e : Entry), s.starts q 0x20 e = true ∧ ((e.u8 0x20 = 2 ∨ e.u8 0x21 = 2)) ∧ (s.session? (e.u32 0x24)).isNone = true :=
  ⟨ready .copy (cmd 0x20 (n8 0 ++ n8 4096 ++ n8 4096 ++ [2, 0, 0, 0, 6])), qid .copy, cmd 0x20 (n8 0 ++ n8 4096 ++ n8 4096 ++ [2, 0, 0, 0, 6]), by
    decide⟩
theorem test_TransferCommands_3_can_hold :
    ∃ (s : State) (q : QueueId) (e : Entry), s.starts q 0x21 e = true :=
  ⟨ready .copy (cmd 0x21 (n8 0 ++ n8 4096 ++ leBytes 4 64 ++ leBytes 4 1 ++ leBytes 4 64 ++ leBytes 4 64)), qid .copy, cmd 0x21 (n8 0 ++ n8 4096 ++
    leBytes 4 64 ++ leBytes 4 1 ++ leBytes 4 64 ++ leBytes 4 64), by decide⟩
theorem test_TransferCommands_4_can_hold :
    ∃ (s : State) (q : QueueId) (e : Entry), s.starts q 0x22 e = true :=
  ⟨ready .copy (cmd 0x22 (n8 4096 ++ n8 64 ++ n8 5 ++ [1])), qid .copy, cmd 0x22 (n8 4096 ++ n8 64 ++ n8 5 ++ [1]), by decide⟩
theorem test_TransferCommands_5_can_hold :
    ∃ (s : State) (q : QueueId) (e : Entry) (x : Stall) (im : SealedImage), s.starts q 0x23 e = true ∧ s.stall? q.stall = some x ∧ x.attest.images.find?
    (e.u32 0x24) = some im ∧ (e.u64 0x28 + e.u64 0x18) / 4096 ≤ im.pages :=
  ⟨upWith
    { stallQ .copy (queue [cmd 0x23 (n8 0 ++ n8 4096 ++ n8 4096 ++ leBytes 4 0 ++ leBytes 4 1)]) with attest := { Attest.init with images := [(1, ⟨[], [], 1, 0⟩)] } },
    qid .copy, cmd 0x23 (n8 0 ++ n8 4096 ++ n8 4096 ++ leBytes 4 0 ++ leBytes 4 1),
    { stallQ .copy (queue [cmd 0x23 (n8 0 ++ n8 4096 ++ n8 4096 ++ leBytes 4 0 ++ leBytes 4 1)]) with attest := { Attest.init with images := [(1, ⟨[], [], 1, 0⟩)] } },
    ⟨[], [], 1, 0⟩, by decide⟩
-- MarksReceiptsAndEnds
theorem test_EndsAndVisibility_0_can_hold :
    ∃ (s : State) (q : QueueId) (pos : U32) (e : Entry), s.entryAt q pos = some e ∧ e.st = .ready :=
  ⟨ready .compute { cmd 0x01 [] with st := .ready }, qid .compute, 0, { cmd 0x01 [] with st := .ready }, by decide⟩
theorem test_EndsAndVisibility_2_can_hold :
    ∃ (s : State) (q : QueueId) (x : Queue) (e : Entry), s.queue? q.stall (queueKey q) = some x ∧ x.nextVisible? = some e ∧ e.st = .ended ∧
    s.queueServed x = true :=
  ⟨ready .compute { cmd 0x01 [] with st := .ended }, qid .compute, queue [{ cmd 0x01 [] with st := .ended }], { cmd 0x01 [] with st := .ended }, by
    decide⟩
-- ClusterWork
theorem test_LaunchCommands_0_can_hold :
    ∃ (s : State) (q : QueueId) (e : Entry), s.starts q 0x02 e = true :=
  ⟨ready .compute (cmd 0x02 (n8 4096)), qid .compute, cmd 0x02 (n8 4096), by decide⟩
theorem test_LaunchCommands_1_can_hold :
    ∃ (s : State) (q : QueueId) (e : Entry), s.starts q 0x03 e = true :=
  ⟨ready .compute (cmd 0x03 (n8 4096)), qid .compute, cmd 0x03 (n8 4096), by decide⟩
theorem test_LaunchCommands_2_can_hold :
    ∃ (s : State) (q : QueueId) (e : Entry), ((s.modCtx q.stall (qkCtx (queueKey q)) (fun x =>
    { x with pauseReq := false, rotReq := none, sliceReq := none })).starts q 0x04 e = true) :=
  ⟨ready .compute (cmd 0x04 []), qid .compute, cmd 0x04 [], by decide⟩
theorem test_TasksArePlaced_0_can_hold :
    ∃ (s : State) (n : StallNo) (x : Stall) (k c : Nat) (l : Launch) (e : Entry) (y : Queue), s.stall? n = some x ∧ s.freeCluster? x = some c ∧
    (x.nextServed ((s.readyQueues x (fun _ => true)).filter (fun k => (x.queue? k).any (fun q => decide (q.served < q.weight)))) = some k) ∧
    x.readyLaunch k = some l ∧ l.saved = [] ∧ l.again = [] ∧ x.queue? k = some y ∧ y.entry? l.pos = some e :=
  ⟨upWith { stallQ .compute (queue [begun (cmd 0x02 [])]) with launches := [gridL] }, 1,
    { stallQ .compute (queue [begun (cmd 0x02 [])]) with launches := [gridL] }, 0, 16, gridL, begun (cmd 0x02 []), queue [begun (cmd 0x02 [])], by
    decide⟩
theorem test_TasksLeaveTheirCluster_0_can_hold :
    ∃ (s : State) (c : Fin 512) (q : QueueId) (x : Stall) (l : Launch) (r : RunTask) (e : Entry), s.taskOn c = some (q.stall, l, r) ∧ s.stall? q.stall =
    some x ∧ l.qk = queueKey q ∧ x.launch? l.qk l.pos = some l ∧ s.entryAt q l.pos = some e ∧ e.st = .started ∧ l.stopping = false :=
  ⟨withTask { stallQ .compute (queue [begun (cmd 0x02 [])]) with launches := [grid 0 [⟨0, 16, 0, none⟩]] }, 16, qid .compute,
    { stallQ .compute (queue [begun (cmd 0x02 [])]) with launches := [grid 0 [⟨0, 16, 0, none⟩]] }, grid 0 [⟨0, 16, 0, none⟩], ⟨0, 16, 0, none⟩, begun (cmd 0x02 []),
    by decide +kernel⟩
theorem test_TasksLeaveTheirCluster_1_can_hold :
    ∃ (s : State) (c : Fin 512) (q : QueueId) (x : Stall) (l : Launch) (r : RunTask) (e : Entry) (d : Lrd) (a : LrdEntry) (pc : U32) (core ranges : List
    Byte), s.taskOn c = some (q.stall, l, r) ∧ s.stall? q.stall = some x ∧ l.qk = queueKey q ∧ x.launch? l.qk l.pos = some l ∧ s.entryAt q l.pos =
    some e ∧ l.lrd = some d ∧ (d.entries.find? (fun y => y.pc = pc.toNat) = some a) ∧ (x.paused || (x.ctx? (qkCtx l.qk)).any Ctx.requested) = true
    ∧ r.startAt ≤ s.now :=
  ⟨withTask safeStall, 16, qid .compute, safeStall, safeGrid, ⟨0, 16, 0, none⟩, begun (cmd 0x02 []), ⟨256, 0, [⟨64, 0, []⟩]⟩, ⟨64, 0, []⟩, 64, [], [], by
    decide +kernel⟩
theorem test_TasksLeaveTheirCluster_2_can_hold :
    ∃ (s : State) (c : Fin 512) (q : QueueId) (x : Stall) (l : Launch) (r : RunTask), s.taskOn c = some (q.stall, l, r) ∧ s.stall? q.stall = some x ∧
    l.qk = queueKey q ∧ x.launch? l.qk l.pos = some l ∧ l.stopping = false ∧ r.back = none ∧ (x.paused || (x.ctx? (qkCtx l.qk)).any Ctx.requested) = true
    ∧ s.now < r.startAt :=
  ⟨withTask { safeStall with launches := [lateGrid] }, 16, qid .compute, { safeStall with launches := [lateGrid] }, lateGrid, lateTask, by decide +kernel⟩
-- QueueRequests
theorem test_QueueRequests_0_can_hold :
    ∃ (s : State) (m : MbReq) (p : HostPort) (n : StallNo) (x : Stall), m.fn = .vf p n ∧ s.stall? n = some x ∧ s.mbTakes (queueCreateForm x.hold.ctxMax)
    m = true ∧ (s.mbGo (plain m) 0x0030).1.queueCreateRefusal x n m.payload = none :=
  ⟨up, vfReq ([0, 0, 0, 6, 1, 1] ++ zeros 10 ++ n8 0 ++ n8 0x2000 ++ n8 0x3000), 0, 1, stall, by decide +kernel⟩
theorem test_QueueRequests_1_can_hold :
    ∃ (s : State) (m : MbReq) (p : HostPort) (n : StallNo) (y : Queue), m.fn = .vf p n ∧ s.mbTakes queueDestroyForm m = true ∧ s.queue? n (qkey (f8
    m.payload 0) (f8 m.payload 1) (f8 m.payload 2)) = some y ∧ y.idle = true ∧ y.checking = none :=
  ⟨upWith (stallQ .compute (queue [])), vfReq [0, 0, 0, 0, 0, 0, 0, 0], 0, 1, queue [], by decide⟩
theorem test_QueueRequests_2_can_hold :
    ∃ (s : State) (i : U32) (m : MbReq) (p : HostPort) (n : StallNo) (x : Session) (y : Queue), s.sessionHeard i.toNat = some x ∧ x.finished = true ∧
    x.fn = some (.vf p n) ∧ s.mbCheck queueRebindForm { fn := .vf p n, tag := m.tag, payload := m.payload, session := some i } = none ∧ s.queue? n
    (qkey (f8 m.payload 0) (f8 m.payload 1) (f8 m.payload 2)) = some y ∧ y.isSealed = true ∧ y.waiting = [] :=
  ⟨sessions (upWith (stallQ .compute sealQ)) vfSession, 1, vfReq [0, 0, 0, 0, 0, 0, 0, 0], 0, 1, vfSession, sealQ, by decide⟩
-- DoorbellsAndAcceptance
theorem test_DoorbellsAndAcceptance_0_can_hold :
    ∃ (s : State) (p : HostPort) (q : QueueId) (tail : U32) (x : Queue), s.vfSeen q.stall p = true ∧ s.running = true ∧ s.queue? q.stall (queueKey q) =
    some x ∧ (s.wakePackage 0 false).dbHeld q.stall x = true :=
  ⟨heldQ (fun q => { q with held := true }), 0, qid .compute, 1, { queue [] with held := true }, by decide⟩
theorem test_DoorbellsAndAcceptance_1_can_hold :
    ∃ (s : State) (p : HostPort) (q : QueueId) (tail : U32) (x : Queue), s.vfSeen q.stall p = true ∧ s.running = true ∧ s.queue? q.stall (queueKey q) =
    some x ∧ (s.wakePackage 0 false).dbHeld q.stall x = false ∧ x.ringFault = false ∧ x.depth < (tail - x.acceptedPos).toNat :=
  ⟨heldQ id, 0, qid .compute, 65, queue [], by decide⟩
theorem test_DoorbellsAndAcceptance_2_can_hold :
    ∃ (s : State) (p : HostPort) (q : QueueId) (tail : U32) (x : Queue), s.vfSeen q.stall p = true ∧ s.running = true ∧ s.queue? q.stall (queueKey q) =
    some x ∧ (s.wakePackage 0 false).dbHeld q.stall x = false ∧ x.ringFault = false ∧ (tail - x.acceptedPos).toNat ≤ x.depth ∧ tail ≠ x.acceptedPos
    :=
  ⟨heldQ id, 0, qid .compute, 64, queue [], by decide⟩
theorem test_DoorbellsAndAcceptance_3_can_hold :
    ∃ (s : State) (q : QueueId) (x : Queue) (n : Stall) (c : Check), s.stall? q.stall = some n ∧ n.journal.durable = true ∧ s.queue? q.stall (queueKey
    q) = some x ∧ x.checking = some c ∧ x.waiting = [] :=
  ⟨heldQ (fun q => { q with checking := some ⟨1, [cmd 0 []], none, 0⟩ }), qid .compute, { queue [] with checking := some ⟨1, [cmd 0 []], none, 0⟩ },
    stallQ .compute { queue [] with checking := some ⟨1, [cmd 0 []], none, 0⟩ }, ⟨1, [cmd 0 []], none, 0⟩, by decide⟩
theorem test_DoorbellsAndAcceptance_4_can_hold :
    ∃ (s : State) (q : QueueId) (v : U32) (x : Queue), s.queue? q.stall (queueKey q) = some x ∧ (x.completedPos - x.consumed).toNat < (v -
    x.consumed).toNat :=
  ⟨heldQ id, qid .compute, 1, queue [], by decide⟩
theorem test_DoorbellsAndAcceptance_5_can_hold :
    ∃ (s : State) (q : QueueId) (v : U32) (x : Queue), s.queue? q.stall (queueKey q) = some x ∧ (v - x.consumed).toNat ≤ (x.completedPos -
    x.consumed).toNat :=
  ⟨heldQ (fun q => { q with acceptedPos := 1, completedPos := 1 }), qid .compute, 1, { queue [] with acceptedPos := 1, completedPos := 1 }, by decide⟩
theorem test_DoorbellsAndAcceptance_6_can_hold :
    ∃ (s : State) (p : HostPort) (q : QueueId) (x : Queue), s.vfSeen q.stall p = true ∧ s.queue? q.stall (queueKey q) = some x :=
  ⟨heldQ id, 0, qid .compute, queue [], by decide⟩
-- HostPortsAndIde
theorem test_HostPorts_0_can_hold :
    ∃ (s : State) (p : HostPort) (why : PortLoss), s.portFitted p = true ∧ (s.port p).linkUp = true ∧ (s.port p).lost = false :=
  ⟨up, 0, .surprise, by decide⟩
theorem test_HostPorts_1_can_hold :
    ∃ (s : State) (p : HostPort), s.portFitted p = true ∧ s.running = true ∧ has s.pkg.deadIodie p = false :=
  ⟨{ up with host := { up.host with ports := [(0, { HostPortSt.init with lost := true })] } }, 0, by decide⟩
theorem test_HostPorts_4_can_hold :
    ∃ (s : State) (p : HostPort) (en : Bool) (num : U16), s.portFitted p = true :=
  ⟨up, 0, true, 5, by decide⟩
theorem test_IdeStreams_0_can_hold :
    ∃ (s : State) (p : HostPort) (k : Fin 8), s.portFitted p = true ∧ ((s.port p).streams.get IdeStream.init k).st = .active :=
  ⟨ide .active up, 0, 0, by decide⟩
theorem test_IdeStreams_1_can_hold :
    ∃ (s : State) (p : HostPort) (k : Fin 8) (i : U32), s.portFitted p = true ∧ ((s.session? i.toNat).any (fun x => x.fn = some (.pf0 p)) = true) ∧
    (s.port p).lost = false ∧ ((s.port p).streams.get IdeStream.init k).st ≠ .inactive :=
  ⟨sessions (ide .keyed up) { session with fn := some (.pf0 0) }, 0, 0, 1, by decide⟩
-- HostRegisters
theorem test_CauseEnables_1_can_hold :
    ∃ (s : State) (p : HostPort) (n : StallNo) (x : Stall) (v : U32), s.stall? n = some x :=
  ⟨up, 0, 1, stall, 3, by decide⟩
theorem test_CauseEnables_2_can_hold :
    ∃ (s : State) (p : HostPort) (v : U32), (s.pf p).cause &&& v.setWidth 9 &&& ~~~ (s.pf p).causeEn = 0 :=
  ⟨up.setPf 0 (fun i => { i with cause := 4 }), 0, 3, by decide⟩
theorem test_Bar2Window_0_can_hold :
    ∃ (s : State) (p : HostPort) (n : StallNo) (o a k len : Nat), s.vfSeen n p = true ∧ (s.bar2Aim n ((s.vf p n).bar2Base.toNat + o) rRead).1 = .to a k
    ∧ 0 < len ∧ (((s.vf p n).bar2Base.toNat + o) % 64) + len ≤ 64 ∧ ((s.lineSlot.find? (lineOf a) = none ∨ s.lineSlot.find? (lineOf a) = some k)) ∧
    lineOf a ∉ s.poison :=
  ⟨up, 0, 1, 64, bayAddr .xh5124 4 64, 9, 64, by decide⟩
theorem test_Bar2Window_1_can_hold :
    ∃ (s : State) (p : HostPort) (n : StallNo) (o len : Nat) (x : Stall), s.vfSeen n p = true ∧ s.stall? n = some x ∧ x.hold.bar2En = false ∧ 0 < len ∧
    (((s.vf p n).bar2Base.toNat + o) % 64) + len ≤ 64 :=
  ⟨upWith { stall with hold := { hold with bar2En := false } }, 0, 1, 64, 8, { stall with hold := { hold with bar2En := false } }, by decide⟩
theorem test_Bar2Window_2_can_hold :
    ∃ (s : State) (p : HostPort) (n : StallNo) (o a k : Nat) (bs : List Byte), s.barWrite.vfSeen n p = true ∧ (s.barWrite.bar2Aim n ((s.vf p
    n).bar2Base.toNat + o) rWrite).1 = .to a k ∧ bs ≠ [] ∧ (((s.vf p n).bar2Base.toNat + o) % 64) + bs.length ≤ 64 :=
  ⟨up, 0, 1, 64, bayAddr .xh5124 4 64, 9, [1, 2], by decide⟩
theorem test_RegisterAccess_0_can_hold :
    ∃ (s : State) (p : HostPort) (v : U32), s.regReached (.pf0 p) = true :=
  ⟨up.setPf 0 (fun i => { i with cause := 5 }), 0, 1, by decide⟩
theorem test_RegisterAccess_1_can_hold :
    ∃ (s : State) (f : Fn) (o : Nat) (v : U32), s.regReached f = true ∧ o % 4 ≠ 0 :=
  ⟨up, .pf0 0, 0x10009, 1, by decide⟩
theorem test_RegisterAccess_2_can_hold :
    ∃ (s : State) (p : HostPort) (n : StallNo) (v : U32), s.regReached (.vf p n) = true :=
  ⟨up, 0, 1, 0x1000, by decide⟩
theorem test_RegisterAccess_3_can_hold :
    ∃ (s : State) (f : Fn) (r : RegAt) (v : U32), s.regReached f = false :=
  ⟨up, .pf0 1, .bar0 0x10008, 1, by decide⟩
theorem test_RegisterAccess_4_can_hold :
    ∃ (s : State) (p : HostPort), s.regReached (.pf0 p) = true :=
  ⟨up, 0, by decide⟩
theorem test_RegisterAccess_5_can_hold :
    ∃ (s : State) (p : HostPort) (n : StallNo) (x : Stall), s.regReached (.vf p n) = true ∧ s.stall? n = some x :=
  ⟨up, 0, 1, stall, by decide⟩
theorem test_RegisterAccess_6_can_hold :
    ∃ (s : State) (p : HostPort), s.regReached (.pf0 p) = true :=
  ⟨up, 0, by decide⟩
theorem test_RegisterAccess_7_can_hold :
    ∃ (s : State) (f : Fn) (o v : Nat), s.regReached f = true ∧ s.wideRead f o = some v :=
  ⟨up, .vf 0 1, 0x1000, up.nowW.toNat, by decide⟩
theorem test_RegisterAccess_8_can_hold :
    ∃ (s : State) (n : StallNo) (o : Nat) (q : QueueId) (x : Queue), o < 0x2000 ∧ o % 0x10 = 8 ∧ slotQueue n o = some q ∧
    s.queue? q.stall (queueKey q) = some x :=
  ⟨upWith (stallQ .compute (queue [])), 1, 8, qid .compute, queue [], by decide⟩
theorem test_RegisterAccess_9_can_hold :
    ∃ (s : State) (n : StallNo) (o v : Nat), o < 0xC00 ∧ s.dlvCounter n o = some v :=
  ⟨up, 1, 8, 0, by decide⟩
-- RequestsAreRegulated
theorem test_RequestsAreRegulated_0_can_hold :
    ∃ (s : State) (n : StallNo) (x : Stall) (k : Fin 5) (size : Fin 257), s.stall? n = some x ∧ size.val ≠ 0 ∧ x.paused = false ∧ s.running = true ∧
    (x.dlv.reg k).held = [] ∧ (x.dlv.reg k).gateShut = false ∧ x.hold.budget k ≠ 0 ∧ ((size.val ≤ (x.dlv.reg k).credit ∨ (x.dlv.reg k).charged =
    false)) :=
  ⟨upWith (reg (fun g => { g with credit := 256 })), 1, reg (fun g => { g with credit := 256 }), 0, 256, by decide⟩
theorem test_RequestsAreRegulated_1_can_hold :
    ∃ (s : State) (n : StallNo) (x : Stall) (k : Fin 5) (size : Fin 257), s.stall? n = some x ∧ size.val ≠ 0 ∧ x.paused = false ∧ s.running = true ∧
    (x.dlv.reg k).held = [] ∧ (x.dlv.reg k).gateShut = false ∧ (x.dlv.reg k).credit < size.val ∧ (x.dlv.reg k).charged = true :=
  ⟨upWith (reg (fun g => { g with credit := 10, charged := true })), 1, reg (fun g => { g with credit := 10, charged := true }), 0, 11, by decide⟩
theorem test_RequestsAreRegulated_2_can_hold :
    ∃ (s : State) (n : StallNo) (x : Stall) (k : Fin 5) (size : Fin 257) (p : LinkPort), s.stall? n = some x ∧ size.val ≠ 0 ∧ has s.rg.linkUrgent p =
    true :=
  ⟨{ up with rg := { up.rg with linkUrgent := 4 } }, 1, stall, 0, 256, 2, by decide⟩
theorem test_RequestsAreRegulated_3_can_hold :
    ∃ (s : State) (n : StallNo) (x : Stall) (k : Fin 5) (i a : Nat) (r : PortReq), s.stall? n = some x ∧ (List.find? (fun (e : PortReq × Nat) => e.1.id
    = i) (x.dlv.reg k).flying = some (r, a)) :=
  ⟨upWith (reg (fun g => { g with flying := [(⟨3, 64, false, none⟩, 7)] })), 1, reg (fun g => { g with flying := [(⟨3, 64, false, none⟩, 7)] }), 0, 3,
    7, ⟨3, 64, false, none⟩, by decide⟩
-- RegulatorsAndLatency
theorem test_UrgencyDutyAndDelivery_0_can_hold :
    ∃ (s : State) (p : LinkPort), fitted s.pkg.variant (.urgencyAssert false p) = true ∧ has s.rg.linkUrgent p = false :=
  ⟨up, 2, by decide⟩
theorem test_UrgencyDutyAndDelivery_1_can_hold :
    ∃ (s : State) (p : LinkPort), fitted s.pkg.variant (.urgencyAssert true p) = true ∧ has s.rg.hostUrgent p = false :=
  ⟨up, 1, by decide⟩
theorem test_UrgencyDutyAndDelivery_2_can_hold :
    ∃ (s : State) (host : Bool) (p : LinkPort), fitted s.pkg.variant (.urgencyWithdraw host p) = true :=
  ⟨up, false, 2, by decide⟩
theorem test_UrgencyDutyAndDelivery_3_can_hold :
    ∃ (s : State) (n : StallNo) (k : Fin 5) (x : Stall) (v : U32), s.stall? n = some x :=
  ⟨up, 1, 0, stall, 0x107, by decide⟩
theorem test_UrgencyDutyAndDelivery_4_can_hold :
    ∃ (s : State) (n : StallNo) (k : Fin 5) (x : Stall), s.stall? n = some x :=
  ⟨up, 1, 0, stall, by decide⟩
theorem test_UrgencyDutyAndDelivery_5_can_hold :
    ∃ (s : State) (p : HostPort) (n : StallNo) (o v : Nat), s.fnSeen (.vf p n) = true ∧ s.dlvCounter n o = some v :=
  ⟨up, 0, 1, 8, 0, by decide⟩
theorem test_LatencySteps_0_can_hold :
    ∃ (e t : Nat), 0 < t :=
  ⟨5, 4, by decide⟩
theorem test_LatencySteps_1_can_hold :
    ∃ (e f t : Nat), e ≤ f :=
  ⟨3, 4, 9, by decide⟩
-- UrgencyWritesTakeEffect
theorem test_UrgencyWritesTakeEffect_0_can_hold :
    ∃ (s : State) (host : Bool) (v : U32), 1 ≤ (fld v 4 4).toNat ∧ (fld v 4 4).toNat < (fld v 0 4).toNat :=
  ⟨up, false, 0x12, by decide⟩
theorem test_UrgencyWritesTakeEffect_1_can_hold :
    ∃ (s : State) (host : Bool) (v : U32), (((fld v 4 4).toNat < 1 ∨ (fld v 0 4).toNat ≤ (fld v 4 4).toNat)) :=
  ⟨up, true, 0x22, by decide⟩
-- LinkBringUpAndKeys
theorem test_LinkBringUp_0_can_hold :
    ∃ (s : State) (p : LinkPort) (v : U32), p.val < linkPorts s.pkg.variant ∧ has v 2 = false ∧ (s.tlp p).st ≠ .retired :=
  ⟨pod stall port, 0, 1, by decide⟩
theorem test_LinkBringUp_1_can_hold :
    ∃ (s : State) (p : LinkPort), p.val < linkPorts s.pkg.variant ∧ (s.tlp p).up = true :=
  ⟨pod stall port, 0, by decide⟩
theorem test_LinkBringUp_2_can_hold :
    ∃ (s : State) (p : LinkPort) (v : U32), p.val < linkPorts s.pkg.variant :=
  ⟨pod stall port, 0, 5, by decide⟩
theorem test_LinkBringUp_3_can_hold :
    ∃ (s : State) (p peer : LinkPort), p.val < linkPorts s.pkg.variant ∧ (s.tlp p).st = .detect :=
  ⟨pod stall (portIn .detect), 0, 5, by decide⟩
theorem test_LinkBringUp_4_can_hold :
    ∃ (s : State) (p : LinkPort), p.val < linkPorts s.pkg.variant ∧ (s.tlp p).st = .train ∧ s.prot.approved = true :=
  ⟨pod stall (portIn .train), 0, by decide⟩
theorem test_LinkBringUp_5_can_hold :
    ∃ (s : State) (p : LinkPort), p.val < linkPorts s.pkg.variant ∧ (((s.tlp p).st = .train ∨ (s.tlp p).st = .keyx)) :=
  ⟨pod stall (portIn .train), 0, by decide⟩
theorem test_LinkBringUp_6_can_hold :
    ∃ (s : State) (p : LinkPort), p.val < linkPorts s.pkg.variant ∧ (s.tlp p).up = true :=
  ⟨pod stall port, 0, by decide⟩
theorem test_LinkBringUp_7_can_hold :
    ∃ (s : State) (p : LinkPort), p.val < linkPorts s.pkg.variant ∧ (s.tlp p).st = .lowpower :=
  ⟨pod stall (portIn .lowpower), 0, by decide⟩
theorem test_LinkBringUp_8_can_hold :
    ∃ (s : State) (p : LinkPort), p.val < linkPorts s.pkg.variant ∧ (s.tlp p).st = .lowpower ∧ (s.tlp p).waking = true :=
  ⟨pod stall { portIn .lowpower with waking := true }, 0, by decide⟩
theorem test_LinkKeys_0_can_hold :
    ∃ (s : State) (p : LinkPort) (rnd pub chain : List Byte), p.val < linkPorts s.pkg.variant ∧ (s.tlp p).st = .keyx ∧ (s.tlp p).fails + 1 < 3 :=
  ⟨pod stall (portIn .keyx), 0, [1], [2], [3], by decide⟩
theorem test_LinkKeys_1_can_hold :
    ∃ (s : State) (p : LinkPort) (sig hello pub key : List Byte) (k : Keyx), p.val < linkPorts s.pkg.variant ∧ (s.tlp p).keyx = some k ∧ k.peer = some
    (hello, pub, key) ∧ (s.tlp p).st = .keyx :=
  ⟨pod stall { portIn .keyx with keyx := some keyx }, 0, [1], [4], [5], [6], keyx, by decide⟩
theorem test_LinkKeys_2_can_hold :
    ∃ (s : State) (p : LinkPort) (sig hello pub key : List Byte) (k : Keyx), p.val < linkPorts s.pkg.variant ∧ (s.tlp p).keyx = some k ∧ k.peer = some
    (hello, pub, key) ∧ (s.tlp p).up = true :=
  ⟨pod stall { port with keyx := some keyx }, 0, [1], [4], [5], [6], keyx, by decide⟩
theorem test_LinkKeys_3_can_hold :
    ∃ (s : State) (p : LinkPort), p.val < linkPorts s.pkg.variant ∧ (s.tlp p).up = true ∧ (s.tlp p).keyx = none ∧ (s.tlp p).nextKeys = none :=
  ⟨pod stall port, 0, by decide⟩
theorem test_LinkKeys_4_can_hold :
    ∃ (s : State) (p : LinkPort), p.val < linkPorts s.pkg.variant ∧ (s.tlp p).up = true :=
  ⟨pod stall port, 0, by decide⟩
theorem test_LinkKeys_5_can_hold :
    ∃ (s : State) (p : LinkPort), p.val < linkPorts s.pkg.variant ∧ (s.tlp p).up = true ∧ (((s.tlp p).nextKeys = none ∨ (s.tlp p).switched = false)) :=
  ⟨pod stall port, 0, by decide⟩
-- LinkFrames
theorem test_LinkFrames_0_can_hold :
    ∃ (s : State) (p : LinkPort) (n : U32) (check : FrameCheck) (cs : List (Fin 4 × Fin 4 × Nat)) (flits strange : Nat), p.val < linkPorts s.pkg.variant
    ∧ (s.tlp p).up = true ∧ ((check = .good ∨ check = .corrected)) :=
  ⟨pod stall port, 0, 5, .good, [(0, 1, 4)], 3, 0, by decide⟩
theorem test_LinkFrames_1_can_hold :
    ∃ (s : State) (p : LinkPort) (n : U32) (cs : List (Fin 4 × Fin 4 × Nat)) (flits strange : Nat), p.val < linkPorts s.pkg.variant ∧ (s.tlp p).up =
    true ∧ (s.tlp p).badRun + 1 < 8 :=
  ⟨pod stall port, 0, 5, [], 0, 0, by decide⟩
theorem test_LinkFrames_2_can_hold :
    ∃ (s : State) (p : LinkPort) (n : U32), p.val < linkPorts s.pkg.variant :=
  ⟨pod stall port, 0, 5, by decide⟩
theorem test_LinkFrames_3_can_hold :
    ∃ (s : State) (p : LinkPort) (n : U32), p.val < linkPorts s.pkg.variant ∧ (s.tlp p).up = true ∧ (s.tlp p).frame s.now ≤ n.toNat + 256 :=
  ⟨pod stall port, 0, 5, by decide⟩
theorem test_LinkFrames_4_can_hold :
    ∃ (s : State) (p : LinkPort) (n : U32), p.val < linkPorts s.pkg.variant ∧ (s.tlp p).up = true ∧ n.toNat + 256 < (s.tlp p).frame s.now :=
  ⟨pod stall { port with frames := 300 }, 0, 5, by decide⟩
-- PodTime
theorem test_PodTime_1_can_hold :
    ∃ (s : State) (p : LinkPort) (m : LinkMsg), p.val < linkPorts s.pkg.variant ∧ (s.tlp p).up = true :=
  ⟨pod stall port, 0, { msg with data := zeros 24 ++ [3, 4, 1, 0, 4] }, by decide⟩
theorem test_PodTime_2_can_hold :
    ∃ (s : State) (p : LinkPort) (a : Advert), p.val < linkPorts s.pkg.variant ∧ (s.tlp p).advert = some a :=
  ⟨pod stall { port with advert := some ⟨3, 4, 1, -7, 0⟩ }, 0, ⟨3, 4, 1, -7, 0⟩, by decide⟩
theorem test_PodTime_3_can_hold :
    ∃ (s : State), s.gtb.aligned = false ∧ s.tl.alignFrom ≠ 0 :=
  ⟨{ pod stall port with tl := { tlOf port with alignFrom := 1, est := some (-100) }, gtb := { (pod stall port).gtb with aligned := false } }, by
    decide⟩
-- RemoteCommands
theorem test_RemoteCommands_0_can_hold :
    ∃ (s : State) (q : QueueId) (e : Entry) (x : Stall), s.stall? q.stall = some x ∧ s.stallPort x.hold (e.u8 0x22) (e.u8 0x20) = none :=
  ⟨upWith { stall with hold := { hold with links := [] } }, qid .relay, remoteCmd 0x30, { stall with hold := { hold with links := [] } }, by decide⟩
theorem test_RemoteCommands_1_can_hold :
    ∃ (s : State) (q : QueueId) (e : Entry) (x : Stall) (p : Nat), s.starts q 0x30 e = true ∧ s.stall? q.stall = some x ∧ s.stallPort x.hold (e.u8 0x22)
    (e.u8 0x20) = some p ∧ e.progress < e.u64 0x18 ∧ x.relay.claims = [] :=
  ⟨pod (stallQ .relay (queue [remoteCmd 0x30])) port, qid .relay, remoteCmd 0x30, stallQ .relay (queue [remoteCmd 0x30]), 0, by decide⟩
theorem test_RemoteCommands_2_can_hold :
    ∃ (s : State) (q : QueueId) (e : Entry) (x : Stall) (p : Nat), s.starts q 0x31 e = true ∧ s.stall? q.stall = some x ∧ s.stallPort x.hold (e.u8 0x22)
    (e.u8 0x20) = some p ∧ e.progress < e.u64 0x18 ∧ x.relay.claims = [] :=
  ⟨pod (stallQ .relay (queue [remoteCmd 0x31])) port, qid .relay, remoteCmd 0x31, stallQ .relay (queue [remoteCmd 0x31]), 0, by decide⟩
-- RemoteTicketsAndData
theorem test_Tickets_0_can_hold :
    ∃ (s : State) (p : LinkPort) (m : LinkMsg) (x : Stall) (n : Nat) (a : Export), s.takesIn p m = true ∧ s.stall? m.dstStall = some x ∧
    x.relay.exportFor m.src m.srcStall m.addr m.span (!m.read) = some (n, a) ∧ ((∀ c ∈ x.relay.claims, c.own = true → ¬ (c.keyT = m.keyT ∧ c.srcPkg
    = m.src ∧ c.srcStall = m.srcStall ∧ c.ticket = m.ticket))) :=
  ⟨pod (relay (fun r => { r with exports := [(0, export1)] }) stall) port, 0, msg, relay (fun r => { r with exports := [(0, export1)] }) stall, 0,
    export1,
    by refine ⟨by decide, by decide, by decide, ?_⟩; intro c h; cases h⟩
theorem test_Tickets_1_can_hold :
    ∃ (s : State) (p : LinkPort) (m : LinkMsg) (x : Stall), s.takesIn p m = true ∧ s.stall? m.dstStall = some x ∧ x.relay.exportFor m.src m.srcStall
    m.addr m.span (!m.read) = none :=
  ⟨pod stall port, 0, msg, stall, by decide⟩
theorem test_Tickets_2_can_hold :
    ∃ (s : State) (p : LinkPort) (m : LinkMsg) (x : Stall) (c : Claim), s.takesIn p m = true ∧ s.stall? m.dstStall = some x ∧ x.relay.claims = [c] ∧
    s.ownClaim m = some c ∧ c.read = true ∧ c.committed = false ∧ (((s.queue? m.dstStall c.qk).bind (fun q => q.entry? c.pos)).isSome = true) ∧ 0 <
    c.span ∧ (s.tlp c.port).up = true :=
  ⟨pod (withRelay (begun (remoteCmd 0x31)) (fun r => { r with claims := [{ own1 with read := true, committed := false }] })) port, 0, msg, withRelay
    (begun (remoteCmd 0x31)) (fun r => { r with claims := [{ own1 with read := true, committed := false }] }),
    { own1 with read := true, committed := false }, by decide⟩
theorem test_Tickets_3_can_hold :
    ∃ (s : State) (p : LinkPort) (m : LinkMsg) (q : QueueId) (c : Claim) (e : Entry), s.takesIn p m = true ∧ q.stall.val = m.dstStall ∧ c.qk = queueKey
    q ∧ s.ownClaim m = some c ∧ s.started? q.stall (queueKey q) c.pos = some e :=
  ⟨pod (withRelay (begun (remoteCmd 0x30)) (fun r => { r with claims := [own1] })) port, 0, msg, qid .relay, own1, begun (remoteCmd 0x30), by decide⟩
theorem test_Tickets_4_can_hold :
    ∃ (s : State) (p : LinkPort) (m : LinkMsg) (c : Claim), s.takesIn p m = true ∧ s.peerClaim m = some c :=
  ⟨pod (relay (fun r => { r with claims := [claim1] }) stall) port, 0, msg, claim1, by decide⟩
theorem test_RemoteData_0_can_hold :
    ∃ (s : State) (p : LinkPort) (m : LinkMsg) (a : Export), s.takesIn p m = true ∧ s.granted m m.data.length false = some a :=
  ⟨pod (relay (fun r => { r with exports := [(0, export1)], claims := [claim1] }) stall) port, 0, dataMsg, export1, by decide⟩
theorem test_RemoteData_1_can_hold :
    ∃ (s : State) (p : LinkPort) (m : LinkMsg), s.takesIn p m = true ∧ s.granted m m.data.length false = none :=
  ⟨pod stall port, 0, dataMsg, by decide⟩
theorem test_RemoteData_2_can_hold :
    ∃ (s : State) (p : LinkPort) (m : LinkMsg) (a : Export), s.takesIn p m = true ∧ s.granted m m.span true = some a :=
  ⟨pod (relay (fun r => { r with exports := [(0, export1)], claims := [{ claim1 with read := true }] }) stall) port, 0, msg, export1, by decide⟩
theorem test_RemoteData_3_can_hold :
    ∃ (s : State) (p : LinkPort) (m : LinkMsg) (q : QueueId) (c : Claim) (e : Entry), s.takesIn p m = true ∧ q.stall.val = m.dstStall ∧ c.qk = queueKey
    q ∧ s.ownClaim m = some c ∧ c.committed = true ∧ c.read = false ∧ s.started? q.stall (queueKey q) c.pos = some e :=
  ⟨pod (withRelay (begun (remoteCmd 0x30)) (fun r => { r with claims := [own1] })) port, 0, msg, qid .relay, own1, begun (remoteCmd 0x30), by decide⟩
theorem test_RemoteData_4_can_hold :
    ∃ (s : State) (p : LinkPort) (m : LinkMsg) (q : QueueId) (c : Claim) (e : Entry), s.takesIn p m = true ∧ q.stall.val = m.dstStall ∧ c.qk = queueKey
    q ∧ s.ownClaim m = some c ∧ c.committed = true ∧ c.read = true ∧ s.started? q.stall (queueKey q) c.pos = some e ∧ m.fault = false ∧ c.done +
    m.data.length < c.span :=
  ⟨pod (withRelay (begun (remoteCmd 0x31)) (fun r => { r with claims := [{ own1 with read := true }] })) port, 0, dataMsg, qid .relay,
    { own1 with read := true }, begun (remoteCmd 0x31), by decide⟩
-- GroupsAndCollectives
theorem test_ExportsAndGroups_0_can_hold :
    ∃ (s : State) (m : MbReq) (p : HostPort) (n : StallNo) (x : Stall), m.fn = .vf p n ∧ s.stall? n = some x ∧ s.mbTakes remoteExportForm m = true ∧
    (x.ctx? (f8 m.payload 1)).isSome = true ∧ x.relay.claims = [] ∧ x.relay.waits = [] :=
  ⟨pod stall port, vfReq ([2, 0, 3, 0, 0, 0, 0, 0] ++ n8 0x10000 ++ n8 0x10000 ++ [3, 2] ++ zeros 14), 0, 1, stall, by decide⟩
theorem test_ExportsAndGroups_1_can_hold :
    ∃ (s : State) (m : MbReq) (p : HostPort) (n : StallNo) (x : Stall), m.fn = .vf p n ∧ s.stall? n = some x ∧ s.mbTakes (groupSetForm (plain m)) m =
    true ∧ (x.ctx? (f8 m.payload 6)).isSome = true ∧ ((x.relay.groups.filter (fun g => g.id ≠ f32 m.payload 0)).length < 16) ∧ x.relay.coll? (f32
    m.payload 0) = none :=
  ⟨pod stall port, vfReq ([9, 0, 0, 0, 2, 0, 0, 0] ++ n8 0x10000 ++ n8 0x20000 ++ [0, 1, 3, 2]), 0, 1, stall, by decide⟩
theorem test_ExportsAndGroups_2_can_hold :
    ∃ (s : State) (m : MbReq) (p : HostPort) (n : StallNo) (x : Stall) (g : Group), m.fn = .vf p n ∧ s.stall? n = some x ∧ s.mbTakes groupClearForm m =
    true ∧ x.relay.group? (f32 m.payload 0) = some g ∧ x.relay.coll? (f32 m.payload 0) = none ∧ x.relay.clears = [] :=
  ⟨pod (withGroup stall group1) port, vfReq [9, 0, 0, 0], 0, 1, withGroup stall group1, group1, by decide⟩
theorem test_Collectives_0_can_hold :
    ∃ (s : State) (q : QueueId) (e : Entry) (x : Stall), s.starts q 0x32 e = true ∧ s.stall? q.stall = some x ∧ x.collAhead (queueKey q) e = false ∧
    x.relay.group? (e.u32 0x0C) = none :=
  ⟨pod (stallQ .relay (queue [collCmd 0])) port, qid .relay, collCmd 0, stallQ .relay (queue [collCmd 0]), by decide⟩
theorem test_Collectives_1_can_hold :
    ∃ (s : State) (q : QueueId) (e : Entry) (x : Stall) (g : Group), s.starts q 0x32 e = true ∧ s.stall? q.stall = some x ∧ x.collAhead (queueKey q) e =
    false ∧ x.relay.group? (e.u32 0x0C) = some g ∧ ((e.collOp = 3 → e.u8 0x0B < g.members.length)) ∧ ((∀ j ∈ g.others, ∀ a, g.members[j]? = some a →
    (s.stallPort x.hold 0xFF a.1).isSome = true)) ∧ e.u64 0x28 ≠ 0 :=
  ⟨pod (withGroup (stallQ .relay (queue [collCmd 2000])) group1) port, qid .relay, collCmd 2000, withGroup (stallQ .relay (queue [collCmd 2000]))
    group1, group1,
    by refine ⟨by decide, by decide, by decide, by decide, by decide, ?_, by decide⟩; intro j h a e; revert a; revert j; decide⟩
theorem test_Collectives_2_can_hold :
    ∃ (s : State) (q : QueueId) (e : Entry) (x : Stall) (g : Group) (j : Nat), s.starts q 0x32 e = true ∧ s.stall? q.stall = some x ∧ x.collAhead
    (queueKey q) e = false ∧ x.relay.group? (e.u32 0x0C) = some g ∧ ((e.collOp = 3 → e.u8 0x0B < g.members.length)) ∧ ((∀ j ∈ g.others, ∀ a,
    g.members[j]? = some a → (s.stallPort x.hold 0xFF a.1).isSome = true)) ∧ e.u64 0x28 = 0 ∧ j ∈ g.others ∧ g.ready.get 0 j = 0 :=
  ⟨pod (withGroup (stallQ .relay (queue [collCmd 0])) group1) port, qid .relay, collCmd 0, withGroup (stallQ .relay (queue [collCmd 0])) group1,
    group1, 1,
   
    by refine ⟨by decide, by decide, by decide, by decide, by decide, ?_, by decide, by decide, by decide⟩; intro j h a e; revert a; revert j; decide⟩
theorem test_Collectives_3_can_hold :
    ∃ (s : State) (q : QueueId) (pos : U32) (e : Entry) (x : Stall) (g : Group) (c : Coll), s.started? q.stall (queueKey q) pos = some e ∧ e.opcode =
    0x32 ∧ e.u64 0x28 ≠ 0 ∧ s.stall? q.stall = some x ∧ (List.find? (fun (c : Coll) => c.qk = queueKey q && c.pos = pos && !c.begun) x.relay.colls =
    some c) ∧ x.relay.coll? c.group = some c ∧ x.relay.group? c.group = some g ∧ e.u64 0x28 ≤ (s.advance (e.u64 0x28)).now :=
  ⟨pod (withRelay (begun (collCmd 2000)) (fun r => { r with groups := [group1], colls := [coll1] })) port, qid .relay, 0, begun (collCmd 2000),
    withRelay (begun (collCmd 2000)) (fun r => { r with groups := [group1], colls := [coll1] }), group1, coll1, by decide⟩
theorem test_Collectives_4_can_hold :
    ∃ (s : State) (q : QueueId) (pos : U32) (e : Entry) (x : Stall) (c : Coll) (h : Nat × Nat), s.stall? q.stall = some x ∧ s.started? q.stall (queueKey
    q) pos = some e ∧ (List.find? (fun (c : Coll) => c.qk = queueKey q && c.pos = pos) x.relay.colls = some c) ∧ c.begun = true ∧ h ∈ c.heard ∧
    (c.buf.get [] h.1).length < e.partBytes :=
  ⟨pod (withRelay (begun (collCmd 0)) (fun r => { r with groups := [group1], colls := [{ coll1 with begun := true, heard := [(1, 5)] }] })) port, qid
    .relay, 0, begun (collCmd 0), withRelay (begun (collCmd 0)) (fun r =>
    { r with groups := [group1], colls := [{ coll1 with begun := true, heard := [(1, 5)] }] }), { coll1 with begun := true, heard := [(1, 5)] }, (1,
    5), by decide⟩
theorem test_Collectives_5_can_hold :
    ∃ (s : State) (p : LinkPort) (m : LinkMsg) (x : Stall) (g : Group) (j : Nat), s.takesIn p m = true ∧ s.stall? m.dstStall = some x ∧ x.relay.group?
    m.addr = some g ∧ g.memberOf m = some j ∧ x.relay.coll? m.addr = none ∧ m.data = [] :=
  ⟨pod (withGroup stall group1) port, 0, { msg with addr := 9 }, withGroup stall group1, group1, 1, by decide⟩
theorem test_Collectives_6_can_hold :
    ∃ (s : State) (p : LinkPort) (m : LinkMsg) (x : Stall) (g : Group) (j : Nat), s.takesIn p m = true ∧ s.stall? m.dstStall = some x ∧ x.relay.group?
    m.addr = some g ∧ g.memberOf m = some j ∧ x.relay.coll? m.addr = none ∧ m.data ≠ [] ∧ g.got.get 0 j % g.share + m.data.length ≤ g.share :=
  ⟨pod (withGroup stall group1) port, 0, { dataMsg with addr := 9 }, withGroup stall group1, group1, 1, by decide⟩
theorem test_Collectives_7_can_hold :
    ∃ (s : State) (p : LinkPort) (m : LinkMsg) (x : Stall) (g : Group) (j : Nat), s.takesIn p m = true ∧ s.stall? m.dstStall = some x ∧ x.relay.group?
    m.addr = some g ∧ g.memberOf m = some j ∧ x.relay.coll? m.addr = none :=
  ⟨pod (withGroup stall group1) port, 0, { msg with addr := 9 }, withGroup stall group1, group1, 1, by decide⟩
-- DroverAndLoans
theorem test_LoansBetweenPackages_0_can_hold :
    ∃ (s : State) (p : LinkPort) (m : LinkMsg) (n : StallNo) (x : Stall) (b : Nat), s.takesIn p m = true ∧ m.dstStall = n.val ∧ s.stall? n = some x ∧
    (((x.drover.loans.map (·.bytes)).sum + b ≤ x.drover.lent ∧ (x.drover.allow.any (fun a => a = (0xFF, 0xFF) || a = (m.src, m.srcStall))) = true))
    :=
  ⟨pod (drover (fun d => { d with lent := 65536, allow := [(3, 2)] }) stall) port, 0, msg, 1, drover (fun d =>
    { d with lent := 65536, allow := [(3, 2)] }) stall, 65536, by decide⟩
theorem test_LoansBetweenPackages_1_can_hold :
    ∃ (s : State) (p : LinkPort) (m : LinkMsg) (n : StallNo) (x : Stall) (b : Nat), s.takesIn p m = true ∧ m.dstStall = n.val ∧ s.stall? n = some x ∧ (¬
    ((x.drover.loans.map (·.bytes)).sum + b ≤ x.drover.lent ∧ (x.drover.allow.any (fun a => a = (0xFF, 0xFF) || a = (m.src, m.srcStall))) = true))
    :=
  ⟨pod (drover (fun d => { d with lent := 65536, allow := [(3, 2)] }) stall) port, 0, msg, 1, drover (fun d =>
    { d with lent := 65536, allow := [(3, 2)] }) stall, 65537, by decide⟩
theorem test_LoansBetweenPackages_2_can_hold :
    ∃ (s : State) (p : LinkPort) (m : LinkMsg) (n : StallNo) (x : Stall) (b : Nat) (l : Loan), s.takesIn p m = true ∧ m.dstStall = n.val ∧ s.stall? n =
    some x ∧ (List.find? (fun (l : Loan) => l.peer = m.src && l.stall = m.srcStall && l.bytes = b) x.drover.loans = some l) :=
  ⟨pod (drover (fun d => { d with loans := [loan1] }) stall) port, 0, msg, 1, drover (fun d => { d with loans := [loan1] }) stall, 65536, loan1, by
    decide⟩
theorem test_DroverRequests_0_can_hold :
    ∃ (s : State) (m : MbReq) (p : HostPort) (n : StallNo) (x : Stall), m.fn = .vf p n ∧ s.stall? n = some x ∧ s.mbTakes (drvConfigForm
    x.hold.droverSeq) m = true ∧ x.drvConfigRefusal s.pkg.variant (drvConfigOf m.payload) = none :=
  ⟨up, vfReq ([0, 0, 0, 0] ++ leBytes 4 65536 ++ n8 65536 ++ n8 65536 ++ zeros 16 ++ n8 (2 ^ 20) ++ n8 (2 ^ 20)), 0, 1, stall, by decide +kernel⟩
theorem test_DroverRequests_1_can_hold :
    ∃ (s : State) (m : MbReq) (p : HostPort) (n : StallNo) (x : Stall) (y : Queue), m.fn = .vf p n ∧ s.stall? n = some x ∧ s.queue? n (qkey (f8
    m.payload 0) 3 (f8 m.payload 1)) = some y ∧ (s.mbTakes (drvOutringForm (fun _ => y.isSealed)) m = true) ∧ y.ringHost = true ∧ (x.drover.seqs.any
    (fun z => z.qk = qkey (f8 m.payload 0) 3 (f8 m.payload 1) && z.st ≠ .kept) = false) :=
  ⟨upWith (drover id { stallQ .drover (queue []) with queues := [(queueKey (qid .drover), { queue [] with ringHost := true })] }), vfReq ([0, 0, 6, 0,
    0, 0, 0, 0] ++ n8 0 ++ n8 4096), 0, 1, drover id
    { stallQ .drover (queue []) with queues := [(queueKey (qid .drover), { queue [] with ringHost := true })] }, { queue [] with ringHost := true },
    by decide⟩
theorem test_DroverRequests_2_can_hold :
    ∃ (s : State) (m : MbReq) (p : HostPort) (n : StallNo) (x : Stall) (c : DrvConfig), m.fn = .vf p n ∧ s.stall? n = some x ∧ s.mbTakes drvLoadForm m =
    true ∧ x.drover.cfg = some c ∧ x.drover.models.find? (f8 m.payload 0) = none ∧ ((x.ctx? (f8 m.payload 1)).any (fun z => z.keys x.hold
    c.keyIndex) = true) :=
  ⟨upWith (drover (fun d => { d with models := [] }) stall), vfReq ([0, 0, 0, 0, 0, 0, 0, 0] ++ n8 4096), 0, 1, drover (fun d =>
    { d with models := [] }) stall, drvCfg, by decide⟩
theorem test_DroverRequests_3_can_hold :
    ∃ (s : State) (n : StallNo) (k : Fin 4) (x : Stall) (c : DrvConfig) (d : DrvModel) (r : Req), s.stall? n = some x ∧ x.drover.cfg = some c ∧
    x.drover.models.find? k = some d ∧ d.loading = some r :=
  ⟨upWith (drover (fun d => { d with models := [(0, { drvModel with loading := some (plain (vfReq [])) })] }) stall), 1, 0, drover (fun d =>
    { d with models := [(0, { drvModel with loading := some (plain (vfReq [])) })] }) stall, drvCfg,
    { drvModel with loading := some (plain (vfReq [])) }, plain (vfReq []), by decide⟩
theorem test_DroverRequests_4_can_hold :
    ∃ (s : State) (m : MbReq) (p : HostPort) (n : StallNo) (x : Stall) (d : DrvModel), m.fn = .vf p n ∧ s.stall? n = some x ∧ s.mbTakes drvUnloadForm m
    = true ∧ x.drover.models.find? (f8 m.payload 0) = some d ∧ d.loading = none ∧ ((∀ z ∈ x.drover.seqs, z.model ≠ f8 m.payload 0)) :=
  ⟨upWith (drover id stall), vfReq (zeros 8), 0, 1, drover id stall, drvModel,
   
    by refine ⟨by decide, by decide, by decide, by decide, by decide, ?_⟩; intro z h; cases h⟩
theorem test_DroverRequests_5_can_hold :
    ∃ (s : State) (m : MbReq) (x : Stall), s.mbTakes drvStatForm m = true ∧ s.stall? (stallArg drvStatForm (plain m)) = some x :=
  ⟨up, vfReq (zeros 8), stall, by decide⟩
theorem test_DroverRequests_6_can_hold :
    ∃ (s : State) (m : MbReq) (p : HostPort) (n : StallNo) (x : Stall), m.fn = .vf p n ∧ s.stall? n = some x ∧ s.mbTakes (drvLendForm ((x.drover.cfg.map
    (·.pageBytes)).getD 0)) m = true ∧ x.drover.seqs = [] ∧ (x.drover.loans.map (·.bytes)).sum ≤ f64 m.payload 0 ∧ f64 m.payload 0 ≤
    (x.drover.cfg.map (·.loftBytes)).getD 0 :=
  ⟨upWith (drover id stall), vfReq (n8 65536 ++ [3, 2] ++ zeros 14), 0, 1, drover id stall, by decide⟩
theorem test_DroverRequests_7_can_hold :
    ∃ (s : State) (m : MbReq) (p : HostPort) (n : StallNo) (x : Stall) (l : Nat), m.fn = .vf p n ∧ s.stall? n = some x ∧ s.mbTakes (drvBorrowForm
    x.hold.farLoft) m = true ∧ s.stallPort x.hold (f8 m.payload 3) (f8 m.payload 1) = some l ∧ f8 m.payload 0 = 0 ∧ x.drover.borrows.length < 8 ∧
    x.drover.localPages + x.drover.borrowed + f32 m.payload 8 ≤ x.hold.loftPages :=
  ⟨pod (drover id stall) port, vfReq ([0, 3, 2, 0xFF] ++ zeros 4 ++ leBytes 4 1 ++ zeros 4), 0, 1, drover id stall, 0, by decide⟩
theorem test_DroverCommands_0_can_hold :
    ∃ (s : State) (q : QueueId) (e : Entry), s.drvStarts q 0x40 e = true :=
  ⟨upWith (drvQ [cmd 0x40 []] id), qid .drover, cmd 0x40 [], by decide⟩
theorem test_DroverCommands_1_can_hold :
    ∃ (s : State) (q : QueueId) (e : Entry) (x : Stall), s.drvStarts q 0x41 e = true ∧ s.stall? q.stall = some x :=
  ⟨upWith (drvQ [cmd 0x41 []] id), qid .drover, cmd 0x41 [], drvQ [cmd 0x41 []] id, by decide⟩
theorem test_DroverCommands_2_can_hold :
    ∃ (s : State) (q : QueueId) (e : Entry) (x : Stall) (z : Sequence), s.drvStarts q 0x42 e = true ∧ s.stall? q.stall = some x ∧ (x.drover.seqs.find?
    (fun z => z.st = .kept && !z.claimed && z.qk = qkey q.ctx 3 (e.u8 8) && z.asn.toNat = e.u64 0x10) = some z) :=
  ⟨upWith (drvQ [cmd 0x42 (zeros 8 ++ n8 (asnOf 1 1).toNat)] (fun d => { d with seqs := [seq1 .kept] })), qid .drover, cmd 0x42 (zeros 8 ++ n8 (asnOf
    1 1).toNat), drvQ [cmd 0x42 (zeros 8 ++ n8 (asnOf 1 1).toNat)] (fun d => { d with seqs := [seq1 .kept] }), seq1 .kept, by decide⟩
theorem test_DroverCommands_3_can_hold :
    ∃ (s : State) (n : StallNo) (x : Stall), s.stall? n = some x ∧ x.drover.stepping = false :=
  ⟨upWith (drover id stall), 1, drover id stall, by decide⟩
theorem test_DroverCommands_4_can_hold :
    ∃ (s : State) (n : StallNo) (x : Stall) (c : DrvConfig), s.stall? n = some x ∧ s.drvServes x = true ∧ x.drover.stepping = false ∧ x.drover.cfg =
    some c ∧ x.drover.rings = [] ∧ ((∀ z ∈ x.drover.seqs, z.st ≠ .admitted)) ∧ ((∀ e ∈ x.queues, ∀ d ∈ e.2.entries, d.opcode ≠ 0x41)) ∧
    x.drover.schedule c ≠ [] :=
  ⟨upWith (drvQ [begun (cmd 0x40 [])] (fun d =>
    { d with cfg := some { drvCfg with chunk := 256 }, seqs := [{ seq1 .prefill with tokens := List.replicate 300 0 }] })), 1, drvQ [begun (cmd 0x40
    [])] (fun d => { d with cfg := some { drvCfg with chunk := 256 }, seqs := [{ seq1 .prefill with tokens := List.replicate 300 0 }] }),
    { drvCfg with chunk := 256 }, by decide +kernel⟩
theorem test_DroverCommands_5_can_hold :
    ∃ (s : State) (n : StallNo) (x : Stall) (c : DrvConfig) (ws : List (Nat × List Byte)) (bad : List U64), s.stall? n = some x ∧ x.drover.cfg = some c
    ∧ x.drover.stepping = true :=
  ⟨upWith (drover (fun d => { d with stepping := true }) stall), 1, drover (fun d => { d with stepping := true }) stall, drvCfg, [], [], by decide⟩
theorem test_DroverCommands_6_can_hold :
    ∃ (s : State) (q : QueueId) (x : Stall) (c : DrvConfig) (z : Sequence) (e : Entry) (d : DrvModel), s.stall? q.stall = some x ∧ x.drover.cfg = some c
    ∧ x.drover.stepping = true ∧ x.drover.seqs = [z] ∧ 0 < z.step ∧ z.st = .prefill ∧ z.read + z.step ≠ z.tokens.length ∧ z.qk = queueKey q ∧
    s.entryAt q z.pos = some e ∧ x.drover.models.find? z.model = some d ∧ ((∀ e ∈ x.queues, ∀ d ∈ e.2.entries, d.opcode ≠ 0x41)) :=
  ⟨upWith (drvQ [begun (cmd 0x40 [])] (fun d => { d with seqs := [{ seq1 .prefill with step := 2 }], stepping := true })), qid .drover, drvQ [begun
    (cmd 0x40 [])] (fun d => { d with seqs := [{ seq1 .prefill with step := 2 }], stepping := true }), drvCfg, { seq1 .prefill with step := 2 },
    begun (cmd 0x40 []), drvModel, by decide⟩
-- SkyStatesAndTrip
theorem test_ClusterSkyStates_0_can_hold :
    ∃ (s : State) (c : Fin 512), (s.sky c.val).sky = .broken ∧ (s.sky c.val).waking = none ∧ (s.sky c.val).scatter ≠ 0 ∧ (s.sky c.val).haltHold = false
    ∧ s.gateHeld c.val = false :=
  ⟨sky 16 (fun k => { k with sky := .broken, scatter := 160 }), 16, by decide⟩
theorem test_ClusterSkyStates_1_can_hold :
    ∃ (s : State) (c : Fin 512), (s.sky c.val).sky = .scattered ∧ (s.sky c.val).waking = none ∧ (s.sky c.val).clearAfter ≠ 0 ∧ (s.sky c.val).haltHold =
    false ∧ s.gateHeld c.val = false ∧ has s.power.ctl 1 = true ∧ (s.clusters.get Cluster.init c.val).stall = none :=
  ⟨sky 17 (fun k => { k with sky := .scattered, clearAfter := 160 }), 17, by decide⟩
theorem test_ClusterSkyStates_2_can_hold :
    ∃ (s : State) (c : Fin 512) (k : Sky) (u : Nat), (s.sky c.val).waking = some (k, u) :=
  ⟨sky 16 (fun k => { k with waking := some (.overcast, 5000) }), 16, .overcast, 5000, by decide⟩
theorem test_PackageClear_0_can_hold :
    ∃ (s : State) (l1 : BitVec 4), s.power.clearSt = .awake ∧ fld s.power.idle 16 8 ≠ 0 ∧ s.mayClear? l1 = true :=
  ⟨up, 1, by decide +kernel⟩
theorem test_PackageClear_1_can_hold :
    ∃ (s : State) (l1 : BitVec 4), s.power.clearSt = .entering ∧ s.mayClear? l1 = true :=
  ⟨clearIn .entering, 1, by decide +kernel⟩
theorem test_PackageClear_2_can_hold :
    ∃ (s : State) (l1 : BitVec 4), s.power.clearSt = .entering ∧ s.mayClear? l1 = false :=
  ⟨clearIn .entering, 0, by decide +kernel⟩
theorem test_PackageClear_3_can_hold :
    ∃ (s : State) (src : Fin 8) (b : Bool), src.val ≠ 5 ∧ src.val ≠ 6 ∧ s.running = true ∧ s.power.clearSt = .inClear :=
  ⟨clearIn .inClear, 0, true, by decide⟩
theorem test_PackageClear_4_can_hold :
    ∃ (s : State) (src : Fin 8) (b : Bool), ((src.val = 5 ∨ src.val = 6)) ∧ s.power.clearSt = .inClear :=
  ⟨clearIn .inClear, 5, false, by decide⟩
theorem test_PackageClear_5_can_hold :
    ∃ (s : State) (k : Nat), s.power.clearSt = .waking k ∧ k < 4 :=
  ⟨clearIn (.waking 1), 1, by decide⟩
theorem test_PackageClear_6_can_hold :
    ∃ (s : State), s.power.clearSt = .waking 4 ∧ s.power.wakeNeedsCluster = true :=
  ⟨power (fun p => { p with wakeNeedsCluster := true }) (clearIn (.waking 4)), by decide⟩
theorem test_PackageClear_7_can_hold :
    ∃ (s : State) (k : Nat), s.power.clearSt = .waking k ∧ 4 ≤ k ∧ ((k = 4 → s.power.wakeNeedsCluster = false)) :=
  ⟨clearIn (.waking 4), 4, by decide⟩
theorem test_PackageClear_8_can_hold :
    ∃ (s : State) (v : U32), s.power.clearSt = .awake :=
  ⟨up, 1, by decide⟩
theorem test_PackageClear_9_can_hold :
    ∃ (s : State) (v : U32), s.power.clearSt = .inClear ∧ s.running = true :=
  ⟨clearIn .inClear, 1, by decide⟩
theorem test_ThermalTripStopsThePart_0_can_hold :
    ∃ (s : State), s.power.thermStop = false ∧ (s.power.therm.any (fun e => decide (115 ≤ e.2.tmax.toNat)) = true) :=
  ⟨power (fun p => { p with therm := [(2, { Therm.init with tmax := 115 })] }) up, by decide⟩
-- ReserveAndFlush
theorem test_MainPowerLoss_0_can_hold :
    ∃ (s : State) (vb vm : U32), ((s.rsv.mainOk = true ∨ s.power.powerGood = true)) ∧ s.rsv.onMain = true :=
  ⟨up, 16000, 0, by decide⟩
theorem test_MainPowerLoss_1_can_hold :
    ∃ (s : State) (vb vm : U32), s.rsv.mainOk = true ∧ s.rsv.onMain = false :=
  ⟨rsv (fun r => { r with st := .ride }) up, 16000, 48000, by decide⟩
theorem test_MainPowerLoss_2_can_hold :
    ∃ (s : State) (vb vm : U32), s.rsv.mainOk = false ∧ s.rsv.st = .ride ∧ ((s.power.thermTrip = false ∨ ∀ e ∈ s.power.therm, e.2.tmax.toNat < 100)) :=
  ⟨rsvIn .ride, 16000, 48000,
    by refine ⟨by decide, by decide, Or.inl (by decide)⟩⟩
theorem test_MainPowerLoss_3_can_hold :
    ∃ (s : State) (vb vm : U32), s.rsv.mainOk = false ∧ s.rsv.st ≠ .ride :=
  ⟨rsvIn .held, 16000, 48000, by decide⟩
theorem test_FlushAndImage_0_can_hold :
    ∃ (s : State), s.rsv.st = .ride ∧ s.rsv.mainOk = false :=
  ⟨rsvIn .ride, by decide⟩
theorem test_FlushAndImage_1_can_hold :
    ∃ (s : State), s.rsv.st = .flush ∧ s.moduleStopped = false :=
  ⟨rsvIn .flush, by decide⟩
theorem test_FlushAndImage_2_can_hold :
    ∃ (s : State), s.rsv.st = .flush ∧ s.moduleStopped = true :=
  ⟨prot (fun p => { p with error := true }) (rsvIn .flush), by decide⟩
theorem test_FlushAndImage_3_can_hold :
    ∃ (s : State), s.rsv.st = .flush ∧ s.rsv.mainOk = false :=
  ⟨rsvIn .flush, by decide⟩
theorem test_FlushAndImage_4_can_hold :
    ∃ (s : State), s.rsv.mainOk = false ∧ s.power.powerGood = false :=
  ⟨power (fun p => { p with powerGood := false }) (rsvIn .held), by decide⟩
theorem test_BankAndHealthTest_0_can_hold :
    ∃ (s : State), s.rsv.st = .charging :=
  ⟨rsv (fun r => { r with st := .charging }) up, by decide⟩
theorem test_BankAndHealthTest_1_can_hold :
    ∃ (s : State), s.rsv.slotErased = false ∧ s.rsv.onMain = true :=
  ⟨rsv (fun r => { r with slotErased := false }) up, by decide⟩
theorem test_BankAndHealthTest_2_can_hold :
    ∃ (s : State), ((s.rsv.st = .armed ∨ s.rsv.st = .degraded ∨ s.rsv.st = .fault)) ∧ s.rsv.testBusy = false :=
  ⟨up, by decide⟩
theorem test_BankAndHealthTest_4_can_hold :
    ∃ (s : State) (c e : U16), s.rsv.testBusy = true :=
  ⟨rsv (fun r => { r with testBusy := true }) up, 4000, 5, by decide⟩
theorem test_BankAndHealthTest_5_can_hold :
    ∃ (s : State) (c e : U16), s.rsv.testBusy = true :=
  ⟨rsv (fun r => { r with testBusy := true }) up, 4000, 5, by decide⟩
-- PackageResetsAndRelease
theorem test_PackageResets_0_can_hold :
    ∃ (s : State) (m : MbReq) (c : Instr), c ∈ [Instr.pkgResetWarm m, .pkgResetCold m] ∧ s.mbTakes (pkgResetForm false) m = true ∧ f8 m.payload 0 = 1 :=
  ⟨up, pfReq ([1] ++ zeros 7), .pkgResetWarm (pfReq ([1] ++ zeros 7)), by simp, by decide⟩
theorem test_PackageResets_1_can_hold :
    ∃ (s : State) (m : MbReq) (c : Instr), c ∈ [Instr.pkgResetWarm m, .pkgResetCold m] ∧ s.mbTakes (pkgResetForm true) m = true ∧ f8 m.payload 0 = 2 :=
  ⟨up, pfReq ([2] ++ zeros 7), .pkgResetCold (pfReq ([2] ++ zeros 7)), by simp, by decide⟩
theorem test_PackageResets_2_can_hold :
    ∃ (s : State) (w : WarmReset), s.power.warm = some w :=
  ⟨power (fun p => { p with warm := some ⟨[]⟩ }) up, ⟨[]⟩, by decide⟩
-- BootPhases
theorem test_BootPhases_0_can_hold :
    ∃ (s : State) (a b c : Byte), s.prot.error = false ∧ 1 ≤ s.power.phase ∧ s.power.phase < 7 :=
  ⟨State.reset, 1, 2, 3, by decide⟩
theorem test_BootPhases_1_can_hold :
    ∃ (s : State) (a b c : Byte), s.prot.error = false ∧ s.power.phase = 7 :=
  ⟨power (fun p => { p with phase := 7 }) State.reset, 1, 2, 3, by decide⟩
theorem test_BootPhases_2_can_hold :
    ∃ (s : State) (l : List Component) (a b c : Byte), s.prot.error = false ∧ 1 ≤ s.power.phase ∧ s.power.phase ≤ 7 :=
  ⟨State.reset, [], 1, 2, 3, by decide⟩
-- DebugSessions
theorem test_DebugSessions_0_can_hold :
    ∃ (s : State) (m : MbReq), s.mbTakes (form 0x0060 true false 0 []) m = true :=
  ⟨up, pfReq [], by decide⟩
theorem test_DebugSessions_1_can_hold :
    ∃ (s : State) (m : MbReq), s.mbTakes (form 0x0061 true false 256 []) m = true :=
  ⟨up, pfReq (zeros 256), by decide +kernel⟩
theorem test_DebugSessions_2_can_hold :
    ∃ (s : State) (m : MbReq), s.moduleStopped = false ∧ s.prot.approved = true ∧ m.payload.length = 256 :=
  ⟨up, pfReq (zeros 256), by decide +kernel⟩
theorem test_DebugSessions_3_can_hold :
    ∃ (s : State) (m : MbReq), s.mbTakes (form 0x0062 true false 0 []) m = true :=
  ⟨up, pfReq [], by decide⟩
theorem test_DebugSessions_4_can_hold :
    ∃ (s : State), s.prot.scope ≠ 0 ∧ s.prot.notAfter.toNat ≤ (s.advance s.prot.notAfter.toNat).now :=
  ⟨prot (fun p => { p with scope := 2, notAfter := 1000 }) up, by decide⟩
theorem test_DebugSessions_5_can_hold :
    ∃ (s : State) (n : StallNo) (x : Stall) (l : List (Fin 512)), s.stall? n = some x ∧ s.debugs n.val = true :=
  ⟨prot (fun p => { p with scope := 1, notAfter := 1000, stallMask := 2 }) up, 1, stall, [16], by decide⟩
theorem test_DebugSessions_6_can_hold :
    ∃ (s : State) (n : StallNo) (x : Stall) (l : List (Fin 512)), s.stall? n = some x ∧ s.debugs n.val = false :=
  ⟨up, 1, stall, [16], by decide⟩
theorem test_DebugSessions_7_can_hold :
    ∃ (s : State) (n : StallNo) (x : Stall), s.stall? n = some x :=
  ⟨up, 1, stall, by decide⟩
theorem test_DebugSessions_8_can_hold :
    ∃ (s : State) (c : Instr) (i : TapInstr), (c, i) ∈ [(Instr.tapSamplePreload, TapInstr.samplePreload), (.tapHighz, .highz), (.tapClamp, .clamp),
    (.tapExtest, .extest) , (.tapScan, .scan)] :=
  ⟨up, .tapHighz, .highz, by simp⟩
-- SelfTestsAndZeroise
theorem test_SelfTestsAndError_0_can_hold :
    ∃ (s : State) (m : MbReq), s.mbTakes { form 0x0065 true false 0 [] with always := true } m = true :=
  ⟨up, pfReq [], by decide⟩
theorem test_SelfTestsAndError_1_can_hold :
    ∃ (s : State), s.prot.error = false :=
  ⟨up, by decide⟩
theorem test_SelfTestsAndError_2_can_hold :
    ∃ (s : State) (b : Bool), s.prot.selftestBusy = true :=
  ⟨prot (fun p => { p with selftestBusy := true }) up, true, by decide⟩
theorem test_SelfTestsAndError_4_can_hold :
    ∃ (s : State) (k : Fin 2) (a b c : Byte), ((∀ j : Fin 2, j ≠ k → has s.pkg.deadIodie j.val = true)) ∧ s.prot.error = false :=
  ⟨{ up with pkg := { up.pkg with deadIodie := 2 } }, 0, 1, 2, 3, by decide⟩
theorem test_ZeroiseAndDecommission_0_can_hold :
    ∃ (s : State) (m : MbReq), s.mbTakes { form 0x0063 true false 0 [] with always := true, inError := true } m = true :=
  ⟨up, pfReq [], by decide⟩
theorem test_ZeroiseAndDecommission_1_can_hold :
    ∃ (s : State) (m : MbReq), s.mbTakes (form 0x0064 true false 128 []) m = true ∧ s.prot.decom = none :=
  ⟨up, pfReq (zeros 128), by decide +kernel⟩
theorem test_ZeroiseAndDecommission_2_can_hold :
    ∃ (s : State) (r : Req) (a : Nat), s.prot.decom = some (r, a) ∧ a + 960000000000 < (s.advance (a + 960000000000 + 1)).now :=
  ⟨prot (fun p => { p with decom := some (plain (pfReq []), 5) }) up, plain (pfReq []), 5, by decide⟩
theorem test_ZeroiseAndDecommission_3_can_hold :
    ∃ (s : State) (m : MbReq), (s.mbTakes { form 0x0066 true false 8 [(2, 6)] with bad := fun p => if 1024 ≤ f16 p 0 then some 0 else none } m = true)
    :=
  ⟨up, pfReq (zeros 8), by decide⟩
-- AttestationRequests
theorem test_AttestationRequests_0_can_hold :
    ∃ (s : State) (m : MbReq), (fnIsPf m.fn && f8 m.payload 0 = 0xFF) = true ∧ s.mbTakes (attestReportForm true) m = true :=
  ⟨up, pfReq ([0xFF] ++ zeros 87), by decide +kernel⟩
theorem test_AttestationRequests_1_can_hold :
    ∃ (s : State) (m : MbReq) (x : Stall), (fnIsPf m.fn && f8 m.payload 0 = 0xFF) = false ∧ s.mbTakes (attestReportForm false) m = true ∧ s.stall?
    (stallArg (attestReportForm false) (plain m)) = some x :=
  ⟨up, vfReq (zeros 88), stall, by decide +kernel⟩
theorem test_AttestationRequests_2_can_hold :
    ∃ (s : State) (m : MbReq) (x : Stall), s.mbTakes attestLogForm m = true ∧ s.stall? (stallArg attestLogForm (plain m)) = some x :=
  ⟨up, vfReq (zeros 8), stall, by decide⟩
theorem test_AttestationRequests_3_can_hold :
    ∃ (s : State) (m : MbReq) (p : HostPort) (n : StallNo) (x : Stall), m.fn = .vf p n ∧ s.stall? n = some x ∧ s.mbTakes (measureImageForm
    x.hold.ctxMax) m = true :=
  ⟨up, vfReq ([0] ++ zeros 7 ++ n8 0 ++ n8 4096), 0, 1, stall, by decide⟩
theorem test_AttestationRequests_4_can_hold :
    ∃ (s : State) (n : StallNo) (x : Stall) (r : Req) (l : List Req), s.stall? n = some x ∧ x.measuring = r :: l ∧ s.enginesUp = true :=
  ⟨upWith { stall with measuring := [plain (vfReq ([0] ++ zeros 7 ++ n8 0 ++ n8 4096))] }, 1,
    { stall with measuring := [plain (vfReq ([0] ++ zeros 7 ++ n8 0 ++ n8 4096))] }, plain (vfReq ([0] ++ zeros 7 ++ n8 0 ++ n8 4096)), [], by
    decide⟩
-- SealingRequests
theorem test_SealingRequests_0_can_hold :
    ∃ (s : State) (m : MbReq) (c : Instr) (op : Nat), (c, op) ∈ [(Instr.sealKeygen none m, 0x0072), (.sealInstall none m, 0x0073), (.sealDrop none m,
    0x0074)] ∧ hostFn m.fn = true ∧ (s.mbGo (plain m) op).2 = true :=
  ⟨up, vfReq [], .sealDrop none (vfReq []), 0x0074, by simp, by decide⟩
theorem test_SealingRequests_1_can_hold :
    ∃ (s : State) (id : U32) (m : MbReq) (r : Req) (c : Instr) (op : Nat), (c, op) ∈ [(Instr.sealKeygen (some id) m, 0x0072), (.sealInstall (some id) m,
    0x0073), (.sealDrop (some id) m, 0x0074)] ∧ s.asksInside id m = some r ∧ s.mayOpenSeal r = false :=
  ⟨sessions up vfSession, 1, vfReq [], inReq [], .sealDrop (some 1) (vfReq []), 0x0074, by simp, by decide⟩
theorem test_SealingRequests_2_can_hold :
    ∃ (s : State) (id : U32) (m : MbReq) (r : Req) (p : HostPort) (n : StallNo) (x : Stall), s.asksInside id m = some r ∧ r.fn = .vf p n ∧ s.stall? n =
    some x ∧ s.mayOpenSeal r = true ∧ s.mbCheck (sealForm 0x0072 40) r = none :=
  ⟨asked sealedStall, 1, vfReq ([1] ++ zeros 39), inReq ([1] ++ zeros 39), 0, 1, sealedStall, by decide⟩
theorem test_SealingRequests_3_can_hold :
    ∃ (s : State) (id : U32) (m : MbReq) (r : Req) (p : HostPort) (n : StallNo) (x : Stall) (k : SealPair), s.asksInside id m = some r ∧ r.fn = .vf p n
    ∧ s.stall? n = some x ∧ s.mayOpenSeal r = true ∧ s.mbCheck (sealForm 0x0073 408) r = none ∧ x.attest.images.find? (f8 m.payload 0) = none ∧
    x.attest.pairs.find? (f8 m.payload 0) = some k ∧ imageHeaderOk (slice m.payload 8 256) = true :=
  ⟨asked (sealedWith (fun a => { a with pairs := [(1, ⟨[], []⟩)] })), 1, vfReq sealRequest, inReq sealRequest, 0, 1, sealedWith (fun a =>
    { a with pairs := [(1, ⟨[], []⟩)] }), ⟨[], []⟩, by decide +kernel⟩
theorem test_SealingRequests_4_can_hold :
    ∃ (s : State) (id : U32) (m : MbReq) (r : Req) (p : HostPort) (n : StallNo) (x : Stall), s.asksInside id m = some r ∧ r.fn = .vf p n ∧ s.stall? n =
    some x ∧ s.mayOpenSeal r = true ∧ s.mbCheck (sealForm 0x0074 8) r = none ∧ (x.attest.images.find? (f8 m.payload 0)).isSome = true :=
  ⟨asked (sealedWith (fun a => { a with images := [(1, ⟨[], [], 1, 0⟩)] })), 1, vfReq ([1] ++ zeros 7), inReq ([1] ++ zeros 7), 0, 1, sealedWith (fun
    a => { a with images := [(1, ⟨[], [], 1, 0⟩)] }), by decide⟩
-- SpdmAndSessions
theorem test_SpdmResponder_0_can_hold :
    ∃ (s : State) (via : Option Fn), s.spdmReached via = true :=
  ⟨up, spdmVia, by decide⟩
theorem test_SpdmResponder_1_can_hold :
    ∃ (s : State) (via : Option Fn), s.spdmReached via = true ∧ (s.conn via).versioned = true :=
  ⟨spdm id, spdmVia, by decide⟩
theorem test_SpdmResponder_2_can_hold :
    ∃ (s : State) (via : Option Fn), s.spdmReached via = true ∧ (s.conn via).capable = true :=
  ⟨spdm id, spdmVia, by decide⟩
theorem test_SpdmResponder_3_can_hold :
    ∃ (s : State) (via : Option Fn) (c : Instr) (k l : Byte) (o n : U16) (nonce : Option (List Byte)) (id : U32) (key : List Byte), c ∈
    [Instr.getDigests via, .getCertificate via k o n, .challenge via k, .getMeasurements via l nonce, .keyExchange via id key] ∧ s.spdmReached via =
    true ∧ (s.conn via).agreed = false :=
  ⟨up, spdmVia, .getDigests spdmVia, 0, 0, 0, 0, none, 1, [], by simp, by decide⟩
theorem test_SpdmResponder_4_can_hold :
    ∃ (s : State) (via : Option Fn), s.spdmReached via = true ∧ (s.conn via).agreed = true :=
  ⟨spdm id, spdmVia, by decide⟩
theorem test_SpdmResponder_5_can_hold :
    ∃ (s : State) (via : Option Fn) (o n : U16), s.spdmReached via = true ∧ (s.conn via).agreed = true :=
  ⟨spdm id, spdmVia, 0, 64, by decide⟩
theorem test_SpdmResponder_6_can_hold :
    ∃ (s : State) (via : Option Fn), s.spdmReached via = true ∧ (s.conn via).agreed = true ∧ s.moduleServes = true :=
  ⟨spdm id, spdmVia, by decide⟩
theorem test_SpdmResponder_7_can_hold :
    ∃ (s : State) (via : Option Fn) (k : Byte), s.spdmReached via = true ∧ (s.conn via).agreed = true ∧ s.moduleServes = true ∧ k ≠ 0 :=
  ⟨spdm id, spdmVia, 1, by decide⟩
theorem test_SpdmResponder_8_can_hold :
    ∃ (s : State) (via : Option Fn) (i : Byte) (b : List Byte), s.spdmReached via = true ∧ (s.conn via).agreed = true ∧ s.moduleServes = true ∧ i ≠ 0 ∧
    i ≠ 0xFF ∧ s.measurement via i.toNat [] = some b :=
  ⟨spdm id, spdmVia, 1, digestBytes Config.rtpFirmware,
    by refine ⟨by decide, by decide, by decide, by decide, by decide, rfl⟩⟩
theorem test_SpdmResponder_9_can_hold :
    ∃ (s : State) (via : Option Fn), s.spdmReached via = true ∧ (s.conn via).large ≠ [] :=
  ⟨spdm (fun c => { c with large := [1] }), spdmVia, by decide⟩
theorem test_SecureSessions_0_can_hold :
    ∃ (s : State) (via : Option Fn) (id : U32) (key : List Byte), s.spdmReached via = true ∧ (s.conn via).agreed = true ∧ s.moduleServes = true ∧
    (((scopeOf via).isSome = true → s.liveSessions via < 4)) ∧ ((via = none → s.liveSessions via < 1)) ∧ s.sessions.find? id.toNat = none :=
  ⟨spdm id, spdmVia, 1, [], by decide⟩
theorem test_SecureSessions_1_can_hold :
    ∃ (s : State) (p : HostPort) (n : StallNo) (id : U32) (key : List Byte), s.spdmReached (some (.vf p n)) = true ∧ (s.conn (some (.vf p n))).agreed =
    true ∧ s.moduleServes = true ∧ 4 ≤ s.liveSessions (some (.vf p n)) :=
  ⟨{ spdm id with sessions := [(1, vfSession), (2, vfSession), (3, vfSession), (4, vfSession)] }, 0, 1, 5, [], by decide⟩
theorem test_SecureSessions_2_can_hold :
    ∃ (s : State) (id : U32) (leaf : Option (List Byte)) (x : Session) (p : HostPort) (n : StallNo) (y : Stall), s.sessionHeard id.toNat = some x ∧
    x.finished = false ∧ x.fn = some (.vf p n) ∧ s.stall? n = some y :=
  ⟨sessions up { vfSession with finished := false }, 1, none, { vfSession with finished := false }, 0, 1, stall, by decide⟩
theorem test_SecureSessions_3_can_hold :
    ∃ (s : State) (id : U32) (leaf : Option (List Byte)) (x : Session), s.sessionHeard id.toNat = some x ∧ x.finished = false :=
  ⟨sessions up { vfSession with finished := false }, 1, none, { vfSession with finished := false }, by decide⟩
theorem test_SecureSessions_4_can_hold :
    ∃ (s : State) (id : U32) (x : Session), s.sessionHeard id.toNat = some x ∧ x.finished = true :=
  ⟨sessions up vfSession, 1, vfSession, by decide⟩
theorem test_SecureSessions_5_can_hold :
    ∃ (s : State) (id : U32) (x : Session), s.session? id.toNat = some x ∧ x.lastBeat + 160000000000 ≤ (s.advance (x.lastBeat + 160000000000)).now :=
  ⟨sessions up vfSession, 1, vfSession, by decide⟩
theorem test_SecureSessions_6_can_hold :
    ∃ (s : State) (id : U32) (op tag : U16) (l : List Byte) (r : Req), s.asksInside id { fn := .rtp, tag := tag, payload := l } = some r :=
  ⟨sessions up vfSession, 1, 0x0020, 5, [], inReq [], by decide⟩
-- ComponentFaults
theorem test_ComponentFaults_0_can_hold :
    ∃ (s : State) (c : Component) (b : Bool) (l : List Nat) (h : List (Nat × Nat × U32)), compFitted s.pkg.variant c = true ∧ s.pkg.isRetired c = true
    :=
  ⟨{ up with pkg := { up.pkg with deadCluster := 2 ^ 16 } }, .cluster 16, false, [], [], by decide +kernel⟩
theorem test_ComponentFaults_1_can_hold :
    ∃ (s : State) (c : Component) (b : Bool) (l : List Nat) (h : List (Nat × Nat × U32)), compFitted s.pkg.variant c = true ∧ s.pkg.isRetired c = false
    :=
  ⟨up, .cluster 16, true, [], [], by decide +kernel⟩
theorem test_ComponentFaults_2_can_hold :
    ∃ (s : State) (p : Fin 768) (a : Nat), p.val < 64 * stackCount s.pkg.variant ∧ (((s.prot.ueTimes.get [] p.val).filter (fun u => decide (s.now < u +
    2 ^ 36))).length < 15) :=
  ⟨up, 5, 64, by decide⟩
theorem test_ComponentFaults_3_can_hold :
    ∃ (s : State) (p : Fin 768) (a : Nat), p.val < 64 * stackCount s.pkg.variant ∧ (15 ≤ ((s.prot.ueTimes.get [] p.val).filter (fun u => decide (s.now <
    u + 2 ^ 36))).length) :=
  ⟨prot (fun p => { p with ueTimes := [(5, List.replicate 15 0)] }) up, 5, 64, by decide⟩
-- RecoveriesComplete
theorem test_RecoveriesComplete_0_can_hold :
    ∃ (s : State) (n : StallNo) (x : Stall) (b : Nat), s.stall? n = some x ∧ x.journal.rebuild = some b ∧ (s.rg.jobs.any (fun j => j.stall = n.val &&
    j.kind = .rebuild && j.start.isSome) = true) :=
  ⟨{ upWith rebuilding with rg := { up.rg with jobs := [⟨1, .rebuild, 4096, some 5⟩] } }, 1, rebuilding, 64, by decide⟩
theorem test_RecoveriesComplete_1_can_hold :
    ∃ (s : State) (r : Recovery), s.acct.recoveries = [r] ∧ r.undecided = [] ∧ r.rebuilds = [] :=
  ⟨{ up with acct := { up.acct with recoveries := [recovery] } }, recovery, by decide⟩
theorem test_RecoveriesComplete_2_can_hold :
    ∃ (s : State) (a : CmdAt) (f : List (Nat × Nat)) (x : Stall) (q : Queue) (e : Entry), s.stall? a.stall = some x ∧ x.queue? a.qk = some q ∧ q.entry?
    a.pos = some e ∧ e.undecided = true ∧ e.isOver = false :=
  ⟨upWith (stallQ .compute (queue [{ cmd 0 [] with undecided := true }])), { stall := 1, qk := queueKey (qid .compute), pos := 0 }, [], stallQ
    .compute (queue [{ cmd 0 [] with undecided := true }]), queue [{ cmd 0 [] with undecided := true }], { cmd 0 [] with undecided := true }, by
    decide⟩
-- GroomsAndAccounting
theorem test_GroomClears_0_can_hold :
    ∃ (s : State) (b : Fin 128), b.val ∈ s.prot.grooming ∧ s.running = true :=
  ⟨prot (fun p => { p with grooming := [6] }) up, 6, by decide⟩
theorem test_GroomClears_1_can_hold :
    ∃ (s : State) (k : Fin 1024), s.mayClear k.val = true ∧ ((∀ i ∈ (s.slot k.val).left, (s.yard.bayOwner.get 0xFF i.bay).toNat < 128)) :=
  ⟨prot (fun p => { p with slots := [(9, { st := .clearing, reach := [⟨4, 0, 64⟩] })] }) { up with yard := { up.yard with bayOwner := [(4, 1)] } }, 9,
    by decide⟩
theorem test_AccountingRequests_0_can_hold :
    ∃ (s : State) (m : MbReq) (l : List AccEvent), (s.mbTakes (accForm 0x0080 8 [(1, 3)] (fun x => x = 0xFF) (plain m)) m = true) ∧ (if fnIsPf m.fn &&
    accStall (plain m) = 0xFF then some s.acct.log else (s.stall? (accStall (plain m))).map (·.evLog)) = some l :=
  ⟨up, vfReq (zeros 8), [], by decide⟩
theorem test_AccountingRequests_1_can_hold :
    ∃ (s : State) (m : MbReq) (o : OrphanList), (s.mbTakes
    { accForm 0x0081 16 [(5, 3), (12, 4)] (fun _ => false) (plain m) with bad := fun p => minOfs ((accForm 0x0081 16 [(5, 3), (12, 4)] (fun _ => false) (plain m)).bad p) (lowest (badIf (1 < f8 p 4) 4)) }
    m = true) ∧ f8 m.payload 4 = 1 :=
  ⟨up, vfReq ([0, 0, 0, 0, 1] ++ zeros 11), ⟨0, []⟩, by decide⟩
theorem test_AccountingRequests_2_can_hold :
    ∃ (s : State) (m : MbReq), (s.mbTakes (accForm 0x0082 8 [(1, 7)] (fun _ => false) (plain m)) m = true) :=
  ⟨up, vfReq (zeros 8), by decide⟩
-- MuartEvents
theorem test_MuartEvents_0_can_hold :
    ∃ (s : State) (c : BitVec 9) (f p : Bool), s.sideUp = true ∧ s.side.mu.en = true ∧ s.side.mu.lineFault = false ∧ s.side.mu.rxAwake = true ∧
    s.side.mu.conEn = false :=
  ⟨muart (fun m => { m with ctl := m.ctl &&& 0x3FF }), 0x41, false, false, by decide⟩
theorem test_MuartEvents_1_can_hold :
    ∃ (s : State) (c : BitVec 9), s.sideUp = true ∧ s.side.mu.en = true ∧ s.side.mu.lineFault = false ∧ s.side.mu.rxAwake = true ∧ s.side.mu.conEn =
    true ∧ s.side.con.reads = true ∧ s.side.con.buf = [] ∧ s.side.con.bad = false ∧ s.side.con.long = false ∧ 0x20 ≤ c.toNat ∧ c.toNat ≤ 0x7E ∧
    s.side.con.chars.length < 128 :=
  ⟨side (fun b => { b with mu := { b.mu with ctl := b.mu.ctl ||| 0x400 } }) up, 0x41, by decide⟩
theorem test_MuartEvents_2_can_hold :
    ∃ (s : State) (x : Byte) (l : List Byte), s.side.mu.tx = x :: l ∧ s.sideUp = true ∧ s.side.mu.en = true ∧ s.side.mu.backoff = false ∧
    s.side.mu.lineFault = false :=
  ⟨muart (fun m => { m with tx := [0x41] }), 0x41, [], by decide⟩
theorem test_MuartEvents_5_can_hold :
    ∃ (s : State), s.sideUp = true ∧ s.side.mu.sleep ≠ 0 ∧ s.side.mu.rxAwake = true ∧ s.side.mu.lineFault = false ∧ s.side.mu.tx = [] :=
  ⟨muart id, by decide⟩
theorem test_MuartEvents_6_can_hold :
    ∃ (s : State), s.sideUp = true ∧ s.side.mu.en = true ∧ s.side.mu.rxAwake = false ∧ s.side.mu.lineFault = false :=
  ⟨muart (fun m => { m with rxAwake := false }), by decide⟩
theorem test_MuartEvents_7_can_hold :
    ∃ (s : State), s.sideUp = true ∧ s.side.mu.en = true ∧ s.side.mu.lineFault = false ∧ s.side.mu.rxAwake = true :=
  ⟨muart id, by decide⟩
theorem test_MuartEvents_8_can_hold :
    ∃ (s : State), s.sideUp = true ∧ s.side.mu.en = true ∧ s.side.mu.lineFault = false :=
  ⟨muart id, by decide⟩
theorem test_MuartEvents_9_can_hold :
    ∃ (s : State), s.sideUp = true ∧ s.side.mu.lineFault = true :=
  ⟨muart (fun m => { m with lineFault := true }), by decide⟩
-- ConsoleCommands
theorem test_ConsoleCommands_0_can_hold :
    ∃ (s : State), s.conRuns .status = true :=
  ⟨console .status up, by decide⟩
theorem test_ConsoleCommands_1_can_hold :
    ∃ (s : State), s.conRuns .time = true :=
  ⟨console .time up, by decide⟩
theorem test_ConsoleCommands_2_can_hold :
    ∃ (s : State), s.conRuns .line = true :=
  ⟨console .line up, by decide⟩
theorem test_ConsoleCommands_3_can_hold :
    ∃ (s : State) (c : Instr) (k : ConCmd) (code : List Byte), (c, k) ∈ [(Instr.confirmEnrol, ConCmd.confirmEnrol code), (.confirmDecom, .confirmDecom
    code) , (.consoleSelftest, .selftest), (.resetWarm, .resetWarm)] ∧ s.conRuns k = true ∧ s.prot.error = true :=
  ⟨prot (fun p => { p with error := true }) (console .selftest up), .consoleSelftest, .selftest, [], by simp, by decide⟩
theorem test_ConsoleCommands_4_can_hold :
    ∃ (s : State) (code : List Byte), s.conRuns (.confirmEnrol code) = true ∧ s.prot.error = false ∧ s.yard.keyState = .pending ∧ s.now ≤ s.yard.pendAt
    + 960000000000 :=
  ⟨{ console (.confirmEnrol []) up with yard := { Yard.reset with keyState := .pending } }, [], by decide⟩
theorem test_ConsoleCommands_5_can_hold :
    ∃ (s : State) (code : List Byte) (r : Req) (a : Nat), s.conRuns (.confirmDecom code) = true ∧ s.prot.error = false ∧ s.prot.decom = some (r, a) ∧
    s.now ≤ a + 960000000000 :=
  ⟨prot (fun p => { p with decom := some (plain (pfReq []), 5) }) (console (.confirmDecom []) up), [], plain (pfReq []), 5, by decide⟩
theorem test_ConsoleCommands_6_can_hold :
    ∃ (s : State), s.conRuns .selftest = true ∧ s.prot.error = false :=
  ⟨console .selftest up, by decide⟩
theorem test_ConsoleCommands_7_can_hold :
    ∃ (s : State), s.conRuns .zeroise = true ∧ s.side.con.buf = [] :=
  ⟨console .zeroise up, by decide⟩
theorem test_ConsoleCommands_8_can_hold :
    ∃ (s : State), s.conRuns .yes = true ∧ s.prot.zeroised = false ∧ s.prot.zeroising = false :=
  ⟨console .yes up, by decide⟩
theorem test_ConsoleCommands_9_can_hold :
    ∃ (s : State) (u : Nat), s.side.con.yesFrom = some u ∧ u + 160000000000 < (s.advance (u + 160000000000 + 1)).now :=
  ⟨side (fun b => { b with con := { b.con with yesFrom := some 5 } }) up, 5, by decide⟩
theorem test_ConsoleCommands_10_can_hold :
    ∃ (s : State), s.conRuns .resetWarm = true ∧ s.prot.error = false ∧ s.prot.approved = true ∧ s.warmBad = none ∧ s.warmWaits = false :=
  ⟨console .resetWarm up, by decide⟩
theorem test_ConsoleCommands_11_can_hold :
    ∃ (s : State), s.conRuns .resetCold = true :=
  ⟨console .resetCold up, by decide⟩
-- SidebandProtocols
theorem test_I3cCommonCommands_0_can_hold :
    ∃ (s : State) (a : BitVec 7), s.sideUp = true ∧ s.side.assigned = false :=
  ⟨up, 0x20, by decide⟩
theorem test_I3cCommonCommands_1_can_hold :
    ∃ (s : State), s.sideUp = true :=
  ⟨i3c up, by decide⟩
theorem test_I3cCommonCommands_2_can_hold :
    ∃ (s : State) (v : Byte), s.sideUp = true :=
  ⟨i3c up, 1, by decide⟩
theorem test_I3cCommonCommands_3_can_hold :
    ∃ (s : State) (c : Instr) (l : List Byte), s.sideUp = true ∧ (c, l) ∈ [(Instr.getpid, (leBytes 2 pidHi.toNat).reverse ++ pidLo.reverse), (.getbcr,
    [0x06]), (.getdcr, [0x00]), (.getmwl, [0, 68]), (.getmrl, [0, 68])] :=
  ⟨i3c up, .getbcr, [0x06], by decide, by simp⟩
theorem test_I3cCommonCommands_4_can_hold :
    ∃ (s : State) (c : Instr), s.sideUp = true ∧ c ∈ [Instr.getstatus, .getmxds] :=
  ⟨i3c up, .getstatus, by decide, by simp⟩
theorem test_I3cCommonCommands_5_can_hold :
    ∃ (s : State) (c : Instr) (v : U16) (b : Byte), s.sideUp = true ∧ c ∈ [Instr.setmwl v, .setmrl v, .rstact b] :=
  ⟨i3c up, .setmwl 68, 68, 0, by decide, by simp⟩
theorem test_I3cCommonCommands_6_can_hold :
    ∃ (s : State) (a : Nat), s.sideUp = true :=
  ⟨i3c up, 64, by decide⟩
theorem test_MctpAndPldmAnswers_0_can_hold :
    ∃ (s : State) (c : Instr) (l : List Nat), s.sideUp = true ∧ s.side.assigned = true ∧ (c, l) ∈ [(Instr.getEndpointId, [s.side.eid.toNat]),
    (.getEndpointUuid, Config.endpointUuid.map (·.toNat)), (.getMctpVersionSupport, [1, 3]) , (.getMessageTypeSupport, [0x00, 0x01, 0x05, 0x06]),
    (.getTid, [s.side.tid.toNat]), (.getPldmVersion 0, Config.pldmBaseVersion.map (·.toNat)) , (.getPldmVersion 2, [1, 2]), (.getPldmTypes, [0, 2]),
    (.getPldmCommands 0, [0x01, 0x02, 0x03, 0x04, 0x05]) , (.getPldmCommands 2, [0x0B, 0x0D, 0x11, 0x21, 0x31, 0x39, 0x50, 0x51]),
    (.getPdrRepositoryInfo, [(pdrs s.pkg.variant).length])] :=
  ⟨i3c up, .getPldmTypes, [0, 2], by decide, by decide, by simp⟩
theorem test_MctpAndPldmAnswers_1_can_hold :
    ∃ (s : State) (b : Byte), s.sideUp = true ∧ s.side.assigned = true ∧ b ≠ 0 ∧ b ≠ 0xFF :=
  ⟨i3c up, 8, by decide⟩
theorem test_MctpAndPldmAnswers_2_can_hold :
    ∃ (s : State) (b : Byte) (c : Instr), s.sideUp = true ∧ s.side.assigned = true ∧ ((b = 0 ∨ b = 0xFF)) ∧ c ∈ [Instr.setEndpointId b, .setTid b] :=
  ⟨i3c up, 0xFF, .setTid 0xFF, by decide, by decide, by decide, by simp⟩
theorem test_MctpAndPldmAnswers_3_can_hold :
    ∃ (s : State) (h : U32) (r : Pdr), s.sideUp = true ∧ s.side.assigned = true ∧ (pdrs s.pkg.variant)[h.toNat]? = some r :=
  ⟨i3c up, 0, { effecter := false, id := 1, set := none }, by decide⟩
theorem test_MctpAndPldmAnswers_4_can_hold :
    ∃ (s : State) (i : U16), s.sideUp = true ∧ s.side.assigned = true :=
  ⟨i3c up, 1, by decide⟩
theorem test_MctpAndPldmAnswers_5_can_hold :
    ∃ (s : State) (i : U16), s.sideUp = true ∧ s.side.assigned = true :=
  ⟨i3c up, 20, by decide⟩
theorem test_MctpAndPldmAnswers_6_can_hold :
    ∃ (s : State) (e : PlatEvent) (l : List PlatEvent), s.sideUp = true ∧ s.side.assigned = true ∧ s.side.events = e :: l :=
  ⟨side (fun b => { b with events := [.state 20 2] }) (i3c up), .state 20 2, [], by decide⟩
theorem test_MctpAndPldmAnswers_7_can_hold :
    ∃ (s : State) (n : U16), s.sideUp = true ∧ s.side.assigned = true :=
  ⟨i3c up, 20, by decide⟩
theorem test_PldmEffecters_0_can_hold :
    ∃ (s : State) (v : U32) (c : Instr), s.sideUp = true ∧ s.side.assigned = true ∧ s.prot.error = true ∧ c ∈ [Instr.pldmEnrolConfirm v,
    .pldmDecomConfirm v, .pldmResetWarm, .pldmSelftest] :=
  ⟨prot (fun p => { p with error := true }) (i3c up), 0, .pldmSelftest, by decide, by decide, by decide, by simp⟩
theorem test_PldmEffecters_1_can_hold :
    ∃ (s : State) (v : U32), s.sideUp = true ∧ s.side.assigned = true ∧ s.prot.error = false ∧ s.yard.keyState = .pending ∧ s.now ≤ s.yard.pendAt +
    960000000000 :=
  ⟨{ i3c up with yard := { Yard.reset with keyState := .pending } }, 5, by decide⟩
theorem test_PldmEffecters_2_can_hold :
    ∃ (s : State) (v : U32) (r : Req) (a : Nat), s.sideUp = true ∧ s.side.assigned = true ∧ s.prot.error = false ∧ s.prot.decom = some (r, a) ∧ s.now ≤
    a + 960000000000 :=
  ⟨prot (fun p => { p with decom := some (plain (pfReq []), 5) }) (i3c up), 5, plain (pfReq []), 5, by decide⟩
theorem test_PldmEffecters_3_can_hold :
    ∃ (s : State), s.sideUp = true ∧ s.side.assigned = true ∧ s.prot.error = false ∧ s.prot.approved = true ∧ s.warmBad = none ∧ s.warmWaits = false :=
  ⟨i3c up, by decide⟩
theorem test_PldmEffecters_4_can_hold :
    ∃ (s : State), s.sideUp = true ∧ s.side.assigned = true :=
  ⟨i3c up, by decide⟩
theorem test_PldmEffecters_5_can_hold :
    ∃ (s : State), s.sideUp = true ∧ s.side.assigned = true ∧ s.prot.error = false :=
  ⟨i3c up, by decide⟩
theorem test_PldmEffecters_6_can_hold :
    ∃ (s : State), s.sideUp = true ∧ s.side.assigned = true ∧ s.prot.zeroised = false ∧ s.prot.zeroising = false :=
  ⟨i3c up, by decide⟩

end Sys2Proof.Tests
end

section
/-! SUPPORT. What every command and every step keeps, and R37: the part stays as it was assembled. -/

namespace Sys2Proof.Machine

/-- Every command keeps the promises of `Kept`: each arm of `exec` changes only the parts its own lemma lists. -/
theorem exec_kept {s t : State} : ∀ c : Instr, exec c s = .next t → Kept s t
  | .refClockLost, ran => (execRefClockLost_only ran).toKept
  | .refClockSwitchBack, ran => (execRefClockSwitchBack_only ran).toKept
  | .gridTick refGood, ran => (execGridTick_only refGood ran).toKept
  | .regulationWindowStart temps, ran => (execRegulationWindowStart_only temps ran).toKept
  | .gtbNowLoRead f, ran => (execGtbNowLoRead_only f ran).toKept
  | .gtbTrimWrite v, ran => (execGtbTrimWrite_only v ran).toKept
  | .servoAutoWrite v, ran => (execServoAutoWrite_only v ran).toKept
  | .timeAlignment, ran => (execTimeAlignment_only ran).toKept
  | .gateCmpLoWrite t v, ran => (execGateCmpLoWrite_only t v ran).toKept
  | .gateCmpHiWrite t hi lo, ran => (execGateCmpHiWrite_only t hi lo ran).toKept
  | .gatePrerollWrite sn g v, ran => (execGatePrerollWrite_only sn g v ran).toKept
  | .gateCtlArm sn g, ran => (execGateCtlArm_only sn g ran).toKept
  | .gateCtlDisarm sn g, ran => (execGateCtlDisarm_only sn g ran).toKept
  | .gateCtlDisarmArm sn g, ran => (execGateCtlDisarmArm_only sn g ran).toKept
  | .gateWriteTakesEffect g, ran => (execGateWriteTakesEffect_only g ran).toKept
  | .gateWaking g, ran => (execGateWaking_only g ran).toKept
  | .gateFire g, ran => (execGateFire_only g ran).toKept
  | .gateHoldEnd g, ran => (execGateHoldEnd_only g ran).toKept
  | .tickChannelArm byRtp n, ran => (execTickChannelArm_only byRtp n ran).toKept
  | .tickChannelFireCatchup n, ran => (execTickChannelFireCatchup_only n ran).toKept
  | .tickChannelFireLive n, ran => (execTickChannelFireLive_only n ran).toKept
  | .syncInEdgeAccepted n rising reached, ran => (execSyncInEdgeAccepted_only n rising reached ran).toKept
  | .capLoRead f n which, ran => (execCapLoRead_only f n which ran).toKept
  | .syncInStuck n, ran => (execSyncInStuck_only n ran).toKept
  | .capStuckClear n hi lo, ran => (execCapStuckClear_only n hi lo ran).toKept
  | .relayTimerWrap n, ran => (execRelayTimerWrap_only n ran).toKept
  | .relayTimerMatch n, ran => (execRelayTimerMatch_only n ran).toKept
  | .relayTimerReset n, ran => (execRelayTimerReset_only n ran).toKept
  | .rtTrigWrite n v, ran => (execRtTrigWrite_only n v ran).toKept
  | .syncOutPulseEnd n, ran => (execSyncOutPulseEnd_only n ran).toKept
  | .version m, ran => (execVersion_only m ran).toKept
  | .resultQuery m, ran => (execResultQuery_only m ran).toKept
  | .planSubmit m, ran => (execPlanSubmit_only m ran).toKept
  | .planValidated, ran => (execPlanValidated_only ran).toKept
  | .planCommit, ran => (execPlanCommit_only ran).toKept
  | .planStoreDone, ran => (execPlanStoreDone_only ran).toKept
  | .planCancel m, ran => (execPlanCancel_only m ran).toKept
  | .changeForce m, ran => (execChangeForce_only m ran).toKept
  | .changeReport m, ran => (execChangeReport_only m ran).toKept
  | .enrol m, ran => (execEnrol_only m ran).toKept
  | .enrolWindowExpiry, ran => (execEnrolWindowExpiry_only ran).toKept
  | .rotate m, ran => (execRotate_only m ran).toKept
  | .mirrorPrepareDone, ran => (execMirrorPrepareDone_only ran).toKept
  | .changePhaseTick, ran => (execChangePhaseTick_only ran).toKept
  | .stallPaused sn, ran => (execStallPaused_only sn ran).toKept
  | .changeHold sn, ran => (execChangeHold_only sn ran).toKept
  | .holdActionExpiry, ran => (execHoldActionExpiry_only ran).toKept
  | .changeGrantTick, ran => (execChangeGrantTick_only ran).toKept
  | .manifestReq m, ran => (execManifestReq_only m ran).toKept
  | .ctxKill m, ran => (execCtxKill_only m ran).toKept
  | .ctxKillDone c, ran => (execCtxKillDone_only c ran).toKept
  | .stallReset m, ran => (execStallReset_only m ran).toKept
  | .hostPortLoss p why, ran => (execHostPortLoss_only p why ran).toKept
  | .hostPortLinkUp p, ran => (execHostPortLinkUp_only p ran).toKept
  | .flr f, ran => (execFlr_only f ran).toKept
  | .sriovConfigWrite p enable num, ran => (execSriovConfigWrite_only p enable num ran).toKept
  | .causeEnableWrite f v, ran => (execCauseEnableWrite_only f v ran).toKept
  | .bar2Read p sn ofs bytes, ran => (execBar2Read_only p sn ofs bytes ran).toKept
  | .bar2Write p sn ofs data, ran => (execBar2Write_only p sn ofs data ran).toKept
  | .ideTlpCheckFail p stream, ran => (execIdeTlpCheckFail_only p stream ran).toKept
  | .queueCreate m, ran => (execQueueCreate_only m ran).toKept
  | .queueDestroy m, ran => (execQueueDestroy_only m ran).toKept
  | .doorbell p q tail, ran => (execDoorbell_only p q tail ran).toKept
  | .acceptancePublish q, ran => (execAcceptancePublish_only q ran).toKept
  | .consumedWrite q v, ran => (execConsumedWrite_only q v ran).toKept
  | .qdbAsnLoRead p q, ran => (execQdbAsnLoRead_only p q ran).toKept
  | .nop q, ran => (execNop_only q ran).toKept
  | .launch q, ran => (execLaunch_only q ran).toKept
  | .launchIndirect q, ran => (execLaunchIndirect_only q ran).toKept
  | .safeHint q, ran => (execSafeHint_only q ran).toKept
  | .waitAt q, ran => (execWaitAt_only q ran).toKept
  | .waitAtPass q pos, ran => (execWaitAtPass_only q pos ran).toKept
  | .waitGate q, ran => (execWaitGate_only q ran).toKept
  | .gateArm q, ran => (execGateArm_only q ran).toKept
  | .gateDisarm q, ran => (execGateDisarm_only q ran).toKept
  | .timestamp q, ran => (execTimestamp_only q ran).toKept
  | .semSignal q, ran => (execSemSignal_only q ran).toKept
  | .semWait q, ran => (execSemWait_only q ran).toKept
  | .semWaitTimeout q pos, ran => (execSemWaitTimeout_only q pos ran).toKept
  | .waitQueue q, ran => (execWaitQueue_only q ran).toKept
  | .waitQueueTimeout q pos, ran => (execWaitQueueTimeout_only q pos ran).toKept
  | .fence q, ran => (execFence_only q ran).toKept
  | .receipt q, ran => (execReceipt_only q ran).toKept
  | .copy q, ran => (execCopy_only q ran).toKept
  | .copyStrided q, ran => (execCopyStrided_only q ran).toKept
  | .fill q, ran => (execFill_only q ran).toKept
  | .sealedLoad q, ran => (execSealedLoad_only q ran).toKept
  | .remoteWrite q, ran => (execRemoteWrite_only q ran).toKept
  | .remoteRead q, ran => (execRemoteRead_only q ran).toKept
  | .collective q, ran => (execCollective_only q ran).toKept
  | .collectiveLaunch q pos, ran => (execCollectiveLaunch_only q pos ran).toKept
  | .collectiveTimeout q pos, ran => (execCollectiveTimeout_only q pos ran).toKept
  | .commandEnd q pos, ran => (execCommandEnd_only q pos ran).toKept
  | .completionVisible q, ran => (execCompletionVisible_only q ran).toKept
  | .srndSeed m, ran => (execSrndSeed_only m ran).toKept
  | .ctxCreate m, ran => (execCtxCreate_only m ran).toKept
  | .ctxDestroy m, ran => (execCtxDestroy_only m ran).toKept
  | .xlatInval m, ran => (execXlatInval_only m ran).toKept
  | .memStats m, ran => (execMemStats_only m ran).toKept
  | .taskPlace sn, ran => (execTaskPlace_only sn ran).toKept
  | .taskEnd c writes how, ran => (execTaskEnd_only c writes how ran).toKept
  | .taskSafePointStop c pc core ranges, ran => (execTaskSafePointStop_only c pc core ranges ran).toKept
  | .contextStopped c, ran => (execContextStopped_only c ran).toKept
  | .preemptLimitExpiry c, ran => (execPreemptLimitExpiry_only c ran).toKept
  | .ctxSliceExpiry sn, ran => (execCtxSliceExpiry_only sn ran).toKept
  | .rotSliceExpiry sn, ran => (execRotSliceExpiry_only sn ran).toKept
  | .tenantResident sn, ran => (execTenantResident_only sn ran).toKept
  | .schedSet m, ran => (execSchedSet_only m ran).toKept
  | .schedStat m, ran => (execSchedStat_only m ran).toKept
  | .memClear m, ran => (execMemClear_only m ran).toKept
  | .memClearDone sn, ran => (execMemClearDone_only sn ran).toKept
  | .drvConfig m, ran => (execDrvConfig_only m ran).toKept
  | .drvOutring m, ran => (execDrvOutring_only m ran).toKept
  | .drvLoad m, ran => (execDrvLoad_only m ran).toKept
  | .drvLoadDone sn slot, ran => (execDrvLoadDone_only sn slot ran).toKept
  | .drvUnload m, ran => (execDrvUnload_only m ran).toKept
  | .drvStat m, ran => (execDrvStat_only m ran).toKept
  | .drvLend m, ran => (execDrvLend_only m ran).toKept
  | .drvBorrow m, ran => (execDrvBorrow_only m ran).toKept
  | .drvSubmit q, ran => (execDrvSubmit_only q ran).toKept
  | .drvCancel q, ran => (execDrvCancel_only q ran).toKept
  | .drvRelease q, ran => (execDrvRelease_only q ran).toKept
  | .droverStep sn, ran => (execDroverStep_only sn ran).toKept
  | .droverStepEnd sn writes farBad, ran => (execDroverStepEnd_only sn writes farBad ran).toKept
  | .requestIssue n k size drains link, ran => (execRequestIssue_only n k size drains link ran).toKept
  | .requestComplete n k id, ran => (execRequestComplete_only n k id ran).toKept
  | .urgencyAssert host p, ran => (execUrgencyAssert_only host p ran).toKept
  | .urgencyWithdraw host p, ran => (execUrgencyWithdraw_only host p ran).toKept
  | .rgUrgWrite host v, ran => (execRgUrgWrite_only host v ran).toKept
  | .rgDutyWrite n k v, ran => (execRgDutyWrite_only n k v ran).toKept
  | .dutyGateChange n k, ran => (execDutyGateChange_only n k ran).toKept
  | .dlvCounterRead f n o, ran => (execDlvCounterRead_only f n o ran).toKept
  | .yardJobStart, ran => (execYardJobStart_only ran).toKept
  | .tlPCtlWrite p v, ran => (execTlPCtlWrite_only p v ran).toKept
  | .retrain p, ran => (execRetrain_only p ran).toKept
  | .tlPAsymWrite p v, ran => (execTlPAsymWrite_only p v ran).toKept
  | .portPeerDetect p peer, ran => (execPortPeerDetect_only p peer ran).toKept
  | .portTrained p, ran => (execPortTrained_only p ran).toKept
  | .portStepTimeout p, ran => (execPortStepTimeout_only p ran).toKept
  | .keyxHello p rnd pub chain, ran => (execKeyxHello_only p rnd pub chain ran).toKept
  | .keyxFinish p sig, ran => (execKeyxFinish_only p sig ran).toKept
  | .rekeyStart p, ran => (execRekeyStart_only p ran).toKept
  | .keyxSwitch p last, ran => (execKeyxSwitch_only p last ran).toKept
  | .rekeyDeadline p, ran => (execRekeyDeadline_only p ran).toKept
  | .linkFrameReceived p n check credits flits strange, ran => (execLinkFrameReceived_only p n check credits flits strange ran).toKept
  | .linkAck p n, ran => (execLinkAck_only p n ran).toKept
  | .linkNak p n, ran => (execLinkNak_only p n ran).toKept
  | .wake p, ran => (execWake_only p ran).toKept
  | .tkReq p m, ran => (execTkReq_only p m ran).toKept
  | .tkGrant p m, ran => (execTkGrant_only p m ran).toKept
  | .tkDeny p m, ran => (execTkDeny_only p m ran).toKept
  | .tkDone p m, ran => (execTkDone_only p m ran).toKept
  | .wr p m, ran => (execWr_only p m ran).toKept
  | .wrAck p m, ran => (execWrAck_only p m ran).toKept
  | .rd p m, ran => (execRd_only p m ran).toKept
  | .rdData p m, ran => (execRdData_only p m ran).toKept
  | .coll p m, ran => (execColl_only p m ran).toKept
  | .collReady p m, ran => (execCollReady_only p m ran).toKept
  | .mgmt p m body, ran => (execMgmt_only p m body ran).toKept
  | .timeSend stamps, ran => (execTimeSend_only stamps ran).toKept
  | .time p m, ran => (execTime_only p m ran).toKept
  | .masterAdvertExpiry p, ran => (execMasterAdvertExpiry_only p ran).toKept
  | .remoteExport m, ran => (execRemoteExport_only m ran).toKept
  | .groupSet m, ran => (execGroupSet_only m ran).toKept
  | .groupClear m, ran => (execGroupClear_only m ran).toKept
  | .ueEccEvent p a, ran => (execUeEccEvent_only p a ran).toKept
  | .groomBayCleared bay, ran => (execGroomBayCleared_only bay ran).toKept
  | .slotClean slot, ran => (execSlotClean_only slot ran).toKept
  | .secChallenge m, ran => (execSecChallenge_only m ran).toKept
  | .debugUnlock m tap, ran => (execDebugUnlock_only m tap ran).toKept
  | .debugLock m, ran => (execDebugLock_only m ran).toKept
  | .debugSessionExpiry, ran => (execDebugSessionExpiry_only ran).toKept
  | .tapBypass, ran => (execTapBypass_only ran).toKept
  | .tapIdcode, ran => (execTapIdcode_only ran).toKept
  | .tapSamplePreload, ran => (execTapSamplePreload_only ran).toKept
  | .tapHighz, ran => (execTapHighz_only ran).toKept
  | .tapClamp, ran => (execTapClamp_only ran).toKept
  | .tapExtest, ran => (execTapExtest_only ran).toKept
  | .tapScan, ran => (execTapScan_only ran).toKept
  | .selftest m, ran => (execSelftest_only m ran).toKept
  | .periodicSelftest, ran => (execPeriodicSelftest_only ran).toKept
  | .cryptoInstanceFailure u cause alg inst, ran => (execCryptoInstanceFailure_only u cause alg inst ran).toKept
  | .zeroise m, ran => (execZeroise_only m ran).toKept
  | .decommission m, ran => (execDecommission_only m ran).toKept
  | .decommissionConfirmExpiry, ran => (execDecommissionConfirmExpiry_only ran).toKept
  | .ledgerQuery m, ran => (execLedgerQuery_only m ran).toKept
  | .attestReport m, ran => (execAttestReport_only m ran).toKept
  | .attestLog m, ran => (execAttestLog_only m ran).toKept
  | .measureImage m, ran => (execMeasureImage_only m ran).toKept
  | .sealKeygen id m, ran => (execSealKeygen_only id m ran).toKept
  | .sealInstall id m, ran => (execSealInstall_only id m ran).toKept
  | .sealDrop id m, ran => (execSealDrop_only id m ran).toKept
  | .queueRebind id m, ran => (execQueueRebind_only id m ran).toKept
  | .getVersion via, ran => (execGetVersion_only via ran).toKept
  | .getCapabilities via, ran => (execGetCapabilities_only via ran).toKept
  | .negotiateAlgorithms via, ran => (execNegotiateAlgorithms_only via ran).toKept
  | .getDigests via, ran => (execGetDigests_only via ran).toKept
  | .getCertificate via slot ofs len, ran => (execGetCertificate_only via slot ofs len ran).toKept
  | .challenge via slot, ran => (execChallenge_only via slot ran).toKept
  | .getMeasurements via index nonce, ran => (execGetMeasurements_only via index nonce ran).toKept
  | .keyExchange via id peer, ran => (execKeyExchange_only via id peer ran).toKept
  | .finish id leaf good, ran => (execFinish_only id leaf good ran).toKept
  | .heartbeat id, ran => (execHeartbeat_only id ran).toKept
  | .heartbeatMissed id, ran => (execHeartbeatMissed_only id ran).toKept
  | .keyUpdate id, ran => (execKeyUpdate_only id ran).toKept
  | .endSession id, ran => (execEndSession_only id ran).toKept
  | .chunkGet via, ran => (execChunkGet_only via ran).toKept
  | .vendorDefinedRequest id op tag payload, ran => (execVendorDefinedRequest_only id op tag payload ran).toKept
  | .componentFault c retire lines hit, ran => (execComponentFault_only c retire lines hit ran).toKept
  | .journalRebuildDone sn, ran => (execJournalRebuildDone_only sn ran).toKept
  | .recoveryComplete, ran => (execRecoveryComplete_only ran).toKept
  | .accEvents m, ran => (execAccEvents_only m ran).toKept
  | .accRecords m, ran => (execAccRecords_only m ran).toKept
  | .orphanClear m, ran => (execOrphanClear_only m ran).toKept
  | .mainPowerLost vbank vmain, ran => (execMainPowerLost_only vbank vmain ran).toKept
  | .mainPowerReturn vbank vmain, ran => (execMainPowerReturn_only vbank vmain ran).toKept
  | .flushStart, ran => (execFlushStart_only ran).toKept
  | .flushDone, ran => (execFlushDone_only ran).toKept
  | .flushAbort, ran => (execFlushAbort_only ran).toKept
  | .bankDead, ran => (execBankDead_only ran).toKept
  | .bankAcceptReached, ran => (execBankAcceptReached_only ran).toKept
  | .imageSlotEraseDone, ran => (execImageSlotEraseDone_only ran).toKept
  | .healthTestStart, ran => (execHealthTestStart_only ran).toKept
  | .testStart, ran => (execTestStart_only ran).toKept
  | .healthTestDone cap esr complete, ran => (execHealthTestDone_only cap esr complete ran).toKept
  | .unguardedWrite v, ran => (execUnguardedWrite_only v ran).toKept
  | .clusterIdleScatter c, ran => (execClusterIdleScatter_only c ran).toKept
  | .clusterIdleClear c, ran => (execClusterIdleClear_only c ran).toKept
  | .clusterWakeDone c, ran => (execClusterWakeDone_only c ran).toKept
  | .pkgClearEntry l1, ran => (execPkgClearEntry_only l1 ran).toKept
  | .pkgClearEntered l1, ran => (execPkgClearEntered_only l1 ran).toKept
  | .pkgWake src needsCluster, ran => (execPkgWake_only src needsCluster ran).toKept
  | .pkgWakePhaseDone, ran => (execPkgWakePhaseDone_only ran).toKept
  | .pwrCtlWrite v, ran => (execPwrCtlWrite_only v ran).toKept
  | .thermalTrip, ran => (execThermalTrip_only ran).toKept
  | .pkgResetWarm m, ran => (execPkgResetWarm_only m ran).toKept
  | .warmResetDone, ran => (execWarmResetDone_only ran).toKept
  | .pkgResetCold m, ran => (execPkgResetCold_only m ran).toKept
  | .coldResetRelease, ran => (execColdResetRelease_only ran).toKept
  | .bootPhaseDone failed badRtp cause alg inst, ran => (execBootPhaseDone_only failed badRtp cause alg inst ran).toKept
  | .muartCharReceived c framing parity, ran => (execMuartCharReceived_only c framing parity ran).toKept
  | .muartCharSent collided, ran => (execMuartCharSent_only collided ran).toKept
  | .muartRetry, ran => (execMuartRetry_only ran).toKept
  | .muConfigApply, ran => (execMuConfigApply_only ran).toKept
  | .muartSleep, ran => (execMuartSleep_only ran).toKept
  | .muartWake, ran => (execMuartWake_only ran).toKept
  | .break, ran => (execBreak_only ran).toKept
  | .lineFault, ran => (execLineFault_only ran).toKept
  | .lineFaultClear, ran => (execLineFaultClear_only ran).toKept
  | .consoleStatus, ran => (execConsoleStatus_only ran).toKept
  | .consoleTime, ran => (execConsoleTime_only ran).toKept
  | .confirmEnrol, ran => (execConfirmEnrol_only ran).toKept
  | .confirmDecom, ran => (execConfirmDecom_only ran).toKept
  | .consoleSelftest, ran => (execConsoleSelftest_only ran).toKept
  | .consoleZeroise, ran => (execConsoleZeroise_only ran).toKept
  | .consoleZeroiseAbandoned, ran => (execConsoleZeroiseAbandoned_only ran).toKept
  | .resetWarm, ran => (execResetWarm_only ran).toKept
  | .resetCold, ran => (execResetCold_only ran).toKept
  | .consoleLine, ran => (execConsoleLine_only ran).toKept
  | .entdaa a, ran => (execEntdaa_only a ran).toKept
  | .setdasa a, ran => (execSetdasa_only a ran).toKept
  | .rstdaa, ran => (execRstdaa_only ran).toKept
  | .enec v, ran => (execEnec_only v ran).toKept
  | .disec v, ran => (execDisec_only v ran).toKept
  | .getpid, ran => (execGetpid_only ran).toKept
  | .getbcr, ran => (execGetbcr_only ran).toKept
  | .getdcr, ran => (execGetdcr_only ran).toKept
  | .getstatus, ran => (execGetstatus_only ran).toKept
  | .getmwl, ran => (execGetmwl_only ran).toKept
  | .getmrl, ran => (execGetmrl_only ran).toKept
  | .setmwl v, ran => (execSetmwl_only v ran).toKept
  | .setmrl v, ran => (execSetmrl_only v ran).toKept
  | .getmxds, ran => (execGetmxds_only ran).toKept
  | .rstact v, ran => (execRstact_only v ran).toKept
  | .ibiRetry at', ran => (execIbiRetry_only at' ran).toKept
  | .setEndpointId e, ran => (execSetEndpointId_only e ran).toKept
  | .getEndpointId, ran => (execGetEndpointId_only ran).toKept
  | .getEndpointUuid, ran => (execGetEndpointUuid_only ran).toKept
  | .getMctpVersionSupport, ran => (execGetMctpVersionSupport_only ran).toKept
  | .getMessageTypeSupport, ran => (execGetMessageTypeSupport_only ran).toKept
  | .getTid, ran => (execGetTid_only ran).toKept
  | .setTid t, ran => (execSetTid_only t ran).toKept
  | .getPldmVersion ty, ran => (execGetPldmVersion_only ty ran).toKept
  | .getPldmTypes, ran => (execGetPldmTypes_only ran).toKept
  | .getPldmCommands ty, ran => (execGetPldmCommands_only ty ran).toKept
  | .getPdr h, ran => (execGetPdr_only h ran).toKept
  | .getPdrRepositoryInfo, ran => (execGetPdrRepositoryInfo_only ran).toKept
  | .getSensorReading id, ran => (execGetSensorReading_only id ran).toKept
  | .getStateSensorReadings id, ran => (execGetStateSensorReadings_only id ran).toKept
  | .pollForPlatformEvent, ran => (execPollForPlatformEvent_only ran).toKept
  | .eventMessageBufferSize n, ran => (execEventMessageBufferSize_only n ran).toKept
  | .pldmEnrolConfirm v, ran => (execPldmEnrolConfirm_only v ran).toKept
  | .pldmDecomConfirm v, ran => (execPldmDecomConfirm_only v ran).toKept
  | .pldmResetWarm, ran => (execPldmResetWarm_only ran).toKept
  | .pldmResetCold, ran => (execPldmResetCold_only ran).toKept
  | .pldmSelftest, ran => (execPldmSelftest_only ran).toKept
  | .pldmZeroise, ran => (execPldmZeroise_only ran).toKept
  | .registerWrite f r v, ran => (execRegisterWrite_only f r v ran).toKept
  | .readToClear f wide ofs, ran => (execReadToClear_only f wide ofs ran).toKept
  | .semWaitPass q pos, ran => (execSemWaitPass_only q pos ran).toKept
  | .gtbCoarseEnd, ran => (execGtbCoarseEnd_only ran).toKept
  | .laneLockLost p, ran => (execLaneLockLost_only p ran).toKept
  | .portLowpowerExit p, ran => (execPortLowpowerExit_only p ran).toKept
  | .selftestRunDone pass, ran => (execSelftestRunDone_only pass ran).toKept
  | .measureImageDone n, ran => (execMeasureImageDone_only n ran).toKept
  | .stallResetDone n, ran => (execStallResetDone_only n ran).toKept
  | .xlatInvalDone sn, ran => (execXlatInvalDone_only sn ran).toKept
  | .debugHalt n clusters, ran => (execDebugHalt_only n clusters ran).toKept
  | .debugResume n, ran => (execDebugResume_only n ran).toKept
  | .ideKmRequest p stream op session, ran => (execIdeKmRequest_only p stream op session ran).toKept

/-- A step of the GTB with no command waiting keeps them too. -/
theorem State.stepOn_kept (s : State) : Kept s s.stepOn := (State.stepOn_only (Only.refl _ s) (List.Subset.refl _)).toKept

/-- Every step keeps the promises of `Kept`, counted from the state whose queue the step's command has left. -/
theorem step_kept {s t : State} (h : step s = .next t) : Kept { s with pending := s.pending.tail } t := by
  obtain ⟨pending⟩ := s
  cases pending with
  | nil => cases h; exact State.stepOn_kept _
  | cons c rest => exact exec_kept c h

/-- FL_PKG_ID shows nothing of the package but its variant and stepping (R41). -/
theorem Package.idReg_congr {g g' : Package} (hv : g'.variant = g.variant) (hs : g'.stepping = g.stepping) : g'.idReg = g.idReg := by
  simp only [Package.idReg, hv, hs]

/-- FL_PKG_MEM shows nothing of the package but its variant (R41). -/
theorem Package.memReg_congr {g g' : Package} (hv : g'.variant = g.variant) : g'.memReg = g.memReg := by
  simp only [Package.memReg, hv]

/-- Settles O5: a step keeps variant and stepping, and every figure and register R37 speaks of is a function of the two. -/
theorem variantStaysAsAssembled : Obligations.VariantStaysAsAssembled := by
  unfold Obligations.VariantStaysAsAssembled
  intro s t h
  have hv : t.pkg.variant = s.pkg.variant := (step_kept h).variant
  have hs : t.pkg.stepping = s.pkg.stepping := (step_kept h).stepping
  exact ⟨hv, hs, congrArg stackCount hv, congrArg iodies hv, Package.idReg_congr hv hs, Package.memReg_congr hv⟩

end Sys2Proof.Machine
end

section
/-! SUPPORT. One reference cycle of the GTB (R44), and that no advance of the block takes the GTB back. -/

namespace Sys2Proof.Machine

/-! One reference cycle. -/

/-- A signed 32-bit TRIM takes less than the 160 gticks away, so what a cycle adds is never cut off at 0. -/
theorem Gtb.rate_eq (g : Gtb) : (g.rate : Int) = 160 * 2 ^ 32 + g.trim.toInt := by
  have hlo := g.trim.le_two_mul_toInt
  unfold Gtb.rate
  omega

/-- What adding TRIM carries out of the fraction accumulator: 1 for a carry, -1 for a borrow (R44). -/
def Gtb.carry (g : Gtb) : Int :=
  if 2 ^ 32 ≤ (g.acc.toNat : Int) + g.trim.toInt then 1 else if (g.acc.toNat : Int) + g.trim.toInt < 0 then -1 else 0

theorem Gtb.neg_one_le_carry (g : Gtb) : -1 ≤ g.carry := by
  unfold Gtb.carry
  split_ifs <;> decide

theorem Gtb.carry_le_one (g : Gtb) : g.carry ≤ 1 := by
  unfold Gtb.carry
  split_ifs <;> decide

/-- The whole gticks in the accumulator after the sum are 160 and the carry: TRIM carries or borrows at most once. -/
theorem Gtb.acc_add_rate_div (g : Gtb) : (((g.acc.toNat + g.rate) / 2 ^ 32 : Nat) : Int) = 160 + g.carry := by
  have hr := g.rate_eq
  have hlo := g.trim.le_two_mul_toInt
  have hhi := g.trim.two_mul_toInt_lt
  have hacc := g.acc.isLt
  unfold Gtb.carry
  split_ifs <;> omega

/-- One cycle adds 160 and the carry to the integer part, where 64 bits hold the sum. -/
theorem Gtb.cycles_one_base (g : Gtb) (hb : g.base.toNat + 161 < 2 ^ 64) :
    ((g.cycles 1 0).base.toNat : Int) = g.base.toNat + 160 + g.carry := by
  have hgain := g.acc_add_rate_div
  have hcarry := g.carry_le_one
  simp only [Gtb.cycles, one_mul, BitVec.toNat_ofNat]
  omega

/-- One cycle adds TRIM to the accumulator, modulo 2^32: the 160 whole gticks leave no fraction there. -/
theorem Gtb.cycles_one_acc (g : Gtb) : (g.cycles 1 0).acc = g.acc + g.trim := by
  have hr := g.rate_eq
  have htrim := g.trim.toInt_eq_toNat_cond
  apply BitVec.eq_of_toNat_eq
  simp only [Gtb.cycles, one_mul, BitVec.toNat_ofNat, BitVec.toNat_add]
  split at htrim <;> omega

/-! An advance of the block. -/

/-- The block takes up a GTB that is ahead and no other; the timers' share of the advance leaves the GTB as it is. -/
theorem State.advanceTo_gtb (s : State) (g : Gtb) : (s.advanceTo g).gtb = if g.now ≤ s.now then s.gtb else g := by
  unfold State.advanceTo
  split
  · rfl
  · exact (forAll_only (L := [.timers, .outs, .matrix, .pf, .out]) (Only.refl _ _) _ _
      fun n _ h => State.timerOn_only h (List.Subset.refl _) _ _ _ n s).rest .gtb (by decide)

/-- No advance takes the GTB back. -/
theorem State.now_le_advanceTo_now (s : State) (g : Gtb) : s.now ≤ (s.advanceTo g).now := by
  rw [State.now, State.now, State.advanceTo_gtb]
  split
  · exact Nat.le_refl _
  next hahead => exact Nat.le_of_not_le hahead

/-- Settles O8: the cycle's gain is 160 and the accumulator's carry, and no advance takes the GTB back. -/
theorem oneReferenceCycle : Obligations.OneReferenceCycle := by
  unfold Obligations.OneReferenceCycle
  refine ⟨fun g hb => ?_, fun s t _ => s.now_le_advanceTo_now (s.gtb.advance t)⟩
  have hgain := g.cycles_one_base hb
  have hlo := g.neg_one_le_carry
  have hhi := g.carry_le_one
  exact ⟨hgain, g.cycles_one_acc, by omega, by omega⟩

end Sys2Proof.Machine
end

section
/-! SUPPORT. The thresholds of urgency (R355): which writes of RG_URG_LINK and RG_URG_HOST take effect. -/

namespace Sys2Proof.Machine

/-- What a write wakes on its way (R536) leaves the RG block as it was. -/
@[simp] theorem State.barWrite_rg (s : State) : s.barWrite.rg = s.rg :=
  (State.barWrite_only (Only.refl _ s) (List.Subset.refl _)).rest .rg (by decide)

/-- With 1 ≤ LO < HI the register written takes the bits that are not reserved, and the rest of the RG block stays. -/
theorem rgUrgWrite_rg_of_ordered {v : U32} (hpos : 1 ≤ (fld v 4 4).toNat) (hlt : (fld v 4 4).toNat < (fld v 0 4).toNat)
    (host : Bool) (s : State) :
    (rgUrgWrite host v s).rg = if host then { s.rg with urgHost := v &&& 0xFF } else { s.rg with urgLink := v &&& 0xFF } := by
  have hread : ¬ (((fld v 4 4).toNat < 1 || (fld v 0 4).toNat ≤ (fld v 4 4).toNat) = true) := by
    simp only [Bool.or_eq_true, decide_eq_true_eq]
    omega
  unfold rgUrgWrite
  rw [if_neg hread]
  cases host <;> rfl

/-- A write whose LO is 0 or not below its HI is ignored. -/
theorem rgUrgWrite_eq_self {v : U32} (hbad : (fld v 4 4).toNat < 1 ∨ (fld v 0 4).toNat ≤ (fld v 4 4).toNat) (host : Bool) (s : State) :
    rgUrgWrite host v s = s :=
  if_pos (by simpa only [Bool.or_eq_true, decide_eq_true_eq] using hbad)

/-- The command always completes: the write arrives on the host port, and then meets the register. -/
theorem exec_rgUrgWrite (host : Bool) (v : U32) (s : State) : exec (.rgUrgWrite host v) s = .next (rgUrgWrite host v s.barWrite) := rfl

/-- Settles O36: the test on LO and HI decides the write, and the wake before it does not touch the RG block. -/
theorem urgencyWritesTakeEffect : Obligations.UrgencyWritesTakeEffect := by
  unfold Obligations.UrgencyWritesTakeEffect
  refine ⟨fun s host v hpos hlt => ⟨_, exec_rgUrgWrite host v s, ?_⟩, fun s host v hbad => ⟨_, exec_rgUrgWrite host v s, ?_⟩⟩
  · beta_reduce
    rw [rgUrgWrite_rg_of_ordered hpos hlt, State.barWrite_rg]
    cases host <;> exact ⟨rfl, rfl⟩
  · exact (congrArg State.rg (rgUrgWrite_eq_self hbad host s.barWrite)).trans s.barWrite_rg

end Sys2Proof.Machine
end


section
set_option Elab.async false
/-! SUPPORT. The step, what every step keeps, and the units a variant is fitted with (log 1, 2, 18). -/

open Sys2Proof Sys2Proof.Machine

namespace Sys2Proof.Machine

/-- Settles O1: the second arm of `step`. -/
theorem stepRunsTheFrontCommand : Obligations.StepRunsTheFrontCommand := by
  unfold Obligations.StepRunsTheFrontCommand
  exact fun s c rest => rfl

/-- The GTB in the last step its 64 bits hold: the step after it has passed 2^64 and shows a smaller value. -/
def gtbAtItsEnd : State := { State.reset with gtb := { State.reset.gtb with base := BitVec.ofNat 64 (2 ^ 64 - 1), k := 19 } }

/-- Refutes O2: where the GTB's next step passes 2^64 the block, which never goes backwards, stays where it is. -/
theorem not_idleStepIsOneGtbStep : ¬ Obligations.IdleStepIsOneGtbStep := by
  unfold Obligations.IdleStepIsOneGtbStep
  intro h
  obtain ⟨t, hstep, hnow, -⟩ := h gtbAtItsEnd rfl
  have hstays : gtbAtItsEnd.stepOn.now ≠ gtbAtItsEnd.nextStep := by decide
  cases hstep
  exact hstays hnow

/-- Settles O3: every promise is a field of `Kept`, which every step keeps. -/
theorem everyStepKeepsThePromises : Obligations.EveryStepKeepsThePromises := by
  unfold Obligations.EveryStepKeepsThePromises
  intro s t h
  have kept := step_kept h
  exact ⟨kept.queue, kept.caching, kept.drawn, kept.sent, kept.canonical, kept.sorted, kept.eras, kept.bank, kept.spent⟩

/-- Settles O4: nothing is listed at reset. -/
theorem resetKeepsThePromises : Obligations.ResetKeepsThePromises := by
  unfold Obligations.ResetKeepsThePromises
  exact ⟨rfl, rfl, fun _ => rfl, rfl⟩

/-- A command completes where its unit is fitted, and stops by name where it is not. -/
def CompletesWhere (isFitted : Bool) (o : Host.Outcome State Fault Refusal) : Prop :=
  (isFitted = true → ∃ t, o = .next t) ∧ (isFitted = false → o = .fault .notFitted)

/-- A command of no unit completes always. -/
theorem completesWhere_next (t : State) : CompletesWhere true (.next t) := ⟨fun _ => ⟨t, rfl⟩, nofun⟩

/-- The shared test of a unit decides between the two outcomes. -/
theorem completesWhere_test (b : Bool) (t : State) : CompletesWhere b (if b then .next t else .fault .notFitted) := by
  cases b
  · exact ⟨nofun, fun _ => rfl⟩
  · exact completesWhere_next t

/-- The same of a test that is a proposition. -/
theorem completesWhere_decide (c : Prop) [Decidable c] (t : State) : CompletesWhere (decide c) (if c then .next t else .fault .notFitted) := by
  simpa only [decide_eq_true_eq] using completesWhere_test (decide c) t

/-- Settles O6: a command that names a unit ends in the test of that unit, every other one in `.next`. -/
theorem commandsCompleteOnFittedUnits : Obligations.CommandsCompleteOnFittedUnits := by
  unfold Obligations.CommandsCompleteOnFittedUnits
  intro s c
  change CompletesWhere (fitted s.pkg.variant c) (exec c s)
  cases c
  case hostPortLoss | hostPortLinkUp | sriovConfigWrite | ideTlpCheckFail | ideKmRequest => exact completesWhere_test _ _
  case urgencyAssert | urgencyWithdraw => exact completesWhere_test _ _
  case componentFault | ueEccEvent | cryptoInstanceFailure => exact completesWhere_test _ _
  case tlPCtlWrite | retrain | tlPAsymWrite | portPeerDetect | portTrained | portStepTimeout | keyxHello | keyxFinish | rekeyStart | keyxSwitch
    | rekeyDeadline | linkFrameReceived | linkAck | linkNak | laneLockLost | wake | portLowpowerExit | time | masterAdvertExpiry | tkReq
    | tkGrant | tkDeny | tkDone | wr | wrAck | rd | rdData | coll | collReady | mgmt => exact completesWhere_decide _ _
  all_goals exact completesWhere_next _

end Sys2Proof.Machine
end


section
set_option Elab.async false
/-! SUPPORT. What `Only` leaves alone, read off field by field, and what the operations every family shares leave alone. -/

open Sys2Proof Sys2Proof.Machine

namespace Sys2Proof.Machine

section
set_option Elab.async false
variable {l : List Part} {s t : State}

theorem Only.pkg_eq (h : Only l s t) (hp : Part.pkg ∉ l) : t.pkg = s.pkg := h.rest .pkg hp
theorem Only.gtb_eq (h : Only l s t) (hp : Part.gtb ∉ l) : t.gtb = s.gtb := h.rest .gtb hp
theorem Only.yard_eq (h : Only l s t) (hp : Part.yard ∉ l) : t.yard = s.yard := h.rest .yard hp
theorem Only.clusters_eq (h : Only l s t) (hp : Part.clusters ∉ l) : t.clusters = s.clusters := h.rest .clusters hp
theorem Only.stalls_eq (h : Only l s t) (hp : Part.stalls ∉ l) : t.stalls = s.stalls := h.rest .stalls hp
theorem Only.hbm_eq (h : Only l s t) (hp : Part.hbm ∉ l) : t.hbm = s.hbm := h.rest .hbm hp
theorem Only.mee_eq (h : Only l s t) (hp : Part.mee ∉ l) : t.mee = s.mee := h.rest .mee hp
theorem Only.prot_eq (h : Only l s t) (hp : Part.prot ∉ l) : t.prot = s.prot := h.rest .prot hp
theorem Only.power_eq (h : Only l s t) (hp : Part.power ∉ l) : t.power = s.power := h.rest .power hp
theorem Only.acct_eq (h : Only l s t) (hp : Part.acct ∉ l) : t.acct = s.acct := h.rest .acct hp
theorem Only.tl_eq (h : Only l s t) (hp : Part.tl ∉ l) : t.tl = s.tl := h.rest .tl hp
theorem Only.side_eq (h : Only l s t) (hp : Part.side ∉ l) : t.side = s.side := h.rest .side hp
theorem Only.sessions_eq (h : Only l s t) (hp : Part.sessions ∉ l) : t.sessions = s.sessions := h.rest .sessions hp
theorem Only.free_eq (h : Only l s t) (hp : Part.free ∉ l) : t.free = s.free := h.rest .free hp
theorem Only.out_eq (h : Only l s t) (hp : Part.out ∉ l) : t.host.out = s.host.out := h.rest .out hp
theorem Only.pf_eq (h : Only l s t) (hp : Part.pf ∉ l) : t.host.pf = s.host.pf := h.rest .pf hp
theorem Only.vf_eq (h : Only l s t) (hp : Part.vf ∉ l) : t.host.vf = s.host.vf := h.rest .vf hp
theorem Only.ports_eq (h : Only l s t) (hp : Part.ports ∉ l) : t.host.ports = s.host.ports := h.rest .ports hp
theorem Only.history_eq (h : Only l s t) (hp : Part.history ∉ l) : t.host.history = s.host.history := h.rest .history hp

theorem Only.now_eq (h : Only l s t) (hp : Part.gtb ∉ l) : t.now = s.now := congrArg Gtb.now (h.gtb_eq hp)
theorem Only.nowW_eq (h : Only l s t) (hp : Part.gtb ∉ l) : t.nowW = s.nowW := congrArg (BitVec.ofNat 64) (h.now_eq hp)
theorem Only.stall?_eq (h : Only l s t) (n : Nat) (hp : Part.stalls ∉ l) : t.stall? n = s.stall? n :=
  congrArg (Tab.find? · n) (h.stalls_eq hp)
theorem Only.tick_eq (h : Only l s t) (n : Nat) (hp : Part.ticks ∉ l) : t.tick n = s.tick n :=
  congrArg (Tab.get TickCh.init · n) (h.rest .ticks hp)
theorem Only.cap_eq (h : Only l s t) (n : Nat) (hp : Part.caps ∉ l) : t.cap n = s.cap n :=
  congrArg (Tab.get Capture.init · n) (h.rest .caps hp)

end

/-! The causes of a function's cause registers, a message on its vectors (R185, R186). -/

theorem State.pfCause_keeps (s : State) (c : PfCause) : Only [.pf, .out] s (s.pfCause c) := State.pfCause_only (Only.refl _ s) (List.Subset.refl _) c
theorem State.pfVector_keeps (s : State) (v : Nat) : Only [.pf, .out] s (s.pfVector v) := State.pfVector_only (Only.refl _ s) (List.Subset.refl _) v
theorem State.vfCause_keeps (s : State) (n : StallNo) (c : VfCause) : Only [.vf, .out] s (s.vfCause n c) :=
  State.vfCause_only (Only.refl _ s) (List.Subset.refl _) n c
theorem State.barWrite_keeps (s : State) : Only [.gtb, .out, .power, .side] s s.barWrite := State.barWrite_only (Only.refl _ s) (List.Subset.refl _)
theorem State.wakePackage_keeps (s : State) (src : Nat) (needs : Bool) : Only [.gtb, .out, .power, .side] s (s.wakePackage src needs) :=
  State.wakePackage_only (Only.refl _ s) (List.Subset.refl _) src needs
theorem State.event_keeps (s : State) (c : Nat) : Only [.outs, .matrix] s (s.event c) :=
  State.event_only (Only.refl _ s) (List.Subset.refl _) c
theorem State.advance_keeps (s : State) (u : Nat) : Only [.gtb, .timers, .outs, .matrix, .pf, .out] s (s.advance u) :=
  State.advance_only (Only.refl _ s) (List.Subset.refl _) u
theorem State.advanceEdge_keeps (s : State) (u : Nat) : Only [.gtb, .timers, .outs, .matrix, .pf, .out] s (s.advanceEdge u) :=
  State.advanceEdge_only (Only.refl _ s) (List.Subset.refl _) u

@[simp] theorem State.pfCause_gtb (s : State) (c : PfCause) : (s.pfCause c).gtb = s.gtb := (s.pfCause_keeps c).gtb_eq (by decide)
@[simp] theorem State.pfCause_now (s : State) (c : PfCause) : (s.pfCause c).now = s.now := (s.pfCause_keeps c).now_eq (by decide)

/-- A wake leaves all of the GTB but the end of COARSE as it was (R46, R536). -/
theorem State.wakePackage_gtb (s : State) (src : Nat) (needs : Bool) :
    (s.wakePackage src needs).gtb = { s.gtb with coarseEnd := (s.wakePackage src needs).gtb.coarseEnd } := by
  unfold State.wakePackage
  split_ifs
  · rfl
  · split
    · rfl
    · rfl
    · rfl
    · rw [(State.platform_only (Only.refl [.out, .side] _) (List.Subset.refl _)).gtb_eq (by decide)]
theorem State.barWrite_gtb (s : State) : s.barWrite.gtb = { s.gtb with coarseEnd := s.barWrite.gtb.coarseEnd } := s.wakePackage_gtb 0 false
@[simp] theorem State.wakePackage_now (s : State) (src : Nat) (needs : Bool) : (s.wakePackage src needs).now = s.now := by
  rw [State.now, s.wakePackage_gtb]; rfl
@[simp] theorem State.barWrite_now (s : State) : s.barWrite.now = s.now := s.wakePackage_now 0 false
@[simp] theorem State.barWrite_tl (s : State) : s.barWrite.tl = s.tl := s.barWrite_keeps.tl_eq (by decide)

end Sys2Proof.Machine
end


section
set_option Elab.async false
/-! SUPPORT. The reference clock, the trim and the servo (R44–R48). -/

open Sys2Proof Sys2Proof.Machine

namespace Sys2Proof.Machine

@[simp] theorem State.barWrite_gtb_servoAuto (s : State) : s.barWrite.gtb.servoAuto = s.gtb.servoAuto := by rw [s.barWrite_gtb]
@[simp] theorem State.barWrite_gtb_trim (s : State) : s.barWrite.gtb.trim = s.gtb.trim := by rw [s.barWrite_gtb]
@[simp] theorem State.barWrite_gtb_trimLimit (s : State) : s.barWrite.gtb.trimLimit = s.gtb.trimLimit := by rw [s.barWrite_gtb]

/-- A demand is stored as the nearest trim of the accepted range (R45). -/
theorem clampTrim_toInt (v : U32) : (clampTrim v.toInt).1.toInt = max (-(2 ^ 27)) (min (2 ^ 27) v.toInt) := by
  unfold clampTrim trimMax
  split_ifs with hlow hhigh
  · have hleast : (BitVec.ofInt 32 (-(2 ^ 27))).toInt = -(2 ^ 27) := by decide
    simp only [hleast]
    omega
  · have hgreatest : (BitVec.ofInt 32 (2 ^ 27)).toInt = 2 ^ 27 := by decide
    simp only [hgreatest]
    omega
  · simp only [BitVec.ofInt_toInt]
    omega

/-- A demand is clamped where it lies outside the accepted range. -/
theorem clampTrim_clamped (v : Int) : (clampTrim v).2 = (decide (v < -(2 ^ 27)) || decide (2 ^ 27 < v)) := by
  unfold clampTrim trimMax
  split_ifs <;> simp <;> omega

@[simp] theorem State.setTrim_gtb (s : State) (v : Int) :
    (s.setTrim v).gtb = { s.gtb with trim := (clampTrim v).1, trimLimit := s.gtb.trimLimit || (clampTrim v).2 } := by
  unfold State.setTrim
  dsimp only
  split_ifs
  · exact State.pfCause_gtb _ _
  · rfl

/-- Settles O7: each command's own equation, and what it sends on the way leaves the GTB alone. -/
theorem referenceClockAndTrim : Obligations.ReferenceClockAndTrim := by
  unfold Obligations.ReferenceClockAndTrim
  refine ⟨fun s hext => ⟨_, rfl, ?_⟩, fun s hint hgood => ⟨_, rfl, ?_⟩, fun s u hend => ⟨_, rfl, ?_⟩, fun s v hmanual => ⟨_, rfl, ?_⟩,
    fun s v hauto => ⟨_, rfl, ?_⟩, fun s => ⟨_, rfl, ?_⟩, fun s hdown => ⟨_, rfl, ?_⟩, fun s hup => ⟨_, rfl, ?_⟩⟩
  · simp only [refClockLost, hext, State.pfCause_gtb, State.pfCause_now, Bool.false_eq_true, if_false, true_and]
    exact ⟨rfl, by trivial⟩
  · simp only [refClockSwitchBack, hint, hgood, State.pfCause_gtb, State.pfCause_now, decide_true, Bool.and_self, if_true, true_and]
    exact ⟨rfl, rfl⟩
  · simp only [gtbCoarseEnd, hend, and_self]
  · simp only [gtbTrimWrite, State.barWrite_gtb_servoAuto, hmanual, Bool.false_eq_true, if_false, State.setTrim_gtb, clampTrim_toInt,
      clampTrim_clamped, State.barWrite_gtb_trimLimit, Bool.or_assoc, and_self]
  · simp only [gtbTrimWrite, State.barWrite_gtb_servoAuto, hauto, if_true, State.barWrite_gtb_trim]
  · rfl
  · simp only [servoAutoWrite, State.barWrite_tl, hdown, Bool.not_false, Bool.true_and, Bool.false_eq_true, if_false]
  · simp only [servoAutoWrite, State.barWrite_tl, hup, Bool.not_false, Bool.true_and, if_true, State.barWrite_gtb_servoAuto]

end Sys2Proof.Machine
end


section
set_option Elab.async false
/-! SUPPORT. Tick channels and capture inputs (R61–R69). -/

open Sys2Proof Sys2Proof.Machine

namespace Sys2Proof.Machine

@[simp] theorem State.barWrite_tick (s : State) (n : Nat) : s.barWrite.tick n = s.tick n := s.barWrite_keeps.tick_eq n (by decide)
@[simp] theorem State.barWrite_cap (s : State) (n : Nat) : s.barWrite.cap n = s.cap n := s.barWrite_keeps.cap_eq n (by decide)
@[simp] theorem State.advance_tick (s : State) (u n : Nat) : (s.advance u).tick n = s.tick n := (s.advance_keeps u).tick_eq n (by decide)
@[simp] theorem State.advanceEdge_tick (s : State) (u n : Nat) : (s.advanceEdge u).tick n = s.tick n := (s.advanceEdge_keeps u).tick_eq n (by decide)
@[simp] theorem State.advance_cap (s : State) (u n : Nat) : (s.advance u).cap n = s.cap n := (s.advance_keeps u).cap_eq n (by decide)
@[simp] theorem State.event_tick (s : State) (c n : Nat) : (s.event c).tick n = s.tick n := (s.event_keeps c).tick_eq n (by decide)
@[simp] theorem State.event_cap (s : State) (c n : Nat) : (s.event c).cap n = s.cap n := (s.event_keeps c).cap_eq n (by decide)
@[simp] theorem State.event_now (s : State) (c : Nat) : (s.event c).now = s.now := (s.event_keeps c).now_eq (by decide)
@[simp] theorem State.pfVector_tick (s : State) (v n : Nat) : (s.pfVector v).tick n = s.tick n := (s.pfVector_keeps v).tick_eq n (by decide)
@[simp] theorem State.pfVector_cap (s : State) (v n : Nat) : (s.pfVector v).cap n = s.cap n := (s.pfVector_keeps v).cap_eq n (by decide)
@[simp] theorem State.pfVector_now (s : State) (v : Nat) : (s.pfVector v).now = s.now := (s.pfVector_keeps v).now_eq (by decide)
@[simp] theorem State.wakePackage_tick (s : State) (src : Nat) (b : Bool) (n : Nat) : (s.wakePackage src b).tick n = s.tick n :=
  (s.wakePackage_keeps src b).tick_eq n (by decide)
@[simp] theorem State.wakePackage_cap (s : State) (src : Nat) (b : Bool) (n : Nat) : (s.wakePackage src b).cap n = s.cap n :=
  (s.wakePackage_keeps src b).cap_eq n (by decide)
/-- A channel's registers after a firing at an instant (R64). -/
def TickCh.firedOnce (at' : U64) (c : TickCh) : TickCh := { c with fired := true, firedAt := at', fireCount := c.fireCount + 1 }

/-- The firing is in the channel's registers; what it sends, wakes and triggers leaves them and the time alone (R64). -/
theorem State.tickFires_tick (s : State) (n : Nat) :
    (s.tickFires n).tick n = (s.tick n).firedOnce s.nowW := by
  unfold State.tickFires
  dsimp only
  split_ifs <;> simp only [State.event_tick, State.wakePackage_tick, State.pfVector_tick]
  all_goals exact (State.tick_setTick s n n (TickCh.firedOnce s.nowW)).trans (if_pos rfl)
theorem State.tickFires_now (s : State) (n : Nat) : (s.tickFires n).now = s.now := by
  unfold State.tickFires
  dsimp only
  split_ifs <;> simp only [State.event_now, State.wakePackage_now, State.pfVector_now]
  all_goals rfl

theorem State.tickFires_nowW (s : State) (n : Nat) : (s.tickFires n).nowW = s.nowW := congrArg (BitVec.ofNat 64) (s.tickFires_now n)
theorem State.setTick_nowW (s : State) (n : Nat) (f : TickCh → TickCh) : (s.setTick n f).nowW = s.nowW := rfl

/-- A write to a channel the writer may write meets the channel (R61). -/
theorem tick_writable {r : Bool} {n : Fin 32} (h : 4 ≤ n.val ∨ r = true) : (decide (n.val < 4) && !r) = false := by
  rcases h with hn | rfl
  · simp only [Nat.not_lt.mpr hn, decide_false, Bool.false_and]
  · exact Bool.and_false _

theorem tickChannelArm_tick {r : Bool} {n : Fin 32} (h : 4 ≤ n.val ∨ r = true) {s : State} (hl : (s.tick n).live = false) :
    (tickChannelArm r n s).tick n = { s.tick n with armed := true, armedAt := s.now } := by
  simp [tickChannelArm, tick_writable h, hl]

/-- The state in which a catch-up channel's reload finds it: its time has come and the channel has fired (R62). -/
theorem tickChannelFireCatchup_eq {s : State} {n : Fin 32} (he : (s.tick n).en = true) (hl : (s.tick n).live = false)
    (ha : (s.tick n).armed = true) (hdue : (s.tick n).cmp.toNat ≤ (s.advance (max (s.tick n).cmp.toNat ((s.tick n).armedAt + 1))).now) :
    tickChannelFireCatchup n s =
      ((s.advance (max (s.tick n).cmp.toNat ((s.tick n).armedAt + 1))).tickFires n).setTick n
        (fun c => c.reload (s.advance (max (s.tick n).cmp.toNat ((s.tick n).armedAt + 1))).now) := by
  simp only [tickChannelFireCatchup, he, hl, ha, hdue, Bool.not_false, Bool.and_self, if_true]

/-- The same of a live channel, whose time is a reference edge (R63). -/
theorem tickChannelFireLive_eq {s : State} {n : Fin 32} (he : (s.tick n).en = true) (hl : (s.tick n).live = true)
    (hahead : s.gtb.base.toNat < (s.tick n).cmp.toNat)
    (hdue : (s.tick n).cmp.toNat ≤ (s.advanceEdge (s.tick n).cmp.toNat).gtb.base.toNat) :
    tickChannelFireLive n s =
      ((s.advanceEdge (s.tick n).cmp.toNat).tickFires n).setTick n (fun c => { c with cmp := c.cmp + c.period }) := by
  simp only [tickChannelFireLive, he, hl, hahead, hdue, Bool.and_self, Bool.not_true, Bool.false_eq_true, if_false, if_true]

/-- What a reload does to a channel with a period and without SKIP, and to one without a period (R62). -/
theorem TickCh.reload_oneShot {c : TickCh} (h : c.period = 0) (now : Nat) : c.reload now = { c with armed := false } := if_pos h
theorem TickCh.reload_periodic {c : TickCh} (h : c.period ≠ 0) (hs : c.skip = false) (now : Nat) :
    c.reload now = { c with cmp := BitVec.ofNat 64 (c.cmp.toNat + c.period.toNat), armedAt := now } := by
  simp only [TickCh.reload, h, hs, Bool.not_false, Bool.true_or, if_false, if_true]
/-- A reload leaves what the firing wrote. -/
theorem TickCh.reload_keeps (c : TickCh) (now : Nat) :
    (c.reload now).fired = c.fired ∧ (c.reload now).firedAt = c.firedAt ∧ (c.reload now).fireCount = c.fireCount := by
  unfold TickCh.reload
  dsimp only
  split_ifs <;> exact ⟨rfl, rfl, rfl⟩

/-- What an edge does to the capture's registers: its instant, and the pair it opens or closes (R67). -/
theorem Capture.edge_spec (c : Capture) (rising : Bool) (a : U64) (coarse : Bool) :
    (c.edge rising a coarse).1.level = rising ∧ (c.edge rising a coarse).1.rise = (if rising then a else c.rise) ∧
    (c.edge rising a coarse).1.fall = (if rising then c.fall else a) ∧
    (rising ≠ c.invert → (c.edge rising a coarse).1.openEdge = some a ∧ (c.edge rising a coarse).1.pairCount = c.pairCount) ∧
    (∀ o, rising = c.invert → c.openEdge = some o →
      (c.edge rising a coarse).1.pairRise = o ∧ (c.edge rising a coarse).1.pw.toNat = min (a.toNat - o.toNat) (2 ^ 32 - 1) ∧
      (c.edge rising a coarse).1.pairNew = true ∧ (c.edge rising a coarse).1.pairCount = c.pairCount + 1 ∧
      (c.edge rising a coarse).1.overrun = (c.overrun || c.pairNew) ∧ (c.edge rising a coarse).1.openEdge = none) := by
  unfold Capture.edge
  by_cases hopens : rising = c.invert
  · subst hopens
    cases hopen : c.openEdge with
    | none => simp
    | some o => simp
  · simp [hopens]

/-- The state an accepted edge leaves has the capture's new registers (R66, R67). -/
theorem syncInEdgeAccepted_cap {s : State} {n : Fin 8} {rising : Bool} {a : U64} (he : (s.cap n).en = true) (hs : (s.cap n).stuck = false)
    (hl : (s.cap n).level = !rising) : ∃ coarse, (syncInEdgeAccepted n rising a s).cap n = ((s.cap n).edge rising a coarse).1 := by
  have hlevel : ((s.cap n).level = rising) = False := by simp [hl]
  unfold syncInEdgeAccepted
  dsimp only
  rw [if_neg (by simp [he, hs, hlevel])]
  generalize a.toNat + (if s.gtb.coarse then ceilDiv (8 * (s.cap n).filter.toNat) 160 * 160 else 8 * (s.cap n).filter.toNat) = u
  refine ⟨(s.advance u).gtb.coarse, ?_⟩
  have hset : ((s.advance u).setCap n fun _ => ((s.cap n).edge rising a (s.advance u).gtb.coarse).1).cap n
      = ((s.cap n).edge rising a (s.advance u).gtb.coarse).1 := by rw [State.cap_setCap, if_pos rfl]
  split_ifs <;> simp only [State.event_cap, State.wakePackage_cap, State.pfVector_cap, hset]

/-- Settles O12: each command's own equation; a firing and an accepted edge change nothing else of their channel. -/
theorem ticksAndCaptures : Obligations.TicksAndCaptures := by
  unfold Obligations.TicksAndCaptures
  refine ⟨fun s r n v hw => ⟨_, rfl, ?_⟩, fun s r n hi l hw => ⟨_, rfl, ?_⟩, fun s n v hn => ⟨_, rfl, ?_⟩, fun s r n hw hl => ⟨_, rfl, ?_⟩,
    fun s n he hl ha hdue => ⟨_, rfl, ?_⟩, fun s n he hl hahead hdue => ⟨_, rfl, ?_⟩, fun s n rising a he hs hl => ⟨_, rfl, ?_⟩,
    fun s n hlim hs => ⟨_, rfl, ?_⟩, fun s n hi lo hset => ⟨_, rfl, ?_⟩⟩
  · simp [gateCmpLoWrite, tick_writable hw]
  · simp [gateCmpHiWrite, tick_writable hw, join64]
  · simp [gateCmpLoWrite, hn]
  · cases r
    · simp [tickChannelArm_tick hw (s := s.barWrite) (by simpa using hl)]
    · simp [tickChannelArm_tick hw hl]
  · rw [tickChannelFireCatchup_eq he hl ha hdue]
    generalize hu : max (s.tick n).cmp.toNat ((s.tick n).armedAt + 1) = u
    have hkeeps := ((s.tick n).firedOnce (s.advance u).nowW).reload_keeps (s.advance u).now
    have htick : (((s.advance u).tickFires n).setTick n (fun c => c.reload (s.advance u).now)).tick n
        = ((s.tick n).firedOnce (s.advance u).nowW).reload (s.advance u).now := by
      rw [State.tick_setTick, if_pos rfl, State.tickFires_tick, State.advance_tick]
    rw [htick, State.setTick_nowW, State.tickFires_nowW]
    refine ⟨hkeeps.1, hkeeps.2.1, hkeeps.2.2, fun hone => ?_, fun hper hskip => ?_⟩
    · rw [TickCh.reload_oneShot (c := (s.tick n).firedOnce _) hone]
      exact ⟨rfl, rfl⟩
    · rw [TickCh.reload_periodic (c := (s.tick n).firedOnce _) hper hskip]
      exact ⟨ha, rfl⟩
  · rw [tickChannelFireLive_eq he hl hahead hdue]
    generalize (s.tick n).cmp.toNat = u
    rw [State.setTick_nowW, State.tickFires_nowW, State.tick_setTick, if_pos rfl, State.tickFires_tick, State.advanceEdge_tick]
    exact ⟨rfl, rfl, rfl, rfl⟩
  · obtain ⟨coarse, hcap⟩ := syncInEdgeAccepted_cap (a := a) he hs hl
    rw [hcap]
    exact Capture.edge_spec _ _ _ _
  · simp only [syncInStuck, hlim, hs, decide_false, Bool.or_self, Bool.false_eq_true, if_false]
    split_ifs <;> simp
  · simp [capStuckClear, hset]

end Sys2Proof.Machine
end


section
set_option Elab.async false
/-! SUPPORT. The mailbox (R189–R195, R593): what GO leaves, what an answer leaves, and what a request whose checks pass comes to. -/

open Sys2Proof Sys2Proof.Machine

namespace Sys2Proof.Machine

/-! The mailbox of an instance under changes of its host block. -/

theorem State.mb_setMb (s : State) {f : Fn} (hf : hostFn f = true) (g : Mailbox → Mailbox) : (s.setMb f g).mb f = g (s.mb f) := by
  cases f with
  | pf0 p => exact congrArg PfInst.mb ((s.pf_setPf p p _).trans (if_pos rfl))
  | vf p n => exact congrArg VfInst.mb (s.vf_setVf p n _)
  | rtp => cases hf

/-- Changes of PF0 or VF instances that leave their mailboxes leave every mailbox. -/
theorem State.mb_setPf (s : State) (p : Nat) (g : PfInst → PfInst) (hg : ∀ i, (g i).mb = i.mb) (f : Fn) : (s.setPf p g).mb f = s.mb f := by
  cases f with
  | pf0 q =>
    show ((s.setPf p g).pf q).mb = (s.pf q).mb
    rw [State.pf_setPf]
    split
    next h => rw [hg, h]
    next => rfl
  | vf q n => rfl
  | rtp => rfl
theorem State.mb_setVf (s : State) (p n : Nat) (g : VfInst → VfInst) (hg : ∀ i, (g i).mb = i.mb) (f : Fn) : (s.setVf p n g).mb f = s.mb f := by
  cases f with
  | pf0 q => rfl
  | vf q k =>
    show (Tab.get VfInst.init (s.host.vf.upd VfInst.init (vfKey p n) g) (vfKey q k)).mb = (s.vf q k).mb
    rw [Tab.get_upd]
    split
    next h => rw [hg, State.vf, h]
    next => rfl
  | rtp => rfl

theorem Only.mb_eq {l : List Part} {s t : State} (h : Only l s t) (f : Fn) (hp : Part.pf ∉ l) (hv : Part.vf ∉ l) :
    t.mb f = s.mb f := by
  cases f with
  | pf0 p => exact congrArg (fun x => (Tab.get PfInst.init x p).mb) (h.pf_eq hp)
  | vf p n => exact congrArg (fun x => (Tab.get VfInst.init x (vfKey p n)).mb) (h.vf_eq hv)
  | rtp => rfl

@[simp] theorem State.mb_emit (s : State) (o : Out) (f : Fn) : (s.emit o).mb f = s.mb f := by cases f <;> rfl

@[simp] theorem State.mb_msiPf (s : State) (p : HostPort) (v : Nat) (f : Fn) : (s.msiPf p v).mb f = s.mb f := by
  unfold State.msiPf
  dsimp only
  split
  · rw [State.mb_emit, State.mb_setPf]
    exact fun _ => rfl
  · rw [State.mb_setPf]
    exact fun _ => rfl
@[simp] theorem State.mb_msiVf (s : State) (p : HostPort) (n : StallNo) (v : Nat) (f : Fn) : (s.msiVf p n v).mb f = s.mb f := by
  unfold State.msiVf
  dsimp only
  split
  · rw [State.mb_emit, State.mb_setVf]
    exact fun _ => rfl
  · rw [State.mb_setVf]
    exact fun _ => rfl
@[simp] theorem State.mb_pfCauseOn (s : State) (c : PfCause) (p : HostPort) (f : Fn) : (s.pfCauseOn c p).mb f = s.mb f := by
  unfold State.pfCauseOn
  dsimp only
  split
  · rw [State.mb_msiPf, State.mb_setPf]
    exact fun _ => rfl
  · rw [State.mb_setPf]
    exact fun _ => rfl
@[simp] theorem State.mb_vfCauseOn (s : State) (n : StallNo) (c : VfCause) (p : HostPort) (f : Fn) : (s.vfCauseOn n c p).mb f = s.mb f := by
  unfold State.vfCauseOn
  dsimp only
  split
  · rw [State.mb_msiVf, State.mb_setVf]
    exact fun _ => rfl
  · rw [State.mb_setVf]
    exact fun _ => rfl
@[simp] theorem State.mb_setStall (s : State) (n : Nat) (x : Stall) (f : Fn) : (s.setStall n x).mb f = s.mb f := by cases f <;> rfl
theorem State.mb_modStall (s : State) (n : Nat) (g : Stall → Stall) (f : Fn) : (s.modStall n g).mb f = s.mb f :=
  (State.modStall_only (Only.refl [.stalls] s) (List.Subset.refl _) n g).mb_eq f (by decide) (by decide)
theorem State.modStall_of_some {s : State} {n : Nat} {x : Stall} (h : s.stall? n = some x) (g : Stall → Stall) : s.modStall n g = s.setStall n (g x) := by
  unfold State.modStall
  rw [h]
/-- A request of a VF acts on the VF's own stall (R193). -/
theorem stallArg_of_vf {m : MbReq} {p : HostPort} {n : StallNo} (h : m.fn = .vf p n) (f : MbForm) : stallArg f (plain m) = n := by
  simp [stallArg, plain, h, fnStall]

/-! GO (R190). -/

/-- A mailbox whose request waits for its answer. -/
def State.awaits (s : State) (m : MbReq) (op : Nat) : Prop :=
  hostFn m.fn = true ∧ (s.mb m.fn).busy = true ∧ (reqBytes (plain m) op).isPrefixOf (s.mb m.fn).request = true

theorem State.awaits_of_mb_eq {s t : State} {m : MbReq} {op : Nat} (h : s.awaits m op) (hmb : t.mb m.fn = s.mb m.fn) : t.awaits m op := by
  unfold State.awaits at *
  rw [hmb]
  exact h

theorem State.mbGo_keeps (s : State) (m : Req) (op : Nat) : Only [.gtb, .pf, .vf, .out, .power, .side] s (s.mbGo m op).1 :=
  State.mbGo_only (Only.refl _ s) (List.Subset.refl _) m op
theorem State.mbAnswer_keeps (s : State) (m : Req) (op : Nat) (a : Answer) : Only [.pf, .vf, .history, .out] s (s.mbAnswer m op a) :=
  State.mbAnswer_only (Only.refl _ s) (List.Subset.refl _) m op a

/-- Only the last of three outcomes is marked. -/
theorem fst_of_snd {α : Type} {c d : Bool} {x y z : α}
    (h : (if c then (x, false) else if d then (y, false) else (z, true)).2 = true) :
    (if c then (x, false) else if d then (y, false) else (z, true)).1 = z := by
  cases c with
  | true => cases h
  | false =>
    cases d with
    | true => cases h
    | false => rfl

/-- What a GO that is taken leaves: the request in the buffer, BUSY set. -/
theorem State.mbGo_of_taken {s : State} {m : MbReq} {op : Nat} (h : (s.mbGo (plain m) op).2 = true) :
    (s.mbGo (plain m) op).1 = s.barWrite.setMb m.fn (fun b => { b with
      busy := true, lastTag := m.tag, response := [], request := reqBytes (plain m) op ++ b.request.drop (reqBytes (plain m) op).length }) := by
  exact fst_of_snd h

theorem State.mbGo_awaits {s : State} {m : MbReq} {op : Nat} (hf : hostFn m.fn = true) (h : (s.mbGo (plain m) op).2 = true) :
    (s.mbGo (plain m) op).1.awaits m op := by
  unfold State.awaits
  rw [State.mbGo_of_taken h, State.mb_setMb _ hf]
  refine ⟨hf, rfl, ?_⟩
  rw [List.isPrefixOf_iff_prefix]
  exact List.prefix_append _ _

/-- A GO while BUSY or DONE is set leaves OVERRUN. -/
theorem State.mbGo_overrun {s : State} {m : MbReq} {op : Nat} (hf : hostFn m.fn = true) (hset : ((s.mb m.fn).busy || (s.mb m.fn).done) = true)
    (hpower : s.power.powerGood = true) (htherm : s.power.thermStop = false) (hserved : s.fnServed m.fn = true)
    (hlive : (match m.fn with | .vf _ n => (s.stall? n).isSome | .pf0 _ => true | .rtp => false) = true) :
    (s.mbGo (plain m) op).1.mb m.fn = { s.mb m.fn with overrun := true } := by
  have hgo : (s.mbGo (plain m) op).1 = s.setMb m.fn (fun b => { b with overrun := true }) := by
    unfold State.mbGo
    cases hfn : m.fn with
    | rtp => rw [hfn] at hf; cases hf
    | pf0 p =>
      rw [hfn] at hset hserved
      simp [plain, hfn, fnStall, hpower, htherm, hserved, hset]
    | vf p n =>
      rw [hfn] at hset hserved hlive
      simp [plain, hfn, fnStall, hpower, htherm, hserved, hset, hlive]
  rw [hgo, State.mb_setMb _ hf]

/-! Answers (R190–R192). -/

/-- A request that waits in its mailbox gets its answer there. -/
theorem State.mbAnswer_answered {s : State} {m : MbReq} {op : Nat} (h : s.awaits m op) (a : Answer) : (s.mbAnswer (plain m) op a).answered m op a := by
  obtain ⟨hf, hbusy, hreq⟩ := h
  let r : RespHdr := RespHdr.mk (BitVec.ofNat 16 op) m.tag a.payload.length a.result a.detail
  have hmb : (s.mbAnswer (plain m) op a).mb m.fn = { s.mb m.fn with busy := false, done := true, response := r.bytes ++ a.payload } := by
    obtain ⟨u, hu, heq⟩ : ∃ u : State, (∀ f, u.mb f = s.mb f) ∧ s.mbAnswer (plain m) op a =
        (if !(u.mb m.fn).busy || !(reqBytes (plain m) op).isPrefixOf (u.mb m.fn).request then u
        else
          let v := u.setMb m.fn (fun b => { b with busy := false, done := true, response := r.bytes ++ a.payload })
          match m.fn with
          | .pf0 p => v.pfCauseOn .mailbox p
          | .vf p n => v.vfCauseOn n .mailbox p
          | .rtp => v) := ⟨_, fun f => by cases f <;> rfl, rfl⟩
    rw [heq, hu, hbusy, hreq]
    have hset := u.mb_setMb hf (fun b => { b with busy := false, done := true, response := r.bytes ++ a.payload })
    rw [hu] at hset
    dsimp only [Bool.not_true, Bool.or_self, Bool.false_eq_true, if_false]
    cases hfn : m.fn with
    | pf0 p => rw [hfn] at hset; exact (State.mb_pfCauseOn _ _ _ _).trans hset
    | vf p n => rw [hfn] at hset; exact (State.mb_vfCauseOn _ _ _ _ _).trans hset
    | rtp => rw [hfn] at hf; cases hf
  unfold State.answered
  rw [hmb]
  exact ⟨rfl, rfl, rfl⟩

/-! What GO and an answer leave alone. -/

@[simp] theorem State.mbGo_pkg (s : State) (m : Req) (op : Nat) : (s.mbGo m op).1.pkg = s.pkg := (s.mbGo_keeps m op).pkg_eq (by decide)
@[simp] theorem State.mbGo_yard (s : State) (m : Req) (op : Nat) : (s.mbGo m op).1.yard = s.yard := (s.mbGo_keeps m op).yard_eq (by decide)
@[simp] theorem State.mbGo_stalls (s : State) (m : Req) (op : Nat) : (s.mbGo m op).1.stalls = s.stalls := (s.mbGo_keeps m op).stalls_eq (by decide)
@[simp] theorem State.mbGo_prot (s : State) (m : Req) (op : Nat) : (s.mbGo m op).1.prot = s.prot := (s.mbGo_keeps m op).prot_eq (by decide)
@[simp] theorem State.mbGo_acct (s : State) (m : Req) (op : Nat) : (s.mbGo m op).1.acct = s.acct := (s.mbGo_keeps m op).acct_eq (by decide)
@[simp] theorem State.mbGo_free (s : State) (m : Req) (op : Nat) : (s.mbGo m op).1.free = s.free := (s.mbGo_keeps m op).free_eq (by decide)
@[simp] theorem State.mbGo_history (s : State) (m : Req) (op : Nat) : (s.mbGo m op).1.host.history = s.host.history := (s.mbGo_keeps m op).history_eq (by decide)
@[simp] theorem State.mbGo_stall? (s : State) (m : Req) (op n : Nat) : (s.mbGo m op).1.stall? n = s.stall? n := (s.mbGo_keeps m op).stall?_eq n (by decide)
@[simp] theorem State.mbGo_now (s : State) (m : Req) (op : Nat) : (s.mbGo m op).1.now = s.now := by
  have hset : ∀ (u : State) (f : Fn) (g : Mailbox → Mailbox), (u.setMb f g).now = u.now := fun u f g => by cases f <;> rfl
  unfold State.mbGo
  dsimp only
  split_ifs <;> simp only [hset, State.barWrite_now]
@[simp] theorem State.mbAnswer_stalls (s : State) (m : Req) (op : Nat) (a : Answer) : (s.mbAnswer m op a).stalls = s.stalls := (s.mbAnswer_keeps m op a).stalls_eq (by decide)
@[simp] theorem State.mbAnswer_acct (s : State) (m : Req) (op : Nat) (a : Answer) : (s.mbAnswer m op a).acct = s.acct := (s.mbAnswer_keeps m op a).acct_eq (by decide)
@[simp] theorem State.mbAnswer_free (s : State) (m : Req) (op : Nat) (a : Answer) : (s.mbAnswer m op a).free = s.free := (s.mbAnswer_keeps m op a).free_eq (by decide)
@[simp] theorem State.mbAnswer_stall? (s : State) (m : Req) (op n : Nat) (a : Answer) : (s.mbAnswer m op a).stall? n = s.stall? n :=
  (s.mbAnswer_keeps m op a).stall?_eq n (by decide)

theorem State.mbAnswer_setStall (s : State) (n : Nat) (x : Stall) (m : Req) (op : Nat) (a : Answer) :
    ((s.setStall n x).mbAnswer m op a).stall? n = some x := by
  rw [State.mbAnswer_stall?, State.stall?_setStall, if_pos rfl]
theorem State.mbAnswer_setStall_answered {s : State} {m : MbReq} {op : Nat} (h : s.awaits m op) (n : Nat) (x : Stall) (a : Answer) :
    ((s.setStall n x).mbAnswer (plain m) op a).answered m op a :=
  State.mbAnswer_answered (State.awaits_of_mb_eq h (State.mb_setStall _ _ _ _)) a

/-! A request as a whole (R190, R593). -/

/-- The checks read nothing that GO changes. -/
theorem State.mbCheck_mbGo (s : State) (m : Req) (op : Nat) (f : MbForm) (r : Req) : (s.mbGo m op).1.mbCheck f r = s.mbCheck f r := by
  unfold State.mbCheck State.isoOf
  simp only [State.mbGo_stall?, State.mbGo_prot]

/-- A request that GO takes and a check refuses comes to that refusal. -/
theorem State.mbServe_of_refused {s : State} {f : MbForm} {m : Req} {a : Answer} (hgo : (s.mbGo m f.op).2 = true) (hcheck : s.mbCheck f m = some a)
    (body : State → State) : s.mbServe f m body = (s.mbGo m f.op).1.mbAnswer m f.op a := by
  unfold State.mbServe
  simp only [hgo, Bool.not_true, Bool.false_eq_true, if_false, State.mbCheck_mbGo, hcheck]
/-- A GO that is not taken is all there is to the request. -/
theorem State.mbServe_of_not_taken {s : State} {f : MbForm} {m : Req} (hgo : (s.mbGo m f.op).2 = false) (body : State → State) :
    s.mbServe f m body = (s.mbGo m f.op).1 := by
  unfold State.mbServe
  simp only [hgo, Bool.not_false, if_true]
/-- A request whose checks pass comes to its own body. -/
theorem State.mbServe_of_takes {s : State} {f : MbForm} {m : MbReq} (h : s.mbTakes f m = true) (body : State → State) :
    s.mbServe f (plain m) body = body (s.mbGo (plain m) f.op).1 := by
  unfold State.mbTakes at h
  rw [Bool.and_eq_true, Option.isNone_iff_eq_none] at h
  obtain ⟨hgo, hcheck⟩ := h
  unfold State.mbServe
  simp only [hgo, Bool.not_true, Bool.false_eq_true, if_false, State.mbCheck_mbGo, hcheck]

/-- Only a function of the host's passes the first check. -/
theorem State.hostFn_of_mbTakes {s : State} {f : MbForm} {m : MbReq} (h : s.mbTakes f m = true) : hostFn m.fn = true := by
  unfold State.mbTakes at h
  rw [Bool.and_eq_true, Option.isNone_iff_eq_none] at h
  cases hfn : m.fn with
  | rtp => simp [State.mbCheck, plain, hfn, fnIsPf, fnIsVf] at h
  | pf0 p => rfl
  | vf p n => rfl

theorem State.awaits_of_mbTakes {s : State} {f : MbForm} {m : MbReq} (h : s.mbTakes f m = true) : (s.mbGo (plain m) f.op).1.awaits m f.op :=
  State.mbGo_awaits (State.hostFn_of_mbTakes h) (Bool.and_elim_left h)

/-- A request that answers at once: what its body comes to is the answer. -/
theorem State.mbServeA_of_takes {s : State} {f : MbForm} {m : MbReq} (h : s.mbTakes f m = true) (body : State → Answer × State) :
    s.mbServeA f (plain m) body =
      (body (s.mbGo (plain m) f.op).1).2.mbAnswer (plain m) f.op (body (s.mbGo (plain m) f.op).1).1 :=
  State.mbServe_of_takes h _
theorem State.mbServeA_answered {s : State} {f : MbForm} {m : MbReq} (h : s.mbTakes f m = true) {body : State → Answer × State} {a : Answer}
    (ha : (body (s.mbGo (plain m) f.op).1).1 = a) (hmb : (body (s.mbGo (plain m) f.op).1).2.mb m.fn = (s.mbGo (plain m) f.op).1.mb m.fn) :
    (s.mbServeA f (plain m) body).answered m f.op a := by
  rw [State.mbServeA_of_takes h, ha]
  exact State.mbAnswer_answered (State.awaits_of_mb_eq (State.awaits_of_mbTakes h) hmb) a

end Sys2Proof.Machine
end


section
set_option Elab.async false
/-! SUPPORT. What every mailbox request comes to before its own body (R190, R593). -/

open Sys2Proof Sys2Proof.Machine

namespace Sys2Proof.Machine

/-- Settles O17: each of these commands is `State.mbServe` on its form, so a failed check or a GO that is not taken decides it. -/
theorem mailboxChecks : Obligations.MailboxChecks := by
  unfold Obligations.MailboxChecks
  intro s m c f hmem hf
  have hserve : ∃ body, exec c s = .next (s.mbServe f (plain m) body) := by
    simp only [List.mem_cons, Prod.mk.injEq, List.not_mem_nil, or_false] at hmem
    casesm* _ ∨ _
    all_goals
      obtain ⟨rfl, rfl⟩ := hmem
      dsimp only [exec, execVersion, execResultQuery, execManifestReq, execPlanSubmit, execPlanCancel, execChangeForce, execChangeReport,
        execEnrol, execRotate, execCtxKill, execCtxDestroy, execXlatInval, execMemStats, execSrndSeed, execSchedSet, execSchedStat,
        execMemClear, execQueueDestroy, execQueueRebind, execDrvLoad, execDrvUnload, execDrvStat, execRemoteExport, execGroupSet,
        execGroupClear, execSecChallenge, execDebugLock, execAttestLog, version, resultQuery, manifestReq, planSubmit, planCancel,
        changeForce, changeReport, enrol, rotate, ctxKill, ctxDestroy, xlatInval, memStats, srndSeed, schedSet, schedStat, memClear,
        queueDestroy, queueRebind, drvLoad, drvUnload, drvStat, remoteExport, groupSet, groupClear, secChallenge, debugLock, attestLog,
        State.ask, State.mbServeA]
      exact ⟨_, rfl⟩
  obtain ⟨body, hexec⟩ := hserve
  refine ⟨fun a hgo hcheck => ⟨_, hexec, ?_⟩, fun hgo hset hpower htherm hserved hlive => ⟨_, hexec, ?_⟩⟩
  · rw [State.mbServe_of_refused hgo hcheck]
    exact State.mbAnswer_answered (State.mbGo_awaits hf hgo) a
  · beta_reduce
    rw [State.mbServe_of_not_taken hgo]
    exact State.mbGo_overrun hf hset hpower htherm hserved hlive

end Sys2Proof.Machine
end


section
set_option Elab.async false
/-! SUPPORT. Requests that answer with what the part holds (R99, R193–R195). -/

open Sys2Proof Sys2Proof.Machine

namespace Sys2Proof.Machine

/-- The head of a manifest reads the package and the stalls alone. -/
theorem State.manifestHead_congr {s t : State} (hp : t.pkg = s.pkg) (hs : t.stalls = s.stalls) (n : Nat) (x : Stall) (issued : Nat) (nonce : List Byte) :
    t.manifestHead n x issued nonce = s.manifestHead n x issued nonce := by
  unfold State.manifestHead State.manFlags
  rw [hp, hs]

/-- Settles O16: the bodies read what GO leaves alone, and their answers follow. -/
theorem mailboxQueries : Obligations.MailboxQueries := by
  unfold Obligations.MailboxQueries
  refine ⟨fun s m h => ⟨_, rfl, ?_⟩, fun s m h => ⟨_, rfl, ?_⟩, fun s m p n x hfn hx hpend h => ⟨_, rfl, ?_⟩, fun s m hepoch h => ⟨_, rfl, ?_⟩⟩
  · exact State.mbServeA_answered h rfl rfl
  · have hpayload : (plain m).payload = m.payload := rfl
    refine State.mbServeA_answered h ?_ ?_ <;> simp only [State.mbGo_history, hpayload]
    all_goals
      generalize List.find? _ _ = found
      cases found <;> rfl
  · have hn : stallArg manifestForm (plain m) = n := stallArg_of_vf hfn _
    have hbody : manifestReq (plain m) s = (s.mbGo (plain m) manifestForm.op).1.signed.mbAnswer (plain m) 0x0020
        (okWith (withSignature (s.manifestHead n x s.now (slice m.payload 8 32)) s.free)) := by
      unfold manifestReq
      dsimp only
      rw [State.mbServe_of_takes h, hn, State.mbGo_stall?, hx]
      dsimp only
      rw [if_neg (by simp [hpend]), State.answerManifest, State.mbGo_stall?, hx, State.mbGo_now, State.mbGo_free]
      dsimp only
      rw [State.manifestHead_congr (s.mbGo_pkg _ _) (s.mbGo_stalls _ _)]
      rfl
    beta_reduce
    rw [hbody, State.mbAnswer_free]
    refine ⟨State.mbAnswer_answered (State.awaits_of_mb_eq (State.awaits_of_mbTakes h) ?_) _, ?_⟩
    · exact (State.signed_only (Only.refl [.free] _) (List.Subset.refl _)).mb_eq _ (by decide) (by decide)
    · exact congrArg (· + 1) (s.mbGo_free _ _)
  · refine State.mbServeA_answered h ?_ ?_ <;> rw [State.mbGo_yard, if_neg hepoch]
    rfl

end Sys2Proof.Machine
end


section
set_option Elab.async false
/-! SUPPORT. Requests on contexts and on what a stall's memory counts (R256, R264–R270, R280). -/

open Sys2Proof Sys2Proof.Machine

namespace Sys2Proof.Machine

theorem Stall.ctx?_put (t : Stall) (k j : Nat) (v : Option Ctx) :
    ({ t with ctxs := t.ctxs.put k v } : Stall).ctx? j = if j = k then v else t.ctx? j := Tab.find?_put _ _ _ _
theorem Stall.ctx?_erase (t : Stall) (k j : Nat) :
    ({ t with ctxs := t.ctxs.erase k } : Stall).ctx? j = if j = k then none else t.ctx? j := Tab.find?_erase _ _ _

/-- What a change of every entry that keeps the keys makes of a number's entry. -/
theorem Tab.find?_map {α : Type} (t : Tab α) (g : Nat → α → α) (k : Nat) :
    Tab.find? (t.map (fun e => (e.1, g e.1 e.2))) k = (Tab.find? t k).map (g k) := by
  induction t with
  | nil => rfl
  | cons a t ih =>
    obtain ⟨j, v⟩ := a
    simp only [List.map_cons, Tab.find?, ih]
    split
    next h => rw [h]; rfl
    next => rfl

/-- Context `c` after an invalidation that names context `named`, or every one (R270). -/
def Ctx.afterInval (x : Ctx) (named c : Nat) : Ctx := if named = 0xFF ∨ c = named then { x with tlb := [] } else x

/-- CTX_CREATE reads the limit of the stall it comes from, which GO leaves alone (R264). -/
theorem ctxCreate_eq {s : State} {m : MbReq} {p : HostPort} {n : StallNo} {x : Stall} (hfn : m.fn = .vf p n) (hx : s.stall? n = some x)
    (h : s.mbTakes (ctxCreateForm x.hold.ctxMax) m = true) :
    (∀ d, x.ctxRefusal m.payload = some d → ctxCreate (plain m) s = (s.mbGo (plain m) 0x0032).1.mbAnswer (plain m) 0x0032 (refuse d)) ∧
    (x.ctxRefusal m.payload = none → ctxCreate (plain m) s =
      ((s.mbGo (plain m) 0x0032).1.setStall n { x with ctxs := x.ctxs.put (f8 m.payload 0) (some
          { key := if f8 m.payload 1 = 0xFF then none else some (f8 m.payload 1), root := f64 m.payload 8, faultRec := f64 m.payload 16
            seq := 0, faults := 0, multiHit := 0, conflicts := 0, killing := false, pauseReq := false, rotReq := none, sliceReq := none
            stopped := false, tlb := [] }) }).mbAnswer (plain m) 0x0032 ok) := by
  have hpayload : (plain m).payload = m.payload := rfl
  have hmax : ((fnStall (plain m).fn).elim 0 (fun n => ((s.stall? n).map (fun t => t.hold.ctxMax)).getD 0)) = x.hold.ctxMax := by
    simp [plain, hfn, fnStall, hx]
  unfold ctxCreate
  rw [hmax]
  dsimp only
  rw [State.mbServeA_of_takes h, State.mbGo_stall?, stallArg_of_vf hfn, hx, hpayload]
  dsimp only
  cases x.ctxRefusal m.payload with
  | none => exact ⟨nofun, fun _ => rfl⟩
  | some d => exact ⟨fun e he => by cases he; rfl, nofun⟩

/-- Settles O20: each request's own body on what GO left. -/
theorem contextRequests : Obligations.ContextRequests := by
  unfold Obligations.ContextRequests
  refine ⟨fun s m p n x hfn hx h => ⟨fun hok => ⟨_, rfl, ?_⟩, fun d hd => ⟨_, rfl, ?_⟩⟩, fun s m p n x hfn hx h hctx hqueues hkills => ⟨_, rfl, ?_⟩,
    fun s m p n x hfn hx h => ⟨_, rfl, ?_⟩, fun s n x r l hx hl => ⟨_, rfl, ?_⟩, fun s m x h hx => ⟨_, rfl, ?_⟩, fun s m p n x hfn hx h => ⟨_, rfl, ?_⟩⟩
  · rw [(ctxCreate_eq hfn hx h).2 hok]
    refine ⟨State.mbAnswer_setStall_answered (State.awaits_of_mbTakes h) _ _ _, _, State.mbAnswer_setStall _ _ _ _ _ _, ?_, ?_⟩
    · rw [Stall.ctx?_put, if_pos rfl]
    · intro c hc
      rw [Stall.ctx?_put, if_neg hc]
  · rw [(ctxCreate_eq hfn hx h).1 d hd]
    refine ⟨State.mbAnswer_answered (State.awaits_of_mbTakes h) _, ?_⟩
    rw [State.mbAnswer_stall?, State.mbGo_stall?, hx]
  · have hbody : ctxDestroy (plain m) s =
        ((s.mbGo (plain m) 0x0033).1.setStall n { x with ctxs := x.ctxs.erase (f8 m.payload 0) }).mbAnswer (plain m) 0x0033 ok := by
      have hpayload : (plain m).payload = m.payload := rfl
      unfold ctxDestroy
      dsimp only
      rw [State.mbServeA_of_takes h, State.mbGo_stall?, stallArg_of_vf hfn, hx]
      simp [hpayload, hqueues, hkills, Option.isSome_iff_ne_none.mp hctx]
      rfl
    rw [hbody]
    refine ⟨State.mbAnswer_setStall_answered (State.awaits_of_mbTakes h) _ _ _, _, State.mbAnswer_setStall _ _ _ _ _ _, ?_, ?_, rfl⟩
    · rw [Stall.ctx?_erase, if_pos rfl]
    · intro c hc
      rw [Stall.ctx?_erase, if_neg hc]
  · have hbody : xlatInval (plain m) s = (s.mbGo (plain m) 0x0035).1.setStall n { x with invals := x.invals ++ [plain m] } := by
      unfold xlatInval
      dsimp only
      rw [State.mbServe_of_takes h, stallArg_of_vf hfn]
      exact State.modStall_of_some ((s.mbGo_stall? _ _ _).trans hx) _
    rw [hbody]
    beta_reduce
    rw [State.stall?_setStall, if_pos rfl, State.mb_setStall]
    exact ⟨rfl, (State.awaits_of_mbTakes h).2.1⟩
  · have hdone : xlatInvalDone n s = (s.setStall n { x with invals := l, ctxs := x.ctxs.map (fun e => (e.1, e.2.afterInval (f8 r.payload 0) e.1)) }).mbAnswer
        r 0x0035 ok := by
      unfold xlatInvalDone
      rw [hx]
      dsimp only
      rw [hl]
      dsimp only
      congr 4
      funext e
      simp only [Ctx.afterInval, Bool.or_eq_true, decide_eq_true_eq]
      split_ifs <;> rfl
    rw [hdone]
    refine ⟨_, State.mbAnswer_setStall _ _ _ _ _ _, rfl, fun c z hz hnamed => ?_⟩
    unfold Stall.ctx? at hz
    rw [Tab.find?_map x.ctxs (fun k v => v.afterInval (f8 r.payload 0) k), Option.map_eq_some_iff] at hz
    obtain ⟨w, -, rfl⟩ := hz
    have hc : f8 r.payload 0 = 0xFF ∨ c = f8 r.payload 0 := hnamed.imp_right Eq.symm
    simp [Ctx.afterInval, hc]
  · refine State.mbServeA_answered h ?_ ?_ <;> rw [State.mbGo_stall?, hx]
  · have hbody : srndSeed (plain m) s = ((s.mbGo (plain m) 0x0034).1.setStall n
        { x with seed := BitVec.ofNat 64 (f64 m.payload 0) }).mbAnswer (plain m) 0x0034 (okWith (leBytes 8 x.seed.toNat)) := by
      unfold srndSeed
      dsimp only
      rw [State.mbServeA_of_takes h, State.mbGo_stall?, stallArg_of_vf hfn, hx]
      rfl
    rw [hbody]
    exact ⟨State.mbAnswer_setStall_answered (State.awaits_of_mbTakes h) _ _ _, State.mbAnswer_setStall _ _ _ _ _ _⟩

end Sys2Proof.Machine
end


section
set_option Elab.async false
/-! SUPPORT. Lines of HBM: a write and a read inside one line (R408, R411–R414). -/

open Sys2Proof Sys2Proof.Machine

namespace Sys2Proof.Machine

/-- Is a line's poison bit set after it has been put. -/
theorem setPoison_contains_self (l : Nat) (p : Bool) (ps : List Nat) : (setPoison l p ps).contains l = p := by
  unfold setPoison
  cases p <;> simp

theorem Memory.readN_writeL (m : Memory) (a : Nat) (bs : List Byte) : (m.writeL a bs).readN a bs.length = bs := by
  apply List.ext_getElem
  · simp [Memory.readN]
  · intro i hi hbs
    simp [Memory.readN, Memory.read_writeL, hbs]

/-- Does a line belong to another slot. -/
def State.foreignLine (s : State) (a slot : Nat) : Bool := (s.lineSlot.find? (lineOf a)).any (fun k => k ≠ slot)

/-- A whole line is good; a part of one leaves it as bad as it was, and bad where it was another slot's (R413, R414). -/
theorem State.lineWrite_poison (s : State) (a slot : Nat) (bs : List Byte) :
    (s.lineWrite a slot bs false).poison.contains (lineOf a) = (!(decide (a % 64 = 0) && decide (bs.length = 64)) && (s.foreignLine a slot || s.poison.contains (lineOf a))) := by
  have hbad : (s.lineWrite a slot bs false).poison = setPoison (lineOf a)
      (!(decide (a % 64 = 0) && decide (bs.length = 64)) && (s.foreignLine a slot || s.poison.contains (lineOf a))) s.poison := by
    unfold State.lineWrite State.foreignLine
    dsimp only
    cases s.lineSlot.find? (lineOf a) <;> split_ifs <;> rfl
  rw [hbad, setPoison_contains_self]
theorem State.lineWrite_lineSlot (s : State) (a slot : Nat) (bs : List Byte) (p : Bool) :
    (s.lineWrite a slot bs p).lineSlot.find? (lineOf a) = some slot := by
  unfold State.lineWrite
  dsimp only
  split_ifs <;> exact (Tab.find?_put _ _ _ _).trans (if_pos rfl)
theorem State.lineWrite_hbm (s : State) (a slot : Nat) (bs : List Byte) (p : Bool) : (s.lineWrite a slot bs p).hbm = s.hbm.writeL a bs := by
  unfold State.lineWrite
  dsimp only
  split_ifs <;> rfl

/-- A read of the line just written, under the slot it was written under. -/
theorem State.lineRead_lineWrite (s : State) (a slot n : Nat) (bs : List Byte) :
    ((s.lineWrite a slot bs false).lineRead a n slot).1 = (if (s.lineWrite a slot bs false).poison.contains (lineOf a) then zeros n else (s.hbm.writeL a bs).readN a n) ∧
    ((s.lineWrite a slot bs false).lineRead a n slot).2.1 = (s.lineWrite a slot bs false).poison.contains (lineOf a) := by
  unfold State.lineRead
  dsimp only
  rw [State.lineWrite_lineSlot, State.lineWrite_hbm]
  simp only [Option.any_some, ne_eq, not_true_eq_false, decide_false, Bool.false_eq_true, if_false]
  split_ifs with h
  · exact ⟨rfl, h.symm⟩
  · exact ⟨rfl, (Bool.eq_false_iff.mpr h).symm⟩

/-- Settles O23. -/
theorem memoryLines : Obligations.MemoryLines := by
  unfold Obligations.MemoryLines
  refine ⟨fun s a slot bs hfits hne hgood => ?_, fun s a slot bs p b hout => ?_, fun s a n slot k hk hforeign => ?_,
    fun s a slot k n bs hk hforeign hpart => ?_⟩
  · have hgood : (s.lineWrite a slot bs false).poison.contains (lineOf a) = false := by
      rw [State.lineWrite_poison]
      rcases hgood with ⟨hslot, hpoison⟩ | ⟨hstart, hlen⟩
      · have hown : s.foreignLine a slot = false := by
          rcases hslot with h | h <;> simp [State.foreignLine, h]
        simp [hown, hpoison]
      · simp [hstart, hlen]
    rw [(s.lineRead_lineWrite a slot _ bs).1, (s.lineRead_lineWrite a slot _ bs).2, hgood]
    exact ⟨Memory.readN_writeL _ _ _, rfl⟩
  · rw [State.lineWrite_hbm, Memory.read_writeL, if_neg hout]
  · have hany : (s.lineSlot.find? (lineOf a)).any (fun k => decide (k ≠ slot)) = true := by simp [hk, hforeign]
    unfold State.lineRead
    dsimp only
    rw [if_pos hany]
    exact ⟨rfl, rfl, rfl⟩
  · have hbad : (s.lineWrite a slot bs false).poison.contains (lineOf a) = true := by
      rw [State.lineWrite_poison]
      rcases hpart with h | h <;> simp [State.foreignLine, hk, hforeign, h]
    rw [(s.lineRead_lineWrite a slot _ bs).1, (s.lineRead_lineWrite a slot _ bs).2, hbad]
    exact ⟨rfl, rfl⟩

end Sys2Proof.Machine
end


section
set_option Elab.async false
/-! SUPPORT. A transfer's run of moves (R278, R299). -/

open Sys2Proof Sys2Proof.Machine

namespace Sys2Proof.Machine

/-- What a run of moves that begins at byte `u` comes to: it moves on, within its bound, all the way where nothing stops it, and
ends FAULTED_PARTIAL where something does. -/
def MovesWithin (fin fuel u : Nat) (m r : Moved) : Prop :=
  u ≤ r.done ∧ r.done ≤ fin ∧ (r.halted = false → fin ≤ u + fuel → r.done = fin) ∧ (m.halted = false → r.halted = true → stPartial = r.status.1)

/-- What stops a transfer makes it FAULTED_PARTIAL (R278). -/
theorem addMet_of_isStop {w : Met} (h : w.isStop = true) (wr : Bool) (st : Byte × Byte) : (addMet wr st w).1 = stPartial := by
  unfold addMet
  split
  next hstopped => exact hstopped
  next =>
    cases w with
    | stops d => rfl
    | _ => cases h

theorem moveRun_movesWithin (src : Source) (dst : Dest) (fin fuel : Nat) :
    ∀ (u : Nat) (m : Moved) (s : State), u ≤ fin → m.done = u → MovesWithin fin fuel u m (moveRun src dst fin fuel u m s).1 := by
  induction fuel with
  | zero =>
    intro u m s hu hdone
    unfold moveRun MovesWithin
    exact ⟨hdone.ge, hdone ▸ hu, fun _ hall => hdone.trans (by omega), fun hgo hstop => absurd hstop (by simp [hgo])⟩
  | succ fuel ih =>
    intro u m s hu hdone
    unfold moveRun
    split
    next hend =>
      rw [Bool.or_eq_true, decide_eq_true_eq] at hend
      refine ⟨hdone.ge, hdone ▸ hu, fun hgo _ => ?_, fun hgo hstop => absurd hstop (by simp [hgo])⟩
      rcases hend with hfull | hstopped
      · exact hdone.trans (hu.antisymm hfull)
      · exact absurd hstopped (by simpa using hgo)
    next hmore =>
      rw [Bool.or_eq_true, decide_eq_true_eq, not_or] at hmore
      obtain ⟨hleft, hgo⟩ := hmore
      dsimp only
      split_ifs with hread hwrite
      · exact ⟨hdone.ge, hdone ▸ hu, nofun, fun _ _ => (addMet_of_isStop hread _ _).symm⟩
      · exact ⟨hdone.ge, hdone ▸ hu, nofun, fun _ _ => (addMet_of_isStop hwrite _ _).symm⟩
      · generalize hn : max 1 (min (min (src.room u) (dst.room u)) (fin - u)) = n
        generalize src.read u n s = r at *
        have hstep := ih (u + n) { m with done := u + n, status := addMet true (addMet false m.status r.2.1) (dst.write u r.1 (r.2.1 ≠ .ok) r.2.2).1,
                                          data := m.data ++ r.1 } (dst.write u r.1 (r.2.1 ≠ .ok) r.2.2).2 (by omega) rfl
        obtain ⟨hlo, hhi, hall, hpartial⟩ := hstep
        exact ⟨by omega, hhi, fun hg hf => hall hg (by omega), hpartial⟩

/-- Settles O25. -/
theorem transfersStayInTheirChunk : Obligations.TransfersStayInTheirChunk := by
  unfold Obligations.TransfersStayInTheirChunk
  exact fun src dst fin fuel u m s hu hdone => moveRun_movesWithin src dst fin fuel u m s hu hdone

end Sys2Proof.Machine
end


section
set_option Elab.async false
/-! SUPPORT. The commands of a queue: what a change of one entry leaves and makes, the start of a command and its end (R226, R227). -/

open Sys2Proof Sys2Proof.Machine

namespace Sys2Proof.Machine

/-- What every pass keeps, the whole run of passes keeps. -/
theorem forAll_keeps {σ α : Type} {P : σ → Prop} (l : List α) {f : α → σ → σ} (hf : ∀ a ∈ l, ∀ t, P t → P (f a t)) {s : σ} (hs : P s) :
    P (forAll l f s) := by
  induction l generalizing s with
  | nil => exact hs
  | cons a l ih => exact ih (fun b hb => hf b (List.mem_cons_of_mem _ hb)) (hf a List.mem_cons_self s hs)

/-! Queues and their entries. -/

theorem Stall.queue?_modQueue (t : Stall) (k j : Nat) (f : Queue → Queue) :
    (t.modQueue k f).queue? j = if j = k then (t.queue? k).map f else t.queue? j := by
  unfold Stall.modQueue
  cases h : t.queue? k with
  | none =>
    dsimp only
    split
    next hj => rw [hj, h]; rfl
    next => rfl
  | some q => exact Tab.find?_put t.queues k j (some (f q))

theorem State.stall?_modStall (s : State) (n j : Nat) (f : Stall → Stall) :
    (s.modStall n f).stall? j = if j = n then (s.stall? n).map f else s.stall? j := by
  unfold State.modStall
  cases h : s.stall? n with
  | none =>
    dsimp only
    split
    next hj => rw [hj, h]; rfl
    next => rfl
  | some t => exact State.stall?_setStall _ _ _ _

/-- A stall's queue is that of what its number names. -/
theorem State.queue?_eq (s : State) (n k : Nat) : s.queue? n k = (s.stall? n).bind (·.queue? k) := by
  unfold State.queue?
  cases s.stall? n <;> rfl

theorem State.queue?_modQueue_same (s : State) (n k : Nat) (f : Queue → Queue) : (s.modQueue n k f).queue? n k = (s.queue? n k).map f := by
  rw [State.queue?_eq, State.queue?_eq, State.modQueue, State.stall?_modStall, if_pos rfl]
  cases s.stall? n with
  | none => rfl
  | some t => exact (t.queue?_modQueue k k f).trans (if_pos rfl)

theorem Only.queue?_eq {l : List Part} {s t : State} (h : Only l s t) (n k : Nat) (hp : Part.stalls ∉ l) : t.queue? n k = s.queue? n k := by
  rw [State.queue?_eq, State.queue?_eq, h.stall?_eq n hp]

theorem Queue.entry?_modEntry (x : Queue) (pos : U32) {f : Entry → Entry} (hf : ∀ e, e.pos = pos → (f e).pos = pos) :
    (x.modEntry pos f).entry? pos = (x.entry? pos).map f := by
  unfold Queue.entry? Queue.modEntry
  dsimp only
  induction x.entries with
  | nil => rfl
  | cons a l ih =>
    rw [List.map_cons, List.find?_cons, List.find?_cons]
    by_cases ha : a.pos = pos
    · simp [ha, hf a ha]
    · simp only [ha, if_false, decide_false]
      exact ih

/-! The end of a command's work (R227). -/

@[simp] theorem Entry.finish_pos (e : Entry) (st d : Byte) (v : U64) : (e.finish st d v).pos = e.pos := by
  unfold Entry.finish
  split <;> rfl

/-! The start of a command (R226). -/

end Sys2Proof.Machine
end


section
set_option Elab.async false
/-! SUPPORT. Gates as a command's GATE_ARM finds and leaves them: what a gate that is armed keeps (R54, R224). -/

open Sys2Proof Sys2Proof.Machine

namespace Sys2Proof.Machine

/-! The only command at a position: what no change at another position, and no gate's firing, touches. -/

/-! A gate's registers: what arming, waking and firing leave. -/

/-- A gate's registers as ARM leaves them (R54). -/
def Gate.armedAt (now : Nat) (x : Gate) : Gate :=
  { x with st := .armed, lateArm := decide (x.cmp.toNat < now + x.preroll.toNat), pastArm := decide (x.cmp.toNat ≤ now) }

end Sys2Proof.Machine
end


section
set_option Elab.async false
/-! SUPPORT. Relations that reads and writes of a stall's memory leave alone: one walk through these operations serves every such
relation (R223, R278). -/

open Sys2Proof Sys2Proof.Machine

namespace Sys2Proof.Machine

/-- A stall without what its memory's reads and writes change: its contexts and the counts of its faults. -/
def Stall.work (x : Stall) : Stall := { x with ctxs := [], stats := MemStats.init }

/-- A relation kept by whatever leaves the stalls, the links and the count of uncorrectable errors, and by a change of a stall's contexts
and fault counts. -/
structure Reading (R : State → State → Prop) : Prop where
  trans : ∀ {s t u}, R s t → R t u → R s u
  only : ∀ {l s t}, Only l s t → Part.stalls ∉ l → Part.tl ∉ l → t.mee.eccUe = s.mee.eccUe → R s t
  stall : ∀ (s : State) (n : Nat) {f : Stall → Stall}, (∀ x, (f x).work = x.work) → R s (s.modStall n f)

namespace Reading
variable {R : State → State → Prop} (hR : Reading R)
include hR

theorem refl (s : State) : R s s := hR.only (Only.refl [] s) (by decide) (by decide) rfl

theorem modCtx (s : State) (n c : Nat) (f : Ctx → Ctx) : R s (s.modCtx n c f) := by
  refine hR.stall s n fun x => ?_
  unfold Stall.modCtx
  split <;> rfl

theorem lineRead (s : State) (a n slot : Nat) : R s (s.lineRead a n slot).2.2 := by
  refine hR.only (State.lineRead_only (Only.refl _ s) (List.Subset.refl _) a n slot) (by decide) (by decide) ?_
  unfold State.lineRead
  dsimp only
  split
  · rfl
  · split <;> rfl
theorem lineWrite (s : State) (a slot : Nat) (bs : List Byte) (p : Bool) : R s (s.lineWrite a slot bs p) := by
  refine hR.only (State.lineWrite_only (Only.refl _ s) (List.Subset.refl _) a slot bs p) (by decide) (by decide) ?_
  unfold State.lineWrite
  extract_lets +onlyGivenNames l whole foreign w u bad
  have hu : u.mee.eccUe = s.mee.eccUe := by
    unfold u
    split <;> rfl
  rw [← hu]
  dsimp only
  split <;> rfl
theorem meeErr (s : State) (kind slot a : Nat) : R s (s.meeErr kind slot a) :=
  hR.only (State.meeErr_only (Only.refl _ s) (List.Subset.refl _) kind slot a) (by decide) (by decide) rfl
theorem quietWrite (s : State) (n : Nat) (x : Ctx) (o : Nat) (bs : List Byte) : R s (s.quietWrite n x o bs) := by
  unfold State.quietWrite
  split
  · exact hR.refl s
  · split
    · split
      · exact hR.refl s
      · exact hR.lineWrite s _ _ _ _
    · exact hR.refl s

theorem recordFault (s : State) (w : Who) (kind acc level va ofs : Nat) : R s (s.recordFault w kind acc level va ofs) := by
  unfold State.recordFault
  extract_lets bump u v
  have hv : R s v := hR.trans (hR.modCtx s w.stall w.ctx bump) (hR.stall u w.stall fun _ => rfl)
  split
  · exact hv
  · exact hR.trans hv (hR.quietWrite v _ _ _ _)

theorem countMulti (s : State) (n : Nat) (c : Option Nat) : R s (s.countMulti n c) := by
  refine hR.stall s n fun x => ?_
  cases c with
  | none => rfl
  | some c =>
    dsimp only
    unfold Stall.modCtx
    split <;> rfl

theorem walkRead (s : State) (w : Who) (x : Ctx) (o : Nat) : R s (s.walkRead w x o).2 := by
  unfold State.walkRead
  split
  · exact hR.refl s
  · split
    · exact hR.refl s
    · split
      next r b y _ _ =>
        dsimp only
        have hmulti : R s (if r.multi then s.countMulti w.stall (some w.ctx) else s) := by
          split
          · exact hR.countMulti s _ _
          · exact hR.refl s
        generalize (if r.multi then s.countMulti w.stall (some w.ctx) else s) = u at *
        split
        · refine hR.trans hmulti (hR.stall u w.stall fun t => ?_)
          unfold Stall.modCtx
          split <;> rfl
        · split
          · exact hmulti
          · split
            · exact hR.trans hmulti (hR.lineRead u _ _ _)
            · exact hR.trans hmulti (hR.lineRead u _ _ _)
      · exact hR.refl s

theorem walkFrom (w : Who) (x : Ctx) (va fuel : Nat) : ∀ (s : State) (l table : Nat), R s (s.walkFrom w x va fuel l table).2 := by
  induction fuel with
  | zero => exact fun s _ _ => hR.refl s
  | succ fuel ih =>
    intro s l table
    unfold State.walkFrom
    dsimp only
    have hread := hR.walkRead s w x (table + 8 * walkIndex va l)
    generalize s.walkRead w x (table + 8 * walkIndex va l) = r at *
    split
    · exact hread
    · split
      · exact hread
      · have hcache : ∀ f, R s (if s.xlatCaching then r.2.modCtx w.stall w.ctx f else r.2) := by
          intro f
          split
          · exact hR.trans hread (hR.modCtx _ _ _ _)
          · exact hread
        split
        · exact hcache _
        · exact hR.trans (hcache _) (ih _ _ _)

theorem translate (s : State) (w : Who) (x : Ctx) (va : Nat) : R s (s.translate w x va).2 := by
  unfold State.translate
  split
  · exact hR.refl s
  · exact hR.walkFrom w x va 4 s 0 x.root

theorem aim (s : State) (w : Who) (va need page acc : Nat) : R s (s.aim w va need page acc).2 := by
  unfold State.aim
  split
  · exact hR.refl s
  next t x _ =>
    dsimp only
    have hwalk := hR.translate s w x va
    generalize s.translate w x va = r at *
    split
    · exact hR.trans hwalk (hR.recordFault _ _ _ _ _ _ _)
    next o pr _ =>
      split
      · exact hR.trans hwalk (hR.recordFault _ _ _ _ _ _ _)
      next q _ =>
        have hmulti : R s (if q.multi then r.2.countMulti w.stall (some w.ctx) else r.2) := by
          split
          · exact hR.trans hwalk (hR.countMulti _ _ _)
          · exact hwalk
        generalize (if q.multi then r.2.countMulti w.stall (some w.ctx) else r.2) = u at *
        have hfault : ∀ kind ofs, R s (u.recordFault w kind acc 0xFF va ofs) := fun kind ofs => hR.trans hmulti (hR.recordFault _ _ _ _ _ _ _)
        split
        · exact hfault _ _
        · split
          · exact hR.trans (hfault _ _) (hR.meeErr _ _ _ _)
          · split
            · exact hfault _ _
            · split
              · exact hR.trans (hfault _ _) (hR.meeErr _ _ _ _)
              · exact hmulti

theorem readPiece (s : State) (w : Who) (va n need page acc : Nat) : R s (s.readPiece w va n need page acc).2.2 := by
  have haim := hR.aim s w va need page acc
  unfold State.readPiece
  dsimp only
  generalize s.aim w va need page acc = g at *
  split
  · exact haim
  · exact hR.trans haim (hR.lineRead _ _ _ _)
theorem writePiece (s : State) (w : Who) (va : Nat) (bs : List Byte) (p : Bool) (need : Nat) : R s (s.writePiece w va bs p need).2 := by
  have haim := hR.aim s w va need rWrite accWrite
  unfold State.writePiece
  dsimp only
  generalize s.aim w va need rWrite accWrite = g at *
  split
  · exact haim
  · exact hR.trans haim (hR.lineWrite _ _ _ _ _)

theorem readRunF (w : Who) (need page acc fuel : Nat) : ∀ (s : State) (va n : Nat), R s (s.readRunF w need page acc fuel va n).2 := by
  induction fuel with
  | zero => exact fun s _ _ => hR.refl s
  | succ fuel ih =>
    intro s va n
    unfold State.readRunF
    split
    · exact hR.refl s
    · have hpiece := hR.readPiece s w va (pieceLen va n) need page acc
      dsimp only
      generalize s.readPiece w va (pieceLen va n) need page acc = r at *
      split
      · exact hpiece
      · exact hR.trans hpiece (ih _ _ _)
theorem writeRunF (w : Who) (need fuel : Nat) : ∀ (s : State) (va : Nat) (bs : List Byte) (ps : List Bool), R s (s.writeRunF w need fuel va bs ps).2 := by
  induction fuel with
  | zero => exact fun s _ _ _ => hR.refl s
  | succ fuel ih =>
    intro s va bs ps
    unfold State.writeRunF
    split
    · exact hR.refl s
    · have hpiece := hR.writePiece s w va (bs.take (pieceLen va bs.length)) ((ps.take (pieceLen va bs.length)).any id) need
      dsimp only
      generalize s.writePiece w va (bs.take (pieceLen va bs.length)) ((ps.take (pieceLen va bs.length)).any id) need = r at *
      split
      · exact hpiece
      · exact hR.trans hpiece (ih _ _ _ _)
theorem readRun (s : State) (w : Who) (va n need : Nat) : R s (s.readRun w va n need).2 := hR.readRunF w need rRead accRead _ s va n

/-- A write to a queue's area, which may leave the ring dead. -/
theorem writeArea (s : State) (n k : Nat) (q : Queue) (area base pages o : Nat) (bs : List Byte) (page : List Byte) (hdead : ∀ u : State, R u (u.ringDead n k)) :
    R s (s.writeArea n k q area base pages o bs page) := by
  unfold State.writeArea
  split
  · dsimp only
    have hrun := hR.writeRunF (ringWho n k) rWrite (bs.length / 64 + 2) s (base + o) bs (List.replicate bs.length false)
    split
    · exact hrun
    · exact hR.trans hrun (hdead _)
  · split
    · split
      next t h =>
        have hhost := State.hostWrite_only (Only.refl [.hostMem] s) (by decide) (base + o) bs
        rw [h] at hhost
        exact hR.only (hhost _ rfl) (by decide) (by decide) (congrArg Mee.eccUe ((hhost _ rfl).mee_eq (by decide)))
      next => exact hdead s
    · split
      next t h =>
        have hpage := State.sealPage_only (Only.refl [.hostMem, .sessions] s) (by decide) q.session.toNat n k area base pages (o / 4096) page
        rw [h] at hpage
        exact hR.only (hpage _ rfl) (by decide) (by decide) (congrArg Mee.eccUe ((hpage _ rfl).mee_eq (by decide)))
      next => exact hdead s

end Reading

/-- Every stall is as it was but for its contexts and fault counts. -/
def State.sameWork (s t : State) : Prop := ∀ n, (t.stall? n).map Stall.work = (s.stall? n).map Stall.work

theorem State.sameWork_reading : Reading State.sameWork where
  trans := fun h g n => (g n).trans (h n)
  only := fun h hs _ _ n => by rw [h.stall?_eq n hs]
  stall := fun s n f hf m => by
    rw [State.stall?_modStall]
    split
    next h =>
      subst h
      cases s.stall? m with
      | none => rfl
      | some x => exact congrArg some (hf x)
    next => rfl

end Sys2Proof.Machine
end


section
set_option Elab.async false
/-! SUPPORT. Reads and writes of a stall's memory leave its queues (R223, R278). -/

open Sys2Proof Sys2Proof.Machine

namespace Sys2Proof.Machine

/-- The two states hold the same queues. -/
def State.sameQueues (s t : State) : Prop := ∀ n k, t.queue? n k = s.queue? n k

theorem State.sameQueues.refl (s : State) : s.sameQueues s := fun _ _ => rfl
theorem State.sameQueues.trans {s t u : State} (h : s.sameQueues t) (h' : t.sameQueues u) : s.sameQueues u := fun n k => (h' n k).trans (h n k)
theorem Only.sameQueues {l : List Part} {s t : State} (h : Only l s t) (hp : Part.stalls ∉ l) : s.sameQueues t := fun n k => h.queue?_eq n k hp

theorem State.sameQueues_modStall (s : State) (n : Nat) {f : Stall → Stall} (hf : ∀ t, (f t).queues = t.queues) : s.sameQueues (s.modStall n f) := by
  intro m k
  rw [State.queue?_eq, State.queue?_eq, State.stall?_modStall]
  split
  next h =>
    subst h
    cases s.stall? m with
    | none => rfl
    | some t => exact congrArg (Tab.find? · k) (hf t)
  next => rfl

theorem State.sameQueues_reading : Reading State.sameQueues where
  trans := State.sameQueues.trans
  only := fun h hs _ _ => h.sameQueues hs
  stall := fun s n _ hf => s.sameQueues_modStall n fun x => (congrArg Stall.queues (hf x) :)

end Sys2Proof.Machine
end


section
set_option Elab.async false
/-! SUPPORT. Ports, streams and functions of the host attach: which commands leave the stalls, and what a change of one leaves of it. -/

open Sys2Proof Sys2Proof.Machine

namespace Sys2Proof.Machine

/-- Which stalls no port reaches hangs on the stalls, the ports and the dies (R197). -/
theorem State.unreachable_eq {s t : State} (hst : t.stalls = s.stalls) (hpo : t.host.ports = s.host.ports) (hpk : t.pkg = s.pkg) :
    t.unreachable = s.unreachable := by
  unfold State.unreachable State.stallNos State.vfOn State.portServing State.portFitted State.stall?
  rw [hst, hpo, hpk]

theorem State.port_of_ports_eq {s t : State} (h : t.host.ports = s.host.ports) (p : Nat) : t.port p = s.port p :=
  congrArg (Tab.get HostPortSt.init · p) h

theorem State.onPort_of_fitted {s : State} {p : HostPort} (h : s.portFitted p = true) (t : State) : s.onPort p t = .next t := if_pos h

/-- A port's functions and link as its loss leaves them (R197, R202). -/
def State.unplugged (s : State) (p : HostPort) : State :=
  ((s.resetPort p).setPort p (fun x => { x with linkUp := false, lost := true, streams := [] })).markShort

theorem State.port_unplugged (s : State) (p : HostPort) : (s.unplugged p).port p = { s.port p with linkUp := false, lost := true, streams := [] } := by
  have hmark := State.markShort_only (Only.refl _ ((s.resetPort p).setPort p (fun x => { x with linkUp := false, lost := true, streams := [] })))
    (List.Subset.refl _)
  exact (State.port_of_ports_eq (hmark.ports_eq (by decide)) p).trans ((State.port_setPort _ _ _ _).trans (if_pos rfl))

/-- The stalls a port's loss leaves unreached become known as such (R197). -/
def State.unreachNow (s : State) : State := { s with host := { s.host with unreach := s.host.unreach ||| s.unreachable &&& ~~~ s.host.unreach } }

/-- A port that was in service and is lost: what is told of it changes neither ports nor stalls (R197, R202). -/
theorem State.losePort_of_up {s : State} {p : HostPort} (h : (s.port p).lost = false) : Only [.pf, .vf, .out] (s.unplugged p).unreachNow (s.losePort p) := by
  unfold State.losePort
  dsimp only
  rw [h, if_neg Bool.false_ne_true]
  exact State.tellStalls_only (State.hostEvt_only (Only.refl _ _) (by decide) _) (by decide) p

theorem BitVec.or_and_not_self {w : Nat} (a b : BitVec w) : a ||| b &&& ~~~ a = a ||| b := by
  ext i
  simp only [BitVec.getElem_or, BitVec.getElem_and, BitVec.getElem_not]
  cases a[i] <;> simp

theorem State.losePort_spec {s : State} {p : HostPort} (h : (s.port p).lost = false) :
    ((s.losePort p).port p).linkUp = false ∧ ((s.losePort p).port p).lost = true ∧ ((s.losePort p).port p).streams = [] ∧
      (s.losePort p).stalls = s.stalls ∧ (s.losePort p).hbm = s.hbm ∧ (s.losePort p).host.unreach = s.host.unreach ||| (s.losePort p).unreachable := by
  have hkeeps := State.losePort_only (Only.refl _ s) (List.Subset.refl _) p
  have htold := State.losePort_of_up h
  have hport : (s.losePort p).port p = { s.port p with linkUp := false, lost := true, streams := [] } :=
    (State.port_of_ports_eq (s := (s.unplugged p).unreachNow) (htold.ports_eq (by decide)) p).trans (s.port_unplugged p)
  have hreach : (s.losePort p).unreachable = (s.unplugged p).unreachable :=
    State.unreachable_eq (htold.stalls_eq (by decide)) (htold.ports_eq (by decide)) (htold.pkg_eq (by decide))
  have hknown : (s.unplugged p).host.unreach = s.host.unreach :=
    (State.markShort_only (Only.refl _ ((s.resetPort p).setPort p (fun x => { x with linkUp := false, lost := true, streams := [] })))
      (List.Subset.refl _)).rest .unreach (by decide)
  refine ⟨by rw [hport], by rw [hport], by rw [hport], hkeeps.stalls_eq (by decide), hkeeps.hbm_eq (by decide), ?_⟩
  have hnow : (s.losePort p).host.unreach = (s.unplugged p).unreachNow.host.unreach := htold.rest .unreach (by decide)
  rw [hnow, hreach, ← hknown]
  exact BitVec.or_and_not_self _ _

theorem hostPortLoss_of_up {s : State} {p : HostPort} (why : PortLoss) (hup : (s.port p).linkUp = true) (hlost : (s.port p).lost = false) :
    ∃ u : State, hostPortLoss p why s = u.losePort p ∧ (u.port p).lost = false ∧ u.stalls = s.stalls ∧ u.hbm = s.hbm ∧ u.host.unreach = s.host.unreach := by
  unfold hostPortLoss
  dsimp only
  split_ifs with hwhy hlink
  · exact ⟨_, rfl, by simpa using hlost, rfl, rfl, rfl⟩
  · exact absurd (by simpa using hup) hlink
  · exact ⟨s, rfl, hlost, rfl, rfl, rfl⟩

theorem hostPortLinkUp_of_running {s : State} {p : HostPort} (hrun : s.running = true) (hdie : has s.pkg.deadIodie p = false) :
    ((hostPortLinkUp p s).port p).linkUp = true ∧ ((hostPortLinkUp p s).port p).lost = false ∧ ((hostPortLinkUp p s).port p).perst = false ∧
      (hostPortLinkUp p s).stalls = s.stalls := by
  have htold : Only [.pf, .vf, .out, .unreach] (s.setPort p (fun x => { x with perst := false, linkUp := true, lost := false })) (hostPortLinkUp p s) := by
    unfold hostPortLinkUp
    rw [hrun, hdie]
    dsimp only
    rw [if_neg (by decide)]
    split
    · exact Only.refl _ _
    · exact State.tellStalls_only (State.hostEvt_only (Only.unreach (Only.refl _ _) _ (by decide)) (by decide) _) (by decide) p
  have hport : (hostPortLinkUp p s).port p = { s.port p with perst := false, linkUp := true, lost := false } :=
    (State.port_of_ports_eq (htold.ports_eq (by decide)) p).trans ((State.port_setPort _ _ _ _).trans (if_pos rfl))
  rw [hport]
  exact ⟨rfl, rfl, rfl, htold.stalls_eq (by decide)⟩

theorem State.stream_setStream (s : State) (p : HostPort) (k : Nat) (f : IdeStream → IdeStream) :
    ((s.setStream p k f).port p).streams.get IdeStream.init k = f ((s.port p).streams.get IdeStream.init k) := by
  rw [State.setStream, State.port_setPort, if_pos rfl]
  simp

theorem ideTlpCheckFail_of_active {s : State} {p : HostPort} {k : Fin 8} (h : ((s.port p).streams.get IdeStream.init k).st = .active) :
    ((ideTlpCheckFail p k s).port p |>.streams.get IdeStream.init k).st = .insecure ∧ Only [.ports] s (ideTlpCheckFail p k s) := by
  refine ⟨?_, State.setStream_only (Only.refl _ s) (List.Subset.refl _) _ _ _⟩
  rw [ideTlpCheckFail, State.stream_setStream, if_pos h]

theorem ideKmRequest_go {s : State} {p : HostPort} {k : Fin 8} {i : U32} (hsess : (s.session? i.toNat).any (fun x => x.fn = some (.pf0 p)) = true)
    (hlost : (s.port p).lost = false) (hst : ((s.port p).streams.get IdeStream.init k).st ≠ .inactive) :
    ((ideKmRequest p k .go i s).port p |>.streams.get IdeStream.init k).st = .active ∧
      ((ideKmRequest p k .go i s).port p |>.streams.get IdeStream.init k).keyGen = ((s.port p).streams.get IdeStream.init k).keyGen + 1 := by
  unfold ideKmRequest
  rw [hsess, hlost, if_neg (by decide)]
  dsimp only
  rw [State.stream_setStream, if_neg hst]
  exact ⟨rfl, rfl⟩

/-- Settles O32: each command is a change of one port, stream or function, and what is told of it changes neither ports nor stalls. -/
theorem hostPortsAndIde : Obligations.HostPortsAndIde := by
  unfold Obligations.HostPortsAndIde
  refine ⟨fun s p why hfit hup hlost => ⟨hostPortLoss p why s, State.onPort_of_fitted hfit _, ?_⟩,
    fun s p hfit hrun hdie => ⟨hostPortLinkUp p s, State.onPort_of_fitted hfit _, hostPortLinkUp_of_running hrun hdie⟩,
    fun s p => ⟨_, rfl, ?_, State.setPf_only (Only.refl _ s) (List.Subset.refl _) _ _⟩,
    fun s p n => ⟨_, rfl, State.vf_setVf s p n _, State.setVf_only (Only.refl _ s) (List.Subset.refl _) _ _ _⟩,
    fun s p en num hfit => ⟨sriovConfigWrite p en num s, State.onPort_of_fitted hfit _, ?_, State.setPf_only (Only.refl _ s) (List.Subset.refl _) _ _⟩,
    fun s p k hfit hact => ⟨ideTlpCheckFail p k s, State.onPort_of_fitted hfit _, ideTlpCheckFail_of_active hact⟩,
    fun s p k i hfit hsess hlost hst => ⟨ideKmRequest p k .go i s, State.onPort_of_fitted hfit _, ideKmRequest_go hsess hlost hst⟩⟩
  · obtain ⟨u, heq, hlost', hstalls, hhbm, hunreach⟩ := hostPortLoss_of_up why hup hlost
    obtain ⟨hlink, hgone, hstreams, hstalls', hhbm', hunreach'⟩ := State.losePort_spec hlost'
    rw [heq]
    exact ⟨hlink, hgone, hstreams, hstalls'.trans hstalls, hhbm'.trans hhbm, hunreach'.trans (by rw [hunreach])⟩
  · exact (State.pf_setPf s p p _).trans (if_pos rfl)
  · exact (State.pf_setPf s p p _).trans (if_pos rfl)

end Sys2Proof.Machine
end


section
set_option Elab.async false
/-! SUPPORT. One stall's regulators: how a request fares, and what its issue and its end leave (R345–R350). -/

open Sys2Proof Sys2Proof.Machine

namespace Sys2Proof.Machine

theorem Delivery.reg_modReg (d : Delivery) (k j : Nat) (f : Regulator → Regulator) : (d.modReg k f).reg j = if j = k then f (d.reg k) else d.reg j := by
  unfold Delivery.reg Delivery.modReg
  dsimp only
  rw [Tab.find?_put]
  split <;> rfl
theorem Delivery.reg_modReg_same (d : Delivery) (k : Nat) (f : Regulator → Regulator) : (d.modReg k f).reg k = f (d.reg k) :=
  (d.reg_modReg k k f).trans (if_pos rfl)

theorem State.stall?_modDlv {s : State} {n : Nat} {x : Stall} (h : s.stall? n = some x) (f : Delivery → Delivery) :
    (s.modDlv n f).stall? n = some { x with dlv := f x.dlv } := by
  rw [State.modDlv, State.stall?_modStall, if_pos rfl, h]
  rfl

/-- A request with no link leaves the port: what becomes of its regulator. -/
theorem Delivery.issue_within (d : Delivery) (now k : Nat) {r : PortReq} (h : r.link = none) :
    d.issue now k r .within = d.modReg k (fun g =>
      { g with credit := g.credit - r.size, charged := true, flying := g.flying ++ [(r, now)],
               live := { g.live with bytesIn := g.live.bytesIn + BitVec.ofNat 64 r.size } }) := by
  unfold Delivery.issue
  rw [h]
theorem Delivery.issue_beyond (d : Delivery) (now k : Nat) {r : PortReq} (h : r.link = none) :
    d.issue now k r .beyond = d.modReg k (fun g =>
      { g with overNow := true, flying := g.flying ++ [(r, now)], live := { g.live with bytesOver := g.live.bytesOver + BitVec.ofNat 64 r.size } }) := by
  unfold Delivery.issue
  rw [h]

/-- The request of a REQUEST_ISSUE (R345). -/
def State.portReq (s : State) (size : Nat) (urgent : Bool) : PortReq := { id := s.rg.nextReq, size := size, urgent := urgent, link := none }

/-- The number of a request is used up. -/
def State.numbered (s : State) : State := { s with rg := { s.rg with nextReq := s.rg.nextReq + 1 } }

/-- A request of an idle stall's port that neither drains nor has others before it. -/
theorem requestIssue_plain {s : State} {n : StallNo} {x : Stall} {k : Fin 5} {size : Fin 257} (hx : s.stall? n = some x) (hsize : size.val ≠ 0) :
    requestIssue n k size none none s = s.numbered.testReq n k (s.portReq size.val false) := by
  unfold requestIssue
  rw [hx, if_neg (by simp [hsize])]
  rfl

theorem State.testReq_first {s : State} {n : StallNo} {x : Stall} {k : Nat} {r : PortReq} (hx : s.stall? n = some x) (hheld : (x.dlv.reg k).held = []) :
    s.testReq n k r = match x.fare k (s.stallQuiet x) r with
      | .wait o => s.modReg n k (fun g => { g with held := g.held ++ [r], overNow := g.overNow || o })
      | f => s.modDlv n (fun d => d.issue s.now k r f) := by
  unfold State.testReq
  rw [hx]
  dsimp only
  rw [hheld, if_neg (by simp)]
  cases x.fare k (s.stallQuiet x) r <;> rfl

theorem State.stallQuiet_of_idle {s : State} {x : Stall} (hpause : x.paused = false) (hrun : s.running = true) : s.stallQuiet x = false := by
  simp [State.stallQuiet, hpause, hrun]

theorem requestIssue_within {s : State} {n : StallNo} {x : Stall} {k : Fin 5} {size : Fin 257} (hx : s.stall? n = some x) (hsize : size.val ≠ 0)
    (hpause : x.paused = false) (hrun : s.running = true) (hheld : (x.dlv.reg k).held = []) (hgate : (x.dlv.reg k).gateShut = false)
    (hbudget : x.hold.budget k ≠ 0) (hfits : size.val ≤ (x.dlv.reg k).credit ∨ (x.dlv.reg k).charged = false) :
    (requestIssue n k size none none s).stall? n = some { x with dlv := x.dlv.issue s.now k (s.portReq size.val false) .within } := by
  have hfare : x.fare k false (s.portReq size.val false) = .within := by
    unfold Stall.fare
    rcases hfits with h | h <;> simp [State.portReq, hgate, hbudget, h]
  rw [requestIssue_plain hx hsize, State.testReq_first (s := s.numbered) (x := x) hx hheld, State.stallQuiet_of_idle (s := s.numbered) hpause hrun, hfare]
  exact State.stall?_modDlv (s := s.numbered) hx _

theorem requestIssue_short {s : State} {n : StallNo} {x : Stall} {k : Fin 5} {size : Fin 257} (hx : s.stall? n = some x) (hsize : size.val ≠ 0)
    (hpause : x.paused = false) (hrun : s.running = true) (hheld : (x.dlv.reg k).held = []) (hgate : (x.dlv.reg k).gateShut = false)
    (hcredit : (x.dlv.reg k).credit < size.val) (hcharged : (x.dlv.reg k).charged = true) :
    (requestIssue n k size none none s).stall? n = some { x with dlv := (if (x.dlv.reg k).mode = 0
      then x.dlv.modReg k (fun g => { g with held := g.held ++ [s.portReq size.val false], overNow := g.overNow || true })
      else x.dlv.issue s.now k (s.portReq size.val false) .beyond) } := by
  have hfare : x.fare k false (s.portReq size.val false) = if (x.dlv.reg k).mode = 0 then .wait true else .beyond := by
    unfold Stall.fare
    simp [State.portReq, hgate, hcharged, Nat.not_le.2 hcredit]
  rw [requestIssue_plain hx hsize, State.testReq_first (s := s.numbered) (x := x) hx hheld, State.stallQuiet_of_idle (s := s.numbered) hpause hrun, hfare]
  split_ifs
  · exact State.stall?_modDlv (s := s.numbered) hx _
  · exact State.stall?_modDlv (s := s.numbered) hx _

theorem requestIssue_urgent {s : State} {n : StallNo} {x : Stall} {k : Fin 5} {size : Fin 257} {p : LinkPort} (hx : s.stall? n = some x)
    (hsize : size.val ≠ 0) (hurgent : has s.rg.linkUrgent p = true) :
    ∃ w, (requestIssue n k size (some (false, p)) none s).stall? n = some { x with dlv := x.dlv.issue s.now k (s.portReq size.val true) (.urgent w) } := by
  have hissue : requestIssue n k size (some (false, p)) none s =
      s.numbered.testReq n k (s.portReq size.val true) := by
    unfold requestIssue
    rw [hx, if_neg (by simp [hsize])]
    dsimp only
    rw [hurgent]
    rfl
  have hfare : ∃ w, ∀ quiet, x.fare k quiet (s.portReq size.val true) = .urgent w := ⟨_, fun _ => rfl⟩
  obtain ⟨w, hfare⟩ := hfare
  refine ⟨w, ?_⟩
  rw [hissue]
  unfold State.testReq
  rw [show s.numbered.stall? n = some x from hx]
  dsimp only
  rw [hfare, if_neg (by simp [State.portReq])]
  exact State.stall?_modDlv (s := s.numbered) hx _

theorem requestComplete_of_flying {s : State} {n : StallNo} {x : Stall} {k : Fin 5} {i a : Nat} {r : PortReq} (hx : s.stall? n = some x)
    (hfly : List.find? (fun (e : PortReq × Nat) => e.1.id = i) (x.dlv.reg k).flying = some (r, a)) :
    ∃ y, (requestComplete n k i s).stall? n = some y ∧ (∀ e ∈ (y.dlv.reg k).flying, e.1.id ≠ i) ∧
      (y.dlv.reg k).live.requests = (x.dlv.reg k).live.requests + 1 ∧
      (y.dlv.reg k).live.latSum = (x.dlv.reg k).live.latSum + BitVec.ofNat 64 (s.now - a) ∧ (y.dlv.reg k).winN = (x.dlv.reg k).winN + 1 ∧
      (y.dlv.reg k).credit = (x.dlv.reg k).credit := by
  unfold requestComplete
  rw [hx]
  dsimp only
  rw [hfly]
  refine ⟨_, State.stall?_modDlv hx _, ?_⟩
  dsimp only
  rw [Delivery.reg_modReg_same]
  exact ⟨fun e he => by simpa using (List.mem_filter.1 he).2, rfl, rfl, rfl, rfl⟩

/-- Settles O34: by how a request fares, and what its issue does to the regulator. -/
theorem requestsAreRegulated : Obligations.RequestsAreRegulated := by
  unfold Obligations.RequestsAreRegulated
  refine ⟨fun s n x k size hx hsize hpause hrun hheld hgate hbudget hfits =>
      ⟨_, rfl, _, requestIssue_within hx hsize hpause hrun hheld hgate hbudget hfits, ?_⟩,
    fun s n x k size hx hsize hpause hrun hheld hgate hcredit hcharged =>
      ⟨_, rfl, _, requestIssue_short hx hsize hpause hrun hheld hgate hcredit hcharged, ?_⟩, fun s n x k size p hx hsize hurgent => ?_,
    fun s n x k i a r hx hfly => ⟨_, rfl, requestComplete_of_flying hx hfly⟩⟩
  · dsimp only
    rw [Delivery.issue_within _ _ _ (r := s.portReq size.val false) rfl, Delivery.reg_modReg_same]
    exact ⟨rfl, rfl, rfl, by simp, fun j hj => (Delivery.reg_modReg _ _ _ _).trans (if_neg hj)⟩
  · dsimp only
    by_cases hmode : (x.dlv.reg k).mode = 0
    · rw [if_pos hmode, Delivery.reg_modReg_same]
      exact ⟨rfl, fun _ => ⟨by simp [hheld], rfl⟩, fun h => absurd hmode h⟩
    · rw [if_neg hmode, Delivery.issue_beyond _ _ _ (r := s.portReq size.val false) rfl, Delivery.reg_modReg_same]
      exact ⟨rfl, fun h => absurd h hmode, fun _ => ⟨hheld, rfl⟩⟩
  · obtain ⟨w, hw⟩ := requestIssue_urgent (k := k) hx hsize hurgent
    refine ⟨_, rfl, _, hw, ?_⟩
    dsimp only [Delivery.issue, State.portReq]
    rw [Delivery.reg_modReg_same]
    cases w <;> exact ⟨rfl, rfl⟩

end Sys2Proof.Machine
end


section
set_option Elab.async false
/-! SUPPORT. The Tsuholt ports: what is sent on one changes only what it sends with (R370, R374), and the choice of a master changes none (R397). -/

open Sys2Proof Sys2Proof.Machine

namespace Sys2Proof.Machine

theorem State.onLink_of_fitted {s : State} {p : LinkPort} (h : p.val < linkPorts s.pkg.variant) (t : State) : s.onLink p t = .next t := if_pos h

theorem State.tlp_setTlp_same (s : State) (p : Nat) (f : TlPort → TlPort) : (s.setTlp p f).tlp p = f (s.tlp p) := (s.tlp_setTlp p p f).trans (if_pos rfl)

/-- A port without what it sends with: its queue, its credits, its counts of what left, what it keeps, and its wake. -/
def TlPort.bare (t : TlPort) : TlPort := { t with sendq := [], used := [], tx := 0, kept := [], waking := false }

/-- Nothing of the pod's block has changed but what the ports send with. -/
structure State.onlySends (s t : State) : Prop where
  tl : t.tl = { s.tl with ports := t.tl.ports }
  bare : ∀ p, (t.tlp p).bare = (s.tlp p).bare

theorem State.onlySends.refl (s : State) : s.onlySends s := ⟨rfl, fun _ => rfl⟩
theorem State.onlySends.trans {s t u : State} (h : s.onlySends t) (h' : t.onlySends u) : s.onlySends u :=
  ⟨by rw [h'.tl, h.tl], fun p => (h'.bare p).trans (h.bare p)⟩
theorem State.onlySends.of_tl_eq {s t : State} (h : t.tl = s.tl) : s.onlySends t := ⟨by rw [h], fun p => by rw [State.tlp, State.tlp, h]⟩
theorem State.onlySends_setTlp (s : State) (p : Nat) {f : TlPort → TlPort} (hf : ∀ x, (f x).bare = x.bare) : s.onlySends (s.setTlp p f) := by
  refine ⟨rfl, fun j => ?_⟩
  rw [State.tlp_setTlp]
  split
  next h => rw [h]; exact hf _
  next => rfl

theorem State.onlySends_emitLink (s : State) (p : Nat) (x : LinkOut) : s.onlySends (s.emitLink p x) := by
  have hset := s.onlySends_setTlp p (f := fun t =>
    { t with used := t.used.upd 0 (creditKey (channelOf x.op) (classOf x.op x.msg)) (· + msgFlits x.msg), tx := t.tx + BitVec.ofNat 64 (256 * msgFlits x.msg)
             kept := (t.kept ++ [(t.frame s.now, x)]).filter (fun e => t.frame s.now < e.1 + 256) }) fun _ => rfl
  unfold State.emitLink
  dsimp only
  split
  · exact hset.trans (State.onlySends.of_tl_eq rfl)
  · exact hset.trans (State.onlySends.of_tl_eq rfl)

/-- One message of a port's queue leaves, or waits behind those of its channel and class. -/
def State.pumpOne (p : Nat) (a : State × List LinkOut × List Nat) (x : LinkOut) : State × List LinkOut × List Nat :=
  if a.2.2.contains (creditKey (channelOf x.op) (classOf x.op x.msg)) || !(a.1.tlp p).maySend x
  then (a.1, a.2.1 ++ [x], creditKey (channelOf x.op) (classOf x.op x.msg) :: a.2.2) else (a.1.emitLink p x, a.2.1, a.2.2)

theorem State.onlySends_pumpAll (p : Nat) (q : List LinkOut) : ∀ a : State × List LinkOut × List Nat, a.1.onlySends (q.foldl (State.pumpOne p) a).1 := by
  induction q with
  | nil => exact fun a => State.onlySends.refl a.1
  | cons x q ih =>
    intro a
    have hone : a.1.onlySends (State.pumpOne p a x).1 := by
      unfold State.pumpOne
      split
      · exact State.onlySends.refl _
      · exact State.onlySends_emitLink _ _ _
    exact hone.trans (ih _)

/-- What stays in a port's queue is put back, and a port on one lane asks for its lanes (R378). -/
def State.pumpRest (p : Nat) (r : State × List LinkOut × List Nat) : State :=
  let s := r.1.setTlp p (fun t => { t with sendq := r.2.1 })
  let t := s.tlp p
  if t.st = .lowpower && !t.waking && !t.sendq.isEmpty then
    (s.setTlp p (fun t => { t with waking := true })).emitLink p
      { op := 0x34, mgmt := none, holds := none
        msg := { hops := 1, src := s.podId, dst := 0xFF, srcStall := 0xFF, dstStall := 0xFF, addr := 0, keyT := 0, ticket := 0, seq := 0
                 data := [], poison := false, read := false, span := 0, fault := false } }
  else s

theorem State.pump_eq (s : State) (p : Nat) :
    s.pump p = State.pumpRest p ((s.tlp p).sendq.foldl (State.pumpOne p) (s.setTlp p (fun t => { t with sendq := [] }), [], [])) := rfl

theorem State.onlySends_pumpRest (p : Nat) (r : State × List LinkOut × List Nat) : r.1.onlySends (State.pumpRest p r) := by
  have hback := r.1.onlySends_setTlp p (f := fun t => { t with sendq := r.2.1 }) fun _ => rfl
  unfold State.pumpRest
  dsimp only
  split
  · exact hback.trans ((State.onlySends_setTlp _ p (f := fun t => { t with waking := true }) fun _ => rfl).trans (State.onlySends_emitLink _ p _))
  · exact hback

theorem State.onlySends_pump (s : State) (p : Nat) : s.onlySends (s.pump p) := by
  rw [State.pump_eq]
  exact (s.onlySends_setTlp p (f := fun t => { t with sendq := [] }) fun _ => rfl).trans
    ((State.onlySends_pumpAll p (s.tlp p).sendq (s.setTlp p (fun t => { t with sendq := [] }), [], [])).trans (State.onlySends_pumpRest p _))

theorem State.onlySends_sendOut (s : State) (p : Nat) (x : LinkOut) : s.onlySends (s.sendOut p x) := by
  unfold State.sendOut
  split
  · exact State.onlySends.refl s
  · exact (s.onlySends_setTlp p (f := fun t => { t with sendq := t.sendq ++ [x] }) fun _ => rfl).trans (State.onlySends_pump _ p)
theorem State.onlySends_sendMsg (s : State) (p op : Nat) (m : LinkMsg) : s.onlySends (s.sendMsg p op m) := s.onlySends_sendOut p _

/-! The choice of a master (R397). -/

/-- A change of the pod's block that changes no port, and of the GTB that changes no time. -/
structure State.keepsPorts (s t : State) : Prop where
  ports : t.tl.ports = s.tl.ports
  now : t.now = s.now

theorem State.keepsPorts.refl (s : State) : s.keepsPorts s := ⟨rfl, rfl⟩
theorem State.keepsPorts.trans {s t u : State} (h : s.keepsPorts t) (h' : t.keepsPorts u) : s.keepsPorts u := ⟨h'.ports.trans h.ports, h'.now.trans h.now⟩
theorem State.keepsPorts.tlp {s t : State} (h : s.keepsPorts t) (p : Nat) : t.tlp p = s.tlp p := congrArg (Tab.get TlPort.init · p) h.ports
theorem Only.keepsPorts {l : List Part} {s t : State} (h : Only l s t) (htl : Part.tl ∉ l) (hgtb : Part.gtb ∉ l) : s.keepsPorts t :=
  ⟨congrArg Tsuholt.ports (h.tl_eq htl), h.now_eq hgtb⟩

theorem State.keepsPorts_tlEvt (s : State) (b : Nat) : s.keepsPorts (s.tlEvt b) := ⟨rfl, rfl⟩
theorem State.keepsPorts_gtb (s : State) {g : Gtb} (hbase : g.base = s.gtb.base) (hk : g.k = s.gtb.k) : s.keepsPorts { s with gtb := g } :=
  ⟨rfl, by rw [State.now, State.now, Gtb.now, Gtb.now, hbase, hk]⟩
theorem State.keepsPorts_tl (s : State) {x : Tsuholt} (h : x.ports = s.tl.ports) : s.keepsPorts { s with tl := x } := ⟨h, rfl⟩

theorem State.keepsPorts_setTrim (s : State) (v : Int) : s.keepsPorts (s.setTrim v) := by
  have htrim := s.keepsPorts_gtb (g := { s.gtb with trim := (clampTrim v).1, trimLimit := s.gtb.trimLimit || (clampTrim v).2 }) rfl rfl
  unfold State.setTrim
  dsimp only
  split
  · exact htrim.trans ((State.pfCause_keeps _ _).keepsPorts (by decide) (by decide))
  · exact htrim
theorem State.keepsPorts_freeRun (s : State) : s.keepsPorts s.freeRun := by
  unfold State.freeRun
  split
  · exact s.keepsPorts_gtb rfl rfl
  · exact State.keepsPorts.refl s

theorem State.keepsPorts_chooseMaster (s : State) : s.keepsPorts s.chooseMaster := by
  unfold State.chooseMaster
  dsimp only
  refine State.keepsPorts.trans ?_ (State.keepsPorts_freeRun _)
  have htrim : ∀ {u : State} (b : Prop) [Decidable b] (v : Int), s.keepsPorts u → s.keepsPorts (if b then u.setTrim v else u) := by
    intro u b _ v hu
    split
    · exact hu.trans (State.keepsPorts_setTrim _ _)
    · exact hu
  have hevt : ∀ (x : Tsuholt) (b : Prop) [Decidable b], x.ports = s.tl.ports →
      s.keepsPorts (if b then ({ s with tl := x } : State).tlEvt evtMaster else { s with tl := x }) := by
    intro x b _ hx
    split
    · exact (s.keepsPorts_tl hx).trans (State.keepsPorts_tlEvt _ _)
    · exact s.keepsPorts_tl hx
  exact htrim _ _ (hevt _ _ rfl)

end Sys2Proof.Machine
end


section
set_option Elab.async false
/-! SUPPORT. Pod time: what a TIME message, an expiry and an alignment leave of the ports and the GTB (R395–R399). -/

open Sys2Proof Sys2Proof.Machine

namespace Sys2Proof.Machine

theorem State.keepsPorts_takeEstimate (s : State) (e : Int) : s.keepsPorts (s.takeEstimate e) := by
  have hest : ∀ (g : Gtb) (x : Tsuholt), g.base = s.gtb.base → g.k = s.gtb.k → x.ports = s.tl.ports → s.keepsPorts { s with gtb := g, tl := x } :=
    fun g x hbase hk hx => (s.keepsPorts_gtb hbase hk).trans (State.keepsPorts_tl _ hx)
  have hcause : ∀ {u : State} (b : Prop) [Decidable b] (c : PfCause), s.keepsPorts u → s.keepsPorts (if b then u.pfCause c else u) := by
    intro u b _ c hu
    split
    · exact hu.trans ((u.pfCause_keeps c).keepsPorts (by decide) (by decide))
    · exact hu
  have hevt : ∀ {u : State} (b : Prop) [Decidable b] (c : Nat), s.keepsPorts u → s.keepsPorts (if b then u.tlEvt c else u) := by
    intro u b _ c hu
    split
    · exact hu.trans (u.keepsPorts_tlEvt c)
    · exact hu
  unfold State.takeEstimate
  dsimp only
  exact hevt _ _ (hcause _ _ (hest _ _ rfl rfl rfl))
theorem State.keepsPorts_servo (s : State) (v : Int) : s.keepsPorts (s.servo v) := by
  have hfreq := s.keepsPorts_tl (x := { s.tl with freq := clampServo (s.tl.freq - v * 2 ^ 13), holdover := false }) rfl
  unfold State.servo
  dsimp only
  split
  · exact hfreq.trans (State.keepsPorts_setTrim _ _)
  · exact hfreq

theorem State.keepsPorts_follow (s : State) (b : Prop) [Decidable b] (e v : Int) : s.keepsPorts (if b then (s.takeEstimate e).servo v else s) := by
  split
  · exact (s.keepsPorts_takeEstimate e).trans (State.keepsPorts_servo _ v)
  · exact State.keepsPorts.refl s

/-- The port knows its neighbour as the TIME message names it (R395). -/
def State.hears (s u : State) (p : LinkPort) (m : LinkMsg) : Prop :=
  u.now = s.now ∧ (u.tlp p).told = true ∧ (u.tlp p).peerPkg = m.src ∧ (u.tlp p).peerSize = f8 m.data 28

theorem State.hears_setTlp {s u : State} {p : LinkPort} {m : LinkMsg} (h : s.hears u p m) {f : TlPort → TlPort}
    (hf : ∀ x, (f x).told = x.told ∧ (f x).peerPkg = x.peerPkg ∧ (f x).peerSize = x.peerSize) : s.hears (u.setTlp p f) p m := by
  obtain ⟨hnow, htold, hpkg, hsize⟩ := h
  obtain ⟨h1, h2, h3⟩ := hf (u.tlp p)
  unfold State.hears
  rw [State.tlp_setTlp_same]
  exact ⟨hnow, h1.trans htold, h2.trans hpkg, h3.trans hsize⟩

theorem State.keepsPorts.hears {s u v : State} (h : u.keepsPorts v) {p : LinkPort} {m : LinkMsg} (hu : s.hears u p m) : s.hears v p m := by
  unfold State.hears at *
  rw [h.now, h.tlp]
  exact hu

/-- What follows the choice of a master changes no port. -/
theorem State.hears_advert {s w t : State} {p : LinkPort} {m : LinkMsg} (hw : s.hears w p m) {ad : Option Advert}
    (ht : ((w.setTlp p (fun x => { x with advert := ad })).chooseMaster).keepsPorts t) : s.hears t p m ∧ (t.tlp p).advert = ad := by
  have hkeeps := (State.keepsPorts_chooseMaster (w.setTlp p (fun x => { x with advert := ad }))).trans ht
  refine ⟨hkeeps.hears (State.hears_setTlp hw fun _ => ⟨rfl, rfl, rfl⟩), ?_⟩
  rw [hkeeps.tlp, State.tlp_setTlp_same]

/-- The advertisement a TIME message carries, or none (R396, R397). -/
def advertOf (m : LinkMsg) (now : Nat) : Option Advert :=
  if f8 m.data 24 = 0xFF || f8 m.data 26 = 0xFF then none
  else some { id := f8 m.data 24, prio := f8 m.data 25, hops := f8 m.data 26, ofs := (BitVec.ofNat 64 (f64 m.data 16)).toInt, grid := now / 2 ^ 20 }

theorem time_of_up {s : State} {p : LinkPort} (hup : (s.tlp p).up = true) (m : LinkMsg) :
    s.hears (time p m s) p m ∧ ((time p m s).tlp p).advert = advertOf m s.now := by
  unfold time
  rw [hup, if_neg (by simp)]
  dsimp only
  have hfirst : s.hears (s.setTlp p (fun x => { x with told := true, peerPkg := m.src, peerSize := f8 m.data 28 })) p m := by
    unfold State.hears
    rw [State.tlp_setTlp_same]
    exact ⟨rfl, rfl, rfl, rfl⟩
  generalize s.setTlp p (fun x => { x with told := true, peerPkg := m.src, peerSize := f8 m.data 28 }) = u at *
  have hmis := State.hears_setTlp hfirst (f := fun x => { x with mismatch := u.mismatched (u.tlp p) }) fun _ => ⟨rfl, rfl, rfl⟩
  have hevt : ∀ {v : State} (b : Prop) [Decidable b], s.hears v p m → s.hears (if b then v.tlEvt evtMismatch else v) p m := by
    intro v b _ hv
    split
    · exact (v.keepsPorts_tlEvt evtMismatch).hears hv
    · exact hv
  have hnoted := hevt ((u.mismatched (u.tlp p) && !(u.tlp p).mismatch) = true) hmis
  generalize (if (u.mismatched (u.tlp p) && !(u.tlp p).mismatch) = true then
    (u.setTlp p (fun x => { x with mismatch := u.mismatched (u.tlp p) })).tlEvt evtMismatch
    else u.setTlp p (fun x => { x with mismatch := u.mismatched (u.tlp p) })) = v at *
  generalize (if (decide (f64 m.data 8 = 0) || decide ((u.tlp p).tTx = 0) || decide ((u.tlp p).tRx = 0)) = true then (none : Option Int) else _) = th
  rw [← hnoted.1]
  cases th with
  | none => exact State.hears_advert (ad := advertOf m v.now) hnoted (State.keepsPorts.refl _)
  | some x =>
    have hofs := State.hears_setTlp hnoted (f := fun y =>
      { y with ofs := BitVec.ofInt 32 x, delay := BitVec.ofInt 32 (((f64 m.data 8 : Int) - (u.tlp p).tTx + ((u.tlp p).tRx - (f64 m.data 0 : Int))) / 2) })
      fun _ => ⟨rfl, rfl, rfl⟩
    dsimp only
    split
    · exact State.hears_advert (ad := advertOf m v.now) hofs (State.keepsPorts_follow _ _ _ _)
    · exact State.hears_advert (ad := advertOf m v.now) hofs (State.keepsPorts.refl _)

theorem State.onlySends_now {s t : State} (h : t.gtb = s.gtb) : t.now = s.now := congrArg Gtb.now h

theorem timeSend_spec (s : State) (l : List (LinkPort × U64 × U64)) :
    s.tl.sentGrid < (timeSend l s).tl.sentGrid ∧ (timeSend l s).now = (s.advance ((timeSend l s).tl.sentGrid * 2 ^ 20 + 2 ^ 19)).now := by
  let g := max (if s.now ≤ s.now / 2 ^ 20 * 2 ^ 20 + 2 ^ 19 then s.now / 2 ^ 20 else s.now / 2 ^ 20 + 1) (s.tl.sentGrid + 1)
  have hsend : (timeSend l s).tl.sentGrid = g ∧ (timeSend l s).gtb = (s.advance (g * 2 ^ 20 + 2 ^ 19)).gtb := by
    unfold timeSend
    dsimp only
    refine forAll_keeps (P := fun t : State => t.tl.sentGrid = g ∧ t.gtb = (s.advance (g * 2 ^ 20 + 2 ^ 19)).gtb) _ (fun p _ t ht => ?_) ⟨rfl, rfl⟩
    split
    · exact ht
    · obtain ⟨hgrid, hgtb⟩ := ht
      have hsent := State.onlySends_sendMsg (t.setTlp p (fun x => { x with
        tTx := ((List.find? (fun (e : LinkPort × U64 × U64) => e.1.val = p) l).map (·.2.1.toNat)).getD 0
        tRx := ((List.find? (fun (e : LinkPort × U64 × U64) => e.1.val = p) l).map (·.2.2.toNat)).getD 0 })) p 0x30
      have hkeeps := fun m => State.sendMsg_only (Only.refl [.out, .tl] (t.setTlp p (fun x => { x with
        tTx := ((List.find? (fun (e : LinkPort × U64 × U64) => e.1.val = p) l).map (·.2.1.toNat)).getD 0
        tRx := ((List.find? (fun (e : LinkPort × U64 × U64) => e.1.val = p) l).map (·.2.2.toNat)).getD 0 }))) (List.Subset.refl _) p 0x30 m
      exact ⟨(congrArg Tsuholt.sentGrid (hsent _).tl).trans hgrid, ((hkeeps _).gtb_eq (by decide)).trans hgtb⟩
  obtain ⟨hgrid, hgtb⟩ := hsend
  rw [hgrid]
  exact ⟨lt_of_lt_of_le (Nat.lt_succ_self _) (Nat.le_max_right _ _), State.onlySends_now hgtb⟩

theorem masterAdvertExpiry_of_some {s : State} {p : LinkPort} {a : Advert} (h : (s.tlp p).advert = some a) :
    ((masterAdvertExpiry p s).tlp p).advert = none ∧ (masterAdvertExpiry p s).now = (s.advance ((a.grid + 8) * 2 ^ 20 + 2 ^ 19)).now := by
  have hkeeps := State.keepsPorts_chooseMaster ((s.advance ((a.grid + 8) * 2 ^ 20 + 2 ^ 19)).setTlp p (fun x => { x with advert := none }))
  unfold masterAdvertExpiry
  rw [h]
  dsimp only
  rw [hkeeps.now, hkeeps.tlp, State.tlp_setTlp_same]
  exact ⟨rfl, rfl⟩

theorem State.freeRun_align (s : State) : s.freeRun.gtb.base = s.gtb.base ∧ s.freeRun.gtb.align = s.gtb.align ∧ s.freeRun.gtb.aligned = s.gtb.aligned := by
  unfold State.freeRun
  split <;> exact ⟨rfl, rfl, rfl⟩

theorem timeAlignment_of_due {s : State} (hnot : s.gtb.aligned = false) (hfrom : s.tl.alignFrom ≠ 0) :
    (timeAlignment s).gtb.aligned = true ∧ ∀ e, s.tl.est = some e →
      (e < -64 → (timeAlignment s).gtb.base = s.gtb.base + BitVec.ofNat 64 e.natAbs ∧ (timeAlignment s).gtb.align = BitVec.ofNat 64 e.natAbs) ∧
      (-64 ≤ e → (timeAlignment s).gtb.base = s.gtb.base ∧ (timeAlignment s).gtb.align = 0) := by
  unfold timeAlignment
  rw [hnot, if_neg (by simp [hfrom])]
  dsimp only
  refine ⟨(State.freeRun_align _).2.2, fun e he => ?_⟩
  obtain ⟨hbase, halign, -⟩ := State.freeRun_align _
  rw [hbase, halign, he]
  dsimp only
  rw [if_pos (by rfl), he]
  dsimp only
  refine ⟨fun hlt => ?_, fun hle => ?_⟩
  · rw [if_pos hlt]
    exact ⟨rfl, rfl⟩
  · rw [if_neg (Int.not_lt.2 hle)]
    exact ⟨BitVec.add_zero _, rfl⟩

/-- Settles O39, command by command. -/
theorem podTime : Obligations.PodTime := by
  unfold Obligations.PodTime
  refine ⟨fun s l => ⟨_, rfl, timeSend_spec s l⟩, fun s p m hp hup => ⟨_, State.onLink_of_fitted hp _, ?_⟩,
    fun s p a hp ha => ⟨_, State.onLink_of_fitted hp _, masterAdvertExpiry_of_some ha⟩,
    fun s hnot hfrom => ⟨_, rfl, timeAlignment_of_due hnot hfrom⟩⟩
  obtain ⟨⟨-, htold, hpkg, hsize⟩, hadv⟩ := time_of_up hup m
  refine ⟨htold, hpkg, hsize, fun h => ?_, fun h1 h2 => ?_⟩
  · rw [hadv, advertOf, if_pos (by simpa using h)]
  · rw [hadv, advertOf, if_neg (by simp [h1, h2])]

end Sys2Proof.Machine
end


section
set_option Elab.async false
/-! SUPPORT. What one step schedules: the decodes picked, one token each, and the prefill pieces cut from what the budget leaves (R330). -/

open Sys2Proof Sys2Proof.Machine

namespace Sys2Proof.Machine

theorem mem_insertBy {α : Type} (lt : α → α → Bool) (a x : α) (l : List α) : x ∈ insertBy lt a l ↔ x = a ∨ x ∈ l := by
  induction l with
  | nil => simp [insertBy]
  | cons b l ih =>
    unfold insertBy
    split
    · simp
    · simp only [List.mem_cons, ih]
      tauto

theorem mem_sortBy {α : Type} (lt : α → α → Bool) (x : α) (l : List α) : x ∈ sortBy lt l ↔ x ∈ l := by
  induction l with
  | nil => simp [sortBy]
  | cons a l ih => exact (mem_insertBy lt a x (sortBy lt l)).trans ((or_congr_right ih).trans List.mem_cons.symm)

/-- What holds of every sequence scheduled: its share is not nothing, one token for a decode, and within the chunk and its own
tokens for a prefill. -/
def Sequence.fairShare (chunk : Nat) (x : Sequence) : Prop :=
  0 < x.step ∧ (x.st = .decode → x.step = 1) ∧ (x.st = .prefill → x.step ≤ chunk ∧ x.read + x.step ≤ x.tokens.length)

theorem fairShare_decode {chunk : Nat} {x : Sequence} (h : x.st = .decode) : Sequence.fairShare chunk { x with step := 1 } :=
  ⟨Nat.one_pos, fun _ => rfl, fun hp => absurd (h.symm.trans hp) (by decide)⟩

theorem fairShare_prefill {chunk g : Nat} {x : Sequence} (h : x.st = .prefill) (h0 : g ≠ 0) (hc : g ≤ chunk) (ht : x.read + g ≤ x.tokens.length) :
    Sequence.fairShare chunk { x with step := g } :=
  ⟨Nat.pos_of_ne_zero h0, fun hp => absurd (h.symm.trans hp) (by decide), fun _ => ⟨hc, ht⟩⟩

/-- The decodes picked: no more than the cap, and one token each. -/
theorem pickDecodes (d : Drover) (chunk cap : Nat) (l sel : List Sequence) (hl : ∀ x ∈ l, x.st = .decode)
    (hsel : sel.length ≤ cap ∧ (sel.map (·.step)).sum = sel.length ∧ ∀ x ∈ sel, x.fairShare chunk) :
    let r := l.foldl (fun (sel : List Sequence) x =>
      if sel.length < cap && ringReady d sel x then sel ++ [{ x with step := 1 }] else sel) sel
    r.length ≤ cap ∧ (r.map (·.step)).sum = r.length ∧ ∀ x ∈ r, x.fairShare chunk := by
  induction l generalizing sel with
  | nil => exact hsel
  | cons x l ih =>
    refine ih _ (fun y hy => hl y (List.mem_cons_of_mem _ hy)) ?_
    beta_reduce
    split
    case isFalse => exact hsel
    case isTrue h =>
      obtain ⟨hlen, hsum, hall⟩ := hsel
      have hlt : sel.length < cap := of_decide_eq_true ((Bool.and_eq_true _ _).mp h).1
      refine ⟨by simpa using hlt, by simp [hsum], ?_⟩
      intro y hy
      rcases List.mem_append.mp hy with hy | hy
      · exact hall y hy
      · obtain rfl := List.mem_singleton.mp hy
        exact fairShare_decode (hl x List.mem_cons_self)

/-- A piece cut from the budget left: its size is at most what is left and the chunk, and stays within the sequence's tokens. -/
theorem pieceSize_le {len read chunk left : Nat} {b : Bool} {g : Nat}
    (hg : g = if len - read ≤ min chunk left then (if b then len - read else 0) else (read + min chunk left) / 256 * 256 - read) (h0 : g ≠ 0) :
    g ≤ left ∧ g ≤ chunk ∧ read + g ≤ len := by
  have hfloor := Nat.div_mul_le_self (read + min chunk left) 256
  split at hg
  · split at hg <;> omega
  · omega

/-- The prefill pieces: each takes from the budget what it schedules. -/
theorem cutPrefills (chunk budget : Nat) (ready : List Sequence → Sequence → Bool) (l : List Sequence) (a : List Sequence × Nat)
    (hl : ∀ x ∈ l, x.st = .prefill) (ha : (a.1.map (·.step)).sum + a.2 ≤ budget ∧ ∀ x ∈ a.1, x.fairShare chunk) :
    let r := l.foldl (fun (a : List Sequence × Nat) x =>
      let r := x.tokens.length - x.read
      let lim := min chunk a.2
      let g := if r ≤ lim then (if ready a.1 x then r else 0) else (x.read + lim) / 256 * 256 - x.read
      if g = 0 then a else (a.1 ++ [{ x with step := g }], a.2 - g)) a
    (r.1.map (·.step)).sum + r.2 ≤ budget ∧ ∀ x ∈ r.1, x.fairShare chunk := by
  induction l generalizing a with
  | nil => exact ha
  | cons x l ih =>
    refine ih _ (fun y hy => hl y (List.mem_cons_of_mem _ hy)) ?_
    dsimp only
    generalize hg : (if x.tokens.length - x.read ≤ min chunk a.2 then (if ready a.1 x then x.tokens.length - x.read else 0)
      else (x.read + min chunk a.2) / 256 * 256 - x.read) = g
    split
    case isTrue => exact ha
    case isFalse h0 =>
      obtain ⟨hsum, hall⟩ := ha
      obtain ⟨hleft, hchunk, hlen⟩ := pieceSize_le hg.symm h0
      refine ⟨?_, ?_⟩
      · simp only [List.map_append, List.sum_append, List.map_cons, List.map_nil, List.sum_cons, List.sum_nil]
        omega
      · intro y hy
        rcases List.mem_append.mp hy with hy | hy
        · exact hall y hy
        · obtain rfl := List.mem_singleton.mp hy
          exact fairShare_prefill (hl x List.mem_cons_self) h0 hchunk hlen

end Sys2Proof.Machine

/-- Settles O44: the decodes picked are no more than the budget and take one token each, and each prefill piece is cut from what
is left. -/
theorem stepsKeepTheirBudget : Obligations.StepsKeepTheirBudget := by
  unfold Obligations.StepsKeepTheirBudget
  intro d c
  unfold Drover.schedule
  extract_lets run pre cap byAge decs picked go
  have hcap : cap ≤ c.budget := by
    unfold cap
    split
    · exact le_rfl
    · exact Nat.sub_le _ _
  have hdecs : ∀ x ∈ decs, x.st = .decode := fun x hx => of_decide_eq_true (List.mem_filter.mp ((mem_sortBy byAge x _).mp hx)).2
  obtain ⟨hlen, hsum, hall⟩ := pickDecodes d c.chunk cap decs [] hdecs ⟨Nat.zero_le _, rfl, by simp⟩
  have hpre : ∀ x ∈ pre, x.st = .prefill := fun x hx => of_decide_eq_true (List.mem_filter.mp hx).2
  obtain ⟨htotal, hfair⟩ := cutPrefills c.chunk c.budget
    (fun l x => ringReady d (l.filter (fun y => y.st = .decode || y.read + y.step = y.tokens.length)) x) pre (picked, c.budget - picked.length) hpre
    ⟨(Nat.add_comm _ _).trans_le (hsum ▸ (Nat.sub_add_cancel (hlen.trans hcap)).le), hall⟩
  exact ⟨(Nat.le_add_right _ _).trans htotal, hfair⟩

end


section
set_option Elab.async false
/-! SUPPORT. Power: the operations on clusters and queues change no field of it but the clusters' sky states, and those on all of
them together leave every cluster Clear (R292, R435, R530). -/

open Sys2Proof Sys2Proof.Machine

namespace Sys2Proof.Machine

/-- Nothing of the part's power differs but the clusters' sky states. -/
def State.skyOnly (s t : State) : Prop := ∃ k, t.power = { s.power with sky := k }

namespace State.skyOnly
variable {s t u : State}

theorem refl (s : State) : s.skyOnly s := ⟨s.power.sky, rfl⟩

theorem of_power_eq (h : t.power = s.power) : s.skyOnly t := ⟨s.power.sky, h⟩

theorem trans (h : s.skyOnly t) (g : t.skyOnly u) : s.skyOnly u := by
  obtain ⟨_, hk⟩ := h
  obtain ⟨k, hg⟩ := g
  exact ⟨k, hg.trans (by rw [hk])⟩

theorem only {l : List Part} (h : s.skyOnly t) (g : Only l t u) (hp : Part.power ∉ l) : s.skyOnly u := h.trans (of_power_eq (g.power_eq hp))

theorem phase_eq (h : s.skyOnly t) : t.power.phase = s.power.phase := by
  obtain ⟨_, hk⟩ := h
  rw [hk]

end State.skyOnly

theorem State.skyOnly_forAll {α : Type} (l : List α) (f : α → State → State) (hf : ∀ (a : α) (u : State), u.skyOnly (f a u)) (s : State) : s.skyOnly (forAll l f s) :=
  forAll_keeps (P := s.skyOnly) l (fun a _ u hu => hu.trans (hf a u)) (.refl s)

theorem State.skyOnly_setStall (s : State) (n : Nat) (x : Stall) : s.skyOnly (s.setStall n x) :=
  (State.skyOnly.refl s).only (State.setStall_only (Only.refl _ s) (List.Subset.refl _) n x) (by decide)

theorem State.skyOnly_setSky (s : State) (c : Nat) (f : ClusterSky → ClusterSky) : s.skyOnly (s.setSky c f) := ⟨_, rfl⟩

theorem State.skyOnly_beginIdle (s : State) (c : Nat) : s.skyOnly (s.beginIdle c) := s.skyOnly_setSky c _

theorem State.skyOnly_vacate (s : State) (c : Nat) : s.skyOnly (s.vacate c) := (s.skyOnly_setSky c _).trans (State.skyOnly_beginIdle _ c)

theorem State.skyOnly_occupy (s : State) (c : Nat) : s.skyOnly (s.occupy c).1 := by
  unfold State.occupy
  dsimp only
  split
  case h_1 => exact .refl s
  case h_2 => exact s.skyOnly_setSky c _
  case h_3 => exact s.skyOnly_setSky c _

theorem State.skyOnly_freeCluster (s : State) (c : Nat) (clean safe : Bool) : s.skyOnly (s.freeCluster c clean safe) :=
  (State.skyOnly.of_power_eq rfl).trans (State.skyOnly_vacate _ c)

theorem State.skyOnly_resumeCluster (s : State) (c : Nat) : s.skyOnly (s.resumeCluster c) := by
  unfold State.resumeCluster
  dsimp only
  split
  · exact (s.skyOnly_setSky c _).trans (State.skyOnly_occupy _ c)
  · exact (s.skyOnly_setSky c _).trans (State.skyOnly_beginIdle _ c)

theorem State.skyOnly_endHalts (s : State) (n : Nat) : s.skyOnly (s.endHalts n) := by
  unfold State.endHalts
  split
  · exact .refl s
  · exact (s.skyOnly_setStall n _).trans (State.skyOnly_forAll _ _ (fun c u => u.skyOnly_resumeCluster c) _)

theorem State.skyOnly_endDebug (s : State) : s.skyOnly s.endDebug :=
  (State.skyOnly.of_power_eq rfl).trans (State.skyOnly_forAll _ _ (fun n u => u.skyOnly_endHalts n) _)

theorem State.skyOnly_stopCommands (s : State) (n : StallNo) (p : Nat → Entry → Bool) : s.skyOnly (s.stopCommands n p).1 := by
  unfold State.stopCommands
  split
  · exact .refl s
  · exact (s.skyOnly_setStall n _).trans (State.skyOnly_forAll _ _ (fun c u => u.skyOnly_freeCluster c false false) _)

theorem State.skyOnly_stopAll (s : State) : s.skyOnly s.stopAll.1 :=
  forAll_keeps (P := fun r : State × List CmdAt => s.skyOnly r.1) s.stallIds
    (fun n _ r hr => (hr.trans (r.1.skyOnly_stopCommands n _)).only (State.dropStep_only (Only.refl _ _) (List.Subset.refl _) n) (by decide)) (.refl s)

/-! Doorbells that were held: their records enter the journal, and at most the stall's continuity breaks. -/

end Sys2Proof.Machine
end


section
set_option Elab.async false
/-! SUPPORT. Boot: what the end of a phase leaves, and the module's error state (R435, R547). -/

open Sys2Proof Sys2Proof.Machine

namespace Sys2Proof.Machine

theorem members_badRtp_zero : members (0 : BitVec 2) = [] := by decide

/-- A phase before the last that ends without a failure: its effect, and the next phase. -/
theorem bootPhaseDone_next (s : State) (a b c : Byte) (herr : s.prot.error = false) (hlo : 1 ≤ s.power.phase) (hhi : s.power.phase < 7) :
    bootPhaseDone [] 0 a b c s =
      { s.bootPhase s.power.phase with power := { (s.bootPhase s.power.phase).power with phase := s.power.phase + 1 } } := by
  unfold bootPhaseDone
  rw [members_badRtp_zero]
  have hrun : (s.power.phase = 0 || 7 < s.power.phase || s.prot.error) = false := by simp [herr]; omega
  simp [hrun, show s.power.phase ≠ 7 by omega, forAll]

theorem bootPhaseDone_last (s : State) (a b c : Byte) (herr : s.prot.error = false) (h7 : s.power.phase = 7) :
    bootPhaseDone [] 0 a b c s = s.bootPhase 7 := by
  unfold bootPhaseDone
  rw [members_badRtp_zero, h7]
  simp [herr, forAll]

theorem bootPhase_last (s : State) : ∃ v : State, s.bootPhase 7 = { v with power := { v.power with phase := bootDone, bootAt := v.nowW } }.platform :=
  ⟨_, rfl⟩

theorem bootPhase_last_done (s : State) : (s.bootPhase 7).power.phase = bootDone ∧ (s.bootPhase 7).power.bootAt = (s.bootPhase 7).nowW := by
  obtain ⟨v, hv⟩ := bootPhase_last s
  have h := State.platform_only (Only.refl _ { v with power := { v.power with phase := bootDone, bootAt := v.nowW } }) (List.Subset.refl _)
  rw [hv, h.power_eq (by decide), h.nowW_eq (by decide)]
  exact ⟨rfl, rfl⟩

theorem grooming_zeroiseProgress (s : State) : s.zeroiseProgress.prot.grooming = s.prot.grooming := by
  unfold State.zeroiseProgress
  split
  · exact forAll_keeps (P := fun t : State => t.prot.grooming = s.prot.grooming) _
      (fun w _ u hu => (congrArg Prot.grooming ((State.answerWaiter_only (Only.refl _ u) (List.Subset.refl _) w 0x0063 ok).prot_eq (by decide))).trans hu) rfl
  · rfl

/-- The module's part of the error state: it failed, it is no longer approved, and why. -/
def State.failed (s : State) (a b c : Byte) : State :=
  { s with prot := { s.prot with error := true, approved := false, fipsCause := BitVec.ofNat 32 (a.toNat + 256 * b.toNat + 65536 * c.toNat) } }

theorem enterError_of_no_error (s : State) (a b c : Byte) (h : s.prot.error = false) :
    s.enterError a b c = (s.endDebug.stopAll.1.quietLinks.failed a b c).platform := by
  unfold State.enterError State.failed
  exact if_neg (ne_true_of_eq_false h)

/-- The module enters its error state once: no longer approved, with the cause it was given; nothing of the power but the
clusters' sky states differs. -/
theorem enterError_spec (s : State) (a b c : Byte) (h : s.prot.error = false) :
    s.skyOnly (s.enterError a b c) ∧ (s.enterError a b c).prot.error = true ∧ (s.enterError a b c).prot.approved = false ∧
      (s.enterError a b c).prot.fipsCause = BitVec.ofNat 32 (a.toNat + 256 * b.toNat + 65536 * c.toNat) := by
  rw [enterError_of_no_error s a b c h]
  have hr : s.skyOnly s.endDebug.stopAll.1 := s.skyOnly_endDebug.trans (State.skyOnly_stopAll _)
  have hu : s.skyOnly s.endDebug.stopAll.1.quietLinks := hr.only (State.quietLinks_only (Only.refl _ _) (List.Subset.refl _)) (by decide)
  generalize s.endDebug.stopAll.1.quietLinks = u at *
  have hp := State.platform_only (Only.refl _ (u.failed a b c)) (List.Subset.refl _)
  have hf : s.skyOnly (u.failed a b c) := hu.trans (.of_power_eq rfl)
  have hprot : (u.failed a b c).platform.prot = (u.failed a b c).prot := hp.prot_eq (by decide)
  exact ⟨hf.only hp (by decide), congrArg Prot.error hprot, congrArg Prot.approved hprot, congrArg Prot.fipsCause hprot⟩

theorem bootPhaseDone_bothCopies (s : State) (l : List Component) (a b c : Byte) (herr : s.prot.error = false) (hlo : 1 ≤ s.power.phase)
    (hhi : s.power.phase ≤ 7) : ∃ u : State, u.power.phase = bootError ∧ u.prot.error = false ∧ bootPhaseDone l 3 a b c s = u.enterError a b c := by
  unfold bootPhaseDone
  extract_lets k u v w
  have hrun : ¬ (decide (k = 0) || decide (7 < k) || s.prot.error) = true := by simp [k, herr]; omega
  rw [if_neg hrun, if_pos (by simp)]
  refine ⟨_, rfl, ?_, rfl⟩
  have hu : u.prot.error = false := by
    refine forAll_keeps (P := fun t : State => t.prot.error = false) l (fun c _ t h => ?_) herr
    exact h
  refine forAll_keeps (P := fun t : State => t.prot.error = false) _ (fun i _ t h => ?_) hu
  split
  · exact h
  · exact h

end Sys2Proof.Machine

/-- Settles O48: a phase's end but the last only counts on from what the phase did, the last one's sets the time of the boot, and
both copies' failure is the error state. -/
theorem bootPhases : Obligations.BootPhases := by
  unfold Obligations.BootPhases
  refine ⟨?_, ?_, ?_⟩
  · intro s a b c herr hlo hhi
    refine ⟨_, rfl, ?_⟩
    rw [bootPhaseDone_next s a b c herr hlo hhi]
    refine ⟨rfl, ?_, ?_, ?_⟩
    · intro h
      rw [h]
      exact ⟨rfl, rfl⟩
    · intro h
      rw [h]
      rfl
    · intro h
      rw [h]
      exact grooming_zeroiseProgress _
  · intro s a b c herr h7
    refine ⟨_, rfl, ?_⟩
    rw [bootPhaseDone_last s a b c herr h7]
    exact bootPhase_last_done s
  · intro s l a b c herr hlo hhi
    obtain ⟨u, hphase, hue, he⟩ := bootPhaseDone_bothCopies s l a b c herr hlo hhi
    obtain ⟨hsky, hspec⟩ := enterError_spec u a b c hue
    exact ⟨_, rfl, by rw [he]; exact ⟨hsky.phase_eq.trans hphase, hspec⟩⟩

end


section
set_option Elab.async false
/-! SUPPORT. Sky states, package Clear and the stop of the whole part (R292, R529–R536, R541). -/

open Sys2Proof Sys2Proof.Machine

namespace Sys2Proof.Machine

theorem State.platform_keeps (s : State) : Only [.out, .side] s s.platform := State.platform_only (Only.refl _ s) (List.Subset.refl _)

/-! The clusters' own moves (R530, R531). -/

/-! Package Clear (R529, R533–R536). -/

/-! The stop of the whole part. -/

/-- What a stop of the whole part leaves: package Clear on reference cycles, every cluster Clear and no link up; the rest of the
power is as it was, but what waited for a warm reset waits no longer. -/
structure State.stopped (s t : State) : Prop where
  power : ∃ d, t.power = { s.power with
    sky := [], clearSt := .inClear, clearFrom := d, wakeNeedsCluster := false, warm := none, warmDeferred := false, deferredReqs := [] }
  rsv : ∃ links, t.rsv = { s.rsv with links := links }
  coarse : t.gtb.coarse = true
  up : ∀ p, p < 48 → (t.tlp p).up = false

theorem State.stopped.sky {s t : State} (h : s.stopped t) (c : Nat) : (t.sky c).sky = .clear := by
  obtain ⟨d, hd⟩ := h.power
  rw [State.sky, hd]
  rfl

end Sys2Proof.Machine

end


section
set_option Elab.async false
/-! SUPPORT. Debug sessions: what a session's opening and end and a halt leave of the stalls and the clusters (R424–R427). -/

open Sys2Proof Sys2Proof.Machine

namespace Sys2Proof.Machine

/-! The stalls of a session. -/

/-! Halts (R426, R530). -/

/-- A cluster that a halt holds at Broken; a sleeping one wakes to it. -/
def ClusterSky.halted (now : Nat) (k : ClusterSky) : ClusterSky :=
  match k.sky with
  | .clear => { k with haltHold := true, waking := some (.broken, now + wakeTime .clear) }
  | .scattered => { k with haltHold := true, waking := some (.broken, now + wakeTime .scattered) }
  | _ => { k with haltHold := true, sky := .broken }

/-! The checks of a token read nothing that GO changes. -/

end Sys2Proof.Machine

end


section
set_option Elab.async false
/-! SUPPORT. Self-tests, zeroisation, decommission and the ledger's query (R434–R438, R594). -/

open Sys2Proof Sys2Proof.Machine

namespace Sys2Proof.Machine

/-! Self-tests. -/

/-! The RTP's copies. -/

/-! Zeroisation. -/

/-! Decommission (R438). -/

/-! The ledger's query (R594). -/

theorem State.slot_of_prot_eq {s t : State} (h : t.prot = s.prot) (k : Nat) : t.slot k = s.slot k := by rw [State.slot, State.slot, h]

end Sys2Proof.Machine

end


section
set_option Elab.async false
/-! SUPPORT. Requests inside a session: what they reach and how they are answered; sealing (R452, R461–R465). -/

open Sys2Proof Sys2Proof.Machine

namespace Sys2Proof.Machine

/-! A request inside a session. -/

theorem State.asksInside_spec {s : State} {id : U32} {m : MbReq} {r : Req} (h : s.asksInside id m = some r) :
    (∀ body, s.ask (some id) m body = body r s) ∧ r.session = some id ∧ r.payload = m.payload ∧ ∃ p n, r.fn = .vf p n := by
  unfold State.asksInside at h
  cases hx : s.sessionHeard id.toNat with
  | none => simp [hx] at h
  | some x =>
    cases hf : x.finished with
    | false => simp [hx, hf, Option.filter] at h
    | true =>
      rw [hx, Option.filter_some, if_pos hf] at h
      dsimp only at h
      split at h
      case h_2 => cases h
      case h_1 p n hfn =>
        obtain rfl := Option.some.inj h
        refine ⟨fun body => ?_, rfl, rfl, p, n, rfl⟩
        unfold State.ask State.askInside State.inSession
        dsimp only
        rw [hx]
        dsimp only
        rw [if_pos hf, hfn]
        rfl

theorem State.mbGo_session {s : State} {r : Req} {op : Nat} (h : r.session.isSome = true) : s.mbGo r op = (s, true) := if_pos h

theorem State.mbServe_session {s : State} {f : MbForm} {r : Req} (h : r.session.isSome = true) (hc : s.mbCheck f r = none) (body : State → State) :
    s.mbServe f r body = body s := by
  unfold State.mbServe
  rw [State.mbGo_session h]
  simp only [Bool.not_true, Bool.false_eq_true, if_false, hc]

/-- An answer inside a session is one message of its connection, and nothing else. -/
theorem State.mbAnswer_session {s : State} {r : Req} (h : r.session.isSome = true) (op : Nat) (a : Answer) :
    s.mbAnswer r op a = s.emit (.spdm (some r.fn) 0x7E ((RespHdr.mk (BitVec.ofNat 16 op) r.tag a.payload.length a.result a.detail).bytes ++ a.payload)) :=
  if_pos h

theorem State.replied_mbAnswer {s t : State} {r : Req} (h : r.session.isSome = true) (hout : t.host.out = s.host.out) (op : Nat) (a : Answer) :
    s.replied (t.mbAnswer r op a) r op a := by
  rw [State.mbAnswer_session h, State.replied, ← hout]
  rfl

/-! Sealing. -/

/-- The form whose every check a request passes but the first. -/
def sealOpen (op len : Nat) (m : Req) : MbForm :=
  { sealForm op len with clear3 := true, len := m.payload.length, reserved := [], bad := fun _ => none, always := true, inError := true }

theorem State.mbCheck_sealOpen (s : State) (op len : Nat) (m : Req) :
    s.mbCheck (sealOpen op len m) m = if fnIsVf m.fn then none else some notPermitted := by
  unfold State.mbCheck sealOpen sealForm form
  cases h : fnIsVf m.fn <;> simp [minOfs, firstNonzero]

theorem State.serveSeal_shut {s : State} {m : Req} (h : s.mayOpenSeal m = false) (op len : Nat) (body : Nat → Stall → State → State) :
    s.serveSeal op len m body = s.mbServeA (sealOpen op len m) m (fun s => (notPermitted, s)) := by
  unfold State.serveSeal
  rw [h]
  rfl

/-- A sealing request that lacks the right and that GO takes is answered so, whatever its payload. -/
theorem State.serveSeal_notPermitted {s : State} {m : Req} {op : Nat} (h : s.mayOpenSeal m = false) (hgo : (s.mbGo m op).2 = true) (len : Nat)
    (body : Nat → Stall → State → State) : s.serveSeal op len m body = (s.mbGo m op).1.mbAnswer m op notPermitted := by
  rw [State.serveSeal_shut h]
  unfold State.mbServeA State.mbServe
  change (if !(s.mbGo m op).2 then _ else _) = _
  rw [hgo]
  simp only [Bool.not_true, Bool.false_eq_true, if_false, State.mbCheck_sealOpen]
  cases fnIsVf m.fn <;> rfl

theorem State.mayOpenSeal_plain (s : State) (m : MbReq) : s.mayOpenSeal (plain m) = false := Bool.and_false _

/-- Sealing outside a session (R462). -/
theorem State.serveSeal_outside {s : State} {m : MbReq} {op : Nat} (hf : hostFn m.fn = true) (hgo : (s.mbGo (plain m) op).2 = true) (len : Nat)
    (body : Nat → Stall → State → State) :
    (s.serveSeal op len (plain m) body).answered m op notPermitted ∧ (s.serveSeal op len (plain m) body).stalls = s.stalls := by
  rw [State.serveSeal_notPermitted (s.mayOpenSeal_plain m) hgo]
  exact ⟨State.mbAnswer_answered (State.mbGo_awaits hf hgo) _, (State.mbAnswer_stalls _ _ _ _).trans (State.mbGo_stalls _ _ _)⟩

/-- Sealing inside a session without the right (R429, R462). -/
theorem State.serveSeal_inside {s : State} {r : Req} (hs : r.session.isSome = true) (h : s.mayOpenSeal r = false) (op len : Nat)
    (body : Nat → Stall → State → State) :
    s.replied (s.serveSeal op len r body) r op notPermitted ∧ (s.serveSeal op len r body).stalls = s.stalls := by
  rw [State.serveSeal_notPermitted h (by rw [State.mbGo_session hs]), State.mbGo_session hs]
  exact ⟨State.replied_mbAnswer hs rfl _ _, State.mbAnswer_stalls _ _ _ _⟩

/-- A sealing request that passes its checks comes to its body, of the function's own stall. -/
theorem State.serveSeal_opened {s : State} {r : Req} {op len : Nat} {p : HostPort} {n : StallNo} {x : Stall} (hs : r.session.isSome = true)
    (h : s.mayOpenSeal r = true) (hc : s.mbCheck (sealForm op len) r = none) (hfn : r.fn = .vf p n) (hx : s.stall? n = some x)
    (body : Nat → Stall → State → State) : s.serveSeal op len r body = body n x s := by
  have hn : stallArg (sealForm op len) r = n := by simp [stallArg, hfn, fnStall]
  unfold State.serveSeal
  rw [h]
  dsimp only
  rw [State.mbServe_session hs hc, hn, hx]
  rfl

/-- SEAL_KEYGEN of a handle in use is refused. -/
theorem sealKeygen_used {s : State} {r : Req} {p : HostPort} {n : StallNo} {x : Stall} (hs : r.session.isSome = true) (h : s.mayOpenSeal r = true)
    (hc : s.mbCheck (sealForm 0x0072 40) r = none) (hfn : r.fn = .vf p n) (hx : s.stall? n = some x)
    (hi : (x.attest.images.find? (f8 r.payload 0)).isSome = true) : sealKeygen r s = s.mbAnswer r 0x0072 (refuse 1) := by
  unfold sealKeygen
  rw [State.serveSeal_opened hs h hc hfn hx]
  exact if_pos hi

/-- SEAL_KEYGEN of a free handle makes its pair (R463). -/
theorem sealKeygen_makes {s : State} {r : Req} {p : HostPort} {n : StallNo} {x : Stall} (hs : r.session.isSome = true) (h : s.mayOpenSeal r = true)
    (hc : s.mbCheck (sealForm 0x0072 40) r = none) (hfn : r.fn = .vf p n) (hx : s.stall? n = some x)
    (hi : x.attest.images.find? (f8 r.payload 0) = none) :
    ∃ y, (sealKeygen r s).stall? n = some y ∧ y.attest.images = x.attest.images ∧ y.attest.pairs.find? (f8 r.payload 0) =
      some { priv := (Config.random 48 s.free).toList, pub := (Config.p384Public (Config.random 48 s.free).toList).toList } ∧
      (sealKeygen r s).free = s.free + 2 := by
  unfold sealKeygen
  rw [State.serveSeal_opened hs h hc hfn hx]
  dsimp only
  rw [hi, Option.isSome_none, if_neg Bool.false_ne_true, State.stall?_setStall, if_pos rfl]
  dsimp only [State.drawBytes]
  refine ⟨_, (State.mbAnswer_stall? _ _ _ _ _).trans ((State.stall?_setStall _ _ _ _).trans (if_pos rfl)), rfl, ?_, ?_⟩
  · change Tab.find? (x.attest.pairs.put (f8 r.payload 0) (some _)) _ = _
    rw [Tab.find?_put, if_pos rfl]
  · exact (State.mbAnswer_free _ _ _ _).trans rfl

/-- The stall with no pending pair for a handle. -/
def Stall.noPair (x : Stall) (h : Nat) : Stall := { x with attest := { x.attest with pairs := x.attest.pairs.erase h } }
/-- The stall with an image under a handle. -/
def Stall.withImage (h : Nat) (i : SealedImage) (x : Stall) : Stall := { x with attest := { x.attest with images := x.attest.images.put h (some i) } }

/-- SEAL_INSTALL for a pair that waits and a header that stands (R464). -/
theorem sealInstall_eq {s : State} {r : Req} {p : HostPort} {n : StallNo} {x : Stall} {k : SealPair} (hs : r.session.isSome = true)
    (h : s.mayOpenSeal r = true) (hc : s.mbCheck (sealForm 0x0073 408) r = none) (hfn : r.fn = .vf p n) (hx : s.stall? n = some x)
    (hi : x.attest.images.find? (f8 r.payload 0) = none) (hk : x.attest.pairs.find? (f8 r.payload 0) = some k)
    (hh : imageHeaderOk (slice r.payload 8 256) = true) :
    sealInstall r s = match unwrapKey k (slice r.payload 8 256) (slice r.payload 264 96) (slice r.payload 360 48) (Config.sha384 (slice r.payload 8 256)) with
      | none => (s.setStall n (x.noPair (f8 r.payload 0))).mbAnswer r 0x0073 (refuse 4)
      | some key => (((s.setStall n (x.noPair (f8 r.payload 0))).modStall n (Stall.withImage (f8 r.payload 0) { key := key, imageId := slice (slice r.payload 8 256) 8 16, pages := f32 (slice r.payload 8 256) 0x18, digest := Config.sha384 (slice r.payload 8 256) })).logAppend n 4 0xFF (f8 r.payload 0) (Config.sha384 (slice r.payload 8 256))).mbAnswer r 0x0073 ok := by
  unfold sealInstall
  rw [State.serveSeal_opened hs h hc hfn hx]
  dsimp only
  rw [hi, hk, hh, Option.isSome_none, if_neg Bool.false_ne_true]
  rfl

theorem State.logAppend_of_stall {s : State} {n : Nat} {x : Stall} (h : s.stall? n = some x) (kind ctx handle : Nat) (d : BitVec 384) :
    (s.logAppend n kind ctx handle d).stall? n = some { x with attest := x.attest.append kind ctx handle s.nowW d } := by
  unfold State.logAppend
  rw [State.stall?_modStall, if_pos rfl, h]
  rfl
theorem State.logAppend_out (s : State) (n kind ctx handle : Nat) (d : BitVec 384) : (s.logAppend n kind ctx handle d).host.out = s.host.out :=
  (State.modStall_only (Only.refl [.stalls] s) (by decide) n _).out_eq (by decide)

theorem State.modStall_out (s : State) (n : Nat) (f : Stall → Stall) : (s.modStall n f).host.out = s.host.out :=
  (State.modStall_only (Only.refl [.stalls] s) (by decide) n f).out_eq (by decide)
theorem stall?_of_modStall {s : State} {n : Nat} {x : Stall} (h : s.stall? n = some x) (f : Stall → Stall) : (s.modStall n f).stall? n = some (f x) := by
  rw [State.stall?_modStall, if_pos rfl, h]
  rfl

/-- An entry of the log, and the answer inside the session. -/
theorem State.logged_mbAnswer {s t : State} {r : Req} {n : Nat} {x : Stall} (h : t.stall? n = some x) (hout : t.host.out = s.host.out)
    (hs : r.session.isSome = true) (op kind ctx handle : Nat) (d : BitVec 384) (a : Answer) :
    ((t.logAppend n kind ctx handle d).mbAnswer r op a).stall? n = some { x with attest := x.attest.append kind ctx handle t.nowW d } ∧
      s.replied ((t.logAppend n kind ctx handle d).mbAnswer r op a) r op a :=
  ⟨(State.mbAnswer_stall? _ _ _ _ _).trans (State.logAppend_of_stall h _ _ _ _), State.replied_mbAnswer hs ((t.logAppend_out _ _ _ _ _).trans hout) _ _⟩

/-- SEAL_INSTALL uses its pair up, and brings in the image whose key opens (R464). -/
theorem sealInstall_spec {s : State} {r : Req} {p : HostPort} {n : StallNo} {x : Stall} {k : SealPair} (hs : r.session.isSome = true)
    (h : s.mayOpenSeal r = true) (hc : s.mbCheck (sealForm 0x0073 408) r = none) (hfn : r.fn = .vf p n) (hx : s.stall? n = some x)
    (hi : x.attest.images.find? (f8 r.payload 0) = none) (hk : x.attest.pairs.find? (f8 r.payload 0) = some k)
    (hh : imageHeaderOk (slice r.payload 8 256) = true) :
    ∃ y, (sealInstall r s).stall? n = some y ∧ y.attest.pairs.find? (f8 r.payload 0) = none ∧
      match unwrapKey k (slice r.payload 8 256) (slice r.payload 264 96) (slice r.payload 360 48) (Config.sha384 (slice r.payload 8 256)) with
      | none => s.replied (sealInstall r s) r 0x0073 (refuse 4) ∧ y.attest.images = x.attest.images ∧ y.attest.log = x.attest.log
      | some key => s.replied (sealInstall r s) r 0x0073 ok ∧ y.attest.count = x.attest.count + 1 ∧ y.attest.images.find? (f8 r.payload 0) =
          some { key := key, imageId := slice (slice r.payload 8 256) 8 16, pages := f32 (slice r.payload 8 256) 0x18, digest := Config.sha384 (slice r.payload 8 256) } := by
  rw [sealInstall_eq hs h hc hfn hx hi hk hh]
  have hset : (s.setStall n (x.noPair (f8 r.payload 0))).stall? n = some (x.noPair (f8 r.payload 0)) := (State.stall?_setStall _ _ _ _).trans (if_pos rfl)
  have hpair : (x.noPair (f8 r.payload 0)).attest.pairs.find? (f8 r.payload 0) = none := (Tab.find?_erase x.attest.pairs _ _).trans (if_pos rfl)
  split
  next =>
    have hout : (s.setStall n (x.noPair (f8 r.payload 0))).host.out = s.host.out := rfl
    generalize s.setStall n (x.noPair (f8 r.payload 0)) = u at hset hout
    exact ⟨_, (State.mbAnswer_stall? _ _ _ _ _).trans hset, hpair, State.replied_mbAnswer hs hout _ _, rfl, rfl⟩
  next key _ =>
    obtain ⟨ht, hr⟩ := State.logged_mbAnswer (stall?_of_modStall hset _) (State.modStall_out (s.setStall n (x.noPair (f8 r.payload 0))) n _) hs 0x0073 4 0xFF (f8 r.payload 0)
      (Config.sha384 (slice r.payload 8 256)) ok
    refine ⟨_, ht, hpair, hr, rfl, ?_⟩
    change Tab.find? (x.attest.images.put (f8 r.payload 0) (some _)) _ = _
    rw [Tab.find?_put, if_pos rfl]

/-- SEAL_DROP of an image no SEALED_LOAD uses takes its key away (R465). -/
theorem sealDrop_now {s : State} {r : Req} {p : HostPort} {n : StallNo} {x : Stall} (hs : r.session.isSome = true) (h : s.mayOpenSeal r = true)
    (hc : s.mbCheck (sealForm 0x0074 8) r = none) (hfn : r.fn = .vf p n) (hx : s.stall? n = some x)
    (hi : (x.attest.images.find? (f8 r.payload 0)).isSome = true) (hl : x.loading (f8 r.payload 0) = false) :
    s.replied (sealDrop r s) r 0x0074 ok ∧ ∃ y, (sealDrop r s).stall? n = some y ∧ y.attest.images.find? (f8 r.payload 0) = none ∧
      y.attest.count = x.attest.count + 1 := by
  obtain ⟨i, hi⟩ := Option.isSome_iff_exists.mp hi
  have heq : sealDrop r s = s.dropImage n r := by
    unfold sealDrop
    rw [State.serveSeal_opened hs h hc hfn hx]
    dsimp only
    rw [hi, hl]
    rfl
  have hb : (s.stall? n).bind (fun t => t.attest.images.find? (f8 r.payload 0)) = some i := by rw [hx]; exact hi
  rw [heq]
  unfold State.dropImage
  dsimp only
  rw [hb, State.modStall_of_some hx]
  dsimp only
  refine ⟨State.replied_mbAnswer hs (State.logAppend_out _ _ _ _ _ _) _ _, _,
    (State.mbAnswer_stall? _ _ _ _ _).trans (State.logAppend_of_stall ((State.stall?_setStall _ _ _ _).trans (if_pos rfl)) _ _ _ _), ?_, rfl⟩
  exact (Tab.find?_erase x.attest.images _ _).trans (if_pos rfl)

/-- SEAL_DROP waits while a SEALED_LOAD uses the image (R465). -/
theorem sealDrop_later {s : State} {r : Req} {p : HostPort} {n : StallNo} {x : Stall} (hs : r.session.isSome = true) (h : s.mayOpenSeal r = true)
    (hc : s.mbCheck (sealForm 0x0074 8) r = none) (hfn : r.fn = .vf p n) (hx : s.stall? n = some x)
    (hi : (x.attest.images.find? (f8 r.payload 0)).isSome = true) (hl : x.loading (f8 r.payload 0) = true) :
    (sealDrop r s).host.out = s.host.out ∧ ∃ y, (sealDrop r s).stall? n = some y ∧ y.attest.images = x.attest.images ∧
      y.attest.drops = x.attest.drops ++ [r] := by
  obtain ⟨i, hi⟩ := Option.isSome_iff_exists.mp hi
  have heq : sealDrop r s = s.setStall n { x with attest := { x.attest with drops := x.attest.drops ++ [r] } } := by
    unfold sealDrop
    rw [State.serveSeal_opened hs h hc hfn hx]
    dsimp only
    rw [hi, hl]
    rfl
  rw [heq]
  exact ⟨rfl, _, (State.stall?_setStall _ _ _ _).trans (if_pos rfl), rfl, rfl⟩

end Sys2Proof.Machine

/-- Settles O52: without the right each request is answered so whether or not it is sent inside a session; with it, each comes to its
own body, which says what becomes of the pair, the image and the log. -/
theorem sealingRequests : Obligations.SealingRequests := by
  unfold Obligations.SealingRequests
  refine ⟨?_, ?_, ?_, ?_, ?_⟩
  · intro s m c op hc hf hgo
    simp only [List.mem_cons, List.not_mem_nil, or_false, Prod.mk.injEq] at hc
    rcases hc with ⟨rfl, rfl⟩ | ⟨rfl, rfl⟩ | ⟨rfl, rfl⟩
    · exact ⟨sealKeygen (plain m) s, rfl, State.serveSeal_outside hf hgo _ _⟩
    · exact ⟨sealInstall (plain m) s, rfl, State.serveSeal_outside hf hgo _ _⟩
    · exact ⟨sealDrop (plain m) s, rfl, State.serveSeal_outside hf hgo _ _⟩
  · intro s id m r c op hc hr hopen
    obtain ⟨hask, hid, -⟩ := State.asksInside_spec hr
    have hs : r.session.isSome = true := by rw [hid]; rfl
    simp only [List.mem_cons, List.not_mem_nil, or_false, Prod.mk.injEq] at hc
    rcases hc with ⟨rfl, rfl⟩ | ⟨rfl, rfl⟩ | ⟨rfl, rfl⟩
    · exact ⟨_, congrArg Host.Outcome.next (hask sealKeygen), State.serveSeal_inside hs hopen _ _ _⟩
    · exact ⟨_, congrArg Host.Outcome.next (hask sealInstall), State.serveSeal_inside hs hopen _ _ _⟩
    · exact ⟨_, congrArg Host.Outcome.next (hask sealDrop), State.serveSeal_inside hs hopen _ _ _⟩
  · intro s id m r p n x hr hfn hx hopen hc
    obtain ⟨hask, hid, hp, -⟩ := State.asksInside_spec hr
    have hs : r.session.isSome = true := by rw [hid]; rfl
    rw [← hp]
    refine ⟨fun hi => ⟨_, congrArg Host.Outcome.next (hask sealKeygen), ?_⟩, fun hi => ⟨_, congrArg Host.Outcome.next (hask sealKeygen), sealKeygen_makes hs hopen hc hfn hx hi⟩⟩
    rw [sealKeygen_used hs hopen hc hfn hx hi]
    exact ⟨State.replied_mbAnswer hs rfl _ _, (State.mbAnswer_stall? _ _ _ _ _).trans hx⟩
  · intro s id m r p n x k hr hfn hx hopen hc
    obtain ⟨hask, hid, hp, -⟩ := State.asksInside_spec hr
    rw [← hp]
    intro hi hk hh
    exact ⟨_, congrArg Host.Outcome.next (hask sealInstall), sealInstall_spec (by rw [hid]; rfl) hopen hc hfn hx hi hk hh⟩
  · intro s id m r p n x hr hfn hx hopen hc
    obtain ⟨hask, hid, hp, -⟩ := State.asksInside_spec hr
    have hs : r.session.isSome = true := by rw [hid]; rfl
    rw [← hp]
    exact fun hi => ⟨fun hl => ⟨_, congrArg Host.Outcome.next (hask sealDrop), sealDrop_now hs hopen hc hfn hx hi hl⟩,
      fun hl => ⟨_, congrArg Host.Outcome.next (hask sealDrop), sealDrop_later hs hopen hc hfn hx hi hl⟩⟩

end


section
set_option Elab.async false
/-! SUPPORT. Relations that reads and writes of a stall's memory, commands that end and messages that leave all keep: one walk through
these operations serves every such relation (R223, R278, R386, R491). -/

open Sys2Proof Sys2Proof.Machine

namespace Sys2Proof.Machine

/-- What no command that runs or ends changes of its stall. -/
def Stall.kept (x : Stall) : Holdings × Journal × Attest × List Req × (Nat → Bool) :=
  (x.hold, x.journal, x.attest, x.measuring, fun k => (x.queue? k).isSome)

/-- The stall's own log of an event (R497). -/
def State.stallTold (s : State) (n : Nat) (e : AccEvent) : State :=
  s.modStall n (fun x =>
    { x with evSeq := x.evSeq + 1
             evLog := appendEvent 64 x.evLog { e with seq := x.evSeq + 1, stall := n, era := if (e.kind = 10 || e.kind = 11) then e.era else x.journal.era } })
theorem State.stallEvent_eq (s : State) (n : Nat) (e : AccEvent) : s.stallEvent n e = onStall n (fun m u => u.vfCause m .accounting) (s.stallTold n e) := rfl

/-- A relation kept by whatever leaves the stalls, the links and the count of uncorrectable errors, by a change of a stall in what its
commands work on, and by a message. -/
structure Steady (R : State → State → Prop) : Prop where
  trans : ∀ {s t u}, R s t → R t u → R s u
  only : ∀ {l s t}, Only l s t → Part.stalls ∉ l → Part.tl ∉ l → t.mee.eccUe = s.mee.eccUe → R s t
  stall : ∀ (s : State) (n : Nat) {f : Stall → Stall}, (∀ x, (f x).kept = x.kept) → R s (s.modStall n f)
  send : ∀ (s : State) (p op : Nat) (m : LinkMsg), R s (s.sendMsg p op m)

namespace Steady
variable {R : State → State → Prop} (hR : Steady R)
include hR

theorem refl (s : State) : R s s := hR.only (Only.refl [] s) (by decide) (by decide) rfl
theorem away {l : List Part} {s t : State} (h : Only l s t) (hs : Part.stalls ∉ l) (ht : Part.tl ∉ l) (hm : Part.mee ∉ l) : R s t :=
  hR.only h hs ht (congrArg Mee.eccUe (h.mee_eq hm))
theorem all {α : Type} (l : List α) {step : α → State → State} (h : ∀ a u, R u (step a u)) (s : State) : R s (forAll l step s) :=
  forAll_keeps (P := R s) l (fun a _ u hu => hR.trans hu (h a u)) (hR.refl s)

theorem reading : Reading R := ⟨hR.trans, hR.only, fun s n _ hf => hR.stall s n fun x => (congrArg Stall.kept (hf x) :)⟩
theorem readRun (s : State) (w : Who) (va n need : Nat) : R s (s.readRun w va n need).2 := hR.reading.readRun s w va n need

/-! Commands and queues. -/

theorem modQueue (s : State) (n k : Nat) (f : Queue → Queue) : R s (s.modQueue n k f) := by
  refine hR.stall s n fun x => ?_
  have hsome : (fun j => ((x.modQueue k f).queue? j).isSome) = fun j => (x.queue? j).isSome := by
    funext j
    rw [Stall.queue?_modQueue]
    split
    next h => rw [h, Option.isSome_map]
    next => rfl
  unfold Stall.kept
  rw [hsome]
  unfold Stall.modQueue
  split <;> rfl
theorem modEntry (s : State) (n k : Nat) (pos : U32) (f : Entry → Entry) : R s (s.modEntry n k pos f) := hR.modQueue s n k _
theorem finish (s : State) (n k : Nat) (pos : U32) (status detail : Byte) (value : U64) : R s (s.finish n k pos status detail value) := hR.modEntry s n k pos _
theorem modRelay (s : State) (n : Nat) (f : Relay → Relay) : R s (s.modRelay n f) := hR.stall s n fun _ => rfl
theorem modDrover (s : State) (n : Nat) (f : Drover → Drover) : R s (s.modDrover n f) := hR.stall s n fun _ => rfl
theorem mbAnswer (s : State) (m : Req) (op : Nat) (a : Answer) : R s (s.mbAnswer m op a) :=
  hR.away (State.mbAnswer_only (Only.refl _ s) (List.Subset.refl _) m op a) (by decide) (by decide) (by decide)
theorem queueMsi (s : State) (n : StallNo) (v : Nat) : R s (s.queueMsi n v) :=
  hR.away (State.queueMsi_only (Only.refl _ s) (List.Subset.refl _) n v) (by decide) (by decide) (by decide)
theorem freeCluster (s : State) (c : Nat) (clean safe : Bool) : R s (s.freeCluster c clean safe) :=
  hR.away (State.freeCluster_only (Only.refl _ s) (List.Subset.refl _) c clean safe) (by decide) (by decide) (by decide)
theorem dropLaunches (s : State) (n : Nat) (p : Launch → Bool) (clean : Bool) : R s (s.dropLaunches n p clean) := by
  unfold State.dropLaunches
  split
  · exact hR.refl s
  · refine hR.trans ?_ (hR.all _ (fun c u => hR.freeCluster u c clean false) _)
    exact hR.stall s n fun _ => rfl

theorem writeArea (s : State) (n k : Nat) (q : Queue) (area base pages o : Nat) (bs : List Byte) (page : List Byte) :
    R s (s.writeArea n k q area base pages o bs page) := hR.reading.writeArea s n k q area base pages o bs page fun u => hR.modQueue u n k _

theorem writeHeader (s : State) (n k : Nat) : R s (s.writeHeader n k) := by
  unfold State.writeHeader
  split
  · exact hR.refl s
  · exact hR.writeArea s n k _ _ _ _ _ _ _

/-! Drover's sequences. -/

theorem outPublish (s : State) (n : StallNo) (k : Nat) (f : OutRing → OutRing) : R s (s.outPublish n k f) := by
  unfold State.outPublish
  split
  · exact hR.refl s
  · extract_lets r1 r2 u h v
    have hu : R s u := hR.modDrover s n _
    have hv : R s v := by
      unfold v
      split
      · exact hR.trans hu (hR.writeArea u n k _ _ _ _ _ _ _)
      · exact hu
    split
    · exact hR.trans hv (hR.queueMsi v n _)
    · exact hv

theorem outRecords (s : State) (n : StallNo) (k : Nat) (recs : List (List Byte)) : R s (s.outRecords n k recs) := by
  unfold State.outRecords
  split
  · exact hR.refl s
  · extract_lets all now places t u
    have ht : R s t := by
      refine hR.all places (fun p v => ?_) s
      extract_lets sh sh' w
      have hw : R v w := hR.modDrover v n _
      split
      · exact hR.trans hw (hR.writeArea w n k _ _ _ _ _ _ _)
      · exact hw
    have hu : R s u := hR.trans ht (hR.modDrover t n _)
    split
    · exact hu
    · exact hR.trans hu (hR.outPublish u n k _)

theorem endSequence (s : State) (n : StallNo) (x : Sequence) (reason : Nat) (keep : Bool) : R s (s.endSequence n x reason keep) := by
  unfold State.endSequence
  extract_lets t u
  have hu : R s u := hR.trans (hR.modDrover s n _) (hR.outRecords t n x.qk _)
  split
  · exact hu
  · exact hR.trans hu (hR.outPublish u n x.qk _)

theorem drvFail (s : State) (n : StallNo) (p : Sequence → Bool) (detail : Byte) : R s (s.drvFail n p detail) := by
  unfold State.drvFail
  split
  · exact hR.refl s
  · refine hR.all _ (fun x u => ?_) s
    split
    · exact hR.modDrover u n _
    · exact hR.trans (hR.endSequence u n x 6 false) (hR.finish _ n _ _ _ _ _)

/-! Claims of remote memory. -/

theorem relayEnd (s : State) (n k : Nat) (pos : U32) (status detail : Byte) : R s (s.relayEnd n k pos status detail) := by
  unfold State.relayEnd
  extract_lets v u
  have hu : R s u := hR.finish s n k pos _ _ _
  split
  · exact hu
  · exact hR.trans hu (hR.all _ (fun c w => hR.trans (hR.modRelay w n _) (hR.send _ _ _ _)) u)

theorem startChunk (s : State) (n : Nat) (c : Claim) : R s (s.startChunk n c) := by
  unfold State.startChunk
  split
  · exact hR.refl s
  next e _ =>
    split
    · exact hR.all _ (fun i u => hR.send u _ _ _) s
    · extract_lets g st t
      have ht : R s t := hR.trans (hR.readRun s _ _ _ _) (hR.modEntry _ n _ _ _)
      split
      · exact hR.trans ht (hR.relayEnd t n _ _ _ _)
      · exact hR.trans (hR.trans ht (hR.modRelay t n _)) (hR.all _ (fun i u => hR.send u _ _ _) _)

theorem commitSlots (n fuel : Nat) : ∀ s : State, R s (State.commitSlots n fuel s) := by
  induction fuel with
  | zero => exact fun s => hR.refl s
  | succ fuel ih =>
    intro s
    unfold State.commitSlots
    split
    · exact hR.refl s
    · split
      · exact hR.refl s
      · split
        · exact hR.refl s
        next c _ =>
          extract_lets took
          have htook : R s took := hR.modRelay s n _
          split
          · exact hR.trans (hR.trans htook (hR.send took _ _ _)) (ih _)
          · split
            · exact hR.trans (hR.trans htook (hR.startChunk took n _)) (ih _)
            · exact hR.refl s
theorem commitAll (s : State) (n : Nat) : R s (s.commitAll n) := by
  unfold State.commitAll
  split
  · exact hR.refl s
  · exact hR.commitSlots n _ s

theorem settleClears (s : State) (n : Nat) : R s (s.settleClears n) := by
  unfold State.settleClears
  split
  · exact hR.refl s
  · refine hR.all _ (fun w u => ?_) s
    split
    · exact hR.refl u
    · exact hR.trans (hR.modRelay u n _) (hR.mbAnswer _ _ _ _)

theorem relaySweep (s : State) (n : Nat) : R s (s.relaySweep n) := by
  unfold State.relaySweep
  split
  · exact hR.refl s
  · extract_lets live gone lost t u
    have ht : R s t := hR.all gone (fun c w => hR.trans (hR.modRelay w n _) (hR.send _ _ _ _)) s
    have hu : R s u := hR.trans ht (hR.modRelay t n _)
    split
    · exact hR.refl s
    · exact hR.trans (hR.trans hu (hR.commitAll u n)) (hR.settleClears _ n)

/-! Stopped commands and recoveries. -/

theorem decideOne (s : State) (a : CmdAt) (fp : List (Nat × Nat)) : R s (s.decideOne a fp).1 := by
  unfold State.decideOne
  split
  · exact hR.refl s
  · split
    · exact hR.refl s
    · split
      · exact hR.refl s
      · extract_lets non remote done fault again keeps copy
        have hfault : ∀ d, R s (fault d) := fun d =>
          hR.trans (hR.trans (hR.modEntry s _ _ _ _) (hR.dropLaunches _ _ _ _)) (hR.drvFail _ _ _ d)
        split
        · exact hfault _
        · split
          · exact hR.trans (hR.dropLaunches s _ _ _) (hR.modEntry _ _ _ _ _)
          · split
            · exact hfault _
            · split
              · exact hR.modEntry s _ _ _ _
              · exact hfault _

theorem decideAll (s : State) (r : Recovery) : R s (s.decideAll r).1 := by
  unfold State.decideAll
  refine forAll_keeps (P := fun u : State × Recovery => R s u.1) r.undecided (fun a _ u hu => ?_) (hR.refl s)
  exact hR.trans hu (hR.trans (hR.decideOne u.1 a r.footprint) (hR.relaySweep _ a.stall))

theorem stallEvent (s : State) (n : Nat) (e : AccEvent) : R s (s.stallEvent n e) := by
  rw [State.stallEvent_eq]
  have ht : R s (s.stallTold n e) := hR.stall s n fun _ => rfl
  generalize s.stallTold n e = t at *
  unfold onStall
  split
  · exact hR.trans ht (hR.away (State.vfCause_keeps t _ .accounting) (by decide) (by decide) (by decide))
  · exact ht
theorem packageEvent (s : State) (e : AccEvent) : R s (s.packageEvent e) :=
  hR.away (State.packageEvent_only (Only.refl _ s) (List.Subset.refl _) e) (by decide) (by decide) (by decide)
theorem closeOne (s : State) (r : Recovery) : R s (s.closeOne r) := by
  unfold State.closeOne
  extract_lets left e t u
  have ht : R s t := hR.all _ (fun n v => hR.stallEvent v n e) s
  split
  · exact hR.trans (hR.trans ht (hR.packageEvent t e)) (hR.away (Only.acct (Only.refl [.acct] _) _ (by decide)) (by decide) (by decide) (by decide))
  · exact hR.trans ht (hR.away (Only.acct (Only.refl [.acct] _) _ (by decide)) (by decide) (by decide) (by decide))
theorem closeRecoveries (s : State) : R s s.closeRecoveries := by
  unfold State.closeRecoveries
  refine hR.trans (t := { s with acct := { s.acct with recoveries := [] } })
    (hR.away (Only.acct (Only.refl [.acct] s) _ (by decide)) (by decide) (by decide) (by decide)) (hR.all _ (fun r u => ?_) _)
  exact hR.trans (hR.decideAll u r) (hR.closeOne _ _)

end Steady

/-- Every stall keeps what no command changes of it. -/
def State.sameKept (s t : State) : Prop := ∀ n, (t.stall? n).map Stall.kept = (s.stall? n).map Stall.kept

theorem State.sameKept_steady : Steady State.sameKept where
  trans := fun h g n => (g n).trans (h n)
  only := fun h hs _ _ n => by rw [h.stall?_eq n hs]
  stall := fun s n f hf m => by
    rw [State.stall?_modStall]
    split
    next h =>
      subst h
      cases s.stall? m with
      | none => rfl
      | some x => exact congrArg some (hf x)
    next => rfl
  send := fun s p op m n => by rw [(State.sendMsg_only (Only.refl _ s) (List.Subset.refl _) p op m).stall?_eq n (by decide)]

theorem State.sameKept.stall {s t : State} (h : s.sameKept t) {n : Nat} {x : Stall} (hx : s.stall? n = some x) :
    ∃ y, t.stall? n = some y ∧ y.kept = x.kept := by
  have hn := h n
  rw [hx] at hn
  cases hy : t.stall? n with
  | none => rw [hy] at hn; cases hn
  | some y => rw [hy] at hn; exact ⟨y, rfl, Option.some.inj hn⟩
theorem Stall.kept_journal {x y : Stall} (h : y.kept = x.kept) : y.journal = x.journal := congrArg (fun k => k.2.1) h
theorem Stall.kept_attest {x y : Stall} (h : y.kept = x.kept) : y.attest = x.attest := congrArg (fun k => k.2.2.1) h
theorem Stall.kept_measuring {x y : Stall} (h : y.kept = x.kept) : y.measuring = x.measuring := congrArg (fun k => k.2.2.2.1) h

end Sys2Proof.Machine
end


section
set_option Elab.async false
/-! SUPPORT. Attestation reports, logs and the measurement of an image (R443–R448). -/

open Sys2Proof Sys2Proof.Machine

namespace Sys2Proof.Machine

/-! ATTEST_REPORT (R446): what a report reads a GO leaves. -/

theorem State.packageReport_mbGo (s : State) (r : Req) (op : Nat) (nonce user : List Byte) :
    (s.mbGo r op).1.packageReport nonce user = s.packageReport nonce user := by
  unfold State.packageReport
  rw [State.mbGo_prot, State.mbGo_yard, State.mbGo_now]
theorem State.stallReport_mbGo (s : State) (r : Req) (op n : Nat) (x : Stall) (nonce user : List Byte) :
    (s.mbGo r op).1.stallReport n x nonce user = s.stallReport n x nonce user := by
  have hw : (s.mbGo r op).1.windowManifest n x = s.windowManifest n x := by
    unfold State.windowManifest State.manifestHead State.manFlags
    simp only [State.mbGo_stalls, State.mbGo_pkg]
  unfold State.stallReport State.reportFlags
  rw [hw, State.mbGo_prot, State.mbGo_now]

theorem attestReport_eq {s : State} {m : MbReq} {b : Bool} (hp : (fnIsPf m.fn && f8 m.payload 0 = 0xFF) = b) : attestReport (plain m) s =
    s.mbServeA (attestReportForm b) (plain m) (fun s =>
      if b then (okWith (withSignature (s.packageReport (slice m.payload 8 32) (slice m.payload 40 48)) s.free), s.signed)
      else match s.stall? (stallArg (attestReportForm b) (plain m)) with
        | none => (refuse 0xFF, s)
        | some t => (okWith (withSignature (s.stallReport (stallArg (attestReportForm b) (plain m)) t (slice m.payload 8 32) (slice m.payload 40 48)) s.free), s.signed)) := by
  subst hp
  rfl

theorem attestReport_package {s : State} {m : MbReq} (hp : (fnIsPf m.fn && f8 m.payload 0 = 0xFF) = true) (h : s.mbTakes (attestReportForm true) m = true) :
    (attestReport (plain m) s).answered m 0x0070 (okWith (withSignature (s.packageReport (slice m.payload 8 32) (slice m.payload 40 48)) s.free)) ∧
      (attestReport (plain m) s).free = s.free + 1 := by
  rw [attestReport_eq hp]
  refine ⟨State.mbServeA_answered h ?_ rfl, ?_⟩
  · rw [if_pos rfl]
    dsimp only
    rw [State.packageReport_mbGo, State.mbGo_free]
  · rw [State.mbServeA_of_takes h, State.mbAnswer_free, if_pos rfl]
    exact congrArg (· + 1) (State.mbGo_free _ _ _)

theorem attestReport_stall {s : State} {m : MbReq} {x : Stall} (hp : (fnIsPf m.fn && f8 m.payload 0 = 0xFF) = false)
    (h : s.mbTakes (attestReportForm false) m = true) (hx : s.stall? (stallArg (attestReportForm false) (plain m)) = some x) :
    (attestReport (plain m) s).answered m 0x0070 (okWith (withSignature
      (s.stallReport (stallArg (attestReportForm false) (plain m)) x (slice m.payload 8 32) (slice m.payload 40 48)) s.free)) ∧
      (attestReport (plain m) s).free = s.free + 1 := by
  rw [attestReport_eq hp]
  refine ⟨State.mbServeA_answered h ?_ ?_, ?_⟩
  · rw [if_neg Bool.false_ne_true, State.mbGo_stall?, hx]
    dsimp only
    rw [State.stallReport_mbGo, State.mbGo_free]
  · rw [if_neg Bool.false_ne_true, State.mbGo_stall?, hx]
    rfl
  · rw [State.mbServeA_of_takes h, State.mbAnswer_free, if_neg Bool.false_ne_true, State.mbGo_stall?, hx]
    exact congrArg (· + 1) (State.mbGo_free _ _ _)

/-! ATTEST_LOG (R448). -/

theorem attestLog_answered {s : State} {m : MbReq} {x : Stall} (h : s.mbTakes attestLogForm m = true) (hx : s.stall? (stallArg attestLogForm (plain m)) = some x) :
    (attestLog (plain m) s).answered m 0x0071 (okWith (((x.attest.log.drop (f32 m.payload 4)).take 63).flatMap LogEntry.bytes
      ++ leBytes 4 ((x.attest.log.drop (f32 m.payload 4)).take 63).length)) := by
  unfold attestLog
  refine State.mbServeA_answered h ?_ ?_
  · rw [State.mbGo_stall?, hx]
    rfl
  · rw [State.mbGo_stall?, hx]

/-! MEASURE_IMAGE (R445). -/

theorem measureImage_waits {s : State} {m : MbReq} {p : HostPort} {n : StallNo} {x : Stall} (hfn : m.fn = .vf p n) (hx : s.stall? n = some x)
    (h : s.mbTakes (measureImageForm x.hold.ctxMax) m = true) :
    (measureImage (plain m) s).stall? n = some { x with measuring := x.measuring ++ [plain m] } ∧ ((measureImage (plain m) s).mb m.fn).busy = true := by
  have hmax : (fnStall (plain m).fn).elim 0 (fun n => ((s.stall? n).map (fun t => t.hold.ctxMax)).getD 0) = x.hold.ctxMax := by
    simp [plain, hfn, fnStall, hx]
  unfold measureImage
  dsimp only
  rw [hmax, State.mbServe_of_takes h, stallArg_of_vf hfn]
  have hx' : (s.mbGo (plain m) 0x0075).1.stall? n = some x := (State.mbGo_stall? _ _ _ _).trans hx
  have haw : (s.mbGo (plain m) 0x0075).1.awaits m 0x0075 := State.mbGo_awaits (State.hostFn_of_mbTakes h) (Bool.and_elim_left h)
  change State.stall? (State.wakePackage (State.modStall (s.mbGo (plain m) 0x0075).1 n _) 7 false) n = _ ∧ _
  constructor
  · rw [(State.wakePackage_keeps _ _ _).stall?_eq n (by decide)]
    exact stall?_of_modStall hx' _
  · rw [(State.wakePackage_keeps _ _ _).mb_eq _ (by decide) (by decide), State.mb_modStall]
    exact haw.2.1

theorem attest_logAppend {s : State} {n : Nat} {x : Stall} (h : s.stall? n = some x) (kind ctx handle : Nat) (d : BitVec 384) :
    ∃ y, (s.logAppend n kind ctx handle d).stall? n = some y ∧ y.attest.count = x.attest.count + 1 ∧ y.measuring = x.measuring :=
  ⟨_, State.logAppend_of_stall h kind ctx handle d, rfl, rfl⟩

/-- MEASURE_IMAGE_DONE answers the oldest request, and logs its digest where the range was read whole (R445). -/
theorem measureImageDone_spec {s : State} {n : StallNo} {x : Stall} {r : Req} {l : List Req} (hx : s.stall? n = some x) (hm : x.measuring = r :: l)
    (hup : s.enginesUp = true) : ∃ y, (measureImageDone n s).stall? n = some y ∧ y.measuring = l ∧ ∀ g, g =
        ((s.setStall n { x with measuring := l }).readRun (measureWho n (f8 r.payload 0)) (f64 r.payload 8) (f64 r.payload 16) rRead).1 →
      ((x.ctx? (f8 r.payload 0)).isSome = true → g.met = [] → g.poison.any id = false → y.attest.count = x.attest.count + 1) ∧
      ((x.ctx? (f8 r.payload 0)).isSome = false → y.attest = x.attest) ∧ (g.met ≠ [] → y.attest = x.attest) := by
  have hset : (s.setStall n { x with measuring := l }).stall? n = some { x with measuring := l } := (State.stall?_setStall _ _ _ _).trans (if_pos rfl)
  obtain ⟨z, hz, hkept⟩ := (State.sameKept_steady.readRun (s.setStall n { x with measuring := l }) (measureWho n (f8 r.payload 0))
    (f64 r.payload 8) (f64 r.payload 16) rRead).stall hset
  have hlist : z.measuring = l := Stall.kept_measuring hkept
  have hattest : z.attest = x.attest := (Stall.kept_attest hkept).trans rfl
  unfold measureImageDone
  rw [hx]
  dsimp only
  rw [hm]
  dsimp only
  rw [hup, Bool.not_true, if_neg Bool.false_ne_true]
  generalize (s.setStall n { x with measuring := l }).readRun (measureWho n (f8 r.payload 0)) (f64 r.payload 8) (f64 r.payload 16) rRead = g at *
  have hans : ∀ a, (g.2.mbAnswer r 0x0075 a).stall? n = some z := fun a => (State.mbAnswer_stall? _ _ _ _ _).trans hz
  cases hctx : x.ctx? (f8 r.payload 0) with
  | none =>
    exact ⟨_, (State.mbAnswer_stall? _ _ _ _ _).trans hset, rfl, fun g' _ => ⟨fun h => absurd h (by decide), fun _ => rfl, fun _ => rfl⟩⟩
  | some c =>
    rw [Option.isNone_some, if_neg Bool.false_ne_true]
    split
    next hbad =>
      refine ⟨z, hans _, hlist, fun g' hg => ?_⟩
      subst hg
      refine ⟨fun _ hmet hp => ?_, fun h => absurd h (by simp), fun _ => hattest⟩
      simp [hmet, hp] at hbad
    next hgood =>
      obtain ⟨y, hy, hcount, hym⟩ := attest_logAppend hz 3 (f8 r.payload 0) 0 (Config.sha384 g.1.bytes)
      refine ⟨y, (State.mbAnswer_stall? _ _ _ _ _).trans hy, hym.trans hlist, fun g' hg => ?_⟩
      subst hg
      refine ⟨fun _ _ _ => by rw [hcount, hattest], fun h => absurd h (by simp), fun hmet => ?_⟩
      simp [hmet] at hgood

end Sys2Proof.Machine

/-- Settles O51: a report and a log read what a GO leaves, and a measurement reads memory, which leaves the log and the requests that wait. -/
theorem attestationRequests : Obligations.AttestationRequests := by
  unfold Obligations.AttestationRequests
  refine ⟨fun s m hp h => ⟨_, rfl, attestReport_package hp h⟩, fun s m x hp h hx => ⟨_, rfl, attestReport_stall hp h hx⟩,
    fun s m x h hx => ⟨_, rfl, attestLog_answered h hx⟩, fun s m p n x hfn hx h => ⟨_, rfl, measureImage_waits hfn hx h⟩,
    fun s n x r l hx hm hup => ⟨_, rfl, measureImageDone_spec hx hm hup⟩⟩

end


section
set_option Elab.async false
/-! SUPPORT. Recoveries: a rebuilt copy, what closes, and what becomes of a stopped command (R491, R495, R497). -/

open Sys2Proof Sys2Proof.Machine

namespace Sys2Proof.Machine

/-! A rebuilt copy. -/

theorem journalRebuildDone_spec {s : State} {n : StallNo} {x : Stall} {b : Nat} (hx : s.stall? n = some x) (hb : x.journal.rebuild = some b)
    (hj : s.rg.jobs.any (fun j => j.stall = n.val && j.kind = .rebuild && j.start.isSome) = true) :
    ∃ y, (journalRebuildDone n s).stall? n = some y ∧ y.journal.copies = x.journal.copies ++ [b] ∧ y.journal.rebuild = none := by
  unfold journalRebuildDone
  rw [hx]
  dsimp only
  rw [hb]
  dsimp only
  rw [hj, Bool.not_true, if_neg Bool.false_ne_true]
  have hset : (s.setStall n { x with journal := { x.journal with copies := x.journal.copies ++ [b], rebuild := none } }).stall? n =
    some { x with journal := { x.journal with copies := x.journal.copies ++ [b], rebuild := none } } := (State.stall?_setStall _ _ _ _).trans (if_pos rfl)
  generalize s.setStall n { x with journal := { x.journal with copies := x.journal.copies ++ [b], rebuild := none } } = u at *
  have hend : (u.endJob n .rebuild).stall? n = u.stall? n := (State.endJob_only (Only.refl _ u) (List.Subset.refl _) n .rebuild).stall?_eq n (by decide)
  obtain ⟨y, hy, hk⟩ := (State.sameKept_steady.closeRecoveries (u.endJob n .rebuild)).stall (hend.trans hset)
  have hjournal := Stall.kept_journal hk
  exact ⟨y, hy, by rw [hjournal], by rw [hjournal]⟩

/-! A recovery with nothing left. -/

theorem getLast?_appendEvent (l : List AccEvent) (e : AccEvent) : (appendEvent 256 l e).getLast? = some e := by
  unfold appendEvent
  rw [List.getLast?_drop, if_neg (by rw [List.length_append, List.length_singleton]; omega)]
  exact List.getLast?_concat

theorem closeRecoveries_single {s : State} {r : Recovery} (h : s.acct.recoveries = [r]) (hu : r.undecided = []) : s.closeRecoveries =
    ({ s with acct := { s.acct with recoveries := [] } } : State).closeOne { r with undecided := [] } := by
  unfold State.closeRecoveries
  rw [h]
  dsimp only [forAll, List.foldl]
  unfold State.decideAll
  rw [hu]
  rfl

/-- What an event leaves of the accounting, told to the package. -/
theorem State.packageEvent_acct (s : State) (e : AccEvent) : (s.packageEvent e).acct = { s.acct with log := appendEvent 256 s.acct.log e, seq := s.acct.seq + 1 } :=
  (State.pfCause_keeps _ .accounting).acct_eq (by decide)

theorem closeOne_done {s : State} {r : Recovery} (h : r.rebuilds = []) : (s.closeOne r).acct =
    { s.acct with log := appendEvent 256 s.acct.log (s.event' r.kind 2 r.index r.affected r.replayed r.faulted r.outcome 0 0), seq := s.acct.seq + 1, lastDone := s.nowW } := by
  unfold State.closeOne
  extract_lets +onlyGivenNames left e t u
  have ht : Only [.vf, .out, .stalls] s t := forAll_only (Only.refl _ s) _ _ (fun n v hv => State.stallEvent_only hv (List.Subset.refl _) n e)
  have hleft : left = [] := by
    unfold left
    rw [h]
    rfl
  have hu : u.acct = { s.acct with log := appendEvent 256 s.acct.log e, seq := s.acct.seq + 1 } := by
    rw [← ht.acct_eq (by decide)]
    exact t.packageEvent_acct e
  have hnow : u.nowW = s.nowW := by
    have hp : Only [.pf, .out, .acct] t u := State.packageEvent_only (Only.refl _ t) (List.Subset.refl _) e
    rw [hp.nowW_eq (by decide), ht.nowW_eq (by decide)]
  rw [hleft]
  dsimp only [List.isEmpty_nil]
  rw [if_pos rfl]
  change { u.acct with lastDone := u.nowW } = _
  rw [hu, hnow]

/-! What becomes of a stopped command. -/

theorem State.sameQueues_dropLaunches (s : State) (n : Nat) (p : Launch → Bool) (clean : Bool) : s.sameQueues (s.dropLaunches n p clean) := by
  unfold State.dropLaunches
  split
  · exact .refl s
  · refine (s.sameQueues_modStall n (f := fun t => { t with launches := t.launches.filter (fun l => !p l) }) fun _ => rfl).trans ?_
    exact (forAll_only (Only.refl [.clusters, .power] _) _ _ (fun c u hu => State.freeCluster_only hu (List.Subset.refl _) c clean false)).sameQueues (by decide)

/-- A stopped command that is decided begins afresh, faults, or is left. -/
theorem State.decideOne_of_entry {s : State} {a : CmdAt} {x : Stall} {q : Queue} {e : Entry} (hx : s.stall? a.stall = some x) (hq : x.queue? a.qk = some q)
    (he : q.entry? a.pos = some e) (hu : e.undecided = true) (ho : e.isOver = false) (f : List (Nat × Nat)) :
    (nonReplayable e.bytes = true → e.sideEffect = true → (s.decideOne a f).2 = some .faulted) ∧
    (nonReplayable e.bytes = false → 3 ≤ e.replays → (s.decideOne a f).2 = some .faulted) ∧
    (nonReplayable e.bytes = true → e.sideEffect = false → (s.decideOne a f).2 = some .again ∧ (s.decideOne a f).1 =
      (s.dropLaunches a.stall (fun l => l.qk = a.qk && l.pos = a.pos) false).modEntry a.stall a.qk a.pos (fun e =>
        { e with st := .accepted, undecided := false, startAt := 0, beginAt := 0, progress := 0, status := 0, detail := 0, stopped := false
                 moved := [] })) := by
  have hb : (x.queue? a.qk).bind (fun q => q.entry? a.pos) = some e := by rw [hq]; exact he
  unfold State.decideOne
  rw [hx]
  dsimp only
  rw [hb]
  dsimp only
  rw [hu, ho]
  refine ⟨fun hn hs => ?_, fun hn hr => ?_, fun hn hs => ?_⟩
  · rw [hn, hs]
    rfl
  · simp [hn, hr]
  · rw [hn, hs]
    exact ⟨rfl, rfl⟩

theorem State.sameQueues.entry? {s t : State} (h : s.sameQueues t) {n k : Nat} {pos : U32} {x : Stall} {q : Queue} {e : Entry} (hx : s.stall? n = some x)
    (hq : x.queue? k = some q) (he : q.entry? pos = some e) (f : Entry → Entry) (hf : ∀ e, (f e).pos = e.pos) :
    ∃ y z, (t.modEntry n k pos f).stall? n = some y ∧ y.queue? k = some z ∧ z.entry? pos = some (f e) := by
  have hqt : t.queue? n k = some q := by rw [h n k, State.queue?_eq, hx]; exact hq
  have hm : (t.modEntry n k pos f).queue? n k = some (q.modEntry pos f) := by rw [State.modEntry, State.queue?_modQueue_same, hqt]; rfl
  rw [State.queue?_eq] at hm
  obtain ⟨y, hy, hz⟩ := Option.bind_eq_some_iff.mp hm
  exact ⟨y, _, hy, hz, by rw [q.entry?_modEntry pos (fun e he => (hf e).trans he), he]; rfl⟩

end Sys2Proof.Machine

/-- Settles O55: what closes a recovery leaves every stall's journal, the last rebuild closes it with a record, and a stopped command's
verdict is that of its kind and its replays. -/
theorem recoveriesComplete : Obligations.RecoveriesComplete := by
  unfold Obligations.RecoveriesComplete
  refine ⟨fun s n x b hx hb hj => ⟨_, rfl, journalRebuildDone_spec hx hb hj⟩, fun s r hr hu hb => ⟨_, rfl, ?_⟩, fun s a f x q e hx hq he hun hover => ?_⟩
  · have hacct : s.closeRecoveries.acct = { s.acct with
        recoveries := [], seq := s.acct.seq + 1, lastDone := s.nowW
        log := appendEvent 256 s.acct.log (s.event' r.kind 2 r.index r.affected r.replayed r.faulted r.outcome 0 0) } := by
      rw [closeRecoveries_single hr hu]
      exact closeOne_done hb
    beta_reduce
    have hlast := getLast?_appendEvent s.acct.log (s.event' r.kind 2 r.index r.affected r.replayed r.faulted r.outcome 0 0)
    rw [hacct]
    dsimp only
    exact ⟨rfl, rfl, rfl, _, hlast, rfl, rfl, rfl, rfl⟩
  · obtain ⟨hside, hmany, hagain⟩ := State.decideOne_of_entry hx hq he hun hover f
    refine ⟨fun hn hs => ?_, hside, hmany⟩
    obtain ⟨hv, hst⟩ := hagain hn hs
    rw [hst]
    obtain ⟨y, z, hy, hz, hd⟩ := (s.sameQueues_dropLaunches a.stall (fun l => l.qk = a.qk && l.pos = a.pos) false).entry? hx hq he (fun e =>
        { e with st := .accepted, undecided := false, startAt := 0, beginAt := 0, progress := 0, status := 0, detail := 0, stopped := false
                 moved := [] }) (fun _ => rfl)
    exact ⟨hv, y, z, _, hy, hz, hd, rfl, rfl, rfl⟩

end


section
set_option Elab.async false
/-! SUPPORT. Bring-up, retraining, the key exchange and the rekey of a link (R374–R381, R401). -/

open Sys2Proof Sys2Proof.Machine

namespace Sys2Proof.Machine

/-! What a port's changes keep. -/

theorem State.onlySends.st {s t : State} (h : s.onlySends t) (p : Nat) : (t.tlp p).st = (s.tlp p).st := (congrArg TlPort.st (h.bare p) :)

/-! Retraining (R380, R381). -/

/-! Lanes (R378). -/

/-! The key exchange (R375, R376). -/

/-! FINISH and SWITCH (R375, R376). -/

/-! The write of TL_P_CTL (R374, R401). -/

end Sys2Proof.Machine

end


section
set_option Elab.async false
/-! SUPPORT. Cleared memory, and the accounting requests (R411, R416–R422, R497–R505). -/

open Sys2Proof Sys2Proof.Machine

namespace Sys2Proof.Machine

/-! Memory with places taken out. -/

/-- What is taken out of memory by its place reads as zero, and the rest as before. -/
theorem Memory.read_filter (m : Memory) (f : Nat → Bool) (a : Nat) : Memory.read (m.filter (fun c => f c.1)) a = if f a then Memory.read m a else 0 := by
  unfold Memory.read
  induction m with
  | nil => exact (ite_self _).symm
  | cons c m ih =>
    obtain ⟨j, v⟩ := c
    by_cases hj : f j = true
    · rw [List.filter_cons_of_pos (p := fun c : Host.Cell => f c.1) hj]
      by_cases h : j = a
      · subst h
        simp [Tab.get, hj]
      · simpa only [Tab.get, if_neg h] using ih
    · rw [List.filter_cons_of_neg (p := fun c : Host.Cell => f c.1) hj, ih]
      by_cases h : j = a
      · subst h
        rw [if_neg hj, if_neg hj]
      · simp only [Tab.get, if_neg h]

theorem Memory.read_clear (m : Memory) (b n a : Nat) : Memory.read (m.clear b n) a = if b ≤ a ∧ a < b + n then 0 else Memory.read m a := by
  unfold Memory.clear
  rw [Memory.read_filter m (fun c => !(decide (b ≤ c) && decide (c < b + n)))]
  by_cases h : b ≤ a ∧ a < b + n <;> simp [h]

/-- The whole pseudo-channels of a list are cleared. -/
theorem State.read_groomPcs (l : List Nat) : ∀ (s : State) (a : Nat),
    Memory.read (forAll l (fun p t => t.groomRange (p * 2 ^ 30) (2 ^ 30)) s).hbm a = if a / 2 ^ 30 ∈ l then 0 else Memory.read s.hbm a := by
  induction l with
  | nil => intro s a; rfl
  | cons p l ih =>
    intro s a
    refine (ih (s.groomRange (p * 2 ^ 30) (2 ^ 30)) a).trans ?_
    have hone : Memory.read (s.groomRange (p * 2 ^ 30) (2 ^ 30)).hbm a = if a / 2 ^ 30 = p then 0 else Memory.read s.hbm a := by
      refine (Memory.read_clear _ _ _ _).trans ?_
      congr 1
      exact propext ⟨fun h => by omega, fun h => by omega⟩
    rw [hone]
    generalize a / 2 ^ 30 = q
    by_cases h : q = p <;> simp [h]

/-- What follows a clearing changes the yard only. -/
theorem State.afterClear_only (s : State) : Only [.yard] s (((if s.yard.chg.isNone then s.setOwners else s).checkClean).groomProgress) := by
  refine State.groomProgress_only (State.checkClean_only ?_ (List.Subset.refl _)) (List.Subset.refl _)
  split
  · exact State.setOwners_only (Only.refl _ s) (List.Subset.refl _)
  · exact Only.refl _ s

/-- The bay is clear and settled, and the Groom is done with it. -/
def State.bayDone (s : State) (b : Nat) : State :=
  ({ s.groomBay b with prot := { s.prot with grooming := s.prot.grooming.filter (fun x => x ≠ b) } }).settleBay b

/-- GROOM_BAY_CLEARED of a bay the Groom clears: the bay is clean, and no other byte changes. -/
theorem groomBayCleared_spec {s : State} {b : Fin 128} (hb : b.val ∈ s.prot.grooming) (hr : s.running = true) :
    b.val ∉ (groomBayCleared b s).prot.grooming ∧ ∀ a, Memory.read (groomBayCleared b s).hbm a =
      if a / 2 ^ 30 ∈ bayPcs s.pkg.variant b.val then 0 else Memory.read s.hbm a := by
  have hhbm : ∀ a, Memory.read (s.bayDone b).hbm a = if a / 2 ^ 30 ∈ bayPcs s.pkg.variant b.val then 0 else Memory.read s.hbm a :=
    fun a => State.read_groomPcs (bayPcs s.pkg.variant b) s a
  have hgroom : b.val ∉ (s.bayDone b).prot.grooming := by
    change b.val ∉ s.prot.grooming.filter (fun x => x ≠ b.val)
    simp
  have heq : groomBayCleared b s = (((if ((s.bayDone b).modChg (fun c => { c with grooming := c.grooming.filter (fun x => x ≠ b.val) })).yard.chg.isNone
      then ((s.bayDone b).modChg (fun c => { c with grooming := c.grooming.filter (fun x => x ≠ b.val) })).setOwners
      else (s.bayDone b).modChg (fun c => { c with grooming := c.grooming.filter (fun x => x ≠ b.val) })).checkClean).groomProgress).zeroiseProgress :=
    if_pos (by rw [List.contains_iff_mem.mpr hb, hr]; rfl)
  rw [heq]
  generalize s.bayDone b = u at *
  have hmod : Only [.yard] u (u.modChg (fun c => { c with grooming := c.grooming.filter (fun x => x ≠ b.val) })) :=
    State.modChg_only (Only.refl _ u) (List.Subset.refl _) _
  generalize u.modChg (fun c => { c with grooming := c.grooming.filter (fun x => x ≠ b.val) }) = v at *
  have hall := hmod.trans v.afterClear_only
  generalize ((if v.yard.chg.isNone then v.setOwners else v).checkClean).groomProgress = w at *
  rw [grooming_zeroiseProgress, hall.prot_eq (by decide), (State.zeroiseProgress_only (Only.refl _ w) (List.Subset.refl _)).hbm_eq (by decide), hall.hbm_eq (by decide)]
  exact ⟨hgroom, hhbm⟩

/-! SLOT_CLEAN (R416, R420). -/

/-- Is an HBM byte in an interval of a bay's bytes, by whole lines. -/
def Interval.covers (i : Interval) (v : Variant) (a : Nat) : Bool :=
  (bayByteOf v a).1 = i.bay && decide (i.lo / 64 * 64 ≤ (bayByteOf v a).2) && decide ((bayByteOf v a).2 < ceilDiv i.hi 64 * 64)

theorem State.read_groomInterval (s : State) (i : Interval) (a : Nat) :
    Memory.read (s.groomInterval i).hbm a = if i.covers s.pkg.variant a then 0 else Memory.read s.hbm a := by
  refine (Memory.read_filter s.hbm (fun c => !i.covers s.pkg.variant c) a).trans ?_
  cases i.covers s.pkg.variant a <;> rfl

/-- A byte in one of the intervals that are cleared reads zero. -/
theorem State.read_groomIntervals (l : List Interval) (a : Nat) : ∀ s : State, (∃ i ∈ l, i.covers s.pkg.variant a = true) ∨ Memory.read s.hbm a = 0 →
    Memory.read (forAll l (fun i t => t.groomInterval i) s).hbm a = 0 := by
  induction l with
  | nil =>
    rintro s (⟨i, hi, -⟩ | h)
    · cases hi
    · exact h
  | cons j l ih =>
    intro s h
    refine ih (s.groomInterval j) ?_
    rw [State.read_groomInterval]
    cases hj : j.covers s.pkg.variant a with
    | true => exact .inr rfl
    | false =>
      rcases h with ⟨i, hi, hc⟩ | h
      · rcases List.mem_cons.mp hi with rfl | hi
        · rw [hj] at hc; cases hc
        · exact .inl ⟨i, hi, hc⟩
      · exact .inr h

theorem SlotLedger.settle_all {x : SlotLedger} (h : x.st = .clearing) {p : Interval → Bool} (hp : ∀ i ∈ x.left, p i = true) : x.settle p = SlotLedger.init := by
  unfold SlotLedger.settle
  rw [if_neg (by simp [h]), List.filter_eq_self.mpr hp]
  refine if_pos ?_
  unfold SlotLedger.left
  rw [List.isEmpty_iff, List.filter_eq_nil_iff]
  intro i hi
  by_cases hs : i ∈ x.settled <;> simp [hi, hs]

theorem slotClean_spec {s : State} {k : Fin 1024} (h : s.mayClear k.val = true) (hown : ∀ i ∈ (s.slot k.val).left, (s.yard.bayOwner.get 0xFF i.bay).toNat < 128) :
    (slotClean k s).slot k.val = SlotLedger.init ∧ ∀ i ∈ (s.slot k.val).left, ∀ a, i.covers s.pkg.variant a = true → Memory.read (slotClean k s).hbm a = 0 := by
  have hst : (s.slot k.val).st = .clearing := of_decide_eq_true (Bool.and_elim_left h)
  have hmine : (s.slot k.val).left.filter (fun i => (s.yard.bayOwner.get 0xFF i.bay).toNat < 128) = (s.slot k.val).left :=
    List.filter_eq_self.mpr (fun i hi => decide_eq_true (hown i hi))
  have hslot0 : (forAll (s.slot k.val).left (fun i t => t.groomInterval i) s).slot k.val = s.slot k.val := by
    refine forAll_keeps (P := fun t : State => t.slot k.val = s.slot k.val) _ (fun i _ u hu => ?_) rfl
    exact hu
  have hslot : (s.clearReach k.val).slot k.val = SlotLedger.init := by
    unfold State.clearReach
    dsimp only
    rw [hmine, State.slot_setSlot, if_pos rfl, hslot0]
    exact SlotLedger.settle_all hst (fun i hi => List.contains_iff_mem.mpr hi)
  have hread : ∀ i ∈ (s.slot k.val).left, ∀ a, i.covers s.pkg.variant a = true → Memory.read (s.clearReach k.val).hbm a = 0 := by
    intro i hi a hc
    unfold State.clearReach
    dsimp only
    rw [hmine]
    exact State.read_groomIntervals _ a s (.inl ⟨i, hi, hc⟩)
  unfold slotClean
  rw [h, Bool.not_true, if_neg Bool.false_ne_true]
  dsimp only
  generalize s.clearReach k.val = u at *
  rw [if_neg (by rw [hslot]; decide)]
  have hall := u.afterClear_only
  generalize ((if u.yard.chg.isNone then u.setOwners else u).checkClean).groomProgress = w at *
  rw [State.slot_of_prot_eq (hall.prot_eq (by decide)), hall.hbm_eq (by decide)]
  exact ⟨hslot, hread⟩

/-! Accounting requests (R497, R500, R501, R505). -/

theorem State.orphansFor_mbGo (s : State) (r q : Req) (op : Nat) : (s.mbGo r op).1.orphansFor q = s.orphansFor q := by
  unfold State.orphansFor
  simp only [State.mbGo_acct, State.mbGo_stall?]

theorem accEvents_answered {s : State} {m : MbReq} {l : List AccEvent} (h : s.mbTakes (accForm 0x0080 8 [(1, 3)] (fun x => x = 0xFF) (plain m)) m = true)
    (hl : (if fnIsPf m.fn && accStall (plain m) = 0xFF then some s.acct.log else (s.stall? (accStall (plain m))).map (·.evLog)) = some l) :
    (accEvents (plain m) s).answered m 0x0080 (okWith (
      leBytes 4 ((l.filter (fun e => decide (f32 m.payload 4 ≤ e.seq.toNat))).take 127).length
        ++ ((l.filter (fun e => decide (f32 m.payload 4 ≤ e.seq.toNat))).take 127).flatMap AccEvent.bytes)) := by
  unfold accEvents
  refine State.mbServeA_answered h ?_ ?_
  · dsimp only
    rw [State.mbGo_acct, State.mbGo_stall?]
    split
    next hn => exact absurd (hl.symm.trans hn) (by simp)
    next l' hl' =>
      obtain rfl := Option.some.inj (hl.symm.trans hl')
      rfl
  · dsimp only
    split <;> rfl

/-- The orphans of a stall, from where the request says (R505). -/
theorem accRecords_orphans {s : State} {m : MbReq} (h : s.mbTakes { accForm 0x0081 16 [(5, 3), (12, 4)] (fun _ => false) (plain m) with
      bad := fun p => minOfs ((accForm 0x0081 16 [(5, 3), (12, 4)] (fun _ => false) (plain m)).bad p) (lowest (badIf (1 < f8 p 4) 4)) } m = true)
    (hk : f8 m.payload 4 = 1) :
    (∀ o, s.orphansFor (plain m) = some o → (accRecords (plain m) s).answered m 0x0081 (okWith (
      accHead ((o.entries.drop (f32 m.payload 8)).take 72).length (f32 m.payload 8 + ((o.entries.drop (f32 m.payload 8)).take 72).length) (s.eraFloor (accStall (plain m)))
        ++ ((o.entries.drop (f32 m.payload 8)).take 72).flatMap Orphan.accBytes))) ∧
    (s.orphansFor (plain m) = none → (accRecords (plain m) s).answered m 0x0081 (refuse 2)) := by
  have hk' : f8 (plain m).payload 4 = 1 := hk
  have hera : ∀ op, (s.mbGo (plain m) op).1.eraFloor (accStall (plain m)) = s.eraFloor (accStall (plain m)) := fun op => by
    unfold State.eraFloor
    rw [State.mbGo_acct]
  unfold accRecords
  constructor
  · intro o ho
    refine State.mbServeA_answered h ?_ ?_
    · dsimp only
      rw [if_pos hk', State.orphansFor_mbGo, ho]
      dsimp only
      rw [hera]
      rfl
    · dsimp only
      rw [if_pos hk', State.orphansFor_mbGo, ho]
  · intro ho
    refine State.mbServeA_answered h ?_ ?_
    · dsimp only
      rw [if_pos hk', State.orphansFor_mbGo, ho]
    · dsimp only
      rw [if_pos hk', State.orphansFor_mbGo, ho]

/-- The orphans of a stall taken off the list. -/
def State.orphansGone (s : State) (n : Nat) : State := ({ s with acct := { s.acct with orphans := s.acct.orphans.erase n } }).setQuotas

theorem State.orphansGone_only (s : State) (n : Nat) : Only [.acct, .stalls] s (s.orphansGone n) :=
  State.setQuotas_only (Only.acct (Only.refl _ s) _ (by decide)) (by decide)
theorem State.orphansGone_acct (s : State) (n : Nat) : (s.orphansGone n).acct.orphans.find? n = none := (Tab.find?_erase s.acct.orphans n n).trans (if_pos rfl)

/-- ORPHAN_CLEAR takes the list away, where there is one. -/
theorem orphanClear_spec {s : State} {m : MbReq} (h : s.mbTakes (accForm 0x0082 8 [(1, 7)] (fun _ => false) (plain m)) m = true) :
    ((s.orphansFor (plain m)).isSome = true → (orphanClear (plain m) s).answered m 0x0082 ok ∧ (orphanClear (plain m) s).acct.orphans.find? (accStall (plain m)) = none) ∧
    (s.orphansFor (plain m) = none → (orphanClear (plain m) s).answered m 0x0082 (refuse 2) ∧ (orphanClear (plain m) s).acct = s.acct) := by
  have hgo : (s.mbGo (plain m) 0x0082).2 = true := Bool.and_elim_left h
  have haw : (s.mbGo (plain m) 0x0082).1.awaits m 0x0082 := State.mbGo_awaits (State.hostFn_of_mbTakes h) hgo
  have hor := s.orphansFor_mbGo (plain m) (plain m) 0x0082
  have hacct := s.mbGo_acct (plain m) 0x0082
  have heq : orphanClear (plain m) s = _ := State.mbServeA_of_takes h _
  have hform : (accForm 0x0082 8 [(1, 7)] (fun _ => false) (plain m)).op = 0x0082 := rfl
  rw [hform] at heq
  dsimp only at heq
  generalize (s.mbGo (plain m) 0x0082).1 = u at *
  rw [heq, hor]
  constructor
  · intro ho
    obtain ⟨o, ho⟩ := Option.isSome_iff_exists.mp ho
    rw [ho]
    dsimp only
    change (State.mbAnswer (u.orphansGone (accStall (plain m))) (plain m) 0x0082 ok).answered m 0x0082 ok ∧ Tab.find? (State.mbAnswer (u.orphansGone (accStall (plain m))) (plain m) 0x0082 ok).acct.orphans _ = none
    rw [State.mbAnswer_acct]
    exact ⟨State.mbAnswer_answered (State.awaits_of_mb_eq haw ((u.orphansGone_only _).mb_eq _ (by decide) (by decide))) _, u.orphansGone_acct _⟩
  · intro ho
    rw [ho]
    exact ⟨State.mbAnswer_answered haw _, (State.mbAnswer_acct _ _ _ _).trans hacct⟩

end Sys2Proof.Machine

/-- Settles O56: what the Groom clears is what it filters out of memory, and an accounting request reads what a GO leaves. -/
theorem groomsAndAccounting : Obligations.GroomsAndAccounting := by
  unfold Obligations.GroomsAndAccounting
  refine ⟨fun s b hb hr => ⟨_, rfl, ?_⟩, fun s k h hown => ⟨_, rfl, ?_⟩, fun s m l h hl => ⟨_, rfl, accEvents_answered h hl⟩, fun s m o h hk => ?_, fun s m h => ?_⟩
  · obtain ⟨hgroom, hread⟩ := groomBayCleared_spec hb hr
    exact ⟨hgroom, fun a ha => (hread a).trans (if_pos ha), fun a ha => (hread a).trans (if_neg ha)⟩
  · obtain ⟨hslot, hread⟩ := slotClean_spec h hown
    refine ⟨hslot, fun i hi a hb hlo hhi => hread i hi a ?_⟩
    unfold Interval.covers
    simp [hb, hlo, hhi]
  · obtain ⟨hsome, hnone⟩ := accRecords_orphans h hk
    exact ⟨fun ho => ⟨_, rfl, hsome o ho⟩, fun ho => ⟨_, rfl, hnone ho⟩⟩
  · obtain ⟨hsome, hnone⟩ := orphanClear_spec h
    exact ⟨fun ho => ⟨_, rfl, hsome ho⟩, fun ho => ⟨_, rfl, hnone ho⟩⟩

end


section
set_option Elab.async false
/-! SUPPORT. Queues made, removed and bound anew (R205–R208, R460). -/

open Sys2Proof Sys2Proof.Machine

namespace Sys2Proof.Machine

/-! A queue's record without the marks a dead ring leaves. -/

/-- A queue but for the marks of a dead ring. -/
def Queue.book (q : Queue) : Queue := { q with ringFault := false, faulted := false }

/-- Every queue is as it was, but for the marks of a dead ring. -/
def State.sameBooks (s t : State) : Prop := ∀ n k, (t.queue? n k).map Queue.book = (s.queue? n k).map Queue.book

theorem State.sameBooks.refl (s : State) : s.sameBooks s := fun _ _ => rfl
theorem State.sameBooks.trans {s t u : State} (h : s.sameBooks t) (g : t.sameBooks u) : s.sameBooks u := fun n k => (g n k).trans (h n k)
theorem State.sameQueues.books {s t : State} (h : s.sameQueues t) : s.sameBooks t := fun n k => by rw [h n k]
theorem Only.sameBooks {l : List Part} {s t : State} (h : Only l s t) (hp : Part.stalls ∉ l) : s.sameBooks t := (h.sameQueues hp).books

theorem State.sameBooks_ringDead (s : State) (n k : Nat) : s.sameBooks (s.ringDead n k) := by
  intro m j
  unfold State.ringDead State.modQueue
  rw [State.queue?_eq, State.queue?_eq, State.stall?_modStall]
  split
  next h =>
    subst h
    cases s.stall? m with
    | none => rfl
    | some x =>
      dsimp only [Option.map_some, Option.bind_some]
      rw [Stall.queue?_modQueue]
      split
      next hj => rw [hj]; cases x.queue? k <;> rfl
      next => rfl
  next => rfl

theorem State.sameBooks_writeArea (s : State) (n k : Nat) (q : Queue) (area base pages o : Nat) (bs : List Byte) (page : List Byte) :
    s.sameBooks (s.writeArea n k q area base pages o bs page) := by
  unfold State.writeArea
  split
  · dsimp only
    have hrun := (State.sameQueues_reading.writeRunF (ringWho n k) rWrite (bs.length / 64 + 2) s (base + o) bs (List.replicate bs.length false)).books
    split
    · exact hrun
    · exact hrun.trans (State.sameBooks_ringDead _ n k)
  · split
    · split
      next t h =>
        have hhost := State.hostWrite_only (Only.refl [.hostMem] s) (by decide) (base + o) bs
        rw [h] at hhost
        exact (hhost _ rfl).sameBooks (by decide)
      next => exact s.sameBooks_ringDead n k
    · split
      next t h =>
        have hpage := State.sealPage_only (Only.refl [.hostMem, .sessions] s) (by decide) q.session.toNat n k area base pages (o / 4096) page
        rw [h] at hpage
        exact (hpage _ rfl).sameBooks (by decide)
      next => exact s.sameBooks_ringDead n k
theorem State.sameBooks_writeHeader (s : State) (n k : Nat) : s.sameBooks (s.writeHeader n k) := by
  unfold State.writeHeader
  split
  · exact .refl s
  · exact s.sameBooks_writeArea n k _ _ _ _ _ _ _

theorem State.sameBooks.queue {s t : State} (h : s.sameBooks t) {n k : Nat} {x : Queue} (hx : s.queue? n k = some x) :
    ∃ y, t.queue? n k = some y ∧ y.book = x.book := by
  have hn := h n k
  rw [hx] at hn
  cases hy : t.queue? n k with
  | none => rw [hy] at hn; cases hn
  | some y => rw [hy] at hn; exact ⟨y, rfl, Option.some.inj hn⟩

theorem State.queue?_mbAnswer (s : State) (r : Req) (op n k : Nat) (a : Answer) : (s.mbAnswer r op a).queue? n k = s.queue? n k :=
  (s.mbAnswer_keeps r op a).queue?_eq n k (by decide)
theorem State.queue?_mbGo (s : State) (r : Req) (op n k : Nat) : (s.mbGo r op).1.queue? n k = s.queue? n k :=
  (s.mbGo_keeps r op).queue?_eq n k (by decide)

/-! QUEUE_CREATE (R205–R207). -/

/-- The stall with a new queue, and its segment of the journal. -/
def Stall.withQueue (x : Stall) (k ofs need : Nat) (q : Queue) : Stall :=
  { x with queues := x.queues.put k (some q)
           journal := { x.journal with segs := x.journal.segs.put k (some { ofs := ofs, bytes := need }), gen := x.journal.gen + 1 } }

theorem Stall.queue?_withQueue (x : Stall) (k ofs need : Nat) (q : Queue) : (x.withQueue k ofs need q).queue? k = some q :=
  (Tab.find?_put x.queues k k (some q)).trans (if_pos rfl)

theorem State.made_queue {s : State} {n : Nat} {x : Stall} (hx : s.stall? n = some x) (k ofs need : Nat) (q : Queue) :
    ∃ y, (if (s.modStall n (fun t => t.withQueue k ofs need q)).queueServed q then (s.modStall n (fun t => t.withQueue k ofs need q)).writeHeader n k
      else s.modStall n (fun t => t.withQueue k ofs need q)).queue? n k = some y ∧ y.book = q.book := by
  have hq : (s.modStall n (fun t => t.withQueue k ofs need q)).queue? n k = some q := by
    rw [State.queue?_eq, State.stall?_modStall, if_pos rfl, hx]
    exact x.queue?_withQueue k ofs need q
  split
  · exact (State.sameBooks_writeHeader _ n k).queue hq
  · exact ⟨q, hq, rfl⟩

theorem queueCreate_makes {s : State} {m : MbReq} {p : HostPort} {n : StallNo} {x : Stall} (hfn : m.fn = .vf p n) (hx : s.stall? n = some x)
    (h : s.mbTakes (queueCreateForm x.hold.ctxMax) m = true) (hr : (s.mbGo (plain m) 0x0030).1.queueCreateRefusal x n m.payload = none) :
    ∃ y, (queueCreate (plain m) s).queue? n (qkey (f8 m.payload 0) (f8 m.payload 1) (f8 m.payload 2)) = some y ∧
      y.book = { newQueue m.payload 0 (asnOf x.journal.era (x.journal.nextCount (qkey (f8 m.payload 0) (f8 m.payload 1) (f8 m.payload 2)))) 0 with hdrSeq := 2 } := by
  have hstall : fnStall (plain m).fn = some n := by simp [plain, hfn, fnStall]
  have hmax : (fnStall (plain m).fn).elim 0 (fun n => ((s.stall? n).map (fun t => t.hold.ctxMax)).getD 0) = x.hold.ctxMax := by
    rw [hstall]
    simp [hx]
  have hx' : (s.mbGo (plain m) 0x0030).1.stall? n = some x := (State.mbGo_stall? _ _ _ _).trans hx
  obtain ⟨y, hy, hbook⟩ := State.made_queue hx' (qkey (f8 m.payload 0) (f8 m.payload 1) (f8 m.payload 2))
    ((x.journal.place (x.hold.journalMib * mib) (segBytes (2 ^ f8 m.payload 3) x.hold.receipts)).getD 0) (segBytes (2 ^ f8 m.payload 3) x.hold.receipts)
    { newQueue m.payload 0 (asnOf x.journal.era (x.journal.nextCount (qkey (f8 m.payload 0) (f8 m.payload 1) (f8 m.payload 2)))) 0 with hdrSeq := 2 }
  refine ⟨y, ?_, hbook⟩
  unfold queueCreate
  dsimp only
  rw [hmax, State.mbServeA_of_takes h, State.queue?_mbAnswer]
  have hop : (queueCreateForm x.hold.ctxMax).op = 0x0030 := rfl
  have hr' : (s.mbGo (plain m) 0x0030).1.queueCreateRefusal x n (plain m).payload = none := hr
  rw [hstall, hop]
  dsimp only
  rw [hx']
  dsimp only
  rw [hr']
  exact hy

/-! QUEUE_DESTROY (R208). -/

theorem Stall.queue?_dropQueue (x : Stall) (k j : Nat) : (x.dropQueue k).queue? j = if j = k then none else x.queue? j := Tab.find?_erase x.queues k j

theorem State.queue?_dropQueue (s : State) (n k j : Nat) : (s.modStall n (fun t => t.dropQueue k)).queue? n j = if j = k then none else s.queue? n j := by
  rw [State.queue?_eq, State.queue?_eq, State.stall?_modStall, if_pos rfl]
  cases s.stall? n with
  | none => exact (ite_self _).symm
  | some x => exact x.queue?_dropQueue k j

theorem queueDestroy_idle {s : State} {m : MbReq} {p : HostPort} {n : StallNo} {y : Queue} (hfn : m.fn = .vf p n) (h : s.mbTakes queueDestroyForm m = true)
    (hy : s.queue? n (qkey (f8 m.payload 0) (f8 m.payload 1) (f8 m.payload 2)) = some y) (hi : y.idle = true) (hc : y.checking = none) :
    (queueDestroy (plain m) s).answered m 0x0031 ok ∧ ∀ j, (queueDestroy (plain m) s).queue? n j =
      if j = qkey (f8 m.payload 0) (f8 m.payload 1) (f8 m.payload 2) then none else s.queue? n j := by
  have hstall : fnStall (plain m).fn = some n := by simp [plain, hfn, fnStall]
  have haw : (s.mbGo (plain m) 0x0031).1.awaits m 0x0031 := State.mbGo_awaits (State.hostFn_of_mbTakes h) (Bool.and_elim_left h)
  have heq : queueDestroy (plain m) s = ((s.mbGo (plain m) 0x0031).1.modStall n (fun t =>
      t.dropQueue (qkey (f8 m.payload 0) (f8 m.payload 1) (f8 m.payload 2)))).mbAnswer (plain m) 0x0031 ok := by
    have hq : (s.mbGo (plain m) 0x0031).1.queue? n (qkey (f8 (plain m).payload 0) (f8 (plain m).payload 1) (f8 (plain m).payload 2)) = some y :=
      (State.queue?_mbGo _ _ _ _ _).trans hy
    have hop : queueDestroyForm.op = 0x0031 := rfl
    unfold queueDestroy
    dsimp only
    rw [State.mbServeA_of_takes h, hstall, hop]
    dsimp only
    rw [hq]
    dsimp only
    rw [hi, hc]
    rfl
  rw [heq]
  refine ⟨State.mbAnswer_answered (State.awaits_of_mb_eq haw (State.mb_modStall _ _ _ _)) _, fun j => ?_⟩
  rw [State.queue?_mbAnswer, State.queue?_dropQueue, State.queue?_mbGo]

/-! QUEUE_REBIND (R460). -/

theorem State.sameBooks_getD_sealPage (s : State) (n k : Nat) (o : Option State) (h : ∀ t, o = some t → Only [.hostMem, .sessions] s t) :
    s.sameBooks (o.getD (s.ringDead n k)) := by
  cases o with
  | none => exact s.sameBooks_ringDead n k
  | some t => exact (h t rfl).sameBooks (by decide)

theorem State.wakeQueue_of_none_waiting {s : State} {n : StallNo} {k : Nat} {q : Queue} (h : s.queue? n k = some q) (hw : q.waiting = []) : s.wakeQueue n k = s := by
  unfold State.wakeQueue
  rw [h]
  dsimp only
  rw [hw]
  rfl

/-- A sealed queue bound to another session, and its header and completion pages sealed anew. -/
def State.rebound (s : State) (n : Nat) (k : Nat) (id : U32) (q : Queue) : State :=
  forAll (List.range q.cplPages) (fun i u => (u.sealPage id.toNat n k 2 q.cpl q.cplPages i (q.shadow.readN (4096 * i) 4096)).getD (u.ringDead n k))
    (((((s.setCounter id.toNat k 0 0).setCounter id.toNat k 1 0).modQueue n k (fun q => { q with session := id, pages := [] })).writeHeader n k))

theorem State.rebound_queue {s : State} {n k : Nat} {q : Queue} (h : s.queue? n k = some q) (id : U32) :
    ∃ y, (s.rebound n k id q).queue? n k = some y ∧ y.book = Queue.book { q with session := id, pages := [] } := by
  have hcount : Only [.sessions] s ((s.setCounter id.toNat k 0 0).setCounter id.toNat k 1 0) :=
    State.setCounter_only (State.setCounter_only (Only.refl _ s) (List.Subset.refl _) _ _ _ _) (List.Subset.refl _) _ _ _ _
  unfold State.rebound
  generalize (s.setCounter id.toNat k 0 0).setCounter id.toNat k 1 0 = u at *
  have hq : (u.modQueue n k (fun q => { q with session := id, pages := [] })).queue? n k = some { q with session := id, pages := [] } := by
    rw [State.queue?_modQueue_same, hcount.queue?_eq n k (by decide), h]
    rfl
  generalize u.modQueue n k (fun q => { q with session := id, pages := [] }) = v at *
  refine State.sameBooks.queue (s := v) ?_ hq
  refine forAll_keeps (P := v.sameBooks) _ (fun i _ w hw => hw.trans ?_) (v.sameBooks_writeHeader n k)
  refine w.sameBooks_getD_sealPage n k _ (fun t ht => ?_)
  have hpage := State.sealPage_only (Only.refl [.hostMem, .sessions] w) (by decide) id.toNat n k 2 q.cpl q.cplPages i (q.shadow.readN (4096 * i) 4096)
  rw [ht] at hpage
  exact hpage _ rfl

theorem queueRebind_spec {s : State} {r : Req} {p : HostPort} {n : StallNo} {id : U32} {y : Queue} (hfn : r.fn = .vf p n) (hs : r.session = some id)
    (hc : s.mbCheck queueRebindForm r = none) (hy : s.queue? n (qkey (f8 r.payload 0) (f8 r.payload 1) (f8 r.payload 2)) = some y)
    (hseal : y.isSealed = true) (hw : y.waiting = []) :
    ∃ t : State, queueRebind r s = t.mbAnswer r 0x0076 ok ∧ ∃ z, t.queue? n (qkey (f8 r.payload 0) (f8 r.payload 1) (f8 r.payload 2)) = some z ∧
      z.book = Queue.book { y with session := id, pages := [] } := by
  have hstall : fnStall r.fn = some n := by simp [hfn, fnStall]
  obtain ⟨z, hz, hbook⟩ := State.rebound_queue hy id
  have hzw : z.waiting = [] := (congrArg Queue.waiting hbook :).trans hw
  refine ⟨s.rebound n _ id y, ?_, z, hz, hbook⟩
  unfold queueRebind State.mbServeA
  dsimp only
  rw [State.mbServe_session (by rw [hs]; rfl) hc, hstall, hs]
  dsimp only
  rw [hy]
  dsimp only
  rw [hseal, Bool.not_true, if_neg Bool.false_ne_true]
  dsimp only
  exact congrArg (fun u : State => u.mbAnswer r 0x0076 ok) (State.wakeQueue_of_none_waiting hz hzw)

end Sys2Proof.Machine

/-- Settles O30: a queue that is made is the one its request names, an idle one goes, and one bound anew keeps its records and its place. -/
theorem queueRequests : Obligations.QueueRequests := by
  unfold Obligations.QueueRequests
  refine ⟨fun s m p n x hfn hx h hr => ⟨_, rfl, ?_⟩, fun s m p n y hfn h hy hi hc => ⟨_, rfl, ?_⟩, fun s i m p n x y hx hfin hfn hc hy hseal hw => ?_⟩
  · obtain ⟨y, hy, hb⟩ := queueCreate_makes hfn hx h hr
    exact ⟨y, hy, (congrArg Queue.log2Depth hb :), (congrArg Queue.weight hb :), (congrArg Queue.vector hb :), (congrArg Queue.ring hb :),
      (congrArg Queue.cpl hb :), (congrArg Queue.hdr hb :), (congrArg Queue.admLimit hb :), (congrArg Queue.acceptedPos hb :),
      (congrArg Queue.completedPos hb :), (congrArg Queue.consumed hb :), (congrArg Queue.entries hb :), (congrArg Queue.baseAsn hb :)⟩
  · obtain ⟨hans, hq⟩ := queueDestroy_idle hfn h hy hi hc
    exact ⟨hans, (hq _).trans (if_pos rfl), fun k hk => (hq k).trans (if_neg hk)⟩
  · have hin : s.asksInside i m = some { fn := .vf p n, tag := m.tag, payload := m.payload, session := some i } := by
      simp [State.asksInside, hx, hfin, hfn, Option.filter]
    obtain ⟨t, heq, z, hz, hb⟩ := queueRebind_spec (r := { fn := .vf p n, tag := m.tag, payload := m.payload, session := some i }) rfl rfl hc hy hseal hw
    refine ⟨t.mbAnswer _ 0x0076 ok, congrArg Host.Outcome.next (((State.asksInside_spec hin).1 queueRebind).trans heq), z, ?_,
      (congrArg Queue.session hb :), (congrArg Queue.pages hb :), (congrArg Queue.acceptedPos hb :), (congrArg Queue.entries hb :), ?_⟩
    · exact (State.queue?_mbAnswer _ _ _ _ _ _).trans hz
    · rw [State.mbAnswer_session rfl]
      exact List.getLast?_concat

end


section
set_option Elab.async false
/-! SUPPORT. Doorbells, the check of what they bring, its publication, and the freeing of records (R215–R218, R235, R237). -/

open Sys2Proof Sys2Proof.Machine

namespace Sys2Proof.Machine

/-! The positions of a queue. -/

/-- Where a queue's accepted commands end. -/
def State.posOf (s : State) (n k : Nat) : Option U32 := (s.queue? n k).map (·.acceptedPos)

/-! The check of one position. -/

/-- A check leaves what the stall keeps and the positions of its queues. -/
structure State.looks (s t : State) : Prop where
  kept : s.sameKept t
  pos : ∀ n k, t.posOf n k = s.posOf n k

/-! What taking a command does to the journal (R473, R485, R486). -/

/-- Is there room in the era for a queue's next commands. -/
def State.eraRoom (s : State) (n k left : Nat) : Prop := ∀ x, s.stall? n = some x → x.journal.nextCount k + left ≤ countMax

theorem State.looks.room {s t : State} (h : s.looks t) {n : StallNo} {k left : Nat} (hr : s.eraRoom n k left) : t.eraRoom n k left := by
  intro y hy
  have hn := h.kept n
  rw [hy] at hn
  cases hx : s.stall? n with
  | none => rw [hx] at hn; cases hn
  | some x =>
    rw [hx] at hn
    rw [Stall.kept_journal (Option.some.inj hn)]
    exact hr x hx

/-! Doorbells. -/

/-! The publication of a check (R217). -/

/-! CONSUMED (R215, R235). -/

/-! QDB_ASN_LO (R237). -/

end Sys2Proof.Machine

end


section
set_option Elab.async false
/-! SUPPORT. The data of a chunk (R389, R390): a command that has finished while another of its chunks has its grant (O41). -/

open Sys2Proof Sys2Proof.Machine

namespace Sys2Proof.Machine

/-- The holdings of a stall that has nothing. -/
def Holdings.bare : Holdings :=
  { iso := 2, ctxMax := 16, debugConsent := false, bar2En := false, receipts := false, farLoft := false, hostPorts := 1, journalMib := 16, mirrorBay := 0
    preemptLimit := 0, pauseLimit := 0, droverSeq := 0, loftPages := 0, bays := [], retired := 0, slots := [], gates := [], links := [], regs := []
    regions := [], sole := false }

/-- A stall as it is defined, with these queues and these claims. -/
def Stall.bare (queues : Tab Queue) (claims : List Claim) : Stall :=
  { hold := Holdings.bare
    man := { epoch := 0, planDigest := 0, seq := 0, issuedAt := 0, pending := false, windowGen := 0, draw := 0 }
    ctxs := [], queues := queues, launches := [], sched := Sched.init, stats := MemStats.init, seed := 0, kills := [], invals := []
    memClear := [], reset := [], bar2Deny := 0, halted := 0, debugCount := 0, paused := false, before := none, measuring := [], manReqs := []
    journal := { era := 1, definedAt := 0, gen := 0, copies := [], rebuild := none, broken := false, next := [], segs := [], quota := 0 }
    evLog := [], evSeq := 0, attest := Attest.init, drover := Drover.init, relay := { Relay.init with claims := claims }
    dlv := freshDelivery Holdings.bare 0 }

/-- The Relay queue of context 0 of stall 1. -/
def relayQueue : QueueId := { stall := 1, ctx := 0, engine := .relay, queue := 0 }

/-- A REMOTE_WRITE of no bytes that has started. -/
def emptyWrite : Entry := { newEntry 0 (asnOf 1 1) (0x30 :: zeros 63) none with st := .started }

/-- Its chunk, whose slot is committed and whose last bytes a WR_ACK tells of. -/
def lastChunk : Claim :=
  { keyT := 7, srcPkg := 0, srcStall := 1, ticket := 1, own := true, port := 0, peer := 3, peerStall := 2, granted := true, committed := true, read := false
    addr := 0, span := 0, num := 0, qk := queueKey relayQueue, pos := 0, loc := 0, ofs := 0, done := 0, data := [] }

/-- Another chunk of the same command: it has its grant and waits for a slot. -/
def strayChunk : Claim := { lastChunk with ticket := 2, committed := false, span := 1 }

/-- The acknowledgement of the last chunk. -/
def lastAck : LinkMsg :=
  { hops := 0, src := 3, dst := 0, srcStall := 2, dstStall := 1, addr := 0, keyT := 7, ticket := 1, seq := 0, data := [], poison := false, read := false
    span := 0, fault := false }

/-- Package 0 of a pod of four with port 0 up, and a stall whose command has both chunks and whose context does not exist. -/
def twoChunks : State :=
  { State.reset with
    tl := { Tsuholt.reset with ports := [(0, { TlPort.init with st := .active })] }
    yard := { Yard.reset with active := { Plan.default with policy := { Plan.default.policy with podPkgId := 0, podSize := 4 } } }
    stalls := [(1, Stall.bare [(queueKey relayQueue, { newQueue (zeros 40) 0 (asnOf 1 1) 0 with entries := [emptyWrite] })] [lastChunk, strayChunk])] }

/-- The acknowledgement ends the command; the slot it frees starts the other chunk, whose source faults, and the fault goes into the command's status. -/
theorem lastAck_status : ((twoChunks.arrive 0 0x11 lastAck none (wrAckBody lastAck)).entryAt relayQueue 0).map (·.status) = some stPartial := by
  decide +kernel

end Sys2Proof.Machine

/-- Refutes O41: the last WR_ACK of a command leaves it DONE in the statement; in `twoChunks` the slot that it frees starts another chunk of
the command, which has a grant, and the fault of that chunk's source changes the status of the finished command. -/
theorem not_remoteTicketsAndData : ¬ Obligations.RemoteTicketsAndData := by
  unfold Obligations.RemoteTicketsAndData
  rintro ⟨-, -, -, -, -, -, -, -, hack, -⟩
  obtain ⟨t, hstep, -, -, hends⟩ :=
    hack twoChunks 0 lastAck relayQueue lastChunk emptyWrite (by decide +kernel) rfl rfl (by decide +kernel) rfl rfl (by decide +kernel)
  obtain ⟨e, hat, -, hstatus, -⟩ := hends rfl (Nat.zero_le _) (by decide +kernel)
  cases hstep
  have hfinal : some e.status = some stPartial := (congrArg (Option.map fun x : Entry => x.status) hat).symm.trans lastAck_status
  exact absurd (hstatus.symm.trans (Option.some.inj hfinal)) (by decide +kernel)

end


section
set_option Elab.async false
/-! SUPPORT. The MUART (R552–R560): platform events and cause bits leave both paths as they were, and each event's own change. -/

open Sys2Proof Sys2Proof.Machine

namespace Sys2Proof.Machine

/-- The MUART and the console. -/
def State.paths (s : State) : Muart × Console := (s.side.mu, s.side.con)

theorem State.paths_of_side {s t : State} (h : t.side = s.side) : t.paths = s.paths := by rw [State.paths, State.paths, h]
theorem State.mu_of_paths {s t : State} (h : t.paths = s.paths) : t.side.mu = s.side.mu := congrArg Prod.fst h

theorem State.paths_ibi (s : State) : s.ibi.paths = s.paths := by
  unfold State.ibi
  split <;> rfl
theorem State.paths_platEvent (s : State) (e : PlatEvent) : (s.platEvent e).paths = s.paths := by
  unfold State.platEvent
  dsimp only
  split
  · rfl
  · split
    · exact State.paths_ibi _
    · rfl
theorem State.paths_platform (s : State) : s.platform.paths = s.paths := by
  refine forAll_keeps (P := fun u : State => u.paths = s.paths) [20, 21, 22, 30] (fun id _ u hu => ?_) rfl
  dsimp only
  split
  · exact hu
  · split
    · exact hu
    · exact (State.paths_platEvent _ _).trans hu

/-- What raises causes alone leaves both paths alone. -/
theorem State.side_muEvt (s : State) (b : BitVec 4) : (s.muEvt b).side = (s.setMu (fun u => { u with evt := u.evt ||| b })).side := by
  unfold State.muEvt
  dsimp only
  split
  · rfl
  · exact (State.pfCause_keeps _ _).side_eq (by decide)

/-- MU_EVT takes its bit, the state sensors follow, and the rest of both paths stays. -/
theorem State.paths_muEvt_platform (s : State) (b : BitVec 4) :
    (s.muEvt b).platform.paths = ({ s.side.mu with evt := s.side.mu.evt ||| b }, s.side.con) :=
  (State.paths_platform _).trans (State.paths_of_side (s.side_muEvt b))

/-! Characters (R553–R556, R561). -/

/-- The state in which a received character has been counted. -/
def State.charTaken (s : State) (framing parity : Bool) : State :=
  (s.setMu (fun u =>
    { u with lastActive := s.now, brk := false, framing := if framing then satAdd u.framing 1 else u.framing
             parity := if parity then satAdd u.parity 1 else u.parity })).platform

theorem State.paths_charTaken (s : State) (f p : Bool) : (s.charTaken f p).paths = ({ s.side.mu with
      lastActive := s.now, brk := false, framing := if f then satAdd s.side.mu.framing 1 else s.side.mu.framing
      parity := if p then satAdd s.side.mu.parity 1 else s.side.mu.parity }, s.side.con) :=
  State.paths_platform _

section
set_option Elab.async false
variable {s : State} (hup : s.sideUp = true) (hen : s.side.mu.en = true) (hfault : s.side.mu.lineFault = false) (hawake : s.side.mu.rxAwake = true)
include hup hen hfault hawake

theorem muartCharReceived_noConsole (hcon : s.side.mu.conEn = false) (c : BitVec 9) (f p : Bool) : muartCharReceived c f p s = s.charTaken f p := by
  unfold muartCharReceived
  simp only [hup, hen, hfault, hawake, hcon]
  rfl

theorem muartCharReceived_read (hcon : s.side.mu.conEn = true) (hreads : s.side.con.reads = true) (c : BitVec 9) :
    muartCharReceived c false false s = ((s.charTaken false false).conFeed (some c)).conRead := by
  have hreads' : (s.charTaken false false).side.con.reads = true := (congrArg Console.reads (congrArg Prod.snd (s.paths_charTaken false false))).trans hreads
  unfold muartCharReceived
  simp only [hup, hen, hfault, hawake, hcon]
  exact if_pos hreads'

end

theorem State.conRead_of_empty {s : State} (h : s.side.con.buf = []) : s.conRead = s := by
  rw [State.conRead, h]
  rfl

/-- A printable character joins the line. -/
theorem State.conFeed_printable {s : State} {c : BitVec 9} (hbad : s.side.con.bad = false) (hlong : s.side.con.long = false) (hlow : 0x20 ≤ c.toNat)
    (hhigh : c.toNat ≤ 0x7E) (hroom : s.side.con.chars.length < 128) :
    (s.conFeed (some c)).side.con = { s.side.con with chars := s.side.con.chars ++ [c.setWidth 8], lastCr := false } := by
  have hcr : c ≠ 0x0D := by rintro rfl; revert hlow; decide
  have hlf : c ≠ 0x0A := by rintro rfl; revert hlow; decide
  have hff : c ≠ 0xFF := by rintro rfl; revert hhigh; decide
  simp only [State.conFeed, State.setCon, hcr, hlf, hff, hlong, hlow, hhigh, hroom.ne, hbad, if_false, if_true, decide_true, decide_false, Bool.false_and, Bool.and_self,
    Bool.false_eq_true]

/-! What is sent (R556). -/

section
set_option Elab.async false
variable {s : State} {x : Byte} {l : List Byte} (htx : s.side.mu.tx = x :: l) (hup : s.sideUp = true) (hen : s.side.mu.en = true)
  (hback : s.side.mu.backoff = false) (hfault : s.side.mu.lineFault = false)
include htx hup hen hback hfault

theorem muartCharSent_sent : muartCharSent false s = (s.setMu (fun u => { u with tx := l, hits := 0, lastActive := s.now })).emit (.console x) := by
  unfold muartCharSent
  simp only [htx, hup, hen, hback, hfault]
  simp

/-- The state in which a collision has been counted. -/
def State.collided (s : State) : State := s.setMu (fun u => { u with collision := satAdd u.collision 1, hits := u.hits + 1, backoff := true })

theorem muartCharSent_collided (hhalf : s.side.mu.half = true) : muartCharSent true s = if s.side.mu.hits + 1 < 8 then s.collided
    else (s.collided.setMu (fun u => { u with tx := [], hits := 0, backoff := false })).muEvt muTxAbort := by
  unfold muartCharSent
  simp only [htx, hup, hen, hback, hfault, hhalf]
  simp [State.collided]

end

/-! Breaks and line faults (R560). -/

/-- The state in which a break has been counted and has cut the console's line off. -/
def State.cutOff (s : State) : State := (s.setMu (fun u => { u with brk := true, breaks := satAdd u.breaks 1 })).setCon (fun c =>
  { c with chars := [], bad := false, long := false, lastCr := false, buf := wholeLines c.buf })

theorem muBreak_eq {s : State} (hup : s.sideUp = true) (hen : s.side.mu.en = true) (hfault : s.side.mu.lineFault = false) (hawake : s.side.mu.rxAwake = true) :
    muBreak s = (s.cutOff.muEvt muBreakSeen).platform := if_neg (by simp [hup, hen, hfault, hawake])
theorem muLineFault_eq {s : State} (hup : s.sideUp = true) (hen : s.side.mu.en = true) (hfault : s.side.mu.lineFault = false) :
    muLineFault s = ((s.setMu (fun u => { u with lineFault := true, faultAt := s.nowW })).muEvt muFaultSet).platform := if_neg (by simp [hup, hen, hfault])
theorem muLineFaultClear_eq {s : State} (hup : s.sideUp = true) (hfault : s.side.mu.lineFault = true) : muLineFaultClear s =
    ((s.setMu (fun u => { u with lineFault := false, brk := false, rxAwake := true, lastActive := s.now })).muEvt muFaultClear).platform :=
  if_neg (by simp [hup, hfault])

end Sys2Proof.Machine

/-- Settles O57: each event of the MUART by its own equation. -/
theorem muartEvents : Obligations.MuartEvents := by
  unfold Obligations.MuartEvents
  refine ⟨?_, ?_, ?_, fun s => ⟨_, rfl, rfl⟩, fun s => ⟨_, rfl, rfl⟩, ?_, ?_, ?_, ?_, ?_⟩
  case refine_1 =>
    intro s c f p hup hen hfault hawake hcon
    have hpaths := s.paths_charTaken f p
    rw [← muartCharReceived_noConsole hup hen hfault hawake hcon c f p] at hpaths
    exact ⟨_, rfl, congrArg Prod.fst hpaths, congrArg Prod.snd hpaths⟩
  case refine_2 =>
    intro s c hup hen hfault hawake hcon hreads hbuf hbad hlong hlow hhigh hroom
    refine ⟨_, rfl, ?_⟩
    have heq := muartCharReceived_read hup hen hfault hawake hcon hreads c
    have htaken : (s.charTaken false false).side.con = s.side.con := congrArg Prod.snd (s.paths_charTaken false false)
    have hfed := State.conFeed_printable (s := s.charTaken false false) (c := c) (by rw [htaken, hbad]) (by rw [htaken, hlong]) hlow hhigh (by rw [htaken]; exact hroom)
    rw [htaken] at hfed
    rw [heq, State.conRead_of_empty (by rw [hfed]; exact hbuf)]
    exact hfed
  case refine_3 =>
    intro s x l htx hup hen hback hfault
    refine ⟨⟨_, rfl, ?_⟩, fun hhalf hhits => ⟨_, rfl, ?_⟩, fun hhalf hhits => ⟨_, rfl, ?_⟩⟩
    · rw [muartCharSent_sent htx hup hen hback hfault]
      exact ⟨rfl, rfl⟩
    · rw [muartCharSent_collided htx hup hen hback hfault hhalf, if_pos (by omega)]
      rfl
    · rw [muartCharSent_collided htx hup hen hback hfault hhalf, if_neg (by omega)]
      beta_reduce
      rw [State.side_muEvt]
      exact ⟨rfl, rfl, rfl, rfl⟩
  case refine_4 =>
    intro s hup hsleep hawake hfault htx
    have hside : (s.advance (s.side.mu.lastActive + s.side.mu.sleep.toNat * 2 ^ 28)).side = s.side := (State.advance_keeps _ _).side_eq (by decide)
    have heq : muartSleep s = (s.advance (s.side.mu.lastActive + s.side.mu.sleep.toNat * 2 ^ 28)).setMu (fun u => { u with rxAwake := false }) := by
      have hsleep' : ¬ s.side.mu.sleep = 0#8 := hsleep
      exact if_neg (by simp [hup, hsleep', hawake, hfault, htx])
    refine ⟨_, rfl, ?_⟩
    rw [heq]
    exact ⟨congrArg (fun b : Sideband => { b.mu with rxAwake := false }) hside, rfl⟩
  case refine_5 =>
    intro s hup hen hasleep hfault
    have heq : muartWake s =
        ((s.noteWake 5).setMu (fun u => { u with rxAwake := true, brk := false, wakeLost := satAdd u.wakeLost 1, lastActive := s.now })).platform :=
      if_neg (by simp [hup, hen, hasleep, hfault])
    have hnote : (s.noteWake 5).side = s.side ∧ (s.noteWake 5).power.clearSt = s.power.clearSt := by
      unfold State.noteWake
      split <;> exact ⟨rfl, rfl⟩
    obtain ⟨hside, hclear⟩ := hnote
    refine ⟨_, rfl, ?_⟩
    rw [heq]
    refine ⟨(State.mu_of_paths (State.paths_platform _)).trans ?_, (congrArg Power.clearSt ((State.platform_keeps _).power_eq (by decide))).trans hclear⟩
    exact congrArg (fun b : Sideband => { b.mu with rxAwake := true, brk := false, wakeLost := satAdd b.mu.wakeLost 1, lastActive := s.now }) hside
  case refine_6 =>
    intro s hup hen hfault hawake
    have hpaths := s.cutOff.paths_muEvt_platform muBreakSeen
    rw [← muBreak_eq hup hen hfault hawake] at hpaths
    exact ⟨_, rfl, congrArg Prod.fst hpaths, congrArg (fun a : Muart × Console => a.2.chars) hpaths, congrArg (fun a : Muart × Console => a.2.cmd) hpaths⟩
  case refine_7 =>
    intro s hup hen hfault
    have hpaths := (s.setMu (fun u => { u with lineFault := true, faultAt := s.nowW })).paths_muEvt_platform muFaultSet
    rw [← muLineFault_eq hup hen hfault] at hpaths
    exact ⟨_, rfl, congrArg Prod.fst hpaths⟩
  case refine_8 =>
    intro s hup hfault
    have hpaths := (s.setMu (fun u => { u with lineFault := false, brk := false, rxAwake := true, lastActive := s.now })).paths_muEvt_platform muFaultClear
    rw [← muLineFaultClear_eq hup hfault] at hpaths
    exact ⟨_, rfl, congrArg Prod.fst hpaths⟩

end


section
set_option Elab.async false
/-! SUPPORT. The SPDM responder (R440, R449–R452): what it says, how far a connection has come, and a session's record. -/

open Sys2Proof Sys2Proof.Machine

namespace Sys2Proof.Machine

section
set_option Elab.async false
variable {s : State} {via : Option Fn} {ready : SpdmConn → Bool}

theorem State.spdmServe_ready (h : s.spdmReached via = true) (hready : ready (s.conn via) = true) (body : State → State) : s.spdmServe via ready body = body s := by
  unfold State.spdmServe
  rw [h, hready]
  rfl
theorem State.spdmServe_unready (h : s.spdmReached via = true) (hready : ready (s.conn via) = false) (body : State → State) :
    s.spdmServe via ready body = s.spdmError via eUnexpectedRequest := by
  unfold State.spdmServe
  rw [h, hready]
  rfl

end

theorem State.conn_setConn (s : State) (via : Option Fn) (f : SpdmConn → SpdmConn) : (s.setConn via f).conn via = f (s.conn via) :=
  (Tab.get_upd _ _ _ _ f).trans (if_pos rfl)

/-- How far the negotiation of a connection has come. -/
def SpdmConn.stage (c : SpdmConn) : Bool × Bool × Bool := (c.versioned, c.capable, c.agreed)

theorem State.stage_spdmSay (s : State) (via : Option Fn) (code : Nat) (body : List Byte) : ((s.spdmSay via code body).conn via).stage = (s.conn via).stage := by
  unfold State.spdmSay
  split
  · rfl
  · exact (congrArg SpdmConn.stage (s.conn_setConn via (fun c => { c with large := body }))).trans rfl

/-- A response from a state that has said nothing yet. -/
theorem State.told_spdmSay {s u : State} (hout : u.host.out = s.host.out) (via : Option Fn) (code : Nat) (body : List Byte) :
    s.told (u.spdmSay via code body) via code body := by
  unfold State.spdmSay State.told
  rw [← hout]
  split <;> rfl
theorem State.spdmSay_keeps (s : State) (via : Option Fn) (code : Nat) (body : List Byte) : Only [.out, .side] s (s.spdmSay via code body) :=
  State.spdmSay_only (Only.refl _ s) (List.Subset.refl _) via code body

theorem State.spdmErrorFree_keeps (s : State) (via : Option Fn) : Only [.out, .free] s (s.spdmErrorFree via) :=
  State.spdmErrorFree_only (Only.refl _ s) (List.Subset.refl _) via

/-- A request of which the connection has not come so far is unexpected, and changes nothing. -/
theorem State.unexpected {s : State} {via : Option Fn} {ready : SpdmConn → Bool} (h : s.spdmReached via = true) (hready : ready (s.conn via) = false)
    (body : State → State) :
    let t := s.spdmServe via ready body
    t.host.out = s.host.out ++ [.spdm via 0x7F [0x04]] ∧ t.side = s.side ∧ t.sessions = s.sessions := by
  intro t
  have ht : t = s.spdmError via eUnexpectedRequest := State.spdmServe_unready h hready body
  rw [ht]
  exact ⟨rfl, rfl, rfl⟩

section
set_option Elab.async false
variable {s : State} {via : Option Fn} (h : s.spdmReached via = true) (hagreed : (s.conn via).agreed = true)
include h hagreed

theorem getCertificate_eq (o n : U16) : getCertificate via 0 o n s = if s.chain.length ≤ o.toNat then s.spdmError via eInvalidRequest
    else s.spdmSay via spCertificate ([0, 0] ++ leBytes 2 (slice s.chain o.toNat n.toNat).length
      ++ leBytes 2 (s.chain.length - o.toNat - (slice s.chain o.toNat n.toNat).length) ++ slice s.chain o.toNat n.toNat) := by
  refine (State.spdmServe_ready h hagreed _).trans ?_
  simp

variable (hserves : s.moduleServes = true)
include hserves

theorem challenge_eq (k : Byte) : challenge via k s = if k ≠ 0 then s.spdmError via eInvalidRequest
    else s.signed.spdmSay via spChallengeAuth (digestBytes (Config.sha384 s.chain) ++ (Config.spdmSign s.free).toList) := by
  refine (State.spdmServe_ready h hagreed _).trans ?_
  rw [hserves]
  rfl

theorem getMeasurements_one {i : Byte} {b : List Byte} (h0 : i ≠ 0) (hff : i ≠ 0xFF) (hb : s.measurement via i.toNat [] = some b) :
    getMeasurements via i none s = s.signed.signed.spdmSay via spMeasurements (leBytes 1 1 ++ (leBytes 1 i.toNat ++ leBytes 2 b.length ++ b)) := by
  refine (State.spdmServe_ready h hagreed _).trans ?_
  have hb' : s.measurement via i.toNat ((none : Option (List Byte)).getD []) = some b := hb
  have hgot : [i.toNat].filterMap (fun j => (s.measurement via j ((none : Option (List Byte)).getD [])).map (fun b => (j, b))) = [(i.toNat, b)] := by
    rw [List.filterMap_cons, hb']
    rfl
  simp only [hserves, Bool.not_true, Bool.false_eq_true, if_false, h0, hff, hgot, List.length_singleton, ne_eq, not_true_eq_false, List.flatMap_cons, List.flatMap_nil,
    List.append_nil]

/-- The new session of a KEY_EXCHANGE. -/
def State.newSession (s : State) (via : Option Fn) (key : List Byte) : Session :=
  { fn := via, finished := false, peer := none, secret := (Config.spdmSecret key s.free).toList, lastBeat := s.now, ended := false, counters := [] }

theorem keyExchange_full {id : U32} {key : List Byte} (hfull : ((scopeOf via).isSome && decide (4 ≤ s.liveSessions via)) = true) :
    keyExchange via id key s = s.spdmError via eBusy := by
  refine (State.spdmServe_ready h hagreed _).trans ?_
  simp only [hserves, hfull, Bool.not_true, Bool.false_eq_true, if_false, Bool.true_or, if_true]

variable {id : U32} (key : List Byte) (hstall : (scopeOf via).isSome = true → s.liveSessions via < 4) (hmctp : via = none → s.liveSessions via < 1)
  (hfree : s.sessions.find? id.toNat = none)
include hstall hmctp hfree

theorem keyExchange_room : keyExchange via id key s = if !Config.onCurve key then s.spdmError via eInvalidRequest
    else ({ s with sessions := s.sessions.put id.toNat (some (s.newSession via key)) }).signed.signed.spdmSay via spKeyExchangeRsp
      (leBytes 4 id.toNat ++ (Config.spdmSign (s.free + 1)).toList) := by
  have hroom : ((scopeOf via).isSome && decide (4 ≤ s.liveSessions via) || via.isNone && decide (1 ≤ s.liveSessions via)) = false := by
    rw [Bool.or_eq_false_iff, Bool.and_eq_false_imp, Bool.and_eq_false_imp]
    exact ⟨fun hs => decide_eq_false (Nat.not_le.mpr (hstall hs)), fun hn => decide_eq_false (Nat.not_le.mpr (hmctp (Option.isNone_iff_eq_none.mp hn)))⟩
  refine (State.spdmServe_ready h hagreed _).trans ?_
  rw [hserves, hfree]
  refine (if_neg (by decide)).trans ((if_neg (ne_true_of_eq_false hroom)).trans ?_)
  rfl

end

/-! Sessions. -/

theorem State.modSession_of_some {s : State} {id : Nat} {x : Session} (h : s.sessions.find? id = some x) (f : Session → Session) :
    s.modSession id f = { s with sessions := s.sessions.put id (some (f x)) } := by
  unfold State.modSession
  rw [h]
theorem State.session_modSession {s : State} {id : Nat} {x : Session} (h : s.sessions.find? id = some x) (f : Session → Session) :
    (s.modSession id f).sessions.find? id = some (f x) := by
  rw [State.modSession_of_some h]
  change Tab.find? (s.sessions.put id (some (f x))) id = _
  rw [Tab.find?_put, if_pos rfl]
theorem State.modSession_keeps (s : State) (id : Nat) (f : Session → Session) : Only [.sessions] s (s.modSession id f) :=
  State.modSession_only (Only.refl _ s) (List.Subset.refl _) id f

theorem State.session_of_heard {s : State} {id : Nat} {x : Session} (h : s.sessionHeard id = some x) : s.sessions.find? id = some x :=
  (Option.filter_eq_some_iff.mp h).1

theorem State.inSession_finished {s : State} {id : Nat} {x : Session} (h : s.sessionHeard id = some x) (hfin : x.finished = true) (body : Session → State → State) :
    s.inSession id body = body x s := by
  unfold State.inSession
  rw [h]
  exact if_pos hfin

/-- A session whose FINISH does not hold is gone. -/
def State.dropSession (s : State) (id : Nat) : State := { s with sessions := s.sessions.put id none }

theorem State.session_dropSession (s : State) (id : Nat) : (s.dropSession id).sessions.find? id = none := by
  change Tab.find? (s.sessions.put id none) id = _
  rw [Tab.find?_put, if_pos rfl]

section
set_option Elab.async false
variable {s : State} {id : U32} {x : Session} (h : s.sessionHeard id.toNat = some x) (hfin : x.finished = false)
include h hfin

theorem finish_bad (leaf : Option (List Byte)) : finish id leaf false s = (s.dropSession id.toNat).spdmErrorFree x.fn := by
  unfold finish
  rw [h]
  exact (if_neg (ne_true_of_eq_false hfin)).trans (if_pos rfl)

/-- The session of a FINISH whose checks hold. -/
def State.sessionDone (s : State) (id : Nat) (leaf : Option (List Byte)) : State :=
  s.modSession id (fun x => { x with finished := true, peer := leaf.map Config.sha384, lastBeat := s.now })

variable {p : HostPort} {n : StallNo} {y : Stall} (hfn : x.fn = some (.vf p n)) (hy : s.stall? n = some y)
include hfn hy

theorem finish_good (leaf : Option (List Byte)) : finish id leaf true s =
    if y.attest.tenant.isSome && decide (y.attest.tenant ≠ leaf.map Config.sha384) then (s.dropSession id.toNat).spdmError x.fn eInvalidRequest
    else ((s.sessionDone id.toNat leaf).modStall n (fun t =>
      { t with attest := { t.attest with tenant := if y.attest.tenant.isSome then y.attest.tenant else leaf.map Config.sha384 } })).spdmSay x.fn spFinishRsp [] := by
  unfold finish
  rw [h]
  refine ((if_neg (ne_true_of_eq_false hfin)).trans (if_neg (by decide))).trans ?_
  rw [hfn]
  dsimp only [scopeOf]
  rw [hy]
  rfl

end

end Sys2Proof.Machine

/-- Settles O53: each request on a connection that is ready, and each change of a session by its record. -/
theorem spdmAndSessions : Obligations.SpdmAndSessions := by
  unfold Obligations.SpdmAndSessions
  refine ⟨?_, ?_, ?_, ?_, ?_, ?_, ?_, ?_, ?_, ?_, ?_, ?_, ?_, ?_, ?_, ?_, ?_⟩
  case refine_1 =>
    intro s via h
    refine ⟨_, congrArg Host.Outcome.next (State.spdmServe_ready h rfl _), State.told_spdmSay rfl _ _ _, ?_⟩
    have hstage := (State.stage_spdmSay (s.setConn via (fun _ => { SpdmConn.init with versioned := true })) via spVersion [0, 1, 0x00, 0x13]).trans
      (congrArg SpdmConn.stage (State.conn_setConn _ _ _))
    exact ⟨congrArg Prod.fst hstage, congrArg (fun x => x.2.1) hstage, congrArg (fun x => x.2.2) hstage⟩
  case refine_2 =>
    intro s via h hver
    refine ⟨_, congrArg Host.Outcome.next (State.spdmServe_ready h hver _), State.told_spdmSay rfl _ _ _, ?_⟩
    have hstage := (State.stage_spdmSay (s.setConn via (fun c => { c with capable := true })) via spCapabilities Config.spdmCapabilities).trans
      (congrArg SpdmConn.stage (State.conn_setConn _ _ _))
    exact congrArg (fun x => x.2.1) hstage
  case refine_3 =>
    intro s via h hcap
    refine ⟨_, congrArg Host.Outcome.next (State.spdmServe_ready h hcap _), State.told_spdmSay rfl _ _ _, ?_⟩
    have hstage := (State.stage_spdmSay (s.setConn via (fun c => { c with agreed := true })) via spAlgorithms Config.spdmAlgorithms).trans
      (congrArg SpdmConn.stage (State.conn_setConn _ _ _))
    exact congrArg (fun x => x.2.2) hstage
  case refine_4 =>
    intro s via c k l o n nonce id key hc h hagreed
    simp only [List.mem_cons, List.not_mem_nil, or_false] at hc
    obtain rfl | rfl | rfl | rfl | rfl := hc <;> exact ⟨_, rfl, State.unexpected h hagreed _⟩
  case refine_5 =>
    intro s via h hagreed
    exact ⟨_, congrArg Host.Outcome.next (State.spdmServe_ready h hagreed _), State.told_spdmSay rfl _ _ _⟩
  case refine_6 =>
    intro s via o n h hagreed
    refine ⟨_, congrArg Host.Outcome.next (getCertificate_eq h hagreed o n), fun hend => ?_, fun hpart => ?_⟩
    · rw [if_pos hend]
      rfl
    · rw [if_neg (Nat.not_le.mpr hpart)]
      exact State.told_spdmSay rfl _ _ _
  case refine_7 =>
    intro s via h hagreed hserves
    refine ⟨_, congrArg Host.Outcome.next ((challenge_eq h hagreed hserves 0).trans (if_neg (by decide))), State.told_spdmSay rfl _ _ _, ?_⟩
    exact (State.spdmSay_keeps _ _ _ _).free_eq (by decide)
  case refine_8 =>
    intro s via k h hagreed hserves hk
    exact ⟨_, congrArg Host.Outcome.next ((challenge_eq h hagreed hserves k).trans (if_pos hk)), rfl⟩
  case refine_9 =>
    intro s via i b h hagreed hserves h0 hff hb
    exact ⟨_, congrArg Host.Outcome.next (getMeasurements_one h hagreed hserves h0 hff hb), State.told_spdmSay rfl _ _ _⟩
  case refine_10 =>
    intro s via h hlarge
    have hready : (!(s.conn via).large.isEmpty) = true := by rw [Bool.not_eq_true', List.isEmpty_eq_false_iff]; exact hlarge
    refine ⟨_, congrArg Host.Outcome.next (State.spdmServe_ready h hready _), max 1 (Config.spdmChunk via.isNone), Nat.le_max_left _ _, rfl, ?_⟩
    exact congrArg SpdmConn.large (State.conn_setConn s via (fun c => { c with large := (s.conn via).large.drop (max 1 (Config.spdmChunk via.isNone)) }))
  case refine_11 =>
    intro s via id key h hagreed hserves hstall hmctp hfree
    refine ⟨_, congrArg Host.Outcome.next (keyExchange_room h hagreed hserves key hstall hmctp hfree), fun hoff => ?_, fun hon => ?_⟩
    · rw [if_pos (by rw [hoff]; rfl)]
      exact ⟨rfl, rfl⟩
    · rw [if_neg (by rw [hon]; decide)]
      refine ⟨s.newSession via key, ?_, rfl, rfl, rfl, rfl, rfl, State.told_spdmSay rfl _ _ _⟩
      rw [(State.spdmSay_keeps _ _ _ _).sessions_eq (by decide)]
      change Tab.find? (s.sessions.put id.toNat (some (s.newSession via key))) id.toNat = _
      rw [Tab.find?_put, if_pos rfl]
  case refine_12 =>
    intro s p n id key h hagreed hserves hfull
    exact ⟨_, congrArg Host.Outcome.next (keyExchange_full h hagreed hserves (decide_eq_true hfull)), rfl, rfl⟩
  case refine_13 =>
    intro s id leaf x p n y h hfin hfn hy
    have hx := State.session_of_heard h
    refine ⟨fun hten => ⟨_, congrArg Host.Outcome.next ((finish_good h hfin hfn hy leaf).trans (if_neg ?_)), ?_, State.told_spdmSay ?_ _ _ _, ?_⟩,
      fun hbound hother => ⟨_, congrArg Host.Outcome.next ((finish_good h hfin hfn hy leaf).trans (if_pos ?_)), s.session_dropSession _, rfl, rfl⟩⟩
    · obtain hten | hten := hten
      · rw [hten]; exact Bool.false_ne_true
      · rw [decide_eq_false (not_not.mpr hten), Bool.and_false]; exact Bool.false_ne_true
    · rw [(State.spdmSay_keeps _ _ _ _).sessions_eq (by decide), (State.modStall_only (Only.refl [.stalls] _) (by decide) _ _).sessions_eq (by decide)]
      exact State.session_modSession hx _
    · exact ((State.modStall_only (Only.refl [.stalls] _) (by decide) _ _).out_eq (by decide)).trans ((s.modSession_keeps _ _).out_eq (by decide))
    · have hy' : (s.sessionDone id.toNat leaf).stall? n = some y := ((s.modSession_keeps _ _).stall?_eq _ (by decide)).trans hy
      rw [(State.spdmSay_keeps _ _ _ _).stall?_eq _ (by decide)]
      refine ⟨_, stall?_of_modStall hy' _, ?_⟩
      obtain hten | hten := hten
      · rw [hten]; rfl
      · rw [hten]; exact ite_self _
    · rw [decide_eq_true hother, Bool.and_true, Option.isSome_iff_ne_none]
      exact hbound
  case refine_14 =>
    intro s id leaf x h hfin
    have hkeeps := (s.dropSession id.toNat).spdmErrorFree_keeps x.fn
    refine ⟨_, congrArg Host.Outcome.next (finish_bad h hfin leaf), ?_, hkeeps.stalls_eq (by decide)⟩
    rw [hkeeps.sessions_eq (by decide)]
    exact s.session_dropSession _
  case refine_15 =>
    intro s id x h hfin
    have hx := State.session_of_heard h
    refine ⟨⟨_, congrArg Host.Outcome.next (State.inSession_finished h hfin _), ?_, ?_⟩, ⟨_, congrArg Host.Outcome.next (State.inSession_finished h hfin _), ?_, ?_⟩,
      ⟨_, congrArg Host.Outcome.next (State.inSession_finished h hfin _), ?_, ?_⟩⟩
    · rw [(State.spdmSay_keeps _ _ _ _).sessions_eq (by decide)]
      exact State.session_modSession hx _
    · exact State.told_spdmSay ((s.modSession_keeps _ _).out_eq (by decide)) _ _ _
    · exact (State.spdmSay_keeps _ _ _ _).sessions_eq (by decide)
    · exact State.told_spdmSay rfl _ _ _
    · rw [(State.spdmSay_keeps _ _ _ _).sessions_eq (by decide)]
      exact State.session_modSession hx _
    · exact State.told_spdmSay ((s.modSession_keeps _ _).out_eq (by decide)) _ _ _
  case refine_16 =>
    intro s id x h hnow
    refine ⟨_, rfl, ?_⟩
    unfold heartbeatMissed
    rw [h]
    dsimp only
    rw [if_neg (show ¬ (s.advance (x.lastBeat + heartbeatPeriod)).now < x.lastBeat + heartbeatPeriod from Nat.not_lt.mpr hnow)]
    have hadv := s.advance_keeps (x.lastBeat + 160000000000)
    have hx : (s.advance (x.lastBeat + 160000000000)).sessions.find? id.toNat = some x := by
      rw [hadv.sessions_eq (by decide)]
      exact (Option.filter_eq_some_iff.mp h).1
    refine ⟨State.session_modSession hx _, ?_⟩
    rw [(State.modSession_keeps _ _ _).now_eq (by decide)]
    exact hnow
  case refine_17 =>
    intro s id op tag l r hr
    obtain ⟨hask, hid, -⟩ := State.asksInside_spec hr
    refine ⟨_, congrArg Host.Outcome.next (hask (fun m s => match mailboxOf op.toNat with
      | some g => g m s
      | none => s.mbAnswer m op.toNat unknownOpcode)), fun g hg => ?_, fun hnone => ?_⟩
    · rw [hg]
    · rw [hnone]
      exact ⟨State.replied_mbAnswer (by rw [hid]; rfl) rfl _ _, State.mbAnswer_stalls _ _ _ _⟩

end


section
set_option Elab.async false
/-! SUPPORT. Launches and the clusters that run them (R221, R233, R291–R301). -/

open Sys2Proof Sys2Proof.Machine

namespace Sys2Proof.Machine

/-! The launch of a command. -/

section
set_option Elab.async false
variable {s t : State}

theorem Stall.modQueue_launches (x : Stall) (k : Nat) (f : Queue → Queue) : (x.modQueue k f).launches = x.launches := by
  unfold Stall.modQueue
  split <;> rfl

end

/-! The end of a launch (R224). -/

section
set_option Elab.async false
variable {s : State} {n : StallNo} {k : Nat} {pos : U32} {l : Launch}

end

/-! Loading a kernel (R221, R442). -/

section
set_option Elab.async false
variable {s : State} {q : QueueId} {e d : Entry} {x : Stall} (hx : s.stall? q.stall = some x) (he : s.entryAt q e.pos = some d) (hst : d.st = .started)
include he hst

include hx in

end

section
set_option Elab.async false
variable {s : State} {q : QueueId} {e : Entry}

section
set_option Elab.async false
variable (h : s.starts q 0x03 e = true) {b : List Byte} {st : Byte × Byte} {u : State}
  (hg : (s.withStarted q e).fetch (cmdWho q.stall (queueKey q) e) (e.u64 0x20) 12 rRead rRead accRead (0, 0) = (.bytes b st, u))
include h hg

end

end

/-! Placing a task (R233, R291–R293, R298). -/

/-- The launch without the task that is placed next. -/
def Launch.picked (l : Launch) : Launch :=
  match l.saved, l.again with
  | _ :: rest, _ => { l with saved := rest }
  | [], _ :: rest => { l with again := rest }
  | [], [] => { l with next := l.next + 1 }
/-- A queue has been served once, and its launch has lost the task. -/
def State.picked (s : State) (n k : Nat) (pos : U32) : State :=
  s.modStall n (fun t => (t.modQueue k (fun q => { q with served := q.served + 1 })).modLaunch k pos Launch.picked)

/-- A change of a stall that touches the launches of one key, of which it takes no running task, and no queue but `k`. -/
structure LaunchChange (k : Nat) (pos : U32) (g : Stall → Stall) (f : Launch → Launch) : Prop where
  launches : ∀ x, (g x).launches = (x.modLaunch k pos f).launches
  queue : ∀ x j, j ≠ k → (g x).queue? j = x.queue? j
  key : ∀ l, (f l).qk = l.qk ∧ (f l).pos = l.pos
  running : ∀ l, ∀ r ∈ l.running, r ∈ (f l).running

/-- What placing a task of queue `k` on cluster `c` keeps: `P` holds whatever becomes of that queue, of its launches, and of that cluster. -/
structure PlaceKeeps (n : StallNo) (k c : Nat) (P : State → Prop) : Prop where
  change : ∀ {u : State} {pos : U32} {g : Stall → Stall} {f : Launch → Launch}, LaunchChange k pos g f → P u → P (u.modStall n g)
  ended : ∀ {u : State} (pos : U32), P u → P (u.launchOver n k pos)
  cluster : ∀ {u : State} (f : Cluster → Cluster), P u → P (u.setCluster c f)
  other : ∀ {u v : State}, u.sameWork v → v.clusters = u.clusters → P u → P v

namespace PlaceKeeps
variable {n : StallNo} {k c : Nat} {P : State → Prop} (hP : PlaceKeeps n k c P)
include hP

theorem occupy {u : State} (d : Nat) (h : P u) : P (u.occupy d).1 := by
  have honly : Only [.power] u (u.occupy d).1 := State.occupy_only (Only.refl _ u) (List.Subset.refl _) d
  exact hP.other (State.sameWork_reading.only honly (by decide) (by decide) (congrArg (·.eccUe) (honly.mee_eq (by decide)))) (honly.clusters_eq (by decide)) h

theorem picked {s : State} (pos : U32) (h : P s) : P (s.picked n k pos) := by
  refine hP.change (pos := pos) (f := Launch.picked) ?_ h
  refine { launches := fun x => ?_, queue := fun x j hj => ?_, key := fun l => ?_, running := fun l r hr => ?_ }
  · unfold Stall.modLaunch
    rw [x.modQueue_launches]
  · exact (x.queue?_modQueue k j _).trans (if_neg hj)
  · unfold Launch.picked
    split <;> exact ⟨rfl, rfl⟩
  · unfold Launch.picked
    split <;> exact hr

end PlaceKeeps

/-! What placement leaves: a command of a queue that is not served, and a task on a cluster that is not free. -/

/-! SAFE_HINT (R224). -/

/-! TASK_PLACE (R292). -/

/-! A task's end and its stop (R293, R295–R298). -/

section
set_option Elab.async false
variable (s : State) (n k : Nat) (pos : U32) (c : Nat) (safe : Bool) {f : Launch → Launch} (hf : ∀ l, (f l).qk = l.qk ∧ (f l).pos = l.pos)

include hf in

end

section
set_option Elab.async false
variable {s : State} {c : Fin 512} {q : QueueId} {x : Stall} {l : Launch} {r : RunTask} (hon : s.taskOn c = some (q.stall, l, r)) (hx : s.stall? q.stall = some x)
  (hqk : l.qk = queueKey q) (hl : x.launch? l.qk l.pos = some l)
include hon hx hqk hl

omit hl in

omit hl in

omit hqk in

end

end Sys2Proof.Machine

end
